-- ==== Sys2Proof/Word.lean ====
section
/-! DEFINITION. The machine word, and the plainest arithmetic on bit ranges of numbers. -/

namespace Sys2Proof

/-- A 32-bit register word (R34). -/
abbrev Word := BitVec 32

/-- Bits [hi:lo] of a number, as a number. -/
def bitsOf (n hi lo : Nat) : Nat := (n / 2 ^ lo) % 2 ^ (hi + 1 - lo)

/-- The number `n` with bits [hi:lo] replaced by the low bits of `v`. -/
def putBits (n hi lo v : Nat) : Nat :=
  n - bitsOf n hi lo * 2 ^ lo + (v % 2 ^ (hi + 1 - lo)) * 2 ^ lo

/-- A Boolean as a one-bit number. -/
def bit (b : Bool) : Nat := if b then 1 else 0

/-- The reading of the low `w` bits of `n` as a two's complement integer. -/
def signed (w n : Nat) : Int :=
  let m := n % 2 ^ w
  if m < 2 ^ (w - 1) then (m : Int) else (m : Int) - (2 ^ w : Nat)

/-- The two's complement image of an integer in `w` bits. -/
def unsign (w : Nat) (i : Int) : Nat := (i % ((2 ^ w : Nat) : Int)).toNat

/-- Addition that stops at the largest value of `w` bits. -/
def satAdd (w a b : Nat) : Nat := min (a + b) (2 ^ w - 1)

/-- The smallest multiple of `m` that is at least `n`. -/
def ceilTo (m n : Nat) : Nat := if m = 0 then n else ((n + m - 1) / m) * m

/-- The smallest multiple of `m` that is greater than `n`. -/
def nextMult (m n : Nat) : Nat := if m = 0 then n else (n / m + 1) * m

/-- The boundary to come of those at the multiples of `m`: the present time itself where it is one and
`last`, the one that was last taken, is another; otherwise the next. -/
def boundaryAt (m n last : Nat) : Nat := if m ≠ 0 ∧ n % m = 0 ∧ n ≠ last then n else nextMult m n

/-! ### What the outside supplies with a command -/

/-- An error-correcting code's verdict on the words an operation read (R117, R169, R209, R218). -/
inductive Ecc where
  | clean | corrected | fatal
  deriving DecidableEq, Repr

/-- A 66-bit block of a lane: the sync header, and the 64 bits after it, byte 0 lowest (R328, R329). -/
structure Block where
  sync : BitVec 2
  bits : BitVec 64
  deriving DecidableEq, Repr

/-- One block on each of the four lanes of a Kelef port, sent in the same slot (R329). -/
structure Column where
  b0 : Block
  b1 : Block
  b2 : Block
  b3 : Block
  deriving DecidableEq, Repr

/-- A level of the comparator inputs of one channel from a time in VS on. -/
structure CmpLevel where
  ch : Nat
  t : Nat
  cmh : Bool
  cml : Bool
  deriving DecidableEq, Repr

/-- Errors that have come into DRAM chips: channel, line (channel address ÷ 64) and the bits of
the stored line, check symbols included, that they change. -/
abbrev Noise := List (Nat × Nat × Nat)

end Sys2Proof
end

