-- ==== Sys2Proof/Syntax.lean ====
section
/-! DEFINITION. The commands of the device: one constructor for each row of spec/opcode_table.json, in its
order. A command is what a bus, a link, a pin, a timer of the device or an engine of it causes; its operands
say which unit it concerns and what the outside supplies with it. -/

namespace Sys2Proof

/-- What the SPD of a fitted memory module says (R259–R261): its channel and position, whether it is a
registered DDR5 DIMM, the width of its chips, the chips per subchannel and rank, its geometry in the coding of
DRC_GEOM, and its speed bin in MT/s. -/
structure Dimm where
  ch : Nat
  pos : Nat
  registered : Bool
  width : Nat
  chips : Nat
  geom : Nat
  speed : Nat
  deriving DecidableEq, Repr

/-- The commands. -/
inductive Instr where
  /-- REGISTER_WRITE (R47): A write to a register that has no row of its own; RW fields take effect
  at once, RWS fields go to the shadow, and refusals, disarming and bus errors are decided.
  Operands: `addr` local address, `width` bytes, `value` value written, `init` initiator (R60),
  `src` source device of a request over Kelef, `stall` the access has to wait for the block’s clock,
  `upset` a shadow that the write fills takes a parity error (R46). -/
  | registerWrite (addr : Nat) (width : Nat) (value : Nat) (init : Nat) (src : Nat) (stall : Bool) (upset : Bool)
  /-- RC_REGISTER_READ (R58): A normal read of a register with RC bits returns a snapshot and clears
  exactly the bits returned as 1. Operands: `addr` local address, `width` bytes, `init` initiator
  (R60), `src` source device of a request over Kelef, `stall` the access has to wait for the block’s
  clock. -/
  | rcRegisterRead (addr : Nat) (width : Nat) (init : Nat) (src : Nat) (stall : Bool)
  /-- STALLED_ACCESS_COMPLETE (R54): An access stalled while crossing into another clock domain
  completes, or ends with bus error OFF if the domain left on. Operands: `ix` which of the stalled
  accesses. -/
  | stalledAccessComplete (ix : Nat)
  /-- PAGE_SOFT_RESET (R57): PAGE_CTL.SOFT_RESET returns the block to reset values, discards the
  pending set, clears ARMED and aborts any operation. Operands: `pg` page number. -/
  | pageSoftReset (pg : Nat)
  /-- SOFT_RESET_DONE (R57): A soft reset completes and IN_RESET clears. Operands: `pg` page number.
  -/
  | softResetDone (pg : Nat)
  /-- PAGE_COMMIT_NOW (R45): PAGE_CTL.COMMIT_NOW applies the pending set at once with LAST_KIND 4.
  Operands: `pg` page number, `bad` a shadow of the set holds a parity error (R46). -/
  | pageCommitNow (pg : Nat) (bad : Bool)
  /-- PAGE_ABORT (R59): PAGE_CTL.ABORT aborts the block's current operation, ending it DONE or
  ABORTED. Operands: `pg` page number. -/
  | pageAbort (pg : Nat)
  /-- PAGE_DISCARD (R45): PAGE_CTL.DISCARD drops the pending set without applying it. Operands: `pg`
  page number. -/
  | pageDiscard (pg : Nat)
  /-- PAGE_CLK_EN_WRITE (R56): A write of PAGE_CTL.CLK_EN starts or freezes the block's clock.
  Operands: `pg` page number, `en` CLK_EN. -/
  | pageClkEnWrite (pg : Nat) (en : Bool)
  /-- BUDGET_PERIOD_BOUNDARY (R42): At each fabric-time multiple of 16,384 G, kind-1 and native
  budget-period pending sets apply, balances refill and budget-period checks run. Operands: `bad`
  the pages whose set holds a parity error (R46). -/
  | budgetPeriodBoundary (bad : List Nat)
  /-- CRC_PASS_START (R49): A periodic CRC pass of a page's covered registers starts. Operands: `pg`
  page number, `off` a register that an upset has met before the pass, `flip` the bits that it flipped. -/
  | crcPassStart (pg off flip : Nat)
  /-- CRC_PASS_END (R51): A CRC pass completes, updates PAGE_CRC_NOW, compares it with the reference
  when armed and checking, and ends any commit. Operands: `pg` page number. -/
  | crcPassEnd (pg : Nat)
  /-- CRC_COMMIT (R52): PAGE_CRC_CTL.COMMIT abandons any running pass and starts a fresh pass whose
  result may become the reference. Operands: `pg` page number. -/
  | crcCommit (pg : Nat)
  /-- ALM_PEND_CLEAR (R477): Writing 1 to a HUB_ALM_PEND bit clears that class unless BOOT holds.
  Operands: `v` word written. -/
  | almPendClear (v : Nat)
  /-- ALM_CLEAR_LOG (R476): HUB_ALM_CMD OP 1 empties the alarm log and zeroes REPEATS and LOST. -/
  | almClearLog
  /-- SHELL_POR_END (R427): The always-on shell leaves power-on reset, powers the Kelef receivers,
  starts the reference watch and starts the hub boot ROM. -/
  | shellPorEnd
  /-- DIE_POR_END (R9): A die leaves its power-on reset and reads its DIE_ID and PKG_VAR straps.
  Operands: `d` die 1–6, `answers` the heartbeat answers, `dieId` DIE_ID, `pkgVar` package straps,
  `letter` revision letter, `digit` revision digit, `typ` die type, `cap` capability word. -/
  | diePorEnd (d : Nat) (answers : Bool) (dieId : Nat) (pkgVar : Nat) (letter : Nat) (digit : Nat) (typ : Nat) (cap : Nat)
  /-- FIRMWARE_START (R450): Boot completes and firmware starts running, or NO_IMAGE is reported. -/
  | firmwareStart
  /-- FW_START_TIMEOUT (R427): Firmware is not running within the step-3 bound and ALARM_N asserts.
  -/
  | fwStartTimeout
  /-- HUB_WDOG_EXPIRE (R451): The firmware watchdog expires; a crash record is written and firmware
  restarts or halts. -/
  | hubWdogExpire
  /-- REF_SIGNAL_QUALIFY (R62): A Kelef lane 0 gains signal detect and data lock and may become the
  provisional reference. Operands: `p` Kelef port 0–15, `eyes` the eye widths that an adaptive receiver measures
  for peaking 0–15. -/
  | refSignalQualify (p : Nat) (eyes : List Nat)
  /-- JUDGE_WINDOW_END (R63): A lock-judgement window ends and passes or fails, updating WINDOWS and
  JUDGED. Operands: `count` reference cycles counted, `held` the reference held its signal. -/
  | judgeWindowEnd (count : Nat) (held : Bool)
  /-- JUDGE_TIMEOUT (R64): JUDGED has not set within 64 windows; JUDGE_FAIL sets and the reference
  moves to the next qualifying port. -/
  | judgeTimeout
  /-- PANEL_MULT_LOCK (R65): A panel's local multiplier locks to the package reference. Operands:
  `p` panel 1–4. -/
  | panelMultLock (p : Nat)
  /-- PANEL_MULT_TIMEOUT (R65): A panel multiplier has not locked within 1,280,000 G and the panel
  is treated as lost. Operands: `p` panel 1–4. -/
  | panelMultTimeout (p : Nat)
  /-- BEACON_START (R70): The beacon interval expires and a BCN is sent on a trained port. Operands:
  `p` Kelef port 0–15. -/
  | beaconStart (p : Nat)
  /-- BCN_RECEIVE (R343): A beacon request is received and answered with a BRP carrying T2, T3,
  depth, VALID and SUSPECT. Operands: `p` Kelef port 0–15, `c` the column, `t2` its arrival T2, `t3` the
  departure T3 of the reply, both in VS. -/
  | bcnReceive (p : Nat) (c : Column) (t2 : Nat) (t3 : Nat)
  /-- BRP_RECEIVE (R71): A beacon reply completes an exchange; delay and offset are computed and the
  grid is stepped or steered. Operands: `p` Kelef port 0–15, `c` the column, `t4` its arrival T4 in VS. -/
  | brpReceive (p : Nat) (c : Column) (t4 : Nat)
  /-- BEACON_TIMEOUT (R343): A BRP has not arrived within 12,800 G and the exchange is abandoned.
  Operands: `p` Kelef port 0–15. -/
  | beaconTimeout (p : Nat)
  /-- PARENT_DRIFT_MEASURED (R81): The drift measurement of a new or alternate parent ends; the
  rotator is preset and the reference switches, or the port is refused. Operands: `drift` drift
  measured. -/
  | parentDriftMeasured (drift : Nat)
  /-- SWITCH_RETRY (R76): A failed deliberate switch is retried after 128,000 G. -/
  | switchRetry
  /-- PARENT_SIGNAL_LOSS (R80): Loss of signal on the active parent freezes the PLL into holdover
  and may start an alternate switch. -/
  | parentSignalLoss
  /-- PARENT_SIGNAL_RETURN (R82): The primary's signal returns during holdover with no qualifying
  alternate, and a switch back starts. -/
  | parentSignalReturn
  /-- HOLDOVER_EXPIRY (R83): Holdover lasts 1,280,000 G; runs end, channels self-refresh and every
  clocked domain stops. -/
  | holdoverExpiry
  /-- CLOCK_RECOVERY (R84): Signal returns after withdrawal; lock is judged, Kelef ports restart and
  time is realigned. Operands: `p` Kelef port 0–15, `eyes` as in REF_SIGNAL_QUALIFY. -/
  | clockRecovery (p : Nat) (eyes : List Nat)
  /-- UNGATE (R84): CLK_ROOT_CTL.UNGATE restarts the withdrawn domains if JUDGED and VALID,
  otherwise is refused. -/
  | ungate
  /-- LAUNCH_ADD (R87): TIME_LNCH_CMD OP 1 adds the staged entry or reports NO_TIME, BAD_TIME, LATE,
  FULL or BAD_ACTION. Operands: `pick` which free slot is taken. -/
  | launchAdd (pick : Nat)
  /-- LAUNCH_CANCEL (R89): TIME_LNCH_CMD OP 2 cancels a named entry and reports OK, FIRED or GONE.
  Operands: `ix` slot of the launch table, `gen` generation. -/
  | launchCancel (ix : Nat) (gen : Nat)
  /-- LAUNCH_READ (R89): TIME_LNCH_CMD OP 3 copies an unfired entry into the staging registers.
  Operands: `ix` slot of the launch table, `gen` generation. -/
  | launchRead (ix : Nat) (gen : Nat)
  /-- LAUNCH_COMMIT (R86): A COMMIT entry fires at T and applies the pending sets of matching kind-2
  pages. Operands: `ix` slot of the launch table. -/
  | launchCommit (ix : Nat)
  /-- LAUNCH_RELEASE (R401): A RELEASE entry fires at T and releases loaded bases or regions.
  Operands: `ix` slot of the launch table. -/
  | launchRelease (ix : Nat)
  /-- LAUNCH_SNAPSHOT (R86): A SNAPSHOT entry fires at T and copies the named counter classes.
  Operands: `ix` slot of the launch table. -/
  | launchSnapshot (ix : Nat)
  /-- LAUNCH_START_SEQ (R145): A START_SEQ entry fires at T and starts each named ready sequencer or
  gang. Operands: `ix` slot of the launch table. -/
  | launchStartSeq (ix : Nat)
  /-- LAUNCH_EVENT (R86): An EVENT entry fires at T, sets TIME_EVT and optionally notifies the host
  and engines. Operands: `ix` slot of the launch table. -/
  | launchEvent (ix : Nat)
  /-- LAUNCH_MISSED_FREE (R90): When firing becomes possible again, entries whose T has passed are
  freed and counted as missed. -/
  | launchMissedFree
  /-- SEAM_ROLE_WRITE (R19): A write to SEAM_ROLE_* sets seam roles before the first release, or is
  ignored with ROLE_LOCKED after it. Operands: `off` offset of the register, `v` word written. -/
  | seamRoleWrite (off : Nat) (v : Nat)
  /-- SEAM_RELEASE_WRITE (R33): A write to SEAM_RELEASE by the hub controller releases named dies
  and locks the roles. Operands: `init` initiator (R60), `v` word written. -/
  | seamReleaseWrite (init : Nat) (v : Nat)
  /-- HEARTBEAT_MISS (R22): A die misses its heartbeat and is declared lost, with SEAM_UP, DIE_LOST,
  SEAM_LOSS_TIME and ALARM_N updated. Operands: `d` die 1–6. -/
  | heartbeatMiss (d : Nat)
  /-- SEAM_REQ_TO_LOST_DIE (R23): A request addressed to a lost die is answered DIE_DOWN by the seam
  endpoint. Operands: `d` die 1–6. -/
  | seamReqToLostDie (d : Nat)
  /-- SEAM_LATE_RESPONSE (R23): A response for an already-answered tag arrives from a lost die and
  is sunk. Operands: `d` die 1–6. -/
  | seamLateResponse (d : Nat)
  /-- DETOUR_LOAD (R25): Firmware loads detour tables around a lost quadrant. Operands: `es` the
  detour entries that firmware chooses: die, router, destination, port. -/
  | detourLoad (es : List (Nat × Nat × Nat × Nat))
  /-- DETOUR_WITHDRAW (R27): After a readmitted die's heartbeat has been live for 1 ms, detour
  tables are withdrawn. Operands: `es` the detour entries that firmware chooses: die, router,
  destination, port. -/
  | detourWithdraw (es : List (Nat × Nat × Nat × Nat))
  /-- SELVAGE_RESET (R29): A reset of the selvage die resets every die in the package. -/
  | selvageReset
  /-- RECORD_DECODE (R129): A sequencer decodes a record 64 G before its first cycle. Operands: `l`
  leader sequencer 0–15 of the package. -/
  | recordDecode (l : Nat)
  /-- CYCLE_ISSUE (R130): A sequencer issues a tester cycle; the bank places its events and strobes
  and the weft operation runs. Operands: `l` leader sequencer 0–15 of the package, `bad` pages whose
  set holds a parity error (R46), `tab` the verdict of the check bits read, `wave` verdicts on
  waveform words by channel. -/
  | cycleIssue (l : Nat) (bad : List Nat) (tab : List Ecc) (wave : List (Nat × Ecc))
  /-- FAIL_VECTOR_DELIVER (R113): A bank delivers a cycle's fail vector to its sequencer and catch
  unit, which update F and process it. Operands: `b` bank or sequencer 0–15 of the package, `ls`
  comparator levels seen. -/
  | failVectorDeliver (b : Nat) (ls : List CmpLevel)
  /-- BRANCH_RESOLVE (R132): At resolution time R a JFAIL or JPASS reads F and chooses its target or
  the next record. Operands: `l` leader sequencer 0–15 of the package. -/
  | branchResolve (l : Nat)
  /-- WAIT_EXPIRE (R134): The WAIT time is reached and the next record starts at the following
  boundary. Operands: `l` leader sequencer 0–15 of the package. -/
  | waitExpire (l : Nat)
  /-- MASK_ARRIVES (R97): A site mask or its removal reaches a bank and acts at the next cycle
  boundary. Operands: `b` bank or sequencer 0–15 of the package. -/
  | maskArrives (b : Nat)
  /-- SEQ_ARM (R144): SEQ_CTL.ARM latches the run settings, loads the weft state and starts the
  walker, or is refused. Operands: `b` bank or sequencer 0–15 of the package. -/
  | seqArm (b : Nat)
  /-- SEQ_READY (R144): The walk has 64 segments present or has paused, and STATE becomes ready.
  Operands: `l` leader sequencer 0–15 of the package. -/
  | seqReady (l : Nat)
  /-- START_NOW (R146): SEQ_CTL.START_NOW schedules a start of a ready sequencer, or sets
  START_REFUSED. Operands: `b` bank or sequencer 0–15 of the package. -/
  | startNow (b : Nat)
  /-- SEQ_PENDING_START (R146): The START_NOW start time is reached and the sequencer begins its
  first cycle. Operands: `l` leader sequencer 0–15 of the package. -/
  | seqPendingStart (l : Nat)
  /-- PARTNER_LOST_DECLARE (R151): SEQ_CTL.PARTNER_LOST sets PARTNER_LOST on the running gang.
  Operands: `b` bank or sequencer 0–15 of the package. -/
  | partnerLostDeclare (b : Nat)
  /-- WALKER_SEGMENT_REQUEST (R137): The walker requests a segment that its walk has reached and the
  buffer does not hold. Operands: `l` leader sequencer 0–15 of the package. -/
  | walkerSegmentRequest (l : Nat)
  /-- SEGMENT_FETCH_RETURN (R140): A segment fetch returns data, or a bus error that poisons the
  segment. Operands: `l` leader sequencer 0–15 of the package, `seg` segment, `e` errors that come
  into DRAM chips at this moment. -/
  | segmentFetchReturn (l : Nat) (seg : Nat) (e : Noise)
  /-- PARTNER_PROBE (R151): Every 128,000 G the selvage die probes each lockstep partner. Operands:
  `l` leader sequencer 0–15 of the package, `k` which partner of the run. -/
  | partnerProbe (l : Nat) (k : Nat)
  /-- PROBE_TIMEOUT (R151): A partner probe has no response within 128,000 G and PARTNER_LOST sets.
  Operands: `l` leader sequencer 0–15 of the package, `k` which partner of the run. -/
  | probeTimeout (l : Nat) (k : Nat)
  /-- WAVE_WRITE (R114): EDG_WAVE_CMD OP 1 checks the staged waveform and starts writing it to the
  masked channels. Operands: `b` bank or sequencer 0–15 of the package. -/
  | waveWrite (b : Nat)
  /-- WAVE_WRITE_DONE (R115): A waveform write reaches its final state after writing its highest
  channel. Operands: `b` bank or sequencer 0–15 of the package. -/
  | waveWriteDone (b : Nat)
  /-- WAVE_READ (R116): EDG_WAVE_CMD OP 2 starts reading a waveform into the staging registers.
  Operands: `b` bank or sequencer 0–15 of the package. -/
  | waveRead (b : Nat)
  /-- WAVE_READ_DONE (R116): A waveform read loads the staging registers and ends OK. Operands: `b`
  bank or sequencer 0–15 of the package, `e` the verdict of the check bits read. -/
  | waveReadDone (b : Nat) (es : List Ecc)
  /-- TS_FIFO_POP (R122): A 64-bit read of EDG_TS_FIFO returns the head time-stamp record and
  removes it. Operands: `b` bank or sequencer 0–15 of the package. -/
  | tsFifoPop (b : Nat)
  /-- CAL_EXCHANGE (R118): Every 1,280,000 G the active and calibrating delay-line copies exchange
  roles. Operands: `b` bank or sequencer 0–15 of the package, `failed` channels whose calibration
  failed. -/
  | calExchange (b : Nat) (failed : Nat)
  /-- CAL_STALE (R120): A line has gone 5,120,000 G without successful calibration and CAL_STALE
  sets. Operands: `b` bank or sequencer 0–15 of the package. -/
  | calStale (b : Nat)
  /-- WFT_TBL_WRITE (R168): A write to WFT_TBL_DATA stores a scramble or topology entry, or is
  refused while the sequencer is busy. Operands: `b` bank or sequencer 0–15 of the package, `v` word
  written. -/
  | wftTblWrite (b : Nat) (v : Nat)
  /-- WFT_TBL_READ (R167): A normal read of WFT_TBL_DATA returns the entry and advances INDEX when
  AUTOINC is 1. Operands: `b` bank or sequencer 0–15 of the package, `e` the verdict of the check
  bits read. -/
  | wftTblRead (b : Nat) (e : Ecc)
  /-- CAT_MASK_CLEAR (R179): Writing 1 to CAT_MASK_LO/HI removes a site mask. Operands: `p` panel
  1–4, `hi` the high register of the pair, `v` word written. -/
  | catMaskClear (p : Nat) (hi : Bool) (v : Nat)
  /-- CAT_MASK_SET (R179): Writing 1 to CAT_MASK_SET_LO/HI masks a site. Operands: `p` panel 1–4,
  `hi` the high register of the pair, `v` word written. -/
  | catMaskSet (p : Nat) (hi : Bool) (v : Nat)
  /-- CACHE_WRITEBACK (R185): The catch unit issues a merge write for a dirty cache line under its
  budget. Operands: `p` panel 1–4. -/
  | cacheWriteback (p : Nat)
  /-- MERGE_ACK (R188): A catch merge's response arrives; the line is freed, retried, or its bits
  dropped with MAP_ERR. Operands: `p` panel 1–4, `e` errors that come into DRAM chips at this
  moment. -/
  | mergeAck (p : Nat) (e : Noise)
  /-- FLUSH (R189): CAT_CMD OP 1 writes back every allocated catch-cache line. Operands: `p` panel
  1–4. -/
  | flush (p : Nat)
  /-- CLEAR_SITES (R194): CAT_CMD OP 2 clears the state of the named sites. Operands: `p` panel 1–4.
  -/
  | clearSites (p : Nat)
  /-- CLEAR_TALLY (R194): CAT_CMD OP 3 zeroes a range of tally counters. Operands: `p` panel 1–4. -/
  | clearTally (p : Nat)
  /-- CLEAR_COUNTERS (R194): CAT_CMD OP 4 zeroes the fail counters and CAT_CACHE_PEAK. Operands: `p`
  panel 1–4. -/
  | clearCounters (p : Nat)
  /-- CAT_CMD_DONE (R194): A catch command that took time reaches its final state. Operands: `p`
  panel 1–4. -/
  | catCmdDone (p : Nat)
  /-- SPOOL_PUSH (R202): A PUSH of one cell reaches the spool manager and is accepted, dropped,
  discarded or answered NOQUEUE. Operands: `h` handle, `init` initiator (R60), `dev` source device
  of a request over Kelef, `cell` cell, `first` FIRST, `last` LAST. -/
  | spoolPush (h : Nat) (init : Nat) (dev : Nat) (cell : Nat) (first : Bool) (last : Bool)
  /-- SPOOL_POP (R201): A POP returns the next cell or marker, or EMPTY, FLUSHED or NOQUEUE.
  Operands: `h` handle, `init` initiator (R60), `e` the verdict of the check bits read. -/
  | spoolPop (h : Nat) (init : Nat) (e : Ecc)
  /-- SPOOL_FLUSH (R206): A flush from SPL_FLUSH, SPFLUSH or a packet empties one queue in one step.
  Operands: `h` handle, `init` initiator (R60). -/
  | spoolFlush (h : Nat) (init : Nat)
  /-- SPL_OP_PUSH (R200): SPL_OP OP 1 pushes SPL_CELL0–15 to the named queue. Operands: `p` panel
  1–4, `h` handle, `init` initiator (R60), `dev` source device of a request over Kelef, `first`
  FIRST, `last` LAST. -/
  | splOpPush (p : Nat) (h : Nat) (init : Nat) (dev : Nat) (first : Bool) (last : Bool)
  /-- SPL_OP_POP (R200): SPL_OP OP 2 pops a cell of the named queue into SPL_CELL0–15. Operands: `p`
  panel 1–4, `h` handle, `init` initiator (R60), `e` the verdict of the check bits read. -/
  | splOpPop (p : Nat) (h : Nat) (init : Nat) (e : Ecc)
  /-- ENGINE_START (R234): SHU_En_CTL.START or SHU_CL_START starts an idle or stopped engine.
  Operands: `e` engine 0–255 of the package. -/
  | engineStart (e : Nat)
  /-- ENGINE_KILL (R236): SHU_En_CTL.KILL or SHU_CL_KILL aborts an engine's run and its fetch
  transfer. Operands: `e` engine 0–255 of the package. -/
  | engineKill (e : Nat)
  /-- WDOG_KICK (R233): SHU_En_CTL.KICK reloads the engine watchdog. Operands: `e` engine 0–255 of
  the package. -/
  | wdogKick (e : Nat)
  /-- DOORBELL_RING (R229): A write to SHU_En_DOORBELL pends the DOORBELL interrupt. Operands: `e`
  engine 0–255 of the package. -/
  | doorbellRing (e : Nat)
  /-- INT_PEND_CLEAR (R229): Writing 1 to SHU_En_INT_PEND clears an edge interrupt source. Operands:
  `e` engine 0–255 of the package, `v` word written. -/
  | intPendClear (e : Nat) (v : Nat)
  /-- INTERRUPT_TAKE (R230): At an instruction boundary the engine takes the lowest eligible pending
  interrupt. Operands: `e` engine 0–255 of the package, `stalls` the cycles for which the engine
  stalls in this step. -/
  | interruptTake (e : Nat) (stalls : Nat)
  /-- TIMER_EXPIRE (R232): The engine timer reaches 0, pends TIMER and reloads. Operands: `e` engine
  0–255 of the package. -/
  | timerExpire (e : Nat)
  /-- WDOG_EXPIRE (R233): The engine watchdog expires and ends the run with WATCHDOG. Operands: `e`
  engine 0–255 of the package. -/
  | wdogExpire (e : Nat)
  /-- FETCH_GO (R222): SHU_Fi_CTL.GO starts a fetch transfer on a channel, or is refused. Operands:
  `e` engine 0–255 of the package, `dir` DIR. -/
  | fetchGo (e : Nat) (dir : Nat)
  /-- FETCH_RESPONSE (R223): A fetch-channel response arrives; the transfer progresses, completes or
  ends in error and pends FETCH. Operands: `e` engine 0–255 of the package, `k` which of the
  requests that the channel has out, `ecc` the verdicts of the check bits of the words read, in
  order, clean where none is given, `n` errors that come into DRAM chips at this moment. -/
  | fetchResponse (e : Nat) (k : Nat) (ecc : List Ecc) (n : Noise)
  /-- CLUSTER_MEM_GRANT (R221): A bank grants a stalled cluster-memory access and the engine
  proceeds. Operands: `e` engine 0–255 of the package, `stalls` the cycles for which the engine
  stalls in this step, `ecc` the verdicts of the check bits of the words read, in order, clean where
  none is given. -/
  | clusterMemGrant (e : Nat) (stalls : Nat) (ecc : List Ecc)
  /-- LOCK_GRANT (R225): A waiting engine acquires the cluster lock. Operands: `e` engine 0–255 of
  the package, `stalls` the cycles for which the engine stalls in this step. -/
  | lockGrant (e : Nat) (stalls : Nat)
  /-- ONDIE_MEM_ACCESS (R217): An on-die-view access reaches an engine, cluster, spool, tally,
  buffer or bolt memory. Operands: `init` initiator (R60), `dev` source device of a request over
  Kelef, `op` operation of R310, `addr` local address, `n` bytes, `data` data, `ecc` the verdicts of
  the check bits of the words read, in order, clean where none is given. -/
  | ondieMemAccess (init : Nat) (dev : Nat) (op : Nat) (addr : Nat) (n : Nat) (data : Nat) (ecc : List Ecc)
  /-- XFER (R244): Executes parallel data-memory moves only. Operands: `e` engine 0–255 of the
  package, `stalls` the cycles for which the engine stalls in this step, `ecc` the verdicts of the
  check bits of the words read, in order, clean where none is given. -/
  | xfer (e : Nat) (stalls : Nat) (ecc : List Ecc)
  /-- MUL (R245): Sets the accumulator to twice the product of two words. Operands: `e` engine 0–255
  of the package, `stalls` the cycles for which the engine stalls in this step, `ecc` the verdicts
  of the check bits of the words read, in order, clean where none is given. -/
  | mul (e : Nat) (stalls : Nat) (ecc : List Ecc)
  /-- MULN (R245): Sets the accumulator to minus twice the product. Operands: `e` engine 0–255 of
  the package, `stalls` the cycles for which the engine stalls in this step, `ecc` the verdicts of
  the check bits of the words read, in order, clean where none is given. -/
  | muln (e : Nat) (stalls : Nat) (ecc : List Ecc)
  /-- MADD (R245): Adds twice the product to the accumulator. Operands: `e` engine 0–255 of the
  package, `stalls` the cycles for which the engine stalls in this step, `ecc` the verdicts of the
  check bits of the words read, in order, clean where none is given. -/
  | madd (e : Nat) (stalls : Nat) (ecc : List Ecc)
  /-- MSUB (R245): Subtracts twice the product from the accumulator. Operands: `e` engine 0–255 of
  the package, `stalls` the cycles for which the engine stalls in this step, `ecc` the verdicts of
  the check bits of the words read, in order, clean where none is given. -/
  | msub (e : Nat) (stalls : Nat) (ecc : List Ecc)
  /-- ADD (R245): Adds the source to the accumulator. Operands: `e` engine 0–255 of the package,
  `stalls` the cycles for which the engine stalls in this step, `ecc` the verdicts of the check bits
  of the words read, in order, clean where none is given. -/
  | add (e : Nat) (stalls : Nat) (ecc : List Ecc)
  /-- SUB (R245): Subtracts the source from the accumulator. Operands: `e` engine 0–255 of the
  package, `stalls` the cycles for which the engine stalls in this step, `ecc` the verdicts of the
  check bits of the words read, in order, clean where none is given. -/
  | sub (e : Nat) (stalls : Nat) (ecc : List Ecc)
  /-- ZERO (R245): Clears the accumulator. Operands: `e` engine 0–255 of the package, `stalls` the
  cycles for which the engine stalls in this step, `ecc` the verdicts of the check bits of the words
  read, in order, clean where none is given. -/
  | zero (e : Nat) (stalls : Nat) (ecc : List Ecc)
  /-- CMP (R245): Sets flags from accumulator minus source. Operands: `e` engine 0–255 of the
  package, `stalls` the cycles for which the engine stalls in this step, `ecc` the verdicts of the
  check bits of the words read, in order, clean where none is given. -/
  | cmp (e : Nat) (stalls : Nat) (ecc : List Ecc)
  /-- COPY (R245): Copies the source into the accumulator. Operands: `e` engine 0–255 of the
  package, `stalls` the cycles for which the engine stalls in this step, `ecc` the verdicts of the
  check bits of the words read, in order, clean where none is given. -/
  | copy (e : Nat) (stalls : Nat) (ecc : List Ecc)
  /-- NEG (R245): Negates the accumulator. Operands: `e` engine 0–255 of the package, `stalls` the
  cycles for which the engine stalls in this step, `ecc` the verdicts of the check bits of the words
  read, in order, clean where none is given. -/
  | neg (e : Nat) (stalls : Nat) (ecc : List Ecc)
  /-- ABS (R245): Takes the accumulator's absolute value. Operands: `e` engine 0–255 of the package,
  `stalls` the cycles for which the engine stalls in this step, `ecc` the verdicts of the check bits
  of the words read, in order, clean where none is given. -/
  | abs (e : Nat) (stalls : Nat) (ecc : List Ecc)
  /-- SHL (R245): Shifts the accumulator left one place. Operands: `e` engine 0–255 of the package,
  `stalls` the cycles for which the engine stalls in this step, `ecc` the verdicts of the check bits
  of the words read, in order, clean where none is given. -/
  | shl (e : Nat) (stalls : Nat) (ecc : List Ecc)
  /-- SHR (R245): Shifts the accumulator right one place arithmetically. Operands: `e` engine 0–255
  of the package, `stalls` the cycles for which the engine stalls in this step, `ecc` the verdicts
  of the check bits of the words read, in order, clean where none is given. -/
  | shr (e : Nat) (stalls : Nat) (ecc : List Ecc)
  /-- MAX (R245): Replaces the accumulator with the source if the source is greater. Operands: `e`
  engine 0–255 of the package, `stalls` the cycles for which the engine stalls in this step, `ecc`
  the verdicts of the check bits of the words read, in order, clean where none is given. -/
  | max (e : Nat) (stalls : Nat) (ecc : List Ecc)
  /-- MOVE (R247): Moves one register to another with width conversion. Operands: `e` engine 0–255
  of the package, `stalls` the cycles for which the engine stalls in this step, `ecc` the verdicts
  of the check bits of the words read, in order, clean where none is given. -/
  | move (e : Nat) (stalls : Nat) (ecc : List Ecc)
  /-- MOVI (R247): Loads an immediate word into a register. Operands: `e` engine 0–255 of the
  package, `stalls` the cycles for which the engine stalls in this step, `ecc` the verdicts of the
  check bits of the words read, in order, clean where none is given. -/
  | movi (e : Nat) (stalls : Nat) (ecc : List Ecc)
  /-- ADDA (R247): Adds an immediate to an address register, optionally circularly. Operands: `e`
  engine 0–255 of the package, `stalls` the cycles for which the engine stalls in this step, `ecc`
  the verdicts of the check bits of the words read, in order, clean where none is given. -/
  | adda (e : Nat) (stalls : Nat) (ecc : List Ecc)
  /-- LDM (R247): Loads a data-memory word into a register. Operands: `e` engine 0–255 of the
  package, `stalls` the cycles for which the engine stalls in this step, `ecc` the verdicts of the
  check bits of the words read, in order, clean where none is given. -/
  | ldm (e : Nat) (stalls : Nat) (ecc : List Ecc)
  /-- STM (R247): Stores a register into data memory. Operands: `e` engine 0–255 of the package,
  `stalls` the cycles for which the engine stalls in this step, `ecc` the verdicts of the check bits
  of the words read, in order, clean where none is given. -/
  | stm (e : Nat) (stalls : Nat) (ecc : List Ecc)
  /-- LDC (R248): Loads part of a cluster-memory word, stalling for the access. Operands: `e` engine
  0–255 of the package, `stalls` the cycles for which the engine stalls in this step, `ecc` the
  verdicts of the check bits of the words read, in order, clean where none is given. -/
  | ldc (e : Nat) (stalls : Nat) (ecc : List Ecc)
  /-- STC (R248): Stores part of a cluster-memory word, stalling for the access. Operands: `e`
  engine 0–255 of the package, `stalls` the cycles for which the engine stalls in this step, `ecc`
  the verdicts of the check bits of the words read, in order, clean where none is given. -/
  | stc (e : Nat) (stalls : Nat) (ecc : List Ecc)
  /-- PIO_READ (R249): Reads an engine peripheral register. Operands: `e` engine 0–255 of the
  package, `stalls` the cycles for which the engine stalls in this step, `ecc` the verdicts of the
  check bits of the words read, in order, clean where none is given. -/
  | pioRead (e : Nat) (stalls : Nat) (ecc : List Ecc)
  /-- PIO_WRITE (R249): Writes an engine peripheral register with the effect of a host write.
  Operands: `e` engine 0–255 of the package, `stalls` the cycles for which the engine stalls in this
  step, `ecc` the verdicts of the check bits of the words read, in order, clean where none is given.
  -/
  | pioWrite (e : Nat) (stalls : Nat) (ecc : List Ecc)
  /-- BRA (R250): Conditional branch with two delay slots. Operands: `e` engine 0–255 of the
  package, `stalls` the cycles for which the engine stalls in this step, `ecc` the verdicts of the
  check bits of the words read, in order, clean where none is given. -/
  | bra (e : Nat) (stalls : Nat) (ecc : List Ecc)
  /-- CALL (R250): Conditional call pushing the return address and SR. Operands: `e` engine 0–255 of
  the package, `stalls` the cycles for which the engine stalls in this step, `ecc` the verdicts of
  the check bits of the words read, in order, clean where none is given. -/
  | call (e : Nat) (stalls : Nat) (ecc : List Ecc)
  /-- RET (R250): Conditional return from the call stack keeping SR. Operands: `e` engine 0–255 of
  the package, `stalls` the cycles for which the engine stalls in this step, `ecc` the verdicts of
  the check bits of the words read, in order, clean where none is given. -/
  | ret (e : Nat) (stalls : Nat) (ecc : List Ecc)
  /-- RTI (R250): Returns from an interrupt restoring SR. Operands: `e` engine 0–255 of the package,
  `stalls` the cycles for which the engine stalls in this step, `ecc` the verdicts of the check bits
  of the words read, in order, clean where none is given. -/
  | rti (e : Nat) (stalls : Nat) (ecc : List Ecc)
  /-- RPTN (R256): Executes the following instruction COUNT times. Operands: `e` engine 0–255 of the
  package, `stalls` the cycles for which the engine stalls in this step, `ecc` the verdicts of the
  check bits of the words read, in order, clean where none is given. -/
  | rptn (e : Nat) (stalls : Nat) (ecc : List Ecc)
  /-- LOOP (R257): Pushes a loop entry or skips a zero-count body. Operands: `e` engine 0–255 of the
  package, `stalls` the cycles for which the engine stalls in this step, `ecc` the verdicts of the
  check bits of the words read, in order, clean where none is given. -/
  | loop (e : Nat) (stalls : Nat) (ecc : List Ecc)
  /-- LPOP (R250): Pops the loop stack. Operands: `e` engine 0–255 of the package, `stalls` the
  cycles for which the engine stalls in this step, `ecc` the verdicts of the check bits of the words
  read, in order, clean where none is given. -/
  | lpop (e : Nat) (stalls : Nat) (ecc : List Ecc)
  /-- STOP (R252): Ends the engine run with cause STOP. Operands: `e` engine 0–255 of the package,
  `stalls` the cycles for which the engine stalls in this step, `ecc` the verdicts of the check bits
  of the words read, in order, clean where none is given. -/
  | stop (e : Nat) (stalls : Nat) (ecc : List Ecc)
  /-- KICK (R252): Reloads the watchdog from the program. Operands: `e` engine 0–255 of the package,
  `stalls` the cycles for which the engine stalls in this step, `ecc` the verdicts of the check bits
  of the words read, in order, clean where none is given. -/
  | kick (e : Nat) (stalls : Nat) (ecc : List Ecc)
  /-- SIGNAL (R252): Pends SIGNAL in a named engine of the cluster. Operands: `e` engine 0–255 of
  the package, `stalls` the cycles for which the engine stalls in this step, `ecc` the verdicts of
  the check bits of the words read, in order, clean where none is given. -/
  | signal (e : Nat) (stalls : Nat) (ecc : List Ecc)
  /-- LOCK (R225): Acquires the cluster lock, stalling while another engine holds it. Operands: `e`
  engine 0–255 of the package, `stalls` the cycles for which the engine stalls in this step, `ecc`
  the verdicts of the check bits of the words read, in order, clean where none is given. -/
  | lock (e : Nat) (stalls : Nat) (ecc : List Ecc)
  /-- UNLOCK (R226): Performs the buffered stores and pushes and releases the lock. Operands: `e`
  engine 0–255 of the package, `stalls` the cycles for which the engine stalls in this step, `ecc`
  the verdicts of the check bits of the words read, in order, clean where none is given. -/
  | unlock (e : Nat) (stalls : Nat) (ecc : List Ecc)
  /-- WAITI (R252): Stalls until an interrupt that would be taken is pending. Operands: `e` engine
  0–255 of the package, `stalls` the cycles for which the engine stalls in this step, `ecc` the
  verdicts of the check bits of the words read, in order, clean where none is given. -/
  | waiti (e : Nat) (stalls : Nat) (ecc : List Ecc)
  /-- SPUSH (R253): Reads a cell from cluster memory and posts a spool push. Operands: `e` engine
  0–255 of the package, `stalls` the cycles for which the engine stalls in this step, `ecc` the
  verdicts of the check bits of the words read, in order, clean where none is given. -/
  | spush (e : Nat) (stalls : Nat) (ecc : List Ecc)
  /-- SPOP (R253): Issues a spool pop and stalls for its response. Operands: `e` engine 0–255 of the
  package, `stalls` the cycles for which the engine stalls in this step, `ecc` the verdicts of the
  check bits of the words read, in order, clean where none is given. -/
  | spop (e : Nat) (stalls : Nat) (ecc : List Ecc)
  /-- SPFLUSH (R252): Posts a flush of a queue. Operands: `e` engine 0–255 of the package, `stalls`
  the cycles for which the engine stalls in this step, `ecc` the verdicts of the check bits of the
  words read, in order, clean where none is given. -/
  | spflush (e : Nat) (stalls : Nat) (ecc : List Ecc)
  /-- SPUSH_RESPONSE (R253): The response to a posted push arrives and is recorded in peripheral 16.
  Operands: `e` engine 0–255 of the package, `stalls` the cycles for which an SPUSH or UNLOCK that waited
  for the response has stalled. -/
  | spushResponse (e : Nat) (stalls : Nat)
  /-- SPOP_RESPONSE (R253): The response to an SPOP arrives, writing the status and cell and ending
  the stall. Operands: `e` engine 0–255 of the package, `stalls` the cycles for which the engine
  stalls in this step, `ecc` the verdict of the check bits read. -/
  | spopResponse (e : Nat) (stalls : Nat) (ecc : Ecc)
  /-- DRAM_READ (R270): A read request reaches a DRAM channel, activates, decodes ECC and lining,
  and responds. Operands: `init` initiator (R60), `dev` source device of a request over Kelef, `raw`
  the raw view, `addr` DRAM address, `len` bytes, `hint` open-row hint, `e` errors that come into
  DRAM chips at this moment. -/
  | dramRead (init : Nat) (dev : Nat) (raw : Bool) (addr : Nat) (len : Nat) (hint : Bool) (e : Noise)
  /-- DRAM_WRITE (R270): A full-line or partial write reaches a DRAM channel and is written, with
  lining where enabled. Operands: `init` initiator (R60), `dev` source device of a request over
  Kelef, `raw` the raw view, `addr` DRAM address, `len` bytes, `value` value written, `hint` open-
  row hint, `e` errors that come into DRAM chips at this moment. -/
  | dramWrite (init : Nat) (dev : Nat) (raw : Bool) (addr : Nat) (len : Nat) (value : Nat) (hint : Bool) (e : Noise)
  /-- DRAM_MERGE (R270): A MERGE request ORs its data into a DRAM line as one indivisible step.
  Operands: `init` initiator (R60), `dev` source device of a request over Kelef, `raw` the raw view,
  `addr` DRAM address, `len` bytes, `value` value written, `hint` open-row hint, `e` errors that
  come into DRAM chips at this moment. -/
  | dramMerge (init : Nat) (dev : Nat) (raw : Bool) (addr : Nat) (len : Nat) (value : Nat) (hint : Bool) (e : Noise)
  /-- NEIGHBOUR_REFRESH (R273): A queued neighbour refresh of a victim row runs under initiator
  0x85's budget. Operands: `k` DRAM channel 0–7. -/
  | neighbourRefresh (k : Nat)
  /-- SCRUB_READ (R281): The patrol scrubber reads the next line, writing back corrections and
  logging uncorrectable lines. Operands: `k` DRAM channel 0–7, `e` errors that come into DRAM chips
  at this moment. -/
  | scrubRead (k : Nat) (e : Noise)
  /-- OPEN_ROW_IDLE_CLOSE (R271): A hinted open row idle for DRC_OPEN.IDLE × 64 G is closed.
  Operands: `k` DRAM channel 0–7, `bank` bank. -/
  | openRowIdleClose (k : Nat) (bank : Nat)
  /-- REFRESH_INTERVAL_END (R265): A refresh interval ends; refresh runs, MR4 is read, and DRC
  pending sets and state transitions apply. Operands: `k` DRAM channel 0–7, `hot` a DIMM is hot,
  `bad` pages whose set holds a parity error (R46). -/
  | refreshIntervalEnd (k : Nat) (hot : Bool) (bad : List Nat)
  /-- HAMMER_TALLY_CLEAR (R272): Every 8,192 refresh intervals the activate tallies are cleared.
  Operands: `k` DRAM channel 0–7. -/
  | hammerTallyClear (k : Nat)
  /-- DRAM_TRAIN_END (R262): Training of a channel completes with TRAIN_OK and a move to SERVICE, or
  TRAIN_FAIL. Operands: `k` DRAM channel 0–7, `ok` training passed, `trfc` tRFC1 of the modules in
  G. -/
  | dramTrainEnd (k : Nat) (ok : Bool) (trfc : Nat)
  /-- DRC_CLEAR_LOG (R279): DRC_CMD OP 1 empties the ECC log. Operands: `k` DRAM channel 0–7. -/
  | drcClearLog (k : Nat)
  /-- DRC_CLEAR_COUNTS (R279): DRC_CMD OP 2 zeroes the correctable and uncorrectable counts.
  Operands: `k` DRAM channel 0–7. -/
  | drcClearCounts (k : Nat)
  /-- FLIP_ARM (R282): DRC_FLIP_CTL.ARM arms the flip mask for the next write on its subchannel.
  Operands: `k` DRAM channel 0–7, `sub` subchannel. -/
  | flipArm (k : Nat) (sub : Nat)
  /-- ENABLE (R295): LIN_CMD OP 1 takes a key slot and starts initialising a lined region. Operands:
  `r` lined region 0–15. -/
  | enable (r : Nat)
  /-- REKEY (R295): LIN_CMD OP 2 starts a key roll of an active region. Operands: `r` lined region
  0–15. -/
  | rekey (r : Nat)
  /-- DISABLE (R295): LIN_CMD OP 3 drains a region and retires its key slots. Operands: `r` lined
  region 0–15. -/
  | disable (r : Nat)
  /-- SWEEP_GROUP (R296): The sweeper processes one group of eight lines of an initialising or
  rolling region. Operands: `r` lined region 0–15, `e` errors that come into DRAM chips at this
  moment. -/
  | sweepGroup (r : Nat) (e : Noise)
  /-- FENCE_ACK (R299): A unit acknowledges a key-retirement fence; when all have, the slot is
  zeroised and freed. Operands: `r` lined region 0–15, `unit` unit that acknowledges. -/
  | fenceAck (r : Nat) (unit : Nat)
  /-- NOC_TBL_WRITE (R314): A write to NOC_TBL_DATA stores a detour entry in the inactive bank, or
  is refused. Operands: `d` die 0–4, `v` word written. -/
  | nocTblWrite (d : Nat) (v : Nat)
  /-- NOC_TBL_READ (R327): A normal read of NOC_TBL_DATA returns an entry and advances DEST when
  AUTOINC is 1. Operands: `d` die 0–4. -/
  | nocTblRead (d : Nat)
  /-- NOC_SWITCH (R315): NOC_VER.SWITCH requests a detour-bank switch at the next budget-period
  boundary. Operands: `d` die 0–4. -/
  | nocSwitch (d : Nat)
  /-- NOC_VERSION_RESUME (R315): An initiator's old-version requests are all answered and it resumes
  issue under the new version. Operands: `init` initiator (R60). -/
  | nocVersionResume (init : Nat)
  /-- NOC_CLR_STATS (R327): NOC_CTL.CLR_STATS zeroes the page's statistics counters. Operands: `d`
  die 0–4. -/
  | nocClrStats (d : Nat)
  /-- ROUTER_DISABLE (R316): Setting or clearing a NOC_RTR_CTL.DISABLE bit drains or restores a
  router. Operands: `d` die 0–4, `v` word written. -/
  | routerDisable (d : Nat) (v : Nat)
  /-- ROUTER_POWER_DOWN (R316): A draining router holding no packet with OLD at 0 powers down.
  Operands: `p` panel 1–4, `l` local router 0–15. -/
  | routerPowerDown (p : Nat) (l : Nat)
  /-- GUEST_REQUEST (R318): A request from or to a patch site is checked against the firewall
  windows. Operands: `site` patch site 5 or 6, `out` from the guest die, `init` initiator (R60),
  `dev` source device of a request over Kelef, `op` operation of R310, `ddev` destination device,
  `addr` local address, `len` bytes, `data` data, `hint` open-row hint, `n` errors that come into
  DRAM chips at this moment, `ecc` the verdicts of the check bits of the words read, in order, clean
  where none is given. -/
  | guestRequest (site : Nat) (out : Bool) (init : Nat) (dev : Nat) (op : Nat) (ddev : Nat) (addr : Nat) (len : Nat) (data : Nat) (hint : Bool) (n : Noise) (ecc : List Ecc)
  /-- RESTORE (R319): PAT_CTL.RESTORE ends isolation and zeroes COUNT. Operands: `site` patch site 5
  or 6. -/
  | restore (site : Nat)
  /-- FABRIC_PORT_REQUEST (R420): A fabric port takes a request on a valid/ready transfer, assigns a
  tag and issues it under the governor. Operands: `ix` fabric port 0–63 of the package, `op`
  operation of R310, `addr` global address, or handle in [12:0], `len` bytes − 1, `be` byte enables,
  `data` data, `spf` spool FIRST and LAST, `opn` open-row hint. -/
  | fabricPortRequest (ix : Nat) (op : Nat) (addr : Nat) (len : Nat) (be : Nat) (data : Nat) (spf : Nat) (opn : Bool)
  /-- FABRIC_PORT_RESPONSE (R420): A response is delivered to the fabric on an RS transfer.
  Operands: `ix` fabric port 0–63 of the package, `k` which of the port’s issued requests is answered
  now, `take` RS_READY at an edge of the port’s clock, `ecc` the verdicts of the check bits of the words read, in order, clean where none is given, `n` errors that
  come into DRAM chips at this moment. -/
  | fabricPortResponse (ix : Nat) (k : Nat) (take : Bool) (ecc : List Ecc) (n : Noise)
  /-- FABRIC_STREAM_SEND (R421): An ST transfer sends a STREAM packet under credits. Operands: `ix`
  fabric port 0–63 of the package, `data` data. -/
  | fabricStreamSend (ix : Nat) (data : Nat)
  /-- STREAM_PACKET_RECEIVE (R421): A stream packet reaches a fabric port's receive buffer.
  Operands: `ix` fabric port 0–63 of the package, `kelef` from the port’s Kelef sink. -/
  | streamPacketReceive (ix : Nat) (kelef : Bool)
  /-- FABRIC_STREAM_TAKE (R421): The fabric takes a stream packet through SR and a credit is
  returned. Operands: `ix` fabric port 0–63 of the package. -/
  | fabricStreamTake (ix : Nat)
  /-- SERIAL_RX_BYTE (R424): A hard serial port receives a byte into its queue, or drops it when
  full. Operands: `ix` serial port 0–15 of the package, `v` received entry, bit 8 a NACK, `bad` its
  parity bit is wrong. -/
  | serialRxByte (ix : Nat) (v : Nat) (bad : Bool)
  /-- KLF_PORT_ENABLE (R333): A write of KLF_CTL.EN starts training a port, or takes it down with
  DISABLED. Operands: `p` Kelef port 0–15, `en` EN. -/
  | klfPortEnable (p : Nat) (en : Bool)
  /-- RETRAIN (R334): KLF_CTL.RETRAIN takes an UP port down and retrains it. Operands: `p` Kelef
  port 0–15. -/
  | retrain (p : Nat)
  /-- LANE_SIGNAL_DETECT (R378): A lane's signal detect asserts. Operands: `q` lane quad 0–47, `l`
  lane 0–3. -/
  | laneSignalDetect (q : Nat) (l : Nat)
  /-- LANE_SIGNAL_LOSS (R378): A lane's signal detect deasserts. Operands: `q` lane quad 0–47, `l`
  lane 0–3. -/
  | laneSignalLoss (q : Nat) (l : Nat)
  /-- LANE_LOCK (R377): A lane acquires lock, after its peaking search if ADAPT is 1. Operands: `q`
  lane quad 0–47, `l` lane 0–3, `eyes` the eye widths that the search
  measures for peaking 0–15. -/
  | laneLock (q : Nat) (l : Nat) (eyes : List Nat)
  /-- LANE_LOCK_LOSS (R377): A lane loses lock. Operands: `q` lane quad 0–47, `l` lane 0–3. -/
  | laneLockLoss (q : Nat) (l : Nat)
  /-- KLF_ALIGN_DONE (R333): A port's lanes are deskewed on TRN columns and it enters PARAM.
  Operands: `p` Kelef port 0–15, `skew` skew in UI. -/
  | klfAlignDone (p : Nat) (skew : Nat)
  /-- TRN_RECEIVE (R333): A TRN column is received during alignment or parameter exchange. Operands:
  `p` Kelef port 0–15, `dev` the partner’s device ID, `port` the partner’s port, `order` the lane
  order is right. -/
  | trnReceive (p : Nat) (dev : Nat) (port : Nat) (order : Bool)
  /-- KLF_PARAM_DONE (R333): Eight TRN columns have been exchanged each way and the port enters UP.
  Operands: `p` Kelef port 0–15. -/
  | klfParamDone (p : Nat)
  /-- KLF_TRAIN_TIMEOUT (R333): A training state passes its limit and the port goes DOWN with
  TRAIN_TIMEOUT. Operands: `p` Kelef port 0–15. -/
  | klfTrainTimeout (p : Nat)
  /-- KLF_DOWN_QUIET_END (R334): A DOWN port's 12,800 G silence ends and it returns to DETECT if
  enabled. Operands: `p` Kelef port 0–15. -/
  | klfDownQuietEnd (p : Nat)
  /-- IDL_INSERT (R331): An IDL column is sent at least once every 4,096 columns. Operands: `p`
  Kelef port 0–15. -/
  | idlInsert (p : Nat)
  /-- LNK_SEND (R336): A receiver sends an LNK column with credits, acknowledgement or NAK.
  Operands: `p` Kelef port 0–15. -/
  | lnkSend (p : Nat)
  /-- LNK_RECEIVE (R336): An LNK column returns credits, acknowledges frames or requests a replay.
  Operands: `p` Kelef port 0–15, `c` the column. -/
  | lnkReceive (p : Nat) (c : Column)
  /-- FRAME_SEND (R335): A frame is sent once its VC holds credits for every column. Operands: `p`
  Kelef port 0–15, `vc` virtual channel 0–3. -/
  | frameSend (p : Nat) (vc : Nat)
  /-- FRAME_RECEIVE (R337): A frame is received, CRC- and sequence-checked, and accepted, discarded
  or NAKed. Operands: `p` Kelef port 0–15, `h` its first column, `ds` the columns behind it, `e` the
  verdict of the check bits read. -/
  | frameReceive (p : Nat) (h : Column) (ds : List Column) (e : Ecc)
  /-- REPLAY_TIMEOUT (R337): The oldest unacknowledged frame times out and the transmitter replays,
  possibly going DOWN with RETRY. Operands: `p` Kelef port 0–15. -/
  | replayTimeout (p : Nat)
  /-- SOURCE_ROUTED_RECEIVE (R342): A source-routed packet is forwarded on its route, consumed, or
  answered UNREACHABLE. Operands: `p` Kelef port 0–15, `ecc` the verdicts of the check bits of the
  words read, in order, clean where none is given, `n` errors that come into DRAM chips at this
  moment. -/
  | sourceRoutedReceive (p : Nat) (ecc : List Ecc) (n : Noise)
  /-- KLF_REQUEST_INGRESS (R344): A request frame for this device is issued into the package network
  as initiator 0x08 and split into line requests. Operands: `p` Kelef port 0–15, `ecc` the verdicts
  of the check bits of the words read, in order, clean where none is given, `n` errors that come
  into DRAM chips at this moment. -/
  | klfRequestIngress (p : Nat) (ecc : List Ecc) (n : Noise)
  /-- KLF_RESP_RECEIVE (R345): A RESP frame matches an egress tag and answers its initiator, or is
  discarded as late. Operands: `p` Kelef port 0–15. -/
  | klfRespReceive (p : Nat)
  /-- KLF_RSP_TIMEOUT (R345): A remote request has no response within KLF_RSP_TO and is answered
  UNREACHABLE with UNSURE. Operands: `t` egress tag. -/
  | klfRspTimeout (t : Nat)
  /-- KLF_STREAM_RECEIVE (R346): A STREAM frame reaches its sink or is discarded when the sink
  buffer is full. Operands: `p` Kelef port 0–15. -/
  | klfStreamReceive (p : Nat)
  /-- PROBE (R346): A PROBE frame is answered with the named sequencer's SEQ_RUN and flags.
  Operands: `p` Kelef port 0–15. -/
  | probe (p : Nat)
  /-- PROBE_RESPONSE (R151): A partner probe response arrives and may set PARTNER_LOST. Operands:
  `l` leader sequencer 0–15 of the package, `k` which partner of the run. -/
  | probeResponse (l : Nat) (k : Nat)
  /-- RUNEND (R346): A RUNEND frame sets PARTNER_LOST in local runs naming that partner. Operands:
  `p` Kelef port 0–15. -/
  | runend (p : Nat)
  /-- BCAST_RECEIVE (R363): A broadcast STREAM frame is delivered by group and forwarded on child
  ports, or dropped. Operands: `p` Kelef port 0–15. -/
  | bcastReceive (p : Nat)
  /-- DEVID_WRITE (R351): A write to KLF_DEVID assigns, unassigns or refuses the device ID.
  Operands: `v` word written. -/
  | devidWrite (v : Nat)
  /-- RT_WRITE (R357): A write to KLF_RT_DATA stores a routing entry, or is refused. Operands: `v`
  word written, `hit` the damage that the stored entry takes, if any. -/
  | rtWrite (v : Nat) (hit : Ecc)
  /-- RT_READ (R357): A normal read of KLF_RT_DATA returns the entry and advances ID when AUTOINC is
  1. -/
  | rtRead
  /-- FAILED_CLEAR (R361): Writing 1 to a KLF_FAILED bit returns that port's entries to their
  primaries. Operands: `m` mask of ports. -/
  | failedClear (m : Nat)
  /-- LANE_PLL_RELOCK (R372): A quad's PLL relocks after a rate or coding change. Operands: `q` lane
  quad 0–47. -/
  | lanePllRelock (q : Nat)
  /-- LANE_POWER_MOVE_DONE (R380): A quad completes its power-state transition. Operands: `q` lane
  quad 0–47. -/
  | lanePowerMoveDone (q : Nat)
  /-- SCAN_POINT (R383): LANE_SCAN_CTL OP 1 starts a one-point eye scan. Operands: `q` lane quad
  0–47, `l` lane 0–3, `phase` PHASE, `volt` VOLT, `dwell` DWELL. -/
  | scanPoint (q : Nat) (l : Nat) (phase : Nat) (volt : Nat) (dwell : Nat)
  /-- SCAN_SWEEP (R383): LANE_SCAN_CTL OP 2 starts a 64-point horizontal sweep. Operands: `q` lane
  quad 0–47, `l` lane 0–3, `phase` PHASE, `volt` VOLT, `dwell` DWELL. -/
  | scanSweep (q : Nat) (l : Nat) (phase : Nat) (volt : Nat) (dwell : Nat)
  /-- SCAN_END (R384): A scan ends OK, INTERRUPTED, ERROR or ABORTED. Operands: `q` lane quad 0–47,
  `l` lane 0–3, `counts` errors counted by point, `n` errors that come into DRAM chips at this
  moment. -/
  | scanEnd (q : Nat) (l : Nat) (counts : List Nat) (n : Noise)
  /-- CFG_STREAM_PACKET (R390): A stream packet reaches the configuration port and starts, continues
  or ends a stream. -/
  | cfgStreamPacket
  /-- CFG_HEADER_VERIFIED (R395): The header checks complete; the stream is accepted and its regions
  become LOADING and held, or it fails. -/
  | cfgHeaderVerified
  /-- CFG_BLOCK_PROCESS (R396): A received block is hashed, decrypted, checked and written, and the
  last block's closing record verifies the stream. -/
  | cfgBlockProcess
  /-- CFG_STREAM_TIMEOUT (R390): No packet of a stream arrives for the timeout and the stream ends
  with TIMEOUT. -/
  | cfgStreamTimeout
  /-- CLR_ERR (R398): CFG_CTL.CLR_ERR deasserts CONF_ERR_N. -/
  | clrErr
  /-- RELEASE_STAGE (R402): A later release stage of a partial region acts GAP × 64 G after the
  previous one. Operands: `r` partial region 0–31. -/
  | releaseStage (r : Nat)
  /-- DARN_FRAME_VISIT (R405): The darner visits the next frame address and scrubs it clean,
  corrected or MULTI. Operands: `p` panel 1–4, `flips` bits of the frame that upsets have changed,
  `chk` check bits changed, `e` the verdict of the check bits read, `upset` what table upsets add to
  the sum. -/
  | darnFrameVisit (p : Nat) (flips : Nat) (chk : Nat) (e : Ecc) (upset : Nat)
  /-- DARN_HEARTBEAT (R408): The darner sends a heartbeat to the hub controller every 128,000 G.
  Operands: `p` panel 1–4. -/
  | darnHeartbeat (p : Nat)
  /-- DARN_HEARTBEAT_MISS (R479): No darner heartbeat arrives for 12,800,000 G and a SCRUB alarm is
  raised. Operands: `p` panel 1–4. -/
  | darnHeartbeatMiss (p : Nat)
  /-- DOMAIN_TRANSITION_DONE (R437): A power domain completes its transition to on, retention or
  off. Operands: `d` power domain. -/
  | domainTransitionDone (d : Nat)
  /-- BROWN_OUT (R441): A domain's regulator browns out and switches off, losing the domain's state.
  Operands: `d` power domain, `kind` 0 undervoltage, 1 the low-current limit, `x` the output in mV or the load
  in mA. -/
  | brownOut (d : Nat) (kind : Nat) (x : Nat)
  /-- TEMP_SAMPLE (R444): Every 10 µs the shell samples each die's temperature and drives THERM_N.
  Operands: `ts` temperatures. -/
  | tempSample (ts : List Int)
  /-- NAP_SAMPLE (R446): Nap wakes, samples detects, temperatures and voltages, and raises wake
  events. Operands: `sd` mask of quads that see signal, `ts` temperatures, `volts` the outputs of domains
  in mV, `vin` VIN in mV. -/
  | napSample (sd : Nat) (ts : List Int) (volts : List (Nat × Nat)) (vin : Nat)
  /-- ATT_GO (R452): HUB_ATT_CMD.GO requests a signed attestation report, or is ignored while busy.
  -/
  | attGo
  /-- ATT_REPORT_READY (R452): The signed report appears in HUB_ATT_REP and READY sets. -/
  | attReportReady
  /-- GET_INFO (R456): Mailbox command returning boot state, firmware version and SVN minima. -/
  | getInfo
  /-- RELEASE (R429): Mailbox command that admits and releases dies and starts DRAM bring-up.
  Operands: `spd` what each DIMM’s serial presence detect reports. -/
  | release (spd : List Dimm)
  /-- READMIT (R27): Mailbox command that readmits a lost die. Operands: `spd` what each DIMM’s
  serial presence detect reports. -/
  | readmit (spd : List Dimm)
  /-- DRAM_REPORT (R456): Mailbox command returning DRC_STAT of every channel. -/
  | dramReport
  /-- SIGKEY_SET (R456): Mailbox command provisioning a signing-key digest. Operands: `err` the
  flash fails. -/
  | sigkeySet (err : Bool)
  /-- SIGKEY_REVOKE (R456): Mailbox command permanently revoking a signing key. Operands: `err` the
  flash fails. -/
  | sigkeyRevoke (err : Bool)
  /-- KEY_IMPORT (R458): Mailbox command unwrapping a stream key into a HELD key slot. -/
  | keyImport
  /-- KEY_DROP (R456): Mailbox command zeroising and freeing a HELD key slot. -/
  | keyDrop
  /-- SVN_RAISE (R456): Mailbox command raising CFG_SVN_MIN. Operands: `err` the flash fails. -/
  | svnRaise (err : Bool)
  /-- MINREV_RAISE (R456): Mailbox command raising a minimum-revision entry. Operands: `err` the
  flash fails. -/
  | minrevRaise (err : Bool)
  /-- FW_WRITE (R457): Mailbox command writing data into the inactive firmware image. Operands:
  `err` the flash fails. -/
  | fwWrite (err : Bool)
  /-- FW_COMMIT (R456): Mailbox command verifying the inactive image and making it preferred.
  Operands: `err` the flash fails. -/
  | fwCommit (err : Bool)
  /-- FW_CONFIRM (R456): Mailbox command raising the stored firmware SVN minimum. Operands: `err`
  the flash fails. -/
  | fwConfirm (err : Bool)
  /-- GET_CERT (R456): Mailbox command returning a chunk of the identity certificate. -/
  | getCert
  /-- GET_CRASH (R456): Mailbox command returning a chunk of the crash record. -/
  | getCrash
  /-- GET_LOG (R456): Mailbox command returning a chunk of the firmware log. -/
  | getLog
  /-- CLEAR_CRASH (R456): Mailbox command erasing the crash record. Operands: `err` the flash fails.
  -/
  | clearCrash (err : Bool)
  /-- DEBUG_LOCK (R465): Mailbox command setting or clearing the stored debug lock. Operands: `err`
  the flash fails. -/
  | debugLock (err : Bool)
  /-- RESET_PACKAGE (R456): Mailbox command that replies and schedules a package reset. -/
  | resetPackage
  /-- NOTE_ACK (R460): MBX_NOTE_ACK frees the notice buffer for the next notice. -/
  | noteAck
  /-- MOVER_GO (R461): MVRm GO starts a hub-mover copy, or is refused. Operands: `m` mover 0–3. -/
  | moverGo (m : Nat)
  /-- MOVER_STOP (R461): MVRm STOP aborts one mover. Operands: `m` mover 0–3. -/
  | moverStop (m : Nat)
  /-- MOVER_RESPONSE (R461): A mover read or write response arrives; the copy progresses, completes
  or ends in error. Operands: `m` mover 0–3, `k` which of the mover's requests in flight is answered, from 0 in the
  order of their issue, `ecc` the verdicts on an on-die source, `n` errors that come into DRAM chips at this
  moment. -/
  | moverResponse (m k : Nat) (ecc : List Ecc) (n : Noise)
  /-- DP_READ (R462): A debug-port read transaction is judged and answered DONE, RETRY, REJECT or
  CHKFAIL. Operands: `start` start pattern, `opc` OPC, `reg` port register, `check` request check as
  received. -/
  | dpRead (start : Nat) (opc : Nat) (reg : Nat) (check : Nat)
  /-- DP_WRITE (R462): A debug-port write transaction is judged and answered. Operands: `start`
  start pattern, `reg` port register, `data` data, `check` request check as received. -/
  | dpWrite (start : Nat) (reg : Nat) (data : Nat) (check : Nat)
  /-- DP_LINE_RESET (R462): DBG_IO held at 0 for 40 cycles ends any request being received. -/
  | dpLineReset
  /-- DP_ATTACH (R466): DP_CTL.ATTACH = 1 attaches the debugger and starts sleep emulation. -/
  | dpAttach
  /-- DP_DETACH (R466): DP_CTL.ATTACH = 0 detaches the debugger and resumes halted engines and
  sequencers. -/
  | dpDetach
  /-- DP_CLR_ERR (R463): DP_CTL.CLR_ERR clears the latched port errors. -/
  | dpClrErr
  /-- DP_MEM_READ (R464): DP_MCTL OP 1 starts a debug-master read into DP_DATA. Operands: `size`
  SIZE, `inc` INC. -/
  | dpMemRead (size : Bool) (inc : Bool)
  /-- DP_MEM_WRITE (R464): DP_MCTL OP 2 starts a debug-master write from DP_DATA. Operands: `size`
  SIZE, `inc` INC. -/
  | dpMemWrite (size : Bool) (inc : Bool)
  /-- DP_ACCESS_DONE (R463): A debug-master access completes and BUSY clears, latching any error.
  Operands: `ecc` the verdicts of the check bits of the words read, in order, clean where none is
  given, `n` errors that come into DRAM chips at this moment. -/
  | dpAccessDone (ecc : List Ecc) (n : Noise)
  /-- SHU_HALT (R467): DBG_SHU_CMD HALT requests a halt of a running engine. Operands: `init`
  initiator (R60), `stepInt` STEP_INT. -/
  | shuHalt (init : Nat) (stepInt : Bool)
  /-- SHU_HALT_FORCE (R468): A halt inside a locked sequence is forced after 64 engine cycles.
  Operands: `e` engine 0–255 of the package. -/
  | shuHaltForce (e : Nat)
  /-- SHU_STEP (R469): DBG_SHU_CMD STEP executes one step of a halted engine. Operands: `init`
  initiator (R60), `stepInt` STEP_INT. -/
  | shuStep (init : Nat) (stepInt : Bool)
  /-- SHU_RESUME (R469): DBG_SHU_CMD RESUME restarts a halted engine. Operands: `init` initiator
  (R60), `stepInt` STEP_INT. -/
  | shuResume (init : Nat) (stepInt : Bool)
  /-- SHU_RVAL_WRITE (R469): A write to DBG_SHU_RVAL sets a halted engine's register. Operands:
  `init` initiator (R60), `hi` the high register of the pair, `v` word written. -/
  | shuRvalWrite (init : Nat) (hi : Bool) (v : Nat)
  /-- SEQ_HALT (R470): DBG_SEQ_CMD HALT requests a halt of a running sequencer or gang. Operands:
  `init` initiator (R60). -/
  | seqHalt (init : Nat)
  /-- SEQ_STEP (R470): DBG_SEQ_CMD STEP issues one cycle of a halted sequencer. Operands: `init`
  initiator (R60). -/
  | seqStep (init : Nat)
  /-- SEQ_RESUME (R470): DBG_SEQ_CMD RESUME schedules a halted sequencer's next cycle. Operands:
  `init` initiator (R60). -/
  | seqResume (init : Nat)
  /-- SEQ_RESUME_START (R470): The resume time is reached and the halted sequencer's next cycle
  starts. Operands: `l` leader sequencer 0–15 of the package. -/
  | seqResumeStart (l : Nat)
  /-- IDLE_8G_BOUNDARY (R100): While a sequencer has no run, its EDG, SEQ and WFT pages apply their
  pending sets at the next fabric time that is a multiple of 8 G. Operands: `b` bank or sequencer
  0–15 of the package, `bad` pages whose set holds a parity error (R46). -/
  | idle8GBoundary (b : Nat) (bad : List Nat)
  /-- UNDEFINED_INSTRUCTION (R239): An engine fetches an undefined opcode, or a word with a non-zero
  unused field or a reserved code, and its run ends with ILLEGAL. Operands: `e` engine 0–255 of the
  package, `stalls` the cycles for which the engine stalls in this step, `ecc` the verdicts of the
  check bits of the words read, in order, clean where none is given. -/
  | undefinedInstruction (e : Nat) (stalls : Nat) (ecc : List Ecc)
  /-- BAD_CMD (R456): A doorbell ring with an unlisted CMD is answered BAD_CMD with no effect. -/
  | badCmd
  /-- BLOCK_LOCK_ACQUIRE (R373): A 64b/66b lane finds block lock on its sync headers and BLOCK_LOCK
  sets. Operands: `q` lane quad 0–47, `l` lane 0–3. -/
  | blockLockAcquire (q : Nat) (l : Nat)
  /-- BLOCK_LOCK_LOST (R334): A lane loses block lock, BLOCK_LOCK clears, and an UP Kelef port goes
  DOWN with LOCK_LOST. Operands: `q` lane quad 0–47, `l` lane 0–3. -/
  | blockLockLost (q : Nat) (l : Nat)
  /-- KLF_SKEW_EXCEEDED (R334): The lane skew of an UP port grows beyond 256 UI and the port goes
  DOWN with cause SKEW. Operands: `p` Kelef port 0–15, `skew` skew in UI. -/
  | klfSkewExceeded (p : Nat) (skew : Nat)
  /-- CTL_COLUMN_DISCARD (R332): A control column whose CRC fails, whose type is unlisted or whose
  lane type bytes disagree is discarded and counted in KLF_CTL_ERR. Operands: `p` Kelef port 0–15, `c`
  the column. -/
  | ctlColumnDiscard (p : Nat) (c : Column)
  /-- ROUTER_RESTORE_DONE (R316): A router whose DISABLE bit was cleared is restored within 1,280 G
  and its OFF bit clears. Operands: `p` panel 1–4, `l` local router 0–15. -/
  | routerRestoreDone (p : Nat) (l : Nat)
  /-- HEARTBEAT_RETURN (R27): A lost die's heartbeat becomes live again, its SEAM_PKG.UP bit sets,
  and the 1 ms count for withdrawing detours starts. Operands: `d` die 1–6. -/
  | heartbeatReturn (d : Nat)
  /-- TMR_FIX (R408): A triplicated darner register copy disagrees at the per-cycle vote, is
  rewritten, and DARN_TMR counts it. Operands: `p` panel 1–4. -/
  | tmrFix (p : Nat)
  /-- TCLK_EDGE (R422): On each TCLK edge the edge-bank time-stamp taps, general-lane taps and seam
  streams exchange one word with the fabric, and missing raw transmit words are counted in
  FAB_TX_UNDER. Operands: `p` panel 1–4, `put` serial port and entry that the design writes, `get`
  serial ports that the design reads, `seam` stream group (0–11 of the horizontal join, 12–23 of the
  vertical) and word that the design sends, `tx` general lane and word that the design supplies, `rx`
  general lane and word that its line brought, `seen` comparator levels by bank of the panel. -/
  | tclkEdge (p : Nat) (put : List (Nat × Nat)) (get : List Nat) (seam tx rx : List (Nat × Nat))
      (seen : List (Nat × List CmpLevel))
  /-- SERIAL_TX_BYTE (R424): A hard serial port finishes transmitting a byte from its transmit
  queue. Operands: `ix` serial port 0–15 of the package. -/
  | serialTxByte (ix : Nat)
  deriving DecidableEq, Repr

end Sys2Proof
end

