-- ==== Sys2Proof/Config.lean ====
section
/-! DEFINITION. What the spec leaves to the implementation or to the die. Every free value is a constant
with no body, so nothing can be proved of it beyond its width. -/

namespace Sys2Proof.Config

/-- A value the spec leaves open, drawn by a counter of the state. -/
opaque freeNat : Nat → Nat

/-- An open value of a stated width. -/
def free (w n : Nat) : Nat := freeNat n % 2 ^ w

/-- The unique number of the device (KLF_UID). -/
opaque uid : Nat

/-- PAGE_ID.BLOCK_VERS of a block type (R38): fused, from 1. -/
opaque blockVers : Nat → Nat

/-- The 80 B that the chips of a DRAM line hold before it is first written after a loss of their
contents (R499): channel, loss, line. -/
opaque dramChip : Nat → Nat → Nat → Nat

/-- The CRCs of the links and of frames (R332, R338, R404): the spec gives polynomial, initial value, final
exclusive-OR and what they cover, but not whether the bits of a byte enter the CRC-32 lowest first, whether
its result is read with its bits mirrored, and whether payload bit 207 or bit 0 enters the CRC-16 first. -/
opaque crc32Lsb : Bool
opaque crc32Mirror : Bool
opaque crc16Top : Bool

/-- The payload of a training column, of the sender's device ID and port (R333): where its fields lie is not stated. -/
opaque trnPayload : Nat → Nat → Nat

/-- What manufacture put into a firmware image area: 0 for A, 1 for B (R449). -/
opaque factoryImage : Nat → Nat

/-- The header of an image passes and its signature verifies against the firmware key (R450). -/
opaque imageOk : Nat → Bool

/-- The SVN, the version and the length in bytes that an image's header states. -/
opaque imageSvn : Nat → Nat
opaque imageVer : Nat → Nat
opaque imageLen : Nat → Nat

/-- The private half of the device's identity key, drawn at manufacture (R452). -/
opaque idPrivate : Nat

/-- Exonler's certificate for it, and its length in bytes (R456). -/
opaque cert : Nat
opaque certLen : Nat

/-- What the hub SRAM holds in an 8 B word that no access has written: the firmware's own data. -/
opaque sramInit : Nat → Nat

/-- What a memory that software cannot set holds after a loss of its contents, by the kind of memory, the
unit, the number of losses, and the cell. -/
opaque restCell : Nat → Nat → Nat → Nat → Nat

/-- The code of an endpoint at its router, DEP of R309, by die, local router, and what tells the endpoints there apart
(2 ^ 12 for the fabric port). -/
opaque endpoint : Nat → Nat → Nat → Nat

/-- Which of a die's free tags a request takes (R312), by die and tags held. -/
opaque tagPick : Nat → Nat → Nat

/-! ### The parts of a panel's fabric (R411–R417)

The spec names the parts and what each does. Which wires there are, what each one's multiplexer can select,
and where the frames hold each setting, are the die's. Cells are numbered 50,000 to a tile, 16 to a swatch;
bolt memories 28 to a tile. -/

/-- The input pins of a cell: the LUT's, the bypass inputs, clock enable and reset of FA (false) and FB
(true), and a memory LUT's write address, data and enable. -/
inductive FabPin where
  | i (k : Nat) | ax | bx | ce (b : Bool) | sr (b : Bool) | wa (k : Nat) | wd | we
  deriving DecidableEq, Repr

/-- What the fabric drives into hard interfaces (R413, R419, R421, R423–R425): into a fabric port, the word and its
VALID bit into a general lane and a stream group, an entry and the taking of one at a serial port, and FAB_USTATk. -/
inductive FabIn where
  | rqValid | rqOp | rqAddr | rqLen | rqBe | rqData | rqSpf | rqOpen | rsReady | stValid | stData | srReady
  | laneValid | lane | seamValid | seam | serValid | ser | serReady | ustat
  deriving DecidableEq, Repr

/-- The wires, each behind a multiplexer (R413): routing segments, the pins of cells, the inputs of a bolt port (0
address, 1 data, 2 write enable), and the inputs of hard interfaces. -/
inductive FabWire where
  | seg (w : Nat)
  | pin (c : Nat) (k : FabPin)
  | bolt (m : Nat) (b : Bool) (k i : Nat)
  | input (f : FabIn) (u i : Nat)
  deriving DecidableEq, Repr

/-- What hard interfaces drive into the fabric (R419, R422–R425). -/
inductive FabIface where
  | ureg | rqReady | rqTag | rsValid | rsTag | rsStatus | rsSpst | rsSpf | rsData | stReady | srValid | srData
  | tap | lane | laneReady | seamValid | seamData | serReady | serValid | serData
  deriving DecidableEq, Repr

/-- What a multiplexer can have as an input: a routing segment, a cell's LUT, flip-flop or carry output, a bit of
a bolt port, a bit of a hard interface. A value of the fabric is one of these or that of any other wire. -/
inductive FabSrc where
  | wire (w : FabWire)
  | lut (c : Nat)
  | ff (c : Nat) (b : Bool)
  | carry (c : Nat)
  | bolt (m : Nat) (b : Bool) (i : Nat)
  | iface (f : FabIface) (u i : Nat)
  deriving DecidableEq, Repr

/-- The settings that frames hold beside the contents of LUTs and bolt memories: a wire's select, a LUT's mode and
shift length, a flip-flop's settings, clock selections, a segment's tack enable, and a bolt port's clock, shape and
read order. -/
inductive FabItem where
  | select (w : FabWire)
  | lutMode (c : Nat)
  | shiftLen (c : Nat)
  | ff (c : Nat) (b : Bool)
  | halfClk (h : Nat)
  | tack (w : Nat)
  | tackClk (tile : Nat)
  | boltClk (m : Nat) (b : Bool)
  | boltShape (m : Nat) (b : Bool)
  | boltNew (m : Nat) (b : Bool)
  deriving DecidableEq, Repr

/-- The place of bit `i` of a setting among the bits of its tile that hold no contents. -/
opaque fabPlace : FabItem → Nat → Nat

/-- The order of a tile's bits in its frames: a stride and a start. -/
opaque frameStride : Nat
opaque frameStart : Nat

/-- The routing segments of a panel, the inputs of a wire's multiplexer, and the tile that a segment lies in. -/
opaque segCount : Nat
opaque wireInputs : FabWire → List FabSrc
opaque segTile : Nat → Nat

/-- The tiles of what R388 does not list: FAB_UREGk and FAB_USTATk, and a stream group's word. -/
opaque uregTile : Nat → Nat
opaque ustatTile : Nat → Nat → Nat
opaque seamTile : Nat → Nat

/-- Which of each four swatches is the memory swatch; the swatches of a tile in one column, as a power of 5. -/
opaque memPhase : Nat → Nat
opaque columnExp : Nat

/-- A cell's carry, of its LUT output, its bypass inputs and the carry into it: the function is not stated. -/
opaque carryOut : Bool → Bool → Bool → Bool → Bool

/-- The value of a path that has no end, which is not stated. -/
opaque loopValue : Nat → FabSrc → Bool

end Sys2Proof.Config
end

