-- ==== Sys2Proof/Machine/Registers.lean ====
section
/-! DEFINITION. The register pages of the spec: every register of every page kind with its
fields, their bit places, types (R2) and reset values, as the register tables of the
chapters give them. An unlisted offset is an offset that the page does not implement (R35). -/

namespace Sys2Proof.Machine

/-- The type codes of R2. -/
inductive FTy where
  | ro | rw | rws | rc | w1c | w1s | wo
  deriving DecidableEq, Repr

/-- One field of a register: the offset of its register in the page, the distance from one copy
of the register to the next where the page holds several, its bits, its type and its reset value. -/
structure Fld where
  off : Nat
  stride : Nat
  hi : Nat
  lo : Nat
  ty : FTy
  rst : Nat
  deriving DecidableEq, Repr

/-- The same field in copy `i` of its register. -/
def Fld.nth (f : Fld) (i : Nat) : Fld := ⟨f.off + f.stride * i, f.stride, f.hi, f.lo, f.ty, f.rst⟩

/-- One register of a page kind: `count` copies, `stride` bytes apart; `covered` as R48 has it. -/
structure RegRow where
  name : String
  off : Nat
  stride : Nat
  count : Nat
  covered : Bool
  fields : List Fld
  deriving DecidableEq, Repr

/-- The kinds of register page. -/
inductive PageKind where
  | seam | hub | mbx | dbg | alm | time | clkSel | clkPnl | pwr | cfg | drcMap | drc | lin
  | noc | gov | pat | klfRt | klfCom | klfLink | lane | edg | seq | wft | cat | spl | shu
  | darn | fab
  deriving DecidableEq, Repr

/-! ### header registers -/

def PAGE_ID.BLOCK_TYPE : Fld := ⟨0x0, 0x0, 7, 0, .ro, 0⟩
def PAGE_ID.INSTANCE : Fld := ⟨0x0, 0x0, 13, 8, .ro, 0⟩
def PAGE_ID.REV_LETTER : Fld := ⟨0x0, 0x0, 20, 16, .ro, 0⟩
def PAGE_ID.REV_DIGIT : Fld := ⟨0x0, 0x0, 24, 21, .ro, 0⟩
def PAGE_ID.BLOCK_VERS : Fld := ⟨0x0, 0x0, 31, 28, .ro, 0⟩
def PAGE_CTL.CLK_EN : Fld := ⟨0x4, 0x0, 0, 0, .rw, 0⟩
def PAGE_CTL.SOFT_RESET : Fld := ⟨0x4, 0x0, 1, 1, .w1s, 0⟩
def PAGE_CTL.COMMIT_NOW : Fld := ⟨0x4, 0x0, 2, 2, .w1s, 0⟩
def PAGE_CTL.ABORT : Fld := ⟨0x4, 0x0, 3, 3, .w1s, 0⟩
def PAGE_CTL.DISCARD : Fld := ⟨0x4, 0x0, 4, 4, .w1s, 0⟩
def PAGE_STAT.CRC_MISMATCH : Fld := ⟨0x8, 0x0, 0, 0, .rc, 0⟩
def PAGE_STAT.DISARMED : Fld := ⟨0x8, 0x0, 1, 1, .rc, 0⟩
def PAGE_STAT.COMMIT_REFUSED : Fld := ⟨0x8, 0x0, 2, 2, .rc, 0⟩
def PAGE_STAT.BNDRY_REFUSED : Fld := ⟨0x8, 0x0, 3, 3, .rc, 0⟩
def PAGE_STAT.SHADOW_ERR : Fld := ⟨0x8, 0x0, 4, 4, .rc, 0⟩
def PAGE_STAT.APPLIED : Fld := ⟨0x8, 0x0, 5, 5, .rc, 0⟩
def PAGE_STAT.DONE : Fld := ⟨0x8, 0x0, 6, 6, .rc, 0⟩
def PAGE_STAT.ABORTED : Fld := ⟨0x8, 0x0, 7, 7, .rc, 0⟩
def PAGE_STAT.BLOCK : Fld := ⟨0x8, 0x0, 31, 8, .rc, 0⟩
def PAGE_LEVEL.CLK_ON : Fld := ⟨0xc, 0x0, 0, 0, .ro, 0⟩
def PAGE_LEVEL.DOMAIN : Fld := ⟨0xc, 0x0, 2, 1, .ro, 0⟩
def PAGE_LEVEL.ARMED : Fld := ⟨0xc, 0x0, 3, 3, .ro, 0⟩
def PAGE_LEVEL.CRC_BAD : Fld := ⟨0xc, 0x0, 4, 4, .ro, 0⟩
def PAGE_LEVEL.BUSY : Fld := ⟨0xc, 0x0, 5, 5, .ro, 0⟩
def PAGE_LEVEL.IN_RESET : Fld := ⟨0xc, 0x0, 6, 6, .ro, 0⟩
def PAGE_LEVEL.BLOCK : Fld := ⟨0xc, 0x0, 31, 8, .ro, 0⟩
def PAGE_PEND.PENDING : Fld := ⟨0x10, 0x0, 0, 0, .ro, 0⟩
def PAGE_PEND.KIND : Fld := ⟨0x10, 0x0, 2, 1, .ro, 0⟩
def PAGE_PEND.COUNT : Fld := ⟨0x10, 0x0, 15, 8, .ro, 0⟩
def PAGE_PEND.LAST_KIND : Fld := ⟨0x10, 0x0, 18, 16, .ro, 0⟩
def PAGE_PEND.SEQ : Fld := ⟨0x10, 0x0, 31, 24, .ro, 0⟩
def PAGE_BNDRY.KIND : Fld := ⟨0x14, 0x0, 1, 0, .rw, 0⟩
def PAGE_BNDRY.GROUP : Fld := ⟨0x14, 0x0, 8, 4, .rw, 0⟩
def PAGE_CRC_REF.REF : Fld := ⟨0x18, 0x0, 31, 0, .ro, 0⟩
def PAGE_CRC_NOW.NOW : Fld := ⟨0x1c, 0x0, 31, 0, .ro, 0⟩
def PAGE_CRC_CTL.CHECK_EN : Fld := ⟨0x20, 0x0, 0, 0, .rw, 0⟩
def PAGE_CRC_CTL.COMMIT : Fld := ⟨0x20, 0x0, 1, 1, .w1s, 0⟩
def PAGE_ALARM_EN.CRC : Fld := ⟨0x24, 0x0, 0, 0, .rw, 1⟩
def PAGE_ALARM_EN.SHADOW : Fld := ⟨0x24, 0x0, 1, 1, .rw, 1⟩
def PAGE_ALARM_EN.DISARM : Fld := ⟨0x24, 0x0, 2, 2, .rw, 0⟩
def PAGE_ALARM_EN.BLOCK : Fld := ⟨0x24, 0x0, 31, 8, .rw, 0⟩

/-- The header registers. -/
def rowsHeader : List RegRow := [
  ⟨"PAGE_ID", 0x0, 0x0, 1, false, [PAGE_ID.BLOCK_TYPE, PAGE_ID.INSTANCE, PAGE_ID.REV_LETTER, PAGE_ID.REV_DIGIT, PAGE_ID.BLOCK_VERS]⟩,
  ⟨"PAGE_CTL", 0x4, 0x0, 1, true, [PAGE_CTL.CLK_EN, PAGE_CTL.SOFT_RESET, PAGE_CTL.COMMIT_NOW, PAGE_CTL.ABORT, PAGE_CTL.DISCARD]⟩,
  ⟨"PAGE_STAT", 0x8, 0x0, 1, false, [PAGE_STAT.CRC_MISMATCH, PAGE_STAT.DISARMED, PAGE_STAT.COMMIT_REFUSED, PAGE_STAT.BNDRY_REFUSED, PAGE_STAT.SHADOW_ERR, PAGE_STAT.APPLIED, PAGE_STAT.DONE, PAGE_STAT.ABORTED, PAGE_STAT.BLOCK]⟩,
  ⟨"PAGE_LEVEL", 0xc, 0x0, 1, false, [PAGE_LEVEL.CLK_ON, PAGE_LEVEL.DOMAIN, PAGE_LEVEL.ARMED, PAGE_LEVEL.CRC_BAD, PAGE_LEVEL.BUSY, PAGE_LEVEL.IN_RESET, PAGE_LEVEL.BLOCK]⟩,
  ⟨"PAGE_PEND", 0x10, 0x0, 1, false, [PAGE_PEND.PENDING, PAGE_PEND.KIND, PAGE_PEND.COUNT, PAGE_PEND.LAST_KIND, PAGE_PEND.SEQ]⟩,
  ⟨"PAGE_BNDRY", 0x14, 0x0, 1, true, [PAGE_BNDRY.KIND, PAGE_BNDRY.GROUP]⟩,
  ⟨"PAGE_CRC_REF", 0x18, 0x0, 1, false, [PAGE_CRC_REF.REF]⟩,
  ⟨"PAGE_CRC_NOW", 0x1c, 0x0, 1, false, [PAGE_CRC_NOW.NOW]⟩,
  ⟨"PAGE_CRC_CTL", 0x20, 0x0, 1, false, [PAGE_CRC_CTL.CHECK_EN, PAGE_CRC_CTL.COMMIT]⟩,
  ⟨"PAGE_ALARM_EN", 0x24, 0x0, 1, true, [PAGE_ALARM_EN.CRC, PAGE_ALARM_EN.SHADOW, PAGE_ALARM_EN.DISARM, PAGE_ALARM_EN.BLOCK]⟩]

/-! ### seam registers -/

def SEAM_PKG.PKG_VAR : Fld := ⟨0x40, 0x0, 3, 0, .ro, 0⟩
def SEAM_PKG.PRESENT : Fld := ⟨0x40, 0x0, 14, 8, .ro, 0⟩
def SEAM_PKG.RELEASED : Fld := ⟨0x40, 0x0, 22, 16, .ro, 0⟩
def SEAM_PKG.UP : Fld := ⟨0x40, 0x0, 30, 24, .ro, 0⟩
def SEAM_CAP_EFF.CAP : Fld := ⟨0x44, 0x0, 31, 0, .ro, 0⟩
def SEAM_RELEASE.REL : Fld := ⟨0x48, 0x0, 6, 0, .w1s, 0⟩
def SEAM_STAT.DIE_LOST : Fld := ⟨0x4c, 0x0, 6, 0, .rc, 0⟩
def SEAM_STAT.STRAP_ERR : Fld := ⟨0x4c, 0x0, 8, 8, .rc, 0⟩
def SEAM_STAT.ROLE_LOCKED : Fld := ⟨0x4c, 0x0, 9, 9, .rc, 0⟩
def SEAM_STAT.REV_REFUSED : Fld := ⟨0x4c, 0x0, 10, 10, .rc, 0⟩
def SEAM_LOSS_TIME_LO.TIME : Fld := ⟨0x50, 0x0, 31, 0, .ro, 0⟩
def SEAM_LOSS_TIME_HI.TIME : Fld := ⟨0x54, 0x0, 31, 0, .ro, 0⟩
def SEAM_CAP_DENY.PAGE : Fld := ⟨0x58, 0x0, 11, 0, .ro, 0⟩
def SEAM_CAP_DENY.VALID : Fld := ⟨0x58, 0x0, 31, 31, .rc, 0⟩
def SEAM_DIEn_ID.DIE_ID : Fld := ⟨0x80, 0x8, 2, 0, .ro, 0⟩
def SEAM_DIEn_ID.REV_LETTER : Fld := ⟨0x80, 0x8, 7, 3, .ro, 0⟩
def SEAM_DIEn_ID.REV_DIGIT : Fld := ⟨0x80, 0x8, 11, 8, .ro, 0⟩
def SEAM_DIEn_ID.DIE_TYPE : Fld := ⟨0x80, 0x8, 15, 12, .ro, 0xf⟩
def SEAM_DIEn_ID.PKG_VAR : Fld := ⟨0x80, 0x8, 27, 24, .ro, 0⟩
def SEAM_DIEn_ID.VALID : Fld := ⟨0x80, 0x8, 31, 31, .ro, 0⟩
def SEAM_DIEn_CAP.CAP : Fld := ⟨0x84, 0x8, 31, 0, .ro, 0⟩
def SEAM_ROLE_E12.NET : Fld := ⟨0xc0, 0x0, 7, 0, .rw, 0xff⟩
def SEAM_ROLE_E12.STREAM : Fld := ⟨0xc0, 0x0, 11, 8, .ro, 0⟩
def SEAM_ROLE_E34.NET : Fld := ⟨0xc4, 0x0, 7, 0, .rw, 0xff⟩
def SEAM_ROLE_E34.STREAM : Fld := ⟨0xc4, 0x0, 11, 8, .ro, 0⟩
def SEAM_ROLE_E13.NET : Fld := ⟨0xc8, 0x0, 7, 0, .rw, 0xff⟩
def SEAM_ROLE_E13.STREAM : Fld := ⟨0xc8, 0x0, 11, 8, .ro, 0⟩
def SEAM_ROLE_E24.NET : Fld := ⟨0xcc, 0x0, 7, 0, .rw, 0xff⟩
def SEAM_ROLE_E24.STREAM : Fld := ⟨0xcc, 0x0, 11, 8, .ro, 0⟩
def SEAM_ROLE_SEL.PANEL : Fld := ⟨0xd0, 0x0, 15, 0, .rw, 0x3333⟩
def SEAM_ROLE_SEL.SITE : Fld := ⟨0xd0, 0x0, 23, 16, .rw, 0x33⟩
def SEAM_DDn.COUNT : Fld := ⟨0x100, 0x4, 31, 0, .rc, 0⟩

/-- The seam registers. -/
def rowsSeam : List RegRow := [
  ⟨"SEAM_PKG", 0x40, 0x0, 1, false, [SEAM_PKG.PKG_VAR, SEAM_PKG.PRESENT, SEAM_PKG.RELEASED, SEAM_PKG.UP]⟩,
  ⟨"SEAM_CAP_EFF", 0x44, 0x0, 1, false, [SEAM_CAP_EFF.CAP]⟩,
  ⟨"SEAM_RELEASE", 0x48, 0x0, 1, false, [SEAM_RELEASE.REL]⟩,
  ⟨"SEAM_STAT", 0x4c, 0x0, 1, false, [SEAM_STAT.DIE_LOST, SEAM_STAT.STRAP_ERR, SEAM_STAT.ROLE_LOCKED, SEAM_STAT.REV_REFUSED]⟩,
  ⟨"SEAM_LOSS_TIME_LO", 0x50, 0x0, 1, false, [SEAM_LOSS_TIME_LO.TIME]⟩,
  ⟨"SEAM_LOSS_TIME_HI", 0x54, 0x0, 1, false, [SEAM_LOSS_TIME_HI.TIME]⟩,
  ⟨"SEAM_CAP_DENY", 0x58, 0x0, 1, false, [SEAM_CAP_DENY.PAGE, SEAM_CAP_DENY.VALID]⟩,
  ⟨"SEAM_DIEn_ID", 0x80, 0x8, 7, false, [SEAM_DIEn_ID.DIE_ID, SEAM_DIEn_ID.REV_LETTER, SEAM_DIEn_ID.REV_DIGIT, SEAM_DIEn_ID.DIE_TYPE, SEAM_DIEn_ID.PKG_VAR, SEAM_DIEn_ID.VALID]⟩,
  ⟨"SEAM_DIEn_CAP", 0x84, 0x8, 7, false, [SEAM_DIEn_CAP.CAP]⟩,
  ⟨"SEAM_ROLE_E12", 0xc0, 0x0, 1, true, [SEAM_ROLE_E12.NET, SEAM_ROLE_E12.STREAM]⟩,
  ⟨"SEAM_ROLE_E34", 0xc4, 0x0, 1, true, [SEAM_ROLE_E34.NET, SEAM_ROLE_E34.STREAM]⟩,
  ⟨"SEAM_ROLE_E13", 0xc8, 0x0, 1, true, [SEAM_ROLE_E13.NET, SEAM_ROLE_E13.STREAM]⟩,
  ⟨"SEAM_ROLE_E24", 0xcc, 0x0, 1, true, [SEAM_ROLE_E24.NET, SEAM_ROLE_E24.STREAM]⟩,
  ⟨"SEAM_ROLE_SEL", 0xd0, 0x0, 1, true, [SEAM_ROLE_SEL.PANEL, SEAM_ROLE_SEL.SITE]⟩,
  ⟨"SEAM_DDn", 0x100, 0x4, 7, false, [SEAM_DDn.COUNT]⟩]

/-! ### hub registers -/

def HUB_BOOT.STATUS : Fld := ⟨0x40, 0x0, 1, 0, .ro, 0⟩
def HUB_BOOT.IMAGE : Fld := ⟨0x40, 0x0, 2, 2, .ro, 0⟩
def HUB_BOOT.FALLBACK : Fld := ⟨0x40, 0x0, 3, 3, .ro, 0⟩
def HUB_BOOT.FW_RUN : Fld := ⟨0x40, 0x0, 4, 4, .ro, 0⟩
def HUB_BOOT.RESTARTS : Fld := ⟨0x40, 0x0, 15, 8, .ro, 0⟩
def HUB_FW_VER.VER : Fld := ⟨0x44, 0x0, 31, 0, .ro, 0⟩
def HUB_MEASi.DATA : Fld := ⟨0x80, 0x4, 31, 0, .ro, 0⟩
def HUB_ATT_NONCEj.DATA : Fld := ⟨0xc0, 0x4, 31, 0, .rw, 0⟩
def HUB_ATT_CMD.GO : Fld := ⟨0xe0, 0x0, 0, 0, .w1s, 0⟩
def HUB_ATT_STAT.BUSY : Fld := ⟨0xe4, 0x0, 0, 0, .ro, 0⟩
def HUB_ATT_STAT.READY : Fld := ⟨0xe4, 0x0, 1, 1, .ro, 0⟩
def HUB_ATT_STAT.IGNORED : Fld := ⟨0xe4, 0x0, 15, 8, .rc, 0⟩
def HUB_ATT_STAT.SEQ : Fld := ⟨0xe4, 0x0, 31, 16, .ro, 0⟩
def MVRm_SRC_LO.SRC : Fld := ⟨0x200, 0x40, 31, 0, .rw, 0⟩
def MVRm_SRC_HI.SRC : Fld := ⟨0x204, 0x40, 31, 0, .rw, 0⟩
def MVRm_DST_LO.DST : Fld := ⟨0x208, 0x40, 31, 0, .rw, 0⟩
def MVRm_DST_HI.DST : Fld := ⟨0x20c, 0x40, 31, 0, .rw, 0⟩
def MVRm_LEN.LEN : Fld := ⟨0x210, 0x40, 31, 0, .rw, 0⟩
def MVRm_CTL.GO : Fld := ⟨0x214, 0x40, 0, 0, .w1s, 0⟩
def MVRm_CTL.STOP : Fld := ⟨0x214, 0x40, 1, 1, .w1s, 0⟩
def MVRm_STAT.STATUS : Fld := ⟨0x218, 0x40, 1, 0, .ro, 0⟩
def MVRm_STAT.ERR : Fld := ⟨0x218, 0x40, 7, 4, .ro, 0⟩
def MVRm_MOVED.MOVED : Fld := ⟨0x21c, 0x40, 31, 0, .ro, 0⟩
def HUB_ATT_REPk.DATA : Fld := ⟨0x800, 0x4, 31, 0, .ro, 0⟩

/-- The hub registers. -/
def rowsHub : List RegRow := [
  ⟨"HUB_BOOT", 0x40, 0x0, 1, false, [HUB_BOOT.STATUS, HUB_BOOT.IMAGE, HUB_BOOT.FALLBACK, HUB_BOOT.FW_RUN, HUB_BOOT.RESTARTS]⟩,
  ⟨"HUB_FW_VER", 0x44, 0x0, 1, false, [HUB_FW_VER.VER]⟩,
  ⟨"HUB_MEASi", 0x80, 0x4, 12, false, [HUB_MEASi.DATA]⟩,
  ⟨"HUB_ATT_NONCEj", 0xc0, 0x4, 8, false, [HUB_ATT_NONCEj.DATA]⟩,
  ⟨"HUB_ATT_CMD", 0xe0, 0x0, 1, false, [HUB_ATT_CMD.GO]⟩,
  ⟨"HUB_ATT_STAT", 0xe4, 0x0, 1, false, [HUB_ATT_STAT.BUSY, HUB_ATT_STAT.READY, HUB_ATT_STAT.IGNORED, HUB_ATT_STAT.SEQ]⟩,
  ⟨"MVRm_SRC_LO", 0x200, 0x40, 4, false, [MVRm_SRC_LO.SRC]⟩,
  ⟨"MVRm_SRC_HI", 0x204, 0x40, 4, false, [MVRm_SRC_HI.SRC]⟩,
  ⟨"MVRm_DST_LO", 0x208, 0x40, 4, false, [MVRm_DST_LO.DST]⟩,
  ⟨"MVRm_DST_HI", 0x20c, 0x40, 4, false, [MVRm_DST_HI.DST]⟩,
  ⟨"MVRm_LEN", 0x210, 0x40, 4, false, [MVRm_LEN.LEN]⟩,
  ⟨"MVRm_CTL", 0x214, 0x40, 4, false, [MVRm_CTL.GO, MVRm_CTL.STOP]⟩,
  ⟨"MVRm_STAT", 0x218, 0x40, 4, false, [MVRm_STAT.STATUS, MVRm_STAT.ERR]⟩,
  ⟨"MVRm_MOVED", 0x21c, 0x40, 4, false, [MVRm_MOVED.MOVED]⟩,
  ⟨"HUB_ATT_REPk", 0x800, 0x4, 128, false, [HUB_ATT_REPk.DATA]⟩]

/-! ### mbx registers -/

def MBX_DOORBELL.RING : Fld := ⟨0x40, 0x0, 0, 0, .w1s, 0⟩
def MBX_STAT.BUSY : Fld := ⟨0x44, 0x0, 0, 0, .ro, 0⟩
def MBX_STAT.REPLY : Fld := ⟨0x44, 0x0, 1, 1, .ro, 0⟩
def MBX_STAT.NOTE : Fld := ⟨0x44, 0x0, 2, 2, .ro, 0⟩
def MBX_STAT.NOTE_LOST : Fld := ⟨0x44, 0x0, 15, 8, .rc, 0⟩
def MBX_CFG.NOTE_EV : Fld := ⟨0x48, 0x0, 0, 0, .rw, 1⟩
def MBX_NOTE_ACK.ACK : Fld := ⟨0x4c, 0x0, 0, 0, .w1s, 0⟩
def MBX_CMDk.DATA : Fld := ⟨0x100, 0x4, 31, 0, .rw, 0⟩
def MBX_RSPk.DATA : Fld := ⟨0x200, 0x4, 31, 0, .ro, 0⟩
def MBX_NOTEk.DATA : Fld := ⟨0x300, 0x4, 31, 0, .ro, 0⟩

/-- The mbx registers. -/
def rowsMbx : List RegRow := [
  ⟨"MBX_DOORBELL", 0x40, 0x0, 1, false, [MBX_DOORBELL.RING]⟩,
  ⟨"MBX_STAT", 0x44, 0x0, 1, false, [MBX_STAT.BUSY, MBX_STAT.REPLY, MBX_STAT.NOTE, MBX_STAT.NOTE_LOST]⟩,
  ⟨"MBX_CFG", 0x48, 0x0, 1, true, [MBX_CFG.NOTE_EV]⟩,
  ⟨"MBX_NOTE_ACK", 0x4c, 0x0, 1, false, [MBX_NOTE_ACK.ACK]⟩,
  ⟨"MBX_CMDk", 0x100, 0x4, 64, false, [MBX_CMDk.DATA]⟩,
  ⟨"MBX_RSPk", 0x200, 0x4, 64, false, [MBX_RSPk.DATA]⟩,
  ⟨"MBX_NOTEk", 0x300, 0x4, 64, false, [MBX_NOTEk.DATA]⟩]

/-! ### dbg registers -/

def DBG_SHU_SEL.ENGINE : Fld := ⟨0x40, 0x0, 7, 0, .rw, 0⟩
def DBG_SHU_CMD.OP : Fld := ⟨0x44, 0x0, 1, 0, .wo, 0⟩
def DBG_SHU_CMD.STEP_INT : Fld := ⟨0x44, 0x0, 2, 2, .rw, 0⟩
def DBG_SHU_STAT.HALTED : Fld := ⟨0x48, 0x0, 0, 0, .ro, 0⟩
def DBG_SHU_STAT.PENDING : Fld := ⟨0x48, 0x0, 1, 1, .ro, 0⟩
def DBG_SHU_STAT.FORCED : Fld := ⟨0x48, 0x0, 2, 2, .rc, 0⟩
def DBG_SHU_STAT.PC : Fld := ⟨0x48, 0x0, 29, 16, .ro, 0⟩
def DBG_SHU_RSEL.REG : Fld := ⟨0x4c, 0x0, 5, 0, .rw, 0⟩
def DBG_SHU_RSEL.SPACE : Fld := ⟨0x4c, 0x0, 9, 8, .rw, 0⟩
def DBG_SHU_RSEL.ENTRY : Fld := ⟨0x4c, 0x0, 13, 10, .rw, 0⟩
def DBG_SHU_RVAL_LO.VALUE : Fld := ⟨0x50, 0x0, 31, 0, .rw, 0⟩
def DBG_SHU_RVAL_HI.VALUE : Fld := ⟨0x54, 0x0, 31, 0, .rw, 0⟩
def DBG_SEQ_SEL.SEQ : Fld := ⟨0x60, 0x0, 3, 0, .rw, 0⟩
def DBG_SEQ_CMD.OP : Fld := ⟨0x64, 0x0, 1, 0, .wo, 0⟩
def DBG_SEQ_STAT.HALTED : Fld := ⟨0x68, 0x0, 15, 0, .ro, 0⟩
def DBG_SEQ_STAT.TOUCHED : Fld := ⟨0x68, 0x0, 31, 16, .ro, 0⟩
def DBG_SEQ_ENT.ENTRY : Fld := ⟨0x6c, 0x0, 3, 0, .rw, 0⟩
def DBG_SEQ_ENT.STACK : Fld := ⟨0x6c, 0x0, 4, 4, .rw, 0⟩
def DBG_SEQ_VAL.VALUE : Fld := ⟨0x70, 0x0, 31, 0, .ro, 0⟩

/-- The dbg registers. -/
def rowsDbg : List RegRow := [
  ⟨"DBG_SHU_SEL", 0x40, 0x0, 1, false, [DBG_SHU_SEL.ENGINE]⟩,
  ⟨"DBG_SHU_CMD", 0x44, 0x0, 1, false, [DBG_SHU_CMD.OP, DBG_SHU_CMD.STEP_INT]⟩,
  ⟨"DBG_SHU_STAT", 0x48, 0x0, 1, false, [DBG_SHU_STAT.HALTED, DBG_SHU_STAT.PENDING, DBG_SHU_STAT.FORCED, DBG_SHU_STAT.PC]⟩,
  ⟨"DBG_SHU_RSEL", 0x4c, 0x0, 1, false, [DBG_SHU_RSEL.REG, DBG_SHU_RSEL.SPACE, DBG_SHU_RSEL.ENTRY]⟩,
  ⟨"DBG_SHU_RVAL_LO", 0x50, 0x0, 1, false, [DBG_SHU_RVAL_LO.VALUE]⟩,
  ⟨"DBG_SHU_RVAL_HI", 0x54, 0x0, 1, false, [DBG_SHU_RVAL_HI.VALUE]⟩,
  ⟨"DBG_SEQ_SEL", 0x60, 0x0, 1, false, [DBG_SEQ_SEL.SEQ]⟩,
  ⟨"DBG_SEQ_CMD", 0x64, 0x0, 1, false, [DBG_SEQ_CMD.OP]⟩,
  ⟨"DBG_SEQ_STAT", 0x68, 0x0, 1, false, [DBG_SEQ_STAT.HALTED, DBG_SEQ_STAT.TOUCHED]⟩,
  ⟨"DBG_SEQ_ENT", 0x6c, 0x0, 1, false, [DBG_SEQ_ENT.ENTRY, DBG_SEQ_ENT.STACK]⟩,
  ⟨"DBG_SEQ_VAL", 0x70, 0x0, 1, false, [DBG_SEQ_VAL.VALUE]⟩]

/-! ### alm registers -/

def HUB_ALM_PEND.CLASS : Fld := ⟨0x40, 0x0, 6, 0, .w1c, 0⟩
def HUB_ALM_PIN_EN.PAGE : Fld := ⟨0x44, 0x0, 0, 0, .rw, 1⟩
def HUB_ALM_PIN_EN.FIXED1 : Fld := ⟨0x44, 0x0, 3, 1, .ro, 7⟩
def HUB_ALM_PIN_EN.POWER : Fld := ⟨0x44, 0x0, 4, 4, .rw, 1⟩
def HUB_ALM_PIN_EN.BOOT : Fld := ⟨0x44, 0x0, 5, 5, .ro, 1⟩
def HUB_ALM_PIN_EN.SCRUB : Fld := ⟨0x44, 0x0, 6, 6, .rw, 1⟩
def HUB_ALM_LEVEL.PIN : Fld := ⟨0x48, 0x0, 0, 0, .ro, 0⟩
def HUB_ALM_LEVEL.BOOT : Fld := ⟨0x48, 0x0, 1, 1, .ro, 0⟩
def HUB_ALM_LOG_LEVEL.COUNT : Fld := ⟨0x4c, 0x0, 6, 0, .ro, 0⟩
def HUB_ALM_LOG_LEVEL.REPEATS : Fld := ⟨0x4c, 0x0, 15, 8, .ro, 0⟩
def HUB_ALM_LOG_LEVEL.LOST : Fld := ⟨0x4c, 0x0, 31, 16, .ro, 0⟩
def HUB_ALM_LOG_SEL.INDEX : Fld := ⟨0x50, 0x0, 5, 0, .rw, 0⟩
def HUB_ALM_CMD.OP : Fld := ⟨0x54, 0x0, 1, 0, .wo, 0⟩
def HUB_ALM_HB.MISSED : Fld := ⟨0x58, 0x0, 3, 0, .ro, 0⟩
def HUB_ALM_ENT.PAGE : Fld := ⟨0x80, 0x0, 11, 0, .ro, 0⟩
def HUB_ALM_ENT.CLASS : Fld := ⟨0x80, 0x0, 14, 12, .ro, 0⟩
def HUB_ALM_ENT.BIT : Fld := ⟨0x80, 0x0, 20, 16, .ro, 0⟩
def HUB_ALM_ENT.NOBIT : Fld := ⟨0x80, 0x0, 21, 21, .ro, 0⟩
def HUB_ALM_ENT.DIE : Fld := ⟨0x80, 0x0, 26, 24, .ro, 0⟩
def HUB_ALM_ENT.VALID : Fld := ⟨0x80, 0x0, 31, 31, .ro, 0⟩
def HUB_ALM_ENT_T_LO.TIME : Fld := ⟨0x84, 0x0, 31, 0, .ro, 0⟩
def HUB_ALM_ENT_T_HI.TIME : Fld := ⟨0x88, 0x0, 31, 0, .ro, 0⟩

/-- The alm registers. -/
def rowsAlm : List RegRow := [
  ⟨"HUB_ALM_PEND", 0x40, 0x0, 1, false, [HUB_ALM_PEND.CLASS]⟩,
  ⟨"HUB_ALM_PIN_EN", 0x44, 0x0, 1, true, [HUB_ALM_PIN_EN.PAGE, HUB_ALM_PIN_EN.FIXED1, HUB_ALM_PIN_EN.POWER, HUB_ALM_PIN_EN.BOOT, HUB_ALM_PIN_EN.SCRUB]⟩,
  ⟨"HUB_ALM_LEVEL", 0x48, 0x0, 1, false, [HUB_ALM_LEVEL.PIN, HUB_ALM_LEVEL.BOOT]⟩,
  ⟨"HUB_ALM_LOG_LEVEL", 0x4c, 0x0, 1, false, [HUB_ALM_LOG_LEVEL.COUNT, HUB_ALM_LOG_LEVEL.REPEATS, HUB_ALM_LOG_LEVEL.LOST]⟩,
  ⟨"HUB_ALM_LOG_SEL", 0x50, 0x0, 1, false, [HUB_ALM_LOG_SEL.INDEX]⟩,
  ⟨"HUB_ALM_CMD", 0x54, 0x0, 1, false, [HUB_ALM_CMD.OP]⟩,
  ⟨"HUB_ALM_HB", 0x58, 0x0, 1, false, [HUB_ALM_HB.MISSED]⟩,
  ⟨"HUB_ALM_ENT", 0x80, 0x0, 1, false, [HUB_ALM_ENT.PAGE, HUB_ALM_ENT.CLASS, HUB_ALM_ENT.BIT, HUB_ALM_ENT.NOBIT, HUB_ALM_ENT.DIE, HUB_ALM_ENT.VALID]⟩,
  ⟨"HUB_ALM_ENT_T_LO", 0x84, 0x0, 1, false, [HUB_ALM_ENT_T_LO.TIME]⟩,
  ⟨"HUB_ALM_ENT_T_HI", 0x88, 0x0, 1, false, [HUB_ALM_ENT_T_HI.TIME]⟩]

/-! ### time registers -/

def TIME_NOW_LO.TIME : Fld := ⟨0x40, 0x0, 31, 0, .ro, 0⟩
def TIME_NOW_HI.TIME : Fld := ⟨0x44, 0x0, 31, 0, .ro, 0⟩
def TIME_STAT.VALID : Fld := ⟨0x48, 0x0, 0, 0, .ro, 0⟩
def TIME_STAT.HOLDOVER : Fld := ⟨0x48, 0x0, 1, 1, .ro, 0⟩
def TIME_STAT.SUSPECT : Fld := ⟨0x48, 0x0, 2, 2, .ro, 0⟩
def TIME_STAT.TOO_DEEP : Fld := ⟨0x48, 0x0, 3, 3, .ro, 0⟩
def TIME_STAT.ALT_ACTIVE : Fld := ⟨0x48, 0x0, 4, 4, .ro, 0⟩
def TIME_STAT.ACTIVE_PORT : Fld := ⟨0x48, 0x0, 11, 8, .ro, 0⟩
def TIME_STAT.DEPTH : Fld := ⟨0x48, 0x0, 21, 16, .ro, 0x3f⟩
def TIME_PARENT.PRIMARY : Fld := ⟨0x4c, 0x0, 3, 0, .rws, 0⟩
def TIME_PARENT.ALTERNATE : Fld := ⟨0x4c, 0x0, 7, 4, .rws, 0⟩
def TIME_PARENT.ALT_EN : Fld := ⟨0x4c, 0x0, 8, 8, .rws, 0⟩
def TIME_SLEW.RATE : Fld := ⟨0x50, 0x0, 4, 0, .rw, 4⟩
def TIME_SLEW.OPEN : Fld := ⟨0x50, 0x0, 15, 8, .rw, 0x10⟩
def TIME_SLEW.CLOSE : Fld := ⟨0x50, 0x0, 23, 16, .rw, 4⟩
def TIME_OFFSET.THETA : Fld := ⟨0x54, 0x0, 15, 0, .ro, 0⟩
def TIME_OFFSET.COUNT : Fld := ⟨0x54, 0x0, 31, 16, .ro, 0⟩
def TIME_SUSP_START_LO.TIME : Fld := ⟨0x58, 0x0, 31, 0, .ro, 0⟩
def TIME_SUSP_START_HI.TIME : Fld := ⟨0x5c, 0x0, 31, 0, .ro, 0⟩
def TIME_SUSP_END_LO.TIME : Fld := ⟨0x60, 0x0, 31, 0, .ro, 0⟩
def TIME_SUSP_END_HI.TIME : Fld := ⟨0x64, 0x0, 31, 0, .ro, 0⟩
def TIME_TRIMp.ASYM : Fld := ⟨0x80, 0x4, 15, 0, .rws, 0⟩
def TIME_DELAYp.DFWD : Fld := ⟨0xc0, 0x4, 23, 0, .ro, 0⟩
def TIME_DELAYp.VALID : Fld := ⟨0xc0, 0x4, 31, 31, .ro, 0⟩
def TIME_LNCH_T_LO.T : Fld := ⟨0x100, 0x0, 31, 0, .rw, 0⟩
def TIME_LNCH_T_HI.T : Fld := ⟨0x104, 0x0, 31, 0, .rw, 0⟩
def TIME_LNCH_ACT.ACTION : Fld := ⟨0x108, 0x0, 2, 0, .rw, 0⟩
def TIME_LNCH_ACT.FULL_LOAD : Fld := ⟨0x108, 0x0, 3, 3, .rw, 0⟩
def TIME_LNCH_ACT.EVENT : Fld := ⟨0x108, 0x0, 7, 4, .rw, 0⟩
def TIME_LNCH_ARG.ARG : Fld := ⟨0x10c, 0x0, 31, 0, .rw, 0⟩
def TIME_LNCH_CMD.OP : Fld := ⟨0x110, 0x0, 1, 0, .wo, 0⟩
def TIME_LNCH_CMD.INDEX : Fld := ⟨0x110, 0x0, 25, 16, .wo, 0⟩
def TIME_LNCH_CMD.GEN : Fld := ⟨0x110, 0x0, 31, 26, .wo, 0⟩
def TIME_LNCH_RES.STATUS : Fld := ⟨0x114, 0x0, 2, 0, .ro, 0⟩
def TIME_LNCH_RES.INDEX : Fld := ⟨0x114, 0x0, 25, 16, .ro, 0⟩
def TIME_LNCH_RES.GEN : Fld := ⟨0x114, 0x0, 31, 26, .ro, 0⟩
def TIME_LNCH_USED.USED : Fld := ⟨0x118, 0x0, 10, 0, .ro, 0⟩
def TIME_LNCH_USED.MISSED : Fld := ⟨0x118, 0x0, 31, 16, .rc, 0⟩
def TIME_EVT.EVT : Fld := ⟨0x11c, 0x0, 15, 0, .rc, 0⟩
def TIME_EVT_HOST.FWD : Fld := ⟨0x120, 0x0, 15, 0, .rw, 0⟩

/-- The time registers. -/
def rowsTime : List RegRow := [
  ⟨"TIME_NOW_LO", 0x40, 0x0, 1, false, [TIME_NOW_LO.TIME]⟩,
  ⟨"TIME_NOW_HI", 0x44, 0x0, 1, false, [TIME_NOW_HI.TIME]⟩,
  ⟨"TIME_STAT", 0x48, 0x0, 1, false, [TIME_STAT.VALID, TIME_STAT.HOLDOVER, TIME_STAT.SUSPECT, TIME_STAT.TOO_DEEP, TIME_STAT.ALT_ACTIVE, TIME_STAT.ACTIVE_PORT, TIME_STAT.DEPTH]⟩,
  ⟨"TIME_PARENT", 0x4c, 0x0, 1, true, [TIME_PARENT.PRIMARY, TIME_PARENT.ALTERNATE, TIME_PARENT.ALT_EN]⟩,
  ⟨"TIME_SLEW", 0x50, 0x0, 1, true, [TIME_SLEW.RATE, TIME_SLEW.OPEN, TIME_SLEW.CLOSE]⟩,
  ⟨"TIME_OFFSET", 0x54, 0x0, 1, false, [TIME_OFFSET.THETA, TIME_OFFSET.COUNT]⟩,
  ⟨"TIME_SUSP_START_LO", 0x58, 0x0, 1, false, [TIME_SUSP_START_LO.TIME]⟩,
  ⟨"TIME_SUSP_START_HI", 0x5c, 0x0, 1, false, [TIME_SUSP_START_HI.TIME]⟩,
  ⟨"TIME_SUSP_END_LO", 0x60, 0x0, 1, false, [TIME_SUSP_END_LO.TIME]⟩,
  ⟨"TIME_SUSP_END_HI", 0x64, 0x0, 1, false, [TIME_SUSP_END_HI.TIME]⟩,
  ⟨"TIME_TRIMp", 0x80, 0x4, 16, true, [TIME_TRIMp.ASYM]⟩,
  ⟨"TIME_DELAYp", 0xc0, 0x4, 16, false, [TIME_DELAYp.DFWD, TIME_DELAYp.VALID]⟩,
  ⟨"TIME_LNCH_T_LO", 0x100, 0x0, 1, false, [TIME_LNCH_T_LO.T]⟩,
  ⟨"TIME_LNCH_T_HI", 0x104, 0x0, 1, false, [TIME_LNCH_T_HI.T]⟩,
  ⟨"TIME_LNCH_ACT", 0x108, 0x0, 1, false, [TIME_LNCH_ACT.ACTION, TIME_LNCH_ACT.FULL_LOAD, TIME_LNCH_ACT.EVENT]⟩,
  ⟨"TIME_LNCH_ARG", 0x10c, 0x0, 1, false, [TIME_LNCH_ARG.ARG]⟩,
  ⟨"TIME_LNCH_CMD", 0x110, 0x0, 1, false, [TIME_LNCH_CMD.OP, TIME_LNCH_CMD.INDEX, TIME_LNCH_CMD.GEN]⟩,
  ⟨"TIME_LNCH_RES", 0x114, 0x0, 1, false, [TIME_LNCH_RES.STATUS, TIME_LNCH_RES.INDEX, TIME_LNCH_RES.GEN]⟩,
  ⟨"TIME_LNCH_USED", 0x118, 0x0, 1, false, [TIME_LNCH_USED.USED, TIME_LNCH_USED.MISSED]⟩,
  ⟨"TIME_EVT", 0x11c, 0x0, 1, false, [TIME_EVT.EVT]⟩,
  ⟨"TIME_EVT_HOST", 0x120, 0x0, 1, true, [TIME_EVT_HOST.FWD]⟩]

/-! ### clkSel registers -/

def CLK_ROOT_STAT.PLL_LOCK : Fld := ⟨0x40, 0x0, 0, 0, .ro, 0⟩
def CLK_ROOT_STAT.JUDGED : Fld := ⟨0x40, 0x0, 1, 1, .ro, 0⟩
def CLK_ROOT_STAT.HOLDOVER : Fld := ⟨0x40, 0x0, 2, 2, .ro, 0⟩
def CLK_ROOT_STAT.GATED : Fld := ⟨0x40, 0x0, 3, 3, .ro, 0⟩
def CLK_ROOT_STAT.REF_PORT : Fld := ⟨0x40, 0x0, 7, 4, .ro, 0⟩
def CLK_ROOT_STAT.WINDOWS : Fld := ⟨0x40, 0x0, 12, 8, .ro, 0⟩
def CLK_ROOT_STAT.DEV : Fld := ⟨0x40, 0x0, 31, 16, .ro, 0⟩
def CLK_ROOT_CW.CW : Fld := ⟨0x44, 0x0, 23, 0, .ro, 0⟩
def CLK_ROOT_CTL.UNGATE : Fld := ⟨0x48, 0x0, 0, 0, .w1s, 0⟩

/-- The clkSel registers. -/
def rowsClkSel : List RegRow := [
  ⟨"CLK_ROOT_STAT", 0x40, 0x0, 1, false, [CLK_ROOT_STAT.PLL_LOCK, CLK_ROOT_STAT.JUDGED, CLK_ROOT_STAT.HOLDOVER, CLK_ROOT_STAT.GATED, CLK_ROOT_STAT.REF_PORT, CLK_ROOT_STAT.WINDOWS, CLK_ROOT_STAT.DEV]⟩,
  ⟨"CLK_ROOT_CW", 0x44, 0x0, 1, false, [CLK_ROOT_CW.CW]⟩,
  ⟨"CLK_ROOT_CTL", 0x48, 0x0, 1, false, [CLK_ROOT_CTL.UNGATE]⟩]

/-! ### clkPnl registers -/

def CLK_PNL_STAT.MULT_LOCK : Fld := ⟨0x40, 0x0, 0, 0, .ro, 0⟩
def CLK_PNL_STAT.REF_OK : Fld := ⟨0x40, 0x0, 1, 1, .ro, 0⟩
def CLK_UCLKn.DIV : Fld := ⟨0x80, 0x4, 12, 0, .rws, 0x18⟩
def CLK_UCLKn.EN : Fld := ⟨0x80, 0x4, 15, 15, .rws, 0⟩

/-- The clkPnl registers. -/
def rowsClkPnl : List RegRow := [
  ⟨"CLK_PNL_STAT", 0x40, 0x0, 1, false, [CLK_PNL_STAT.MULT_LOCK, CLK_PNL_STAT.REF_OK]⟩,
  ⟨"CLK_UCLKn", 0x80, 0x4, 8, true, [CLK_UCLKn.DIV, CLK_UCLKn.EN]⟩]

/-! ### pwr registers -/

def PWR_LAST_REF.DOMAIN : Fld := ⟨0x44, 0x0, 7, 0, .ro, 0⟩
def PWR_LAST_REF.REASON : Fld := ⟨0x44, 0x0, 10, 8, .ro, 0⟩
def PWR_LAST_REF.VALID : Fld := ⟨0x44, 0x0, 31, 31, .rc, 0⟩
def PWR_BROWN.DOMAIN : Fld := ⟨0x48, 0x0, 7, 0, .ro, 0⟩
def PWR_BROWN.KIND : Fld := ⟨0x48, 0x0, 8, 8, .ro, 0⟩
def PWR_BROWN.COUNT : Fld := ⟨0x48, 0x0, 31, 16, .rc, 0⟩
def PWR_BROWN_T_LO.TIME : Fld := ⟨0x4c, 0x0, 31, 0, .ro, 0⟩
def PWR_BROWN_T_HI.TIME : Fld := ⟨0x50, 0x0, 31, 0, .ro, 0⟩
def PWR_THERM.LIMIT : Fld := ⟨0x54, 0x0, 7, 0, .rw, 0x64⟩
def PWR_THERM.HYST : Fld := ⟨0x54, 0x0, 15, 8, .rw, 5⟩
def PWR_TEMPn.TEMP : Fld := ⟨0x60, 0x4, 7, 0, .ro, 0⟩
def PWR_TEMPn.PEAK : Fld := ⟨0x60, 0x4, 15, 8, .ro, 0⟩
def PWR_NAP_CFG.EN : Fld := ⟨0x80, 0x0, 0, 0, .rw, 0⟩
def PWR_NAP_CFG.AUTO_WAKE : Fld := ⟨0x80, 0x0, 1, 1, .rw, 1⟩
def PWR_NAP_CFG.VTOL : Fld := ⟨0x80, 0x0, 15, 8, .rw, 4⟩
def PWR_NAP_CFG.PERIOD : Fld := ⟨0x80, 0x0, 31, 16, .rw, 0x64⟩
def PWR_NAP_TLIM.HI : Fld := ⟨0x84, 0x0, 7, 0, .rw, 0x5f⟩
def PWR_NAP_TLIM.LO : Fld := ⟨0x84, 0x0, 15, 8, .rw, 0⟩
def PWR_NAP_SDMASK_LO.QUADS : Fld := ⟨0x88, 0x0, 31, 0, .rw, 0xffffffff⟩
def PWR_NAP_SDMASK_HI.QUADS : Fld := ⟨0x8c, 0x0, 15, 0, .rw, 0xffff⟩
def PWR_NAP_SDREF_LO.QUADS : Fld := ⟨0x90, 0x0, 31, 0, .ro, 0⟩
def PWR_NAP_SDREF_HI.QUADS : Fld := ⟨0x94, 0x0, 15, 0, .ro, 0⟩
def PWR_NAP_EVT.SD : Fld := ⟨0x98, 0x0, 0, 0, .rc, 0⟩
def PWR_NAP_EVT.TEMP_HI : Fld := ⟨0x98, 0x0, 1, 1, .rc, 0⟩
def PWR_NAP_EVT.TEMP_LO : Fld := ⟨0x98, 0x0, 2, 2, .rc, 0⟩
def PWR_NAP_EVT.VOLT : Fld := ⟨0x98, 0x0, 3, 3, .rc, 0⟩
def PWR_NAP_EVT.DIE : Fld := ⟨0x98, 0x0, 15, 8, .ro, 0⟩
def PWR_NAP_EVT.DOMAIN : Fld := ⟨0x98, 0x0, 23, 16, .ro, 0⟩
def PWR_NAP_COUNT.COUNT : Fld := ⟨0x9c, 0x0, 31, 0, .ro, 0⟩
def PWR_Dd.REQ : Fld := ⟨0x400, 0x4, 1, 0, .rws, 0⟩
def PWR_Dd.STATE : Fld := ⟨0x400, 0x4, 5, 4, .ro, 0⟩
def PWR_Dd.MOVING : Fld := ⟨0x400, 0x4, 6, 6, .ro, 0⟩
def PWR_Dd.LOWI : Fld := ⟨0x400, 0x4, 7, 7, .rws, 0⟩
def PWR_Dd.VSET : Fld := ⟨0x400, 0x4, 15, 8, .rws, 0x14⟩
def PWR_Dd.CURRENT : Fld := ⟨0x400, 0x4, 27, 16, .ro, 0⟩
def PWR_Dd.EMUL : Fld := ⟨0x400, 0x4, 28, 28, .ro, 0⟩

/-- The pwr registers. -/
def rowsPwr : List RegRow := [
  ⟨"PWR_LAST_REF", 0x44, 0x0, 1, false, [PWR_LAST_REF.DOMAIN, PWR_LAST_REF.REASON, PWR_LAST_REF.VALID]⟩,
  ⟨"PWR_BROWN", 0x48, 0x0, 1, false, [PWR_BROWN.DOMAIN, PWR_BROWN.KIND, PWR_BROWN.COUNT]⟩,
  ⟨"PWR_BROWN_T_LO", 0x4c, 0x0, 1, false, [PWR_BROWN_T_LO.TIME]⟩,
  ⟨"PWR_BROWN_T_HI", 0x50, 0x0, 1, false, [PWR_BROWN_T_HI.TIME]⟩,
  ⟨"PWR_THERM", 0x54, 0x0, 1, true, [PWR_THERM.LIMIT, PWR_THERM.HYST]⟩,
  ⟨"PWR_TEMPn", 0x60, 0x4, 5, false, [PWR_TEMPn.TEMP, PWR_TEMPn.PEAK]⟩,
  ⟨"PWR_NAP_CFG", 0x80, 0x0, 1, true, [PWR_NAP_CFG.EN, PWR_NAP_CFG.AUTO_WAKE, PWR_NAP_CFG.VTOL, PWR_NAP_CFG.PERIOD]⟩,
  ⟨"PWR_NAP_TLIM", 0x84, 0x0, 1, true, [PWR_NAP_TLIM.HI, PWR_NAP_TLIM.LO]⟩,
  ⟨"PWR_NAP_SDMASK_LO", 0x88, 0x0, 1, true, [PWR_NAP_SDMASK_LO.QUADS]⟩,
  ⟨"PWR_NAP_SDMASK_HI", 0x8c, 0x0, 1, true, [PWR_NAP_SDMASK_HI.QUADS]⟩,
  ⟨"PWR_NAP_SDREF_LO", 0x90, 0x0, 1, false, [PWR_NAP_SDREF_LO.QUADS]⟩,
  ⟨"PWR_NAP_SDREF_HI", 0x94, 0x0, 1, false, [PWR_NAP_SDREF_HI.QUADS]⟩,
  ⟨"PWR_NAP_EVT", 0x98, 0x0, 1, false, [PWR_NAP_EVT.SD, PWR_NAP_EVT.TEMP_HI, PWR_NAP_EVT.TEMP_LO, PWR_NAP_EVT.VOLT, PWR_NAP_EVT.DIE, PWR_NAP_EVT.DOMAIN]⟩,
  ⟨"PWR_NAP_COUNT", 0x9c, 0x0, 1, false, [PWR_NAP_COUNT.COUNT]⟩,
  ⟨"PWR_Dd", 0x400, 0x4, 256, true, [PWR_Dd.REQ, PWR_Dd.STATE, PWR_Dd.MOVING, PWR_Dd.LOWI, PWR_Dd.VSET, PWR_Dd.CURRENT, PWR_Dd.EMUL]⟩]

/-! ### cfg registers -/

def CFG_CTL.STREAM_EN : Fld := ⟨0x40, 0x0, 0, 0, .rw, 1⟩
def CFG_CTL.HOST_EV : Fld := ⟨0x40, 0x0, 1, 1, .rw, 1⟩
def CFG_CTL.CLR_ERR : Fld := ⟨0x40, 0x0, 2, 2, .w1s, 0⟩
def CFG_CTL.TIMEOUT : Fld := ⟨0x40, 0x0, 15, 8, .rw, 0x64⟩
def CFG_STAT.STATE : Fld := ⟨0x44, 0x0, 1, 0, .ro, 0⟩
def CFG_STAT.CAUSE : Fld := ⟨0x44, 0x0, 7, 4, .ro, 0⟩
def CFG_STAT.REGION : Fld := ⟨0x44, 0x0, 12, 8, .ro, 0⟩
def CFG_STAT.FULL : Fld := ⟨0x44, 0x0, 13, 13, .ro, 0⟩
def CFG_STAT.ERR : Fld := ⟨0x44, 0x0, 14, 14, .ro, 0⟩
def CFG_BLK.DONE : Fld := ⟨0x48, 0x0, 13, 0, .ro, 0⟩
def CFG_BLK.NBLK : Fld := ⟨0x48, 0x0, 29, 16, .ro, 0⟩
def CFG_SKIPPED.COUNT : Fld := ⟨0x4c, 0x0, 31, 0, .rc, 0⟩
def CFG_SVN_MIN.SVN : Fld := ⟨0x50, 0x0, 31, 0, .rw, 0⟩
def CFG_PK_STAT.VALID : Fld := ⟨0x54, 0x0, 3, 0, .ro, 0⟩
def CFG_PK_STAT.REVOKED : Fld := ⟨0x54, 0x0, 7, 4, .ro, 0⟩
def CFG_REL_CFG.ORDER : Fld := ⟨0x58, 0x0, 2, 0, .rws, 0⟩
def CFG_REL_CFG.GAP : Fld := ⟨0x58, 0x0, 15, 8, .rws, 1⟩
def CFG_BASE.STATE : Fld := ⟨0x5c, 0x0, 11, 0, .ro, 0⟩
def CFG_POLICY.REGION : Fld := ⟨0x60, 0x0, 31, 0, .rws, 0⟩
def CFG_BASE_POLICY.BASE : Fld := ⟨0x64, 0x0, 3, 0, .rws, 0⟩
def CFG_REG_SEL.REGION : Fld := ⟨0x68, 0x0, 4, 0, .rw, 0⟩
def CFG_Rr_STAT.STATE : Fld := ⟨0x80, 0x4, 2, 0, .ro, 0⟩
def CFG_Rr_STAT.PANELS : Fld := ⟨0x80, 0x4, 11, 8, .ro, 0⟩
def CFG_MASKp_LO.TILES : Fld := ⟨0x100, 0x8, 31, 0, .ro, 0⟩
def CFG_MASKp_HI.TILES : Fld := ⟨0x104, 0x8, 31, 0, .ro, 0⟩

/-- The cfg registers. -/
def rowsCfg : List RegRow := [
  ⟨"CFG_CTL", 0x40, 0x0, 1, true, [CFG_CTL.STREAM_EN, CFG_CTL.HOST_EV, CFG_CTL.CLR_ERR, CFG_CTL.TIMEOUT]⟩,
  ⟨"CFG_STAT", 0x44, 0x0, 1, false, [CFG_STAT.STATE, CFG_STAT.CAUSE, CFG_STAT.REGION, CFG_STAT.FULL, CFG_STAT.ERR]⟩,
  ⟨"CFG_BLK", 0x48, 0x0, 1, false, [CFG_BLK.DONE, CFG_BLK.NBLK]⟩,
  ⟨"CFG_SKIPPED", 0x4c, 0x0, 1, false, [CFG_SKIPPED.COUNT]⟩,
  ⟨"CFG_SVN_MIN", 0x50, 0x0, 1, true, [CFG_SVN_MIN.SVN]⟩,
  ⟨"CFG_PK_STAT", 0x54, 0x0, 1, false, [CFG_PK_STAT.VALID, CFG_PK_STAT.REVOKED]⟩,
  ⟨"CFG_REL_CFG", 0x58, 0x0, 1, true, [CFG_REL_CFG.ORDER, CFG_REL_CFG.GAP]⟩,
  ⟨"CFG_BASE", 0x5c, 0x0, 1, false, [CFG_BASE.STATE]⟩,
  ⟨"CFG_POLICY", 0x60, 0x0, 1, true, [CFG_POLICY.REGION]⟩,
  ⟨"CFG_BASE_POLICY", 0x64, 0x0, 1, true, [CFG_BASE_POLICY.BASE]⟩,
  ⟨"CFG_REG_SEL", 0x68, 0x0, 1, false, [CFG_REG_SEL.REGION]⟩,
  ⟨"CFG_Rr_STAT", 0x80, 0x4, 32, false, [CFG_Rr_STAT.STATE, CFG_Rr_STAT.PANELS]⟩,
  ⟨"CFG_MASKp_LO", 0x100, 0x8, 4, false, [CFG_MASKp_LO.TILES]⟩,
  ⟨"CFG_MASKp_HI", 0x104, 0x8, 4, false, [CFG_MASKp_HI.TILES]⟩]

/-! ### drcMap registers -/

def DRC_MAP_STAT.BAD : Fld := ⟨0x40, 0x0, 15, 0, .ro, 0⟩
def DRC_WINw_BASE.VALUE : Fld := ⟨0x80, 0x10, 12, 0, .rws, 0⟩
def DRC_WINw_SIZE.VALUE : Fld := ⟨0x84, 0x10, 12, 0, .rws, 0⟩
def DRC_WINw_CFG.FIRST : Fld := ⟨0x88, 0x10, 2, 0, .rws, 0⟩
def DRC_WINw_CFG.WAYS : Fld := ⟨0x88, 0x10, 5, 4, .rws, 0⟩
def DRC_WINw_CFG.GRAIN : Fld := ⟨0x88, 0x10, 11, 8, .rws, 8⟩
def DRC_WINw_CFG.EN : Fld := ⟨0x88, 0x10, 15, 15, .rws, 0⟩
def DRC_WINw_OFF.OFF : Fld := ⟨0x8c, 0x10, 11, 0, .rws, 0⟩

/-- The drcMap registers. -/
def rowsDrcMap : List RegRow := [
  ⟨"DRC_MAP_STAT", 0x40, 0x0, 1, false, [DRC_MAP_STAT.BAD]⟩,
  ⟨"DRC_WINw_BASE", 0x80, 0x10, 16, true, [DRC_WINw_BASE.VALUE]⟩,
  ⟨"DRC_WINw_SIZE", 0x84, 0x10, 16, true, [DRC_WINw_SIZE.VALUE]⟩,
  ⟨"DRC_WINw_CFG", 0x88, 0x10, 16, true, [DRC_WINw_CFG.FIRST, DRC_WINw_CFG.WAYS, DRC_WINw_CFG.GRAIN, DRC_WINw_CFG.EN]⟩,
  ⟨"DRC_WINw_OFF", 0x8c, 0x10, 16, true, [DRC_WINw_OFF.OFF]⟩]

/-! ### drc registers -/

def DRC_CTL.TARGET : Fld := ⟨0x40, 0x0, 2, 0, .rws, 1⟩
def DRC_STAT.STATE : Fld := ⟨0x44, 0x0, 2, 0, .ro, 1⟩
def DRC_STAT.TRAIN_OK : Fld := ⟨0x44, 0x0, 3, 3, .ro, 0⟩
def DRC_STAT.TRAIN_FAIL : Fld := ⟨0x44, 0x0, 4, 4, .ro, 0⟩
def DRC_STAT.REFUSED : Fld := ⟨0x44, 0x0, 5, 5, .ro, 0⟩
def DRC_STAT.HOT : Fld := ⟨0x44, 0x0, 6, 6, .ro, 0⟩
def DRC_STAT.DIMMS : Fld := ⟨0x44, 0x0, 9, 8, .ro, 0⟩
def DRC_GEOM.BGB : Fld := ⟨0x48, 0x0, 1, 0, .rws, 3⟩
def DRC_GEOM.CB : Fld := ⟨0x48, 0x0, 5, 2, .rws, 7⟩
def DRC_GEOM.BKB : Fld := ⟨0x48, 0x0, 7, 6, .rws, 2⟩
def DRC_GEOM.RKB : Fld := ⟨0x48, 0x0, 10, 8, .rws, 0⟩
def DRC_GEOM.ROWB : Fld := ⟨0x48, 0x0, 15, 11, .rws, 0x10⟩
def DRC_GEOM.DPC : Fld := ⟨0x48, 0x0, 16, 16, .rws, 0⟩
def DRC_CAP.CREDITS : Fld := ⟨0x4c, 0x0, 10, 0, .ro, 0x400⟩
def DRC_CAP.RSV : Fld := ⟨0x4c, 0x0, 26, 16, .rws, 0x80⟩
def DRC_OPEN.IDLE : Fld := ⟨0x50, 0x0, 7, 0, .rws, 0x10⟩
def DRC_HAMMER.THRESH : Fld := ⟨0x54, 0x0, 15, 0, .rws, 0x800⟩
def DRC_HAMMER.DIST : Fld := ⟨0x54, 0x0, 16, 16, .rws, 0⟩
def DRC_HAMMER.RFM : Fld := ⟨0x54, 0x0, 17, 17, .rws, 1⟩
def DRC_HAMMER_STAT.TRIGGERS : Fld := ⟨0x58, 0x0, 15, 0, .rc, 0⟩
def DRC_HAMMER_STAT.THROTTLES : Fld := ⟨0x58, 0x0, 31, 16, .rc, 0⟩
def DRC_ECC_CFG.MARK_AT : Fld := ⟨0x5c, 0x0, 7, 0, .rws, 0x10⟩
def DRC_ECC_CFG.AUTO_MARK : Fld := ⟨0x5c, 0x0, 8, 8, .rws, 1⟩
def DRC_ECC_CFG.CORR_WB : Fld := ⟨0x5c, 0x0, 9, 9, .rws, 1⟩
def DRC_ECC_CFG.SCRUB_EN : Fld := ⟨0x5c, 0x0, 10, 10, .rws, 1⟩
def DRC_ECC_CNT.COUNT : Fld := ⟨0x60, 0x0, 31, 0, .ro, 0⟩
def DRC_UE_CNT.COUNT : Fld := ⟨0x64, 0x0, 31, 0, .ro, 0⟩
def DRC_ECC_SNAP.COUNT : Fld := ⟨0x68, 0x0, 31, 0, .ro, 0⟩
def DRC_UE_SNAP.COUNT : Fld := ⟨0x6c, 0x0, 31, 0, .ro, 0⟩
def DRC_LOG_LEVEL.COUNT : Fld := ⟨0x70, 0x0, 5, 0, .ro, 0⟩
def DRC_LOG_LEVEL.LOST : Fld := ⟨0x70, 0x0, 31, 16, .ro, 0⟩
def DRC_LOG_SEL.INDEX : Fld := ⟨0x74, 0x0, 4, 0, .rw, 0⟩
def DRC_CMD.OP : Fld := ⟨0x78, 0x0, 1, 0, .wo, 0⟩
def DRC_SCRUB.PASSES : Fld := ⟨0x7c, 0x0, 15, 0, .ro, 0⟩
def DRC_ERASEx.CHIP : Fld := ⟨0x80, 0x4, 3, 0, .rws, 0⟩
def DRC_ERASEx.VALID : Fld := ⟨0x80, 0x4, 7, 7, .rws, 0⟩
def DRC_FLIP0.MASK : Fld := ⟨0x100, 0x0, 31, 0, .rw, 0⟩
def DRC_FLIP1.MASK : Fld := ⟨0x104, 0x0, 31, 0, .rw, 0⟩
def DRC_FLIP2.MASK : Fld := ⟨0x108, 0x0, 15, 0, .rw, 0⟩
def DRC_FLIP_CTL.SUB : Fld := ⟨0x10c, 0x0, 0, 0, .rw, 0⟩
def DRC_FLIP_CTL.ARM : Fld := ⟨0x10c, 0x0, 1, 1, .w1s, 0⟩
def DRC_FLIP_CTL.ARMED : Fld := ⟨0x10c, 0x0, 2, 2, .ro, 0⟩
def DRC_FLIP_ADDR_LO.CA : Fld := ⟨0x110, 0x0, 31, 0, .ro, 0⟩
def DRC_FLIP_ADDR_HI.CA : Fld := ⟨0x114, 0x0, 31, 0, .ro, 0⟩
def DRC_LOG_ADDR_LO.CA : Fld := ⟨0x180, 0x0, 31, 0, .ro, 0⟩
def DRC_LOG_ADDR_HI.CA : Fld := ⟨0x184, 0x0, 31, 0, .ro, 0⟩
def DRC_LOG_LOC.SUB : Fld := ⟨0x188, 0x0, 0, 0, .ro, 0⟩
def DRC_LOG_LOC.RANK : Fld := ⟨0x188, 0x0, 4, 1, .ro, 0⟩
def DRC_LOG_LOC.BG : Fld := ⟨0x188, 0x0, 7, 5, .ro, 0⟩
def DRC_LOG_LOC.BANK : Fld := ⟨0x188, 0x0, 9, 8, .ro, 0⟩
def DRC_LOG_LOC.CHIP : Fld := ⟨0x188, 0x0, 13, 10, .ro, 0⟩
def DRC_LOG_LOC.KIND : Fld := ⟨0x188, 0x0, 15, 14, .ro, 0⟩
def DRC_LOG_LOC.COL : Fld := ⟨0x188, 0x0, 23, 16, .ro, 0⟩
def DRC_LOG_LOC.CW : Fld := ⟨0x188, 0x0, 26, 24, .ro, 0⟩
def DRC_LOG_ROW.ROW : Fld := ⟨0x18c, 0x0, 17, 0, .ro, 0⟩
def DRC_LOG_TIME_LO.TIME : Fld := ⟨0x190, 0x0, 31, 0, .ro, 0⟩
def DRC_LOG_TIME_HI.TIME : Fld := ⟨0x194, 0x0, 31, 0, .ro, 0⟩

/-- The drc registers. -/
def rowsDrc : List RegRow := [
  ⟨"DRC_CTL", 0x40, 0x0, 1, true, [DRC_CTL.TARGET]⟩,
  ⟨"DRC_STAT", 0x44, 0x0, 1, false, [DRC_STAT.STATE, DRC_STAT.TRAIN_OK, DRC_STAT.TRAIN_FAIL, DRC_STAT.REFUSED, DRC_STAT.HOT, DRC_STAT.DIMMS]⟩,
  ⟨"DRC_GEOM", 0x48, 0x0, 1, true, [DRC_GEOM.BGB, DRC_GEOM.CB, DRC_GEOM.BKB, DRC_GEOM.RKB, DRC_GEOM.ROWB, DRC_GEOM.DPC]⟩,
  ⟨"DRC_CAP", 0x4c, 0x0, 1, true, [DRC_CAP.CREDITS, DRC_CAP.RSV]⟩,
  ⟨"DRC_OPEN", 0x50, 0x0, 1, true, [DRC_OPEN.IDLE]⟩,
  ⟨"DRC_HAMMER", 0x54, 0x0, 1, true, [DRC_HAMMER.THRESH, DRC_HAMMER.DIST, DRC_HAMMER.RFM]⟩,
  ⟨"DRC_HAMMER_STAT", 0x58, 0x0, 1, false, [DRC_HAMMER_STAT.TRIGGERS, DRC_HAMMER_STAT.THROTTLES]⟩,
  ⟨"DRC_ECC_CFG", 0x5c, 0x0, 1, true, [DRC_ECC_CFG.MARK_AT, DRC_ECC_CFG.AUTO_MARK, DRC_ECC_CFG.CORR_WB, DRC_ECC_CFG.SCRUB_EN]⟩,
  ⟨"DRC_ECC_CNT", 0x60, 0x0, 1, false, [DRC_ECC_CNT.COUNT]⟩,
  ⟨"DRC_UE_CNT", 0x64, 0x0, 1, false, [DRC_UE_CNT.COUNT]⟩,
  ⟨"DRC_ECC_SNAP", 0x68, 0x0, 1, false, [DRC_ECC_SNAP.COUNT]⟩,
  ⟨"DRC_UE_SNAP", 0x6c, 0x0, 1, false, [DRC_UE_SNAP.COUNT]⟩,
  ⟨"DRC_LOG_LEVEL", 0x70, 0x0, 1, false, [DRC_LOG_LEVEL.COUNT, DRC_LOG_LEVEL.LOST]⟩,
  ⟨"DRC_LOG_SEL", 0x74, 0x0, 1, false, [DRC_LOG_SEL.INDEX]⟩,
  ⟨"DRC_CMD", 0x78, 0x0, 1, false, [DRC_CMD.OP]⟩,
  ⟨"DRC_SCRUB", 0x7c, 0x0, 1, false, [DRC_SCRUB.PASSES]⟩,
  ⟨"DRC_ERASEx", 0x80, 0x4, 32, true, [DRC_ERASEx.CHIP, DRC_ERASEx.VALID]⟩,
  ⟨"DRC_FLIP0", 0x100, 0x0, 1, false, [DRC_FLIP0.MASK]⟩,
  ⟨"DRC_FLIP1", 0x104, 0x0, 1, false, [DRC_FLIP1.MASK]⟩,
  ⟨"DRC_FLIP2", 0x108, 0x0, 1, false, [DRC_FLIP2.MASK]⟩,
  ⟨"DRC_FLIP_CTL", 0x10c, 0x0, 1, false, [DRC_FLIP_CTL.SUB, DRC_FLIP_CTL.ARM, DRC_FLIP_CTL.ARMED]⟩,
  ⟨"DRC_FLIP_ADDR_LO", 0x110, 0x0, 1, false, [DRC_FLIP_ADDR_LO.CA]⟩,
  ⟨"DRC_FLIP_ADDR_HI", 0x114, 0x0, 1, false, [DRC_FLIP_ADDR_HI.CA]⟩,
  ⟨"DRC_LOG_ADDR_LO", 0x180, 0x0, 1, false, [DRC_LOG_ADDR_LO.CA]⟩,
  ⟨"DRC_LOG_ADDR_HI", 0x184, 0x0, 1, false, [DRC_LOG_ADDR_HI.CA]⟩,
  ⟨"DRC_LOG_LOC", 0x188, 0x0, 1, false, [DRC_LOG_LOC.SUB, DRC_LOG_LOC.RANK, DRC_LOG_LOC.BG, DRC_LOG_LOC.BANK, DRC_LOG_LOC.CHIP, DRC_LOG_LOC.KIND, DRC_LOG_LOC.COL, DRC_LOG_LOC.CW]⟩,
  ⟨"DRC_LOG_ROW", 0x18c, 0x0, 1, false, [DRC_LOG_ROW.ROW]⟩,
  ⟨"DRC_LOG_TIME_LO", 0x190, 0x0, 1, false, [DRC_LOG_TIME_LO.TIME]⟩,
  ⟨"DRC_LOG_TIME_HI", 0x194, 0x0, 1, false, [DRC_LOG_TIME_HI.TIME]⟩]

/-! ### lin registers -/

def LIN_CMD.OP : Fld := ⟨0x40, 0x0, 1, 0, .wo, 0⟩
def LIN_CMD.REGION : Fld := ⟨0x40, 0x0, 11, 8, .wo, 0⟩
def LIN_CMD_STAT.STATUS : Fld := ⟨0x44, 0x0, 1, 0, .ro, 0⟩
def LIN_CMD_STAT.REGION : Fld := ⟨0x44, 0x0, 11, 8, .ro, 0⟩
def LIN_KEYS.FREE : Fld := ⟨0x48, 0x0, 6, 0, .ro, 0x40⟩
def LIN_KEYS.ACTIVE : Fld := ⟨0x48, 0x0, 14, 8, .ro, 0⟩
def LIN_KEYS.RETIRING : Fld := ⟨0x48, 0x0, 22, 16, .ro, 0⟩
def LIN_KEYS.HELD : Fld := ⟨0x48, 0x0, 30, 24, .ro, 0⟩
def LIN_TAGF_CNT.COUNT : Fld := ⟨0x4c, 0x0, 31, 0, .rc, 0⟩
def LIN_EXH_CNT.COUNT : Fld := ⟨0x50, 0x0, 31, 0, .rc, 0⟩
def LIN_TAGF_ADDR_LO.ADDR : Fld := ⟨0x58, 0x0, 31, 0, .ro, 0⟩
def LIN_TAGF_ADDR_HI.ADDR : Fld := ⟨0x5c, 0x0, 31, 0, .ro, 0⟩
def LIN_TAGF_INFO.INIT : Fld := ⟨0x60, 0x0, 7, 0, .ro, 0⟩
def LIN_TAGF_INFO.REGION : Fld := ⟨0x60, 0x0, 11, 8, .ro, 0⟩
def LIN_TAGF_INFO.KIND : Fld := ⟨0x60, 0x0, 13, 12, .ro, 0⟩
def LIN_TAGF_INFO.DEV : Fld := ⟨0x60, 0x0, 27, 16, .ro, 0⟩
def LIN_Rr_BASE.VALUE : Fld := ⟨0x100, 0x40, 12, 0, .rws, 0⟩
def LIN_Rr_SIZE.VALUE : Fld := ⟨0x104, 0x40, 12, 0, .rws, 0⟩
def LIN_Rr_CFG.RAW_WR : Fld := ⟨0x108, 0x40, 0, 0, .rws, 0⟩
def LIN_Rr_STAT.STATE : Fld := ⟨0x10c, 0x40, 2, 0, .ro, 0⟩
def LIN_Rr_STAT.EPOCH : Fld := ⟨0x10c, 0x40, 3, 3, .ro, 0⟩
def LIN_Rr_STAT.KEY_CUR : Fld := ⟨0x10c, 0x40, 9, 4, .ro, 0⟩
def LIN_Rr_STAT.KEY_OLD : Fld := ⟨0x10c, 0x40, 15, 10, .ro, 0⟩
def LIN_Rr_STAT.OLD_VALID : Fld := ⟨0x10c, 0x40, 16, 16, .ro, 0⟩
def LIN_Rr_STAT.EXHAUSTED : Fld := ⟨0x10c, 0x40, 17, 17, .ro, 0⟩
def LIN_Rr_STAT.FENCE : Fld := ⟨0x10c, 0x40, 20, 18, .ro, 0⟩
def LIN_Rr_STAT.PART : Fld := ⟨0x10c, 0x40, 31, 21, .ro, 0⟩
def LIN_Rr_SWEEP.LEFT : Fld := ⟨0x110, 0x40, 31, 0, .ro, 0⟩
def LIN_Rr_ROLLS.COUNT : Fld := ⟨0x114, 0x40, 31, 0, .ro, 0⟩
def LIN_Rr_ACL0.ID : Fld := ⟨0x120, 0x40, 7, 0, .rws, 0⟩
def LIN_Rr_ACL0.MASK : Fld := ⟨0x120, 0x40, 15, 8, .rws, 0xff⟩
def LIN_Rr_ACL0.DEV : Fld := ⟨0x120, 0x40, 27, 16, .rws, 0⟩
def LIN_Rr_ACL0.DEV_EN : Fld := ⟨0x120, 0x40, 30, 30, .rws, 0⟩
def LIN_Rr_ACL0.VALID : Fld := ⟨0x120, 0x40, 31, 31, .rws, 0⟩
def LIN_Rr_ACL1.ID : Fld := ⟨0x124, 0x40, 7, 0, .rws, 0⟩
def LIN_Rr_ACL1.MASK : Fld := ⟨0x124, 0x40, 15, 8, .rws, 0xff⟩
def LIN_Rr_ACL1.DEV : Fld := ⟨0x124, 0x40, 27, 16, .rws, 0⟩
def LIN_Rr_ACL1.DEV_EN : Fld := ⟨0x124, 0x40, 30, 30, .rws, 0⟩
def LIN_Rr_ACL1.VALID : Fld := ⟨0x124, 0x40, 31, 31, .rws, 0⟩
def LIN_Rr_ACL2.ID : Fld := ⟨0x128, 0x40, 7, 0, .rws, 0⟩
def LIN_Rr_ACL2.MASK : Fld := ⟨0x128, 0x40, 15, 8, .rws, 0xff⟩
def LIN_Rr_ACL2.DEV : Fld := ⟨0x128, 0x40, 27, 16, .rws, 0⟩
def LIN_Rr_ACL2.DEV_EN : Fld := ⟨0x128, 0x40, 30, 30, .rws, 0⟩
def LIN_Rr_ACL2.VALID : Fld := ⟨0x128, 0x40, 31, 31, .rws, 0⟩
def LIN_Rr_ACL3.ID : Fld := ⟨0x12c, 0x40, 7, 0, .rws, 0⟩
def LIN_Rr_ACL3.MASK : Fld := ⟨0x12c, 0x40, 15, 8, .rws, 0xff⟩
def LIN_Rr_ACL3.DEV : Fld := ⟨0x12c, 0x40, 27, 16, .rws, 0⟩
def LIN_Rr_ACL3.DEV_EN : Fld := ⟨0x12c, 0x40, 30, 30, .rws, 0⟩
def LIN_Rr_ACL3.VALID : Fld := ⟨0x12c, 0x40, 31, 31, .rws, 0⟩
def LIN_Rr_ACL4.ID : Fld := ⟨0x130, 0x40, 7, 0, .rws, 0⟩
def LIN_Rr_ACL4.MASK : Fld := ⟨0x130, 0x40, 15, 8, .rws, 0xff⟩
def LIN_Rr_ACL4.DEV : Fld := ⟨0x130, 0x40, 27, 16, .rws, 0⟩
def LIN_Rr_ACL4.DEV_EN : Fld := ⟨0x130, 0x40, 30, 30, .rws, 0⟩
def LIN_Rr_ACL4.VALID : Fld := ⟨0x130, 0x40, 31, 31, .rws, 0⟩
def LIN_Rr_ACL5.ID : Fld := ⟨0x134, 0x40, 7, 0, .rws, 0⟩
def LIN_Rr_ACL5.MASK : Fld := ⟨0x134, 0x40, 15, 8, .rws, 0xff⟩
def LIN_Rr_ACL5.DEV : Fld := ⟨0x134, 0x40, 27, 16, .rws, 0⟩
def LIN_Rr_ACL5.DEV_EN : Fld := ⟨0x134, 0x40, 30, 30, .rws, 0⟩
def LIN_Rr_ACL5.VALID : Fld := ⟨0x134, 0x40, 31, 31, .rws, 0⟩
def LIN_Rr_ACL6.ID : Fld := ⟨0x138, 0x40, 7, 0, .rws, 0⟩
def LIN_Rr_ACL6.MASK : Fld := ⟨0x138, 0x40, 15, 8, .rws, 0xff⟩
def LIN_Rr_ACL6.DEV : Fld := ⟨0x138, 0x40, 27, 16, .rws, 0⟩
def LIN_Rr_ACL6.DEV_EN : Fld := ⟨0x138, 0x40, 30, 30, .rws, 0⟩
def LIN_Rr_ACL6.VALID : Fld := ⟨0x138, 0x40, 31, 31, .rws, 0⟩
def LIN_Rr_ACL7.ID : Fld := ⟨0x13c, 0x40, 7, 0, .rws, 0⟩
def LIN_Rr_ACL7.MASK : Fld := ⟨0x13c, 0x40, 15, 8, .rws, 0xff⟩
def LIN_Rr_ACL7.DEV : Fld := ⟨0x13c, 0x40, 27, 16, .rws, 0⟩
def LIN_Rr_ACL7.DEV_EN : Fld := ⟨0x13c, 0x40, 30, 30, .rws, 0⟩
def LIN_Rr_ACL7.VALID : Fld := ⟨0x13c, 0x40, 31, 31, .rws, 0⟩

/-- The lin registers. -/
def rowsLin : List RegRow := [
  ⟨"LIN_CMD", 0x40, 0x0, 1, false, [LIN_CMD.OP, LIN_CMD.REGION]⟩,
  ⟨"LIN_CMD_STAT", 0x44, 0x0, 1, false, [LIN_CMD_STAT.STATUS, LIN_CMD_STAT.REGION]⟩,
  ⟨"LIN_KEYS", 0x48, 0x0, 1, false, [LIN_KEYS.FREE, LIN_KEYS.ACTIVE, LIN_KEYS.RETIRING, LIN_KEYS.HELD]⟩,
  ⟨"LIN_TAGF_CNT", 0x4c, 0x0, 1, false, [LIN_TAGF_CNT.COUNT]⟩,
  ⟨"LIN_EXH_CNT", 0x50, 0x0, 1, false, [LIN_EXH_CNT.COUNT]⟩,
  ⟨"LIN_TAGF_ADDR_LO", 0x58, 0x0, 1, false, [LIN_TAGF_ADDR_LO.ADDR]⟩,
  ⟨"LIN_TAGF_ADDR_HI", 0x5c, 0x0, 1, false, [LIN_TAGF_ADDR_HI.ADDR]⟩,
  ⟨"LIN_TAGF_INFO", 0x60, 0x0, 1, false, [LIN_TAGF_INFO.INIT, LIN_TAGF_INFO.REGION, LIN_TAGF_INFO.KIND, LIN_TAGF_INFO.DEV]⟩,
  ⟨"LIN_Rr_BASE", 0x100, 0x40, 16, true, [LIN_Rr_BASE.VALUE]⟩,
  ⟨"LIN_Rr_SIZE", 0x104, 0x40, 16, true, [LIN_Rr_SIZE.VALUE]⟩,
  ⟨"LIN_Rr_CFG", 0x108, 0x40, 16, true, [LIN_Rr_CFG.RAW_WR]⟩,
  ⟨"LIN_Rr_STAT", 0x10c, 0x40, 16, false, [LIN_Rr_STAT.STATE, LIN_Rr_STAT.EPOCH, LIN_Rr_STAT.KEY_CUR, LIN_Rr_STAT.KEY_OLD, LIN_Rr_STAT.OLD_VALID, LIN_Rr_STAT.EXHAUSTED, LIN_Rr_STAT.FENCE, LIN_Rr_STAT.PART]⟩,
  ⟨"LIN_Rr_SWEEP", 0x110, 0x40, 16, false, [LIN_Rr_SWEEP.LEFT]⟩,
  ⟨"LIN_Rr_ROLLS", 0x114, 0x40, 16, false, [LIN_Rr_ROLLS.COUNT]⟩,
  ⟨"LIN_Rr_ACL0", 0x120, 0x40, 16, true, [LIN_Rr_ACL0.ID, LIN_Rr_ACL0.MASK, LIN_Rr_ACL0.DEV, LIN_Rr_ACL0.DEV_EN, LIN_Rr_ACL0.VALID]⟩,
  ⟨"LIN_Rr_ACL1", 0x124, 0x40, 16, true, [LIN_Rr_ACL1.ID, LIN_Rr_ACL1.MASK, LIN_Rr_ACL1.DEV, LIN_Rr_ACL1.DEV_EN, LIN_Rr_ACL1.VALID]⟩,
  ⟨"LIN_Rr_ACL2", 0x128, 0x40, 16, true, [LIN_Rr_ACL2.ID, LIN_Rr_ACL2.MASK, LIN_Rr_ACL2.DEV, LIN_Rr_ACL2.DEV_EN, LIN_Rr_ACL2.VALID]⟩,
  ⟨"LIN_Rr_ACL3", 0x12c, 0x40, 16, true, [LIN_Rr_ACL3.ID, LIN_Rr_ACL3.MASK, LIN_Rr_ACL3.DEV, LIN_Rr_ACL3.DEV_EN, LIN_Rr_ACL3.VALID]⟩,
  ⟨"LIN_Rr_ACL4", 0x130, 0x40, 16, true, [LIN_Rr_ACL4.ID, LIN_Rr_ACL4.MASK, LIN_Rr_ACL4.DEV, LIN_Rr_ACL4.DEV_EN, LIN_Rr_ACL4.VALID]⟩,
  ⟨"LIN_Rr_ACL5", 0x134, 0x40, 16, true, [LIN_Rr_ACL5.ID, LIN_Rr_ACL5.MASK, LIN_Rr_ACL5.DEV, LIN_Rr_ACL5.DEV_EN, LIN_Rr_ACL5.VALID]⟩,
  ⟨"LIN_Rr_ACL6", 0x138, 0x40, 16, true, [LIN_Rr_ACL6.ID, LIN_Rr_ACL6.MASK, LIN_Rr_ACL6.DEV, LIN_Rr_ACL6.DEV_EN, LIN_Rr_ACL6.VALID]⟩,
  ⟨"LIN_Rr_ACL7", 0x13c, 0x40, 16, true, [LIN_Rr_ACL7.ID, LIN_Rr_ACL7.MASK, LIN_Rr_ACL7.DEV, LIN_Rr_ACL7.DEV_EN, LIN_Rr_ACL7.VALID]⟩]

/-! ### noc registers -/

def NOC_CTL.CLR_STATS : Fld := ⟨0x40, 0x0, 0, 0, .w1s, 0⟩
def NOC_VER.SWITCH : Fld := ⟨0x44, 0x0, 0, 0, .w1s, 0⟩
def NOC_VER.ACTIVE : Fld := ⟨0x44, 0x0, 1, 1, .ro, 0⟩
def NOC_VER.PENDING : Fld := ⟨0x44, 0x0, 2, 2, .ro, 0⟩
def NOC_VER.OLD : Fld := ⟨0x44, 0x0, 31, 16, .ro, 0⟩
def NOC_TBL_ADDR.RTR : Fld := ⟨0x48, 0x0, 3, 0, .rw, 0⟩
def NOC_TBL_ADDR.DEST : Fld := ⟨0x48, 0x0, 10, 4, .rw, 0⟩
def NOC_TBL_ADDR.BANK : Fld := ⟨0x48, 0x0, 12, 12, .rw, 0⟩
def NOC_TBL_ADDR.AUTOINC : Fld := ⟨0x48, 0x0, 15, 15, .rw, 1⟩
def NOC_TBL_DATA.PORT : Fld := ⟨0x4c, 0x0, 2, 0, .rw, 7⟩
def NOC_RTR_CTL.DISABLE : Fld := ⟨0x50, 0x0, 15, 0, .rw, 0⟩
def NOC_RTR_STAT.DRAINING : Fld := ⟨0x54, 0x0, 15, 0, .ro, 0⟩
def NOC_RTR_STAT.OFF : Fld := ⟨0x54, 0x0, 31, 16, .ro, 0⟩
def NOC_TAGS.USED : Fld := ⟨0x58, 0x0, 15, 0, .ro, 0⟩
def NOC_TAGS.PEAK : Fld := ⟨0x58, 0x0, 31, 16, .ro, 0⟩
def NOC_TAG_CAP.CAP : Fld := ⟨0x5c, 0x0, 15, 0, .rw, 0x1000⟩
def NOC_ROUTE_OFF.COUNT : Fld := ⟨0x60, 0x0, 31, 0, .rc, 0⟩
def NOC_STAT_SEL.INIT : Fld := ⟨0x80, 0x0, 7, 0, .rw, 0⟩
def NOC_STAT_SEL.SNAP : Fld := ⟨0x80, 0x0, 8, 8, .rw, 0⟩

/-- The noc registers. -/
def rowsNoc : List RegRow := [
  ⟨"NOC_CTL", 0x40, 0x0, 1, false, [NOC_CTL.CLR_STATS]⟩,
  ⟨"NOC_VER", 0x44, 0x0, 1, false, [NOC_VER.SWITCH, NOC_VER.ACTIVE, NOC_VER.PENDING, NOC_VER.OLD]⟩,
  ⟨"NOC_TBL_ADDR", 0x48, 0x0, 1, false, [NOC_TBL_ADDR.RTR, NOC_TBL_ADDR.DEST, NOC_TBL_ADDR.BANK, NOC_TBL_ADDR.AUTOINC]⟩,
  ⟨"NOC_TBL_DATA", 0x4c, 0x0, 1, false, [NOC_TBL_DATA.PORT]⟩,
  ⟨"NOC_RTR_CTL", 0x50, 0x0, 1, true, [NOC_RTR_CTL.DISABLE]⟩,
  ⟨"NOC_RTR_STAT", 0x54, 0x0, 1, false, [NOC_RTR_STAT.DRAINING, NOC_RTR_STAT.OFF]⟩,
  ⟨"NOC_TAGS", 0x58, 0x0, 1, false, [NOC_TAGS.USED, NOC_TAGS.PEAK]⟩,
  ⟨"NOC_TAG_CAP", 0x5c, 0x0, 1, true, [NOC_TAG_CAP.CAP]⟩,
  ⟨"NOC_ROUTE_OFF", 0x60, 0x0, 1, false, [NOC_ROUTE_OFF.COUNT]⟩,
  ⟨"NOC_STAT_SEL", 0x80, 0x0, 1, false, [NOC_STAT_SEL.INIT, NOC_STAT_SEL.SNAP]⟩]

/-! ### gov registers -/

def GOV_CAP_KLF.CAP : Fld := ⟨0x40, 0x0, 11, 0, .rw, 0xe80⟩
def GOV_CAP_SEL.CAP : Fld := ⟨0x44, 0x0, 11, 0, .rw, 0x200⟩
def GOV_ADMIT.CLASS : Fld := ⟨0x48, 0x0, 3, 0, .ro, 0⟩
def GOV_ADMIT.REFUSED : Fld := ⟨0x48, 0x0, 4, 4, .rc, 0⟩
def GOV_ADMIT.SUM : Fld := ⟨0x48, 0x0, 31, 8, .ro, 0⟩
def GOV_OVER.OVER : Fld := ⟨0x4c, 0x0, 9, 0, .ro, 0⟩
def GOV_SEL.INIT : Fld := ⟨0x50, 0x0, 7, 0, .rw, 0⟩
def GOV_SUMc.SUM : Fld := ⟨0x80, 0x4, 23, 0, .ro, 0⟩
def GOV_B0.CREDITS : Fld := ⟨0x1000, 0x40, 11, 0, .rws, 0⟩
def GOV_B1.CREDITS : Fld := ⟨0x1004, 0x40, 11, 0, .rws, 0⟩
def GOV_B2.CREDITS : Fld := ⟨0x1008, 0x40, 11, 0, .rws, 0⟩
def GOV_B3.CREDITS : Fld := ⟨0x100c, 0x40, 11, 0, .rws, 0⟩
def GOV_B4.CREDITS : Fld := ⟨0x1010, 0x40, 11, 0, .rws, 0⟩
def GOV_B5.CREDITS : Fld := ⟨0x1014, 0x40, 11, 0, .rws, 0⟩
def GOV_B6.CREDITS : Fld := ⟨0x1018, 0x40, 11, 0, .rws, 0⟩
def GOV_B7.CREDITS : Fld := ⟨0x101c, 0x40, 11, 0, .rws, 0⟩
def GOV_B8.CREDITS : Fld := ⟨0x1020, 0x40, 11, 0, .rws, 0⟩
def GOV_B9.CREDITS : Fld := ⟨0x1024, 0x40, 11, 0, .rws, 0⟩

/-- The gov registers. -/
def rowsGov : List RegRow := [
  ⟨"GOV_CAP_KLF", 0x40, 0x0, 1, true, [GOV_CAP_KLF.CAP]⟩,
  ⟨"GOV_CAP_SEL", 0x44, 0x0, 1, true, [GOV_CAP_SEL.CAP]⟩,
  ⟨"GOV_ADMIT", 0x48, 0x0, 1, false, [GOV_ADMIT.CLASS, GOV_ADMIT.REFUSED, GOV_ADMIT.SUM]⟩,
  ⟨"GOV_OVER", 0x4c, 0x0, 1, false, [GOV_OVER.OVER]⟩,
  ⟨"GOV_SEL", 0x50, 0x0, 1, false, [GOV_SEL.INIT]⟩,
  ⟨"GOV_SUMc", 0x80, 0x4, 10, false, [GOV_SUMc.SUM]⟩,
  ⟨"GOV_B0", 0x1000, 0x40, 256, true, [GOV_B0.CREDITS]⟩,
  ⟨"GOV_B1", 0x1004, 0x40, 256, true, [GOV_B1.CREDITS]⟩,
  ⟨"GOV_B2", 0x1008, 0x40, 256, true, [GOV_B2.CREDITS]⟩,
  ⟨"GOV_B3", 0x100c, 0x40, 256, true, [GOV_B3.CREDITS]⟩,
  ⟨"GOV_B4", 0x1010, 0x40, 256, true, [GOV_B4.CREDITS]⟩,
  ⟨"GOV_B5", 0x1014, 0x40, 256, true, [GOV_B5.CREDITS]⟩,
  ⟨"GOV_B6", 0x1018, 0x40, 256, true, [GOV_B6.CREDITS]⟩,
  ⟨"GOV_B7", 0x101c, 0x40, 256, true, [GOV_B7.CREDITS]⟩,
  ⟨"GOV_B8", 0x1020, 0x40, 256, true, [GOV_B8.CREDITS]⟩,
  ⟨"GOV_B9", 0x1024, 0x40, 256, true, [GOV_B9.CREDITS]⟩]

/-! ### pat registers -/

def PAT_CFG.ISOLATE_AT : Fld := ⟨0x40, 0x0, 15, 0, .rws, 0x10⟩
def PAT_CTL.RESTORE : Fld := ⟨0x44, 0x0, 0, 0, .w1s, 0⟩
def PAT_VIOL.COUNT : Fld := ⟨0x48, 0x0, 15, 0, .ro, 0⟩
def PAT_VIOL.ISOLATED : Fld := ⟨0x48, 0x0, 31, 31, .ro, 0⟩
def PAT_LAST_LO.ADDR : Fld := ⟨0x4c, 0x0, 31, 0, .ro, 0⟩
def PAT_LAST_HI.ADDR : Fld := ⟨0x50, 0x0, 15, 0, .ro, 0⟩
def PAT_LAST_INFO.OP : Fld := ⟨0x54, 0x0, 3, 0, .ro, 0⟩
def PAT_LAST_INFO.DIR : Fld := ⟨0x54, 0x0, 4, 4, .ro, 0⟩
def PAT_LAST_INFO.CAUSE : Fld := ⟨0x54, 0x0, 7, 5, .ro, 0⟩
def PAT_STRMg.SRC : Fld := ⟨0x60, 0x4, 3, 0, .rws, 0⟩
def PAT_STRMg.EN : Fld := ⟨0x60, 0x4, 7, 7, .rws, 0⟩
def PAT_Wk_BASE_LO.BASE : Fld := ⟨0x100, 0x20, 31, 0, .rws, 0⟩
def PAT_Wk_BASE_HI.BASE : Fld := ⟨0x104, 0x20, 15, 0, .rws, 0⟩
def PAT_Wk_SIZE_LO.SIZE : Fld := ⟨0x108, 0x20, 31, 0, .rws, 0⟩
def PAT_Wk_SIZE_HI.SIZE : Fld := ⟨0x10c, 0x20, 15, 0, .rws, 0⟩
def PAT_Wk_CFG.EN : Fld := ⟨0x110, 0x20, 0, 0, .rws, 0⟩
def PAT_Wk_CFG.DIR : Fld := ⟨0x110, 0x20, 1, 1, .rws, 0⟩
def PAT_Wk_CFG.RD : Fld := ⟨0x110, 0x20, 2, 2, .rws, 0⟩
def PAT_Wk_CFG.WR : Fld := ⟨0x110, 0x20, 3, 3, .rws, 0⟩
def PAT_Wk_CFG.PLAIN : Fld := ⟨0x110, 0x20, 4, 4, .rws, 0⟩
def PAT_Wk_CFG.BUDGET : Fld := ⟨0x110, 0x20, 27, 16, .rws, 0⟩

/-- The pat registers. -/
def rowsPat : List RegRow := [
  ⟨"PAT_CFG", 0x40, 0x0, 1, true, [PAT_CFG.ISOLATE_AT]⟩,
  ⟨"PAT_CTL", 0x44, 0x0, 1, false, [PAT_CTL.RESTORE]⟩,
  ⟨"PAT_VIOL", 0x48, 0x0, 1, false, [PAT_VIOL.COUNT, PAT_VIOL.ISOLATED]⟩,
  ⟨"PAT_LAST_LO", 0x4c, 0x0, 1, false, [PAT_LAST_LO.ADDR]⟩,
  ⟨"PAT_LAST_HI", 0x50, 0x0, 1, false, [PAT_LAST_HI.ADDR]⟩,
  ⟨"PAT_LAST_INFO", 0x54, 0x0, 1, false, [PAT_LAST_INFO.OP, PAT_LAST_INFO.DIR, PAT_LAST_INFO.CAUSE]⟩,
  ⟨"PAT_STRMg", 0x60, 0x4, 2, true, [PAT_STRMg.SRC, PAT_STRMg.EN]⟩,
  ⟨"PAT_Wk_BASE_LO", 0x100, 0x20, 16, true, [PAT_Wk_BASE_LO.BASE]⟩,
  ⟨"PAT_Wk_BASE_HI", 0x104, 0x20, 16, true, [PAT_Wk_BASE_HI.BASE]⟩,
  ⟨"PAT_Wk_SIZE_LO", 0x108, 0x20, 16, true, [PAT_Wk_SIZE_LO.SIZE]⟩,
  ⟨"PAT_Wk_SIZE_HI", 0x10c, 0x20, 16, true, [PAT_Wk_SIZE_HI.SIZE]⟩,
  ⟨"PAT_Wk_CFG", 0x110, 0x20, 16, true, [PAT_Wk_CFG.EN, PAT_Wk_CFG.DIR, PAT_Wk_CFG.RD, PAT_Wk_CFG.WR, PAT_Wk_CFG.PLAIN, PAT_Wk_CFG.BUDGET]⟩]

/-! ### klfRt registers -/

def KLF_DEVID.ID : Fld := ⟨0x40, 0x0, 11, 0, .rw, 0xfff⟩
def KLF_DEVID.ASSIGNED : Fld := ⟨0x40, 0x0, 31, 31, .ro, 0⟩
def KLF_UID_LO.UID : Fld := ⟨0x48, 0x0, 31, 0, .ro, 0⟩
def KLF_UID_HI.UID : Fld := ⟨0x4c, 0x0, 31, 0, .ro, 0⟩
def KLF_RT_ADDR.ID : Fld := ⟨0x50, 0x0, 11, 0, .rw, 0⟩
def KLF_RT_ADDR.BANK : Fld := ⟨0x50, 0x0, 12, 12, .rw, 0⟩
def KLF_RT_ADDR.AUTOINC : Fld := ⟨0x50, 0x0, 15, 15, .rw, 1⟩
def KLF_RT_DATA.PRI : Fld := ⟨0x54, 0x0, 3, 0, .rw, 0⟩
def KLF_RT_DATA.PRI_V : Fld := ⟨0x54, 0x0, 4, 4, .rw, 0⟩
def KLF_RT_DATA.ALT : Fld := ⟨0x54, 0x0, 11, 8, .rw, 0⟩
def KLF_RT_DATA.ALT_V : Fld := ⟨0x54, 0x0, 12, 12, .rw, 0⟩
def KLF_RT_SEL.ACTIVE : Fld := ⟨0x58, 0x0, 0, 0, .rws, 0⟩
def KLF_PORT_DL.DL : Fld := ⟨0x5c, 0x0, 15, 0, .rws, 0⟩
def KLF_FAILED.PORTS : Fld := ⟨0x60, 0x0, 15, 0, .w1c, 0⟩
def KLF_BCAST.UP_PORT : Fld := ⟨0x64, 0x0, 3, 0, .rws, 0⟩
def KLF_BCAST.UP_V : Fld := ⟨0x64, 0x0, 4, 4, .rws, 0⟩
def KLF_BCAST.GROUPS : Fld := ⟨0x64, 0x0, 15, 8, .rws, 0⟩
def KLF_BCAST_FWD.FWD : Fld := ⟨0x68, 0x0, 15, 0, .rws, 0⟩
def KLF_EVT_CFG.LINK_EV : Fld := ⟨0x6c, 0x0, 0, 0, .rw, 1⟩
def KLF_FALLOVERS.COUNT : Fld := ⟨0x70, 0x0, 31, 0, .rc, 0⟩
def KLF_TURN_ERR.COUNT : Fld := ⟨0x74, 0x0, 31, 0, .rc, 0⟩
def KLF_BCAST_DROP.COUNT : Fld := ⟨0x78, 0x0, 31, 0, .rc, 0⟩
def KLF_EVT_LOST.COUNT : Fld := ⟨0x7c, 0x0, 31, 0, .rc, 0⟩
def KLF_RT_ECC.CORR : Fld := ⟨0x80, 0x0, 15, 0, .rc, 0⟩
def KLF_RT_ECC.FATAL : Fld := ⟨0x80, 0x0, 31, 31, .rc, 0⟩

/-- The klfRt registers. -/
def rowsKlfRt : List RegRow := [
  ⟨"KLF_DEVID", 0x40, 0x0, 1, true, [KLF_DEVID.ID, KLF_DEVID.ASSIGNED]⟩,
  ⟨"KLF_UID_LO", 0x48, 0x0, 1, false, [KLF_UID_LO.UID]⟩,
  ⟨"KLF_UID_HI", 0x4c, 0x0, 1, false, [KLF_UID_HI.UID]⟩,
  ⟨"KLF_RT_ADDR", 0x50, 0x0, 1, false, [KLF_RT_ADDR.ID, KLF_RT_ADDR.BANK, KLF_RT_ADDR.AUTOINC]⟩,
  ⟨"KLF_RT_DATA", 0x54, 0x0, 1, false, [KLF_RT_DATA.PRI, KLF_RT_DATA.PRI_V, KLF_RT_DATA.ALT, KLF_RT_DATA.ALT_V]⟩,
  ⟨"KLF_RT_SEL", 0x58, 0x0, 1, true, [KLF_RT_SEL.ACTIVE]⟩,
  ⟨"KLF_PORT_DL", 0x5c, 0x0, 1, true, [KLF_PORT_DL.DL]⟩,
  ⟨"KLF_FAILED", 0x60, 0x0, 1, false, [KLF_FAILED.PORTS]⟩,
  ⟨"KLF_BCAST", 0x64, 0x0, 1, true, [KLF_BCAST.UP_PORT, KLF_BCAST.UP_V, KLF_BCAST.GROUPS]⟩,
  ⟨"KLF_BCAST_FWD", 0x68, 0x0, 1, true, [KLF_BCAST_FWD.FWD]⟩,
  ⟨"KLF_EVT_CFG", 0x6c, 0x0, 1, true, [KLF_EVT_CFG.LINK_EV]⟩,
  ⟨"KLF_FALLOVERS", 0x70, 0x0, 1, false, [KLF_FALLOVERS.COUNT]⟩,
  ⟨"KLF_TURN_ERR", 0x74, 0x0, 1, false, [KLF_TURN_ERR.COUNT]⟩,
  ⟨"KLF_BCAST_DROP", 0x78, 0x0, 1, false, [KLF_BCAST_DROP.COUNT]⟩,
  ⟨"KLF_EVT_LOST", 0x7c, 0x0, 1, false, [KLF_EVT_LOST.COUNT]⟩,
  ⟨"KLF_RT_ECC", 0x80, 0x0, 1, false, [KLF_RT_ECC.CORR, KLF_RT_ECC.FATAL]⟩]

/-! ### klfCom registers -/

def KLF_RSP_TO.UNITS : Fld := ⟨0x40, 0x0, 7, 0, .rw, 0x64⟩
def KLF_EGR_TAGS.USED : Fld := ⟨0x44, 0x0, 12, 0, .ro, 0⟩
def KLF_EGR_TAGS.PEAK : Fld := ⟨0x44, 0x0, 28, 16, .ro, 0⟩
def KLF_UNREACH.COUNT : Fld := ⟨0x48, 0x0, 31, 0, .rc, 0⟩
def KLF_TIMEOUT.COUNT : Fld := ⟨0x4c, 0x0, 31, 0, .rc, 0⟩
def KLF_LATE.COUNT : Fld := ⟨0x50, 0x0, 31, 0, .rc, 0⟩
def KLF_RSP_DROP.COUNT : Fld := ⟨0x54, 0x0, 31, 0, .rc, 0⟩
def KLF_STR_LOST.COUNT : Fld := ⟨0x58, 0x0, 31, 0, .rc, 0⟩
def KLF_FOREIGN.COUNT : Fld := ⟨0x5c, 0x0, 15, 0, .rc, 0⟩
def KLF_FOREIGN.LAST_SRC : Fld := ⟨0x5c, 0x0, 27, 16, .ro, 0⟩

/-- The klfCom registers. -/
def rowsKlfCom : List RegRow := [
  ⟨"KLF_RSP_TO", 0x40, 0x0, 1, true, [KLF_RSP_TO.UNITS]⟩,
  ⟨"KLF_EGR_TAGS", 0x44, 0x0, 1, false, [KLF_EGR_TAGS.USED, KLF_EGR_TAGS.PEAK]⟩,
  ⟨"KLF_UNREACH", 0x48, 0x0, 1, false, [KLF_UNREACH.COUNT]⟩,
  ⟨"KLF_TIMEOUT", 0x4c, 0x0, 1, false, [KLF_TIMEOUT.COUNT]⟩,
  ⟨"KLF_LATE", 0x50, 0x0, 1, false, [KLF_LATE.COUNT]⟩,
  ⟨"KLF_RSP_DROP", 0x54, 0x0, 1, false, [KLF_RSP_DROP.COUNT]⟩,
  ⟨"KLF_STR_LOST", 0x58, 0x0, 1, false, [KLF_STR_LOST.COUNT]⟩,
  ⟨"KLF_FOREIGN", 0x5c, 0x0, 1, false, [KLF_FOREIGN.COUNT, KLF_FOREIGN.LAST_SRC]⟩]

/-! ### klfLink registers -/

def KLF_CTL.EN : Fld := ⟨0x40, 0x0, 0, 0, .rw, 1⟩
def KLF_CTL.RETRAIN : Fld := ⟨0x40, 0x0, 1, 1, .w1s, 0⟩
def KLF_STAT.STATE : Fld := ⟨0x44, 0x0, 2, 0, .ro, 0⟩
def KLF_STAT.SD : Fld := ⟨0x44, 0x0, 7, 4, .ro, 0⟩
def KLF_STAT.LOCK : Fld := ⟨0x44, 0x0, 11, 8, .ro, 0⟩
def KLF_STAT.HOST : Fld := ⟨0x44, 0x0, 12, 12, .ro, 0⟩
def KLF_STAT.PARTNER_DEV : Fld := ⟨0x44, 0x0, 27, 16, .ro, 0xfff⟩
def KLF_STAT.PARTNER_PORT : Fld := ⟨0x44, 0x0, 31, 28, .ro, 0⟩
def KLF_DOWN.CAUSE : Fld := ⟨0x48, 0x0, 3, 0, .ro, 0⟩
def KLF_DOWN.COUNT : Fld := ⟨0x48, 0x0, 31, 16, .ro, 0⟩
def KLF_DOWN_T_LO.TIME : Fld := ⟨0x4c, 0x0, 31, 0, .ro, 0⟩
def KLF_DOWN_T_HI.TIME : Fld := ⟨0x50, 0x0, 31, 0, .ro, 0⟩
def KLF_RETRY_CFG.ACK_TO : Fld := ⟨0x54, 0x0, 7, 0, .rw, 0x64⟩
def KLF_RETRY_CFG.LIMIT : Fld := ⟨0x54, 0x0, 11, 8, .rw, 8⟩
def KLF_CREDIT.VC0 : Fld := ⟨0x58, 0x0, 7, 0, .ro, 0⟩
def KLF_CREDIT.VC1 : Fld := ⟨0x58, 0x0, 15, 8, .ro, 0⟩
def KLF_CREDIT.VC2 : Fld := ⟨0x58, 0x0, 23, 16, .ro, 0⟩
def KLF_CREDIT.VC3 : Fld := ⟨0x58, 0x0, 31, 24, .ro, 0⟩
def KLF_SKEW.UI : Fld := ⟨0x5c, 0x0, 8, 0, .ro, 0⟩
def KLF_FRM_TX_LO.COUNT : Fld := ⟨0x60, 0x0, 31, 0, .ro, 0⟩
def KLF_FRM_TX_HI.COUNT : Fld := ⟨0x64, 0x0, 31, 0, .ro, 0⟩
def KLF_FRM_RX_LO.COUNT : Fld := ⟨0x68, 0x0, 31, 0, .ro, 0⟩
def KLF_FRM_RX_HI.COUNT : Fld := ⟨0x6c, 0x0, 31, 0, .ro, 0⟩
def KLF_CRC_ERR.COUNT : Fld := ⟨0x70, 0x0, 31, 0, .rc, 0⟩
def KLF_REPLAY.COUNT : Fld := ⟨0x74, 0x0, 31, 0, .rc, 0⟩
def KLF_CTL_ERR.COUNT : Fld := ⟨0x78, 0x0, 31, 0, .rc, 0⟩

/-- The klfLink registers. -/
def rowsKlfLink : List RegRow := [
  ⟨"KLF_CTL", 0x40, 0x0, 1, true, [KLF_CTL.EN, KLF_CTL.RETRAIN]⟩,
  ⟨"KLF_STAT", 0x44, 0x0, 1, false, [KLF_STAT.STATE, KLF_STAT.SD, KLF_STAT.LOCK, KLF_STAT.HOST, KLF_STAT.PARTNER_DEV, KLF_STAT.PARTNER_PORT]⟩,
  ⟨"KLF_DOWN", 0x48, 0x0, 1, false, [KLF_DOWN.CAUSE, KLF_DOWN.COUNT]⟩,
  ⟨"KLF_DOWN_T_LO", 0x4c, 0x0, 1, false, [KLF_DOWN_T_LO.TIME]⟩,
  ⟨"KLF_DOWN_T_HI", 0x50, 0x0, 1, false, [KLF_DOWN_T_HI.TIME]⟩,
  ⟨"KLF_RETRY_CFG", 0x54, 0x0, 1, true, [KLF_RETRY_CFG.ACK_TO, KLF_RETRY_CFG.LIMIT]⟩,
  ⟨"KLF_CREDIT", 0x58, 0x0, 1, false, [KLF_CREDIT.VC0, KLF_CREDIT.VC1, KLF_CREDIT.VC2, KLF_CREDIT.VC3]⟩,
  ⟨"KLF_SKEW", 0x5c, 0x0, 1, false, [KLF_SKEW.UI]⟩,
  ⟨"KLF_FRM_TX_LO", 0x60, 0x0, 1, false, [KLF_FRM_TX_LO.COUNT]⟩,
  ⟨"KLF_FRM_TX_HI", 0x64, 0x0, 1, false, [KLF_FRM_TX_HI.COUNT]⟩,
  ⟨"KLF_FRM_RX_LO", 0x68, 0x0, 1, false, [KLF_FRM_RX_LO.COUNT]⟩,
  ⟨"KLF_FRM_RX_HI", 0x6c, 0x0, 1, false, [KLF_FRM_RX_HI.COUNT]⟩,
  ⟨"KLF_CRC_ERR", 0x70, 0x0, 1, false, [KLF_CRC_ERR.COUNT]⟩,
  ⟨"KLF_REPLAY", 0x74, 0x0, 1, false, [KLF_REPLAY.COUNT]⟩,
  ⟨"KLF_CTL_ERR", 0x78, 0x0, 1, false, [KLF_CTL_ERR.COUNT]⟩]

/-! ### lane registers -/

def LANE_PWR.REQ : Fld := ⟨0x40, 0x0, 1, 0, .rws, 0⟩
def LANE_PWR.STATE : Fld := ⟨0x40, 0x0, 5, 4, .ro, 0⟩
def LANE_PWR.MOVING : Fld := ⟨0x40, 0x0, 8, 8, .ro, 0⟩
def LANE_CFG.RATE : Fld := ⟨0x44, 0x0, 2, 0, .rws, 0⟩
def LANE_CFG.CODING : Fld := ⟨0x44, 0x0, 4, 4, .rws, 0⟩
def LANE_TXl.SWING : Fld := ⟨0x100, 0x40, 3, 0, .rws, 8⟩
def LANE_TXl.PRE : Fld := ⟨0x100, 0x40, 6, 4, .rws, 0⟩
def LANE_TXl.POST : Fld := ⟨0x100, 0x40, 11, 8, .rws, 4⟩
def LANE_TXl.INV : Fld := ⟨0x100, 0x40, 12, 12, .rws, 0⟩
def LANE_TXl.PAT : Fld := ⟨0x100, 0x40, 14, 13, .rws, 0⟩
def LANE_RXl.PEAK : Fld := ⟨0x104, 0x40, 3, 0, .rws, 8⟩
def LANE_RXl.ADAPT : Fld := ⟨0x104, 0x40, 4, 4, .rws, 1⟩
def LANE_RXl.INV : Fld := ⟨0x104, 0x40, 5, 5, .rws, 0⟩
def LANE_RXl.CHK : Fld := ⟨0x104, 0x40, 7, 6, .rws, 0⟩
def LANE_STATl.SD : Fld := ⟨0x108, 0x40, 0, 0, .ro, 0⟩
def LANE_STATl.LOCK : Fld := ⟨0x108, 0x40, 1, 1, .ro, 0⟩
def LANE_STATl.BLOCK_LOCK : Fld := ⟨0x108, 0x40, 2, 2, .ro, 0⟩
def LANE_STATl.PEAK_USED : Fld := ⟨0x108, 0x40, 11, 8, .ro, 0⟩
def LANE_STATl.POST_USED : Fld := ⟨0x108, 0x40, 19, 16, .ro, 4⟩
def LANE_PRBSl.COUNT : Fld := ⟨0x10c, 0x40, 31, 0, .rc, 0⟩
def LANE_SCAN_CTLl.OP : Fld := ⟨0x110, 0x40, 1, 0, .wo, 0⟩
def LANE_SCAN_CTLl.PHASE : Fld := ⟨0x110, 0x40, 13, 8, .rw, 0⟩
def LANE_SCAN_CTLl.VOLT : Fld := ⟨0x110, 0x40, 22, 16, .rw, 0⟩
def LANE_SCAN_CTLl.DWELL : Fld := ⟨0x110, 0x40, 26, 24, .rw, 0⟩
def LANE_SCAN_STATl.STATUS : Fld := ⟨0x114, 0x40, 2, 0, .ro, 0⟩
def LANE_SCAN_STATl.ERR : Fld := ⟨0x114, 0x40, 11, 8, .ro, 0⟩
def LANE_SCAN_STATl.POINT : Fld := ⟨0x114, 0x40, 21, 16, .ro, 0⟩
def LANE_SCAN_ERRl.COUNT : Fld := ⟨0x118, 0x40, 31, 0, .ro, 0⟩
def LANE_SCAN_DSTl_LO.ADDR : Fld := ⟨0x120, 0x40, 31, 0, .rw, 0⟩
def LANE_SCAN_DSTl_HI.ADDR : Fld := ⟨0x124, 0x40, 15, 0, .rw, 0⟩

/-- The lane registers. -/
def rowsLane : List RegRow := [
  ⟨"LANE_PWR", 0x40, 0x0, 1, true, [LANE_PWR.REQ, LANE_PWR.STATE, LANE_PWR.MOVING]⟩,
  ⟨"LANE_CFG", 0x44, 0x0, 1, true, [LANE_CFG.RATE, LANE_CFG.CODING]⟩,
  ⟨"LANE_TXl", 0x100, 0x40, 4, true, [LANE_TXl.SWING, LANE_TXl.PRE, LANE_TXl.POST, LANE_TXl.INV, LANE_TXl.PAT]⟩,
  ⟨"LANE_RXl", 0x104, 0x40, 4, true, [LANE_RXl.PEAK, LANE_RXl.ADAPT, LANE_RXl.INV, LANE_RXl.CHK]⟩,
  ⟨"LANE_STATl", 0x108, 0x40, 4, false, [LANE_STATl.SD, LANE_STATl.LOCK, LANE_STATl.BLOCK_LOCK, LANE_STATl.PEAK_USED, LANE_STATl.POST_USED]⟩,
  ⟨"LANE_PRBSl", 0x10c, 0x40, 4, false, [LANE_PRBSl.COUNT]⟩,
  ⟨"LANE_SCAN_CTLl", 0x110, 0x40, 4, false, [LANE_SCAN_CTLl.OP, LANE_SCAN_CTLl.PHASE, LANE_SCAN_CTLl.VOLT, LANE_SCAN_CTLl.DWELL]⟩,
  ⟨"LANE_SCAN_STATl", 0x114, 0x40, 4, false, [LANE_SCAN_STATl.STATUS, LANE_SCAN_STATl.ERR, LANE_SCAN_STATl.POINT]⟩,
  ⟨"LANE_SCAN_ERRl", 0x118, 0x40, 4, false, [LANE_SCAN_ERRl.COUNT]⟩,
  ⟨"LANE_SCAN_DSTl_LO", 0x120, 0x40, 4, false, [LANE_SCAN_DSTl_LO.ADDR]⟩,
  ⟨"LANE_SCAN_DSTl_HI", 0x124, 0x40, 4, false, [LANE_SCAN_DSTl_HI.ADDR]⟩]

/-! ### edg registers -/

def EDG_BANK_CFG.HOLD_MODE : Fld := ⟨0x40, 0x0, 0, 0, .rws, 0⟩
def EDG_BANK_CFG.SWING : Fld := ⟨0x40, 0x0, 5, 1, .rws, 8⟩
def EDG_BANK_CFG.EMPH : Fld := ⟨0x40, 0x0, 8, 6, .rws, 0⟩
def EDG_BANK_CFG.RX_TERM : Fld := ⟨0x40, 0x0, 9, 9, .rws, 1⟩
def EDG_BANK_CFG.TS_TAP : Fld := ⟨0x40, 0x0, 10, 10, .rws, 0⟩
def EDG_ECC.CORR : Fld := ⟨0x44, 0x0, 15, 0, .rc, 0⟩
def EDG_ECC.FATAL : Fld := ⟨0x44, 0x0, 31, 31, .rc, 0⟩
def EDG_TS_EN.EN : Fld := ⟨0x48, 0x0, 31, 0, .rws, 0⟩
def EDG_FAULT_CH.SPILL : Fld := ⟨0x4c, 0x0, 15, 0, .rc, 0⟩
def EDG_FAULT_CH.SPACING : Fld := ⟨0x4c, 0x0, 31, 16, .rc, 0⟩
def EDG_CAL_AGE.AGE : Fld := ⟨0x50, 0x0, 15, 0, .ro, 0⟩
def EDG_CAL_AGE.FAIL_CH : Fld := ⟨0x50, 0x0, 31, 16, .rc, 0⟩
def EDG_PERIODt.PERIOD : Fld := ⟨0x80, 0x4, 31, 0, .rws, 0x7ff⟩
def EDG_WAVE_SEL.TSET : Fld := ⟨0x100, 0x0, 4, 0, .rw, 0⟩
def EDG_WAVE_SEL.WAVE : Fld := ⟨0x100, 0x0, 11, 8, .rw, 0⟩
def EDG_WAVE_SEL.CH : Fld := ⟨0x100, 0x0, 19, 16, .rw, 0⟩
def EDG_WAVE_CHMASK.MASK : Fld := ⟨0x104, 0x0, 15, 0, .rw, 0⟩
def EDG_WAVE_CMD.OP : Fld := ⟨0x108, 0x0, 1, 0, .wo, 0⟩
def EDG_WAVE_STAT.STATUS : Fld := ⟨0x10c, 0x0, 2, 0, .ro, 0⟩
def EDG_WAVE_STAT.EVENT : Fld := ⟨0x10c, 0x0, 7, 4, .ro, 0⟩
def EDG_WAVE_STAT.DONE_MASK : Fld := ⟨0x10c, 0x0, 31, 16, .ro, 0⟩
def EDG_WAVE_EVk_LO.WORD : Fld := ⟨0x140, 0x8, 31, 0, .rw, 0⟩
def EDG_WAVE_EVk_HI.WORD : Fld := ⟨0x144, 0x8, 31, 0, .rw, 0⟩
def EDG_CHn_CFG.MODE : Fld := ⟨0x200, 0x10, 1, 0, .rws, 0⟩
def EDG_CHn_CFG.IDLE_DRV : Fld := ⟨0x200, 0x10, 2, 2, .rws, 0⟩
def EDG_CHn_CFG.IDLE_ENA : Fld := ⟨0x200, 0x10, 3, 3, .rws, 0⟩
def EDG_CHn_CFG.SLOT_SRC : Fld := ⟨0x200, 0x10, 7, 4, .rws, 0⟩
def EDG_CHn_TRIM.DRV : Fld := ⟨0x204, 0x10, 15, 0, .rws, 0⟩
def EDG_CHn_TRIM.ENA : Fld := ⟨0x204, 0x10, 31, 16, .rws, 0⟩
def EDG_CHn_TRIM_CMP.CMP : Fld := ⟨0x208, 0x10, 15, 0, .rws, 0⟩
def EDG_CHn_STAT.SPILL_DROP : Fld := ⟨0x20c, 0x10, 0, 0, .rc, 0⟩
def EDG_CHn_STAT.SPACING : Fld := ⟨0x20c, 0x10, 1, 1, .rc, 0⟩
def EDG_CHn_STAT.CAL_FAIL : Fld := ⟨0x20c, 0x10, 2, 2, .rc, 0⟩
def EDG_CHn_STAT.STATE : Fld := ⟨0x20c, 0x10, 10, 8, .ro, 0⟩
def EDG_CHn_STAT.CMH : Fld := ⟨0x20c, 0x10, 16, 16, .ro, 0⟩
def EDG_CHn_STAT.CML : Fld := ⟨0x20c, 0x10, 17, 17, .ro, 0⟩
def EDG_TS_FIFO_LO.DATA : Fld := ⟨0x300, 0x0, 31, 0, .ro, 0⟩
def EDG_TS_FIFO_HI.DATA : Fld := ⟨0x304, 0x0, 31, 0, .ro, 0⟩
def EDG_TS_LEVEL.COUNT : Fld := ⟨0x308, 0x0, 8, 0, .ro, 0⟩
def EDG_TS_LEVEL.LOST : Fld := ⟨0x308, 0x0, 31, 16, .rc, 0⟩

/-- The edg registers. -/
def rowsEdg : List RegRow := [
  ⟨"EDG_BANK_CFG", 0x40, 0x0, 1, true, [EDG_BANK_CFG.HOLD_MODE, EDG_BANK_CFG.SWING, EDG_BANK_CFG.EMPH, EDG_BANK_CFG.RX_TERM, EDG_BANK_CFG.TS_TAP]⟩,
  ⟨"EDG_ECC", 0x44, 0x0, 1, false, [EDG_ECC.CORR, EDG_ECC.FATAL]⟩,
  ⟨"EDG_TS_EN", 0x48, 0x0, 1, true, [EDG_TS_EN.EN]⟩,
  ⟨"EDG_FAULT_CH", 0x4c, 0x0, 1, false, [EDG_FAULT_CH.SPILL, EDG_FAULT_CH.SPACING]⟩,
  ⟨"EDG_CAL_AGE", 0x50, 0x0, 1, false, [EDG_CAL_AGE.AGE, EDG_CAL_AGE.FAIL_CH]⟩,
  ⟨"EDG_PERIODt", 0x80, 0x4, 32, true, [EDG_PERIODt.PERIOD]⟩,
  ⟨"EDG_WAVE_SEL", 0x100, 0x0, 1, false, [EDG_WAVE_SEL.TSET, EDG_WAVE_SEL.WAVE, EDG_WAVE_SEL.CH]⟩,
  ⟨"EDG_WAVE_CHMASK", 0x104, 0x0, 1, false, [EDG_WAVE_CHMASK.MASK]⟩,
  ⟨"EDG_WAVE_CMD", 0x108, 0x0, 1, false, [EDG_WAVE_CMD.OP]⟩,
  ⟨"EDG_WAVE_STAT", 0x10c, 0x0, 1, false, [EDG_WAVE_STAT.STATUS, EDG_WAVE_STAT.EVENT, EDG_WAVE_STAT.DONE_MASK]⟩,
  ⟨"EDG_WAVE_EVk_LO", 0x140, 0x8, 16, false, [EDG_WAVE_EVk_LO.WORD]⟩,
  ⟨"EDG_WAVE_EVk_HI", 0x144, 0x8, 16, false, [EDG_WAVE_EVk_HI.WORD]⟩,
  ⟨"EDG_CHn_CFG", 0x200, 0x10, 16, true, [EDG_CHn_CFG.MODE, EDG_CHn_CFG.IDLE_DRV, EDG_CHn_CFG.IDLE_ENA, EDG_CHn_CFG.SLOT_SRC]⟩,
  ⟨"EDG_CHn_TRIM", 0x204, 0x10, 16, true, [EDG_CHn_TRIM.DRV, EDG_CHn_TRIM.ENA]⟩,
  ⟨"EDG_CHn_TRIM_CMP", 0x208, 0x10, 16, true, [EDG_CHn_TRIM_CMP.CMP]⟩,
  ⟨"EDG_CHn_STAT", 0x20c, 0x10, 16, false, [EDG_CHn_STAT.SPILL_DROP, EDG_CHn_STAT.SPACING, EDG_CHn_STAT.CAL_FAIL, EDG_CHn_STAT.STATE, EDG_CHn_STAT.CMH, EDG_CHn_STAT.CML]⟩,
  ⟨"EDG_TS_FIFO_LO", 0x300, 0x0, 1, false, [EDG_TS_FIFO_LO.DATA]⟩,
  ⟨"EDG_TS_FIFO_HI", 0x304, 0x0, 1, false, [EDG_TS_FIFO_HI.DATA]⟩,
  ⟨"EDG_TS_LEVEL", 0x308, 0x0, 1, false, [EDG_TS_LEVEL.COUNT, EDG_TS_LEVEL.LOST]⟩]

/-! ### seq registers -/

def SEQ_CTL.ARM : Fld := ⟨0x40, 0x0, 0, 0, .w1s, 0⟩
def SEQ_CTL.START_NOW : Fld := ⟨0x40, 0x0, 1, 1, .w1s, 0⟩
def SEQ_CTL.PARTNER_LOST : Fld := ⟨0x40, 0x0, 2, 2, .w1s, 0⟩
def SEQ_CFG.TGT_SEGS : Fld := ⟨0x44, 0x0, 3, 0, .rw, 4⟩
def SEQ_GANG.MODE : Fld := ⟨0x48, 0x0, 2, 0, .rw, 0⟩
def SEQ_PROG_BASE_LO.BASE : Fld := ⟨0x50, 0x0, 31, 0, .rw, 0⟩
def SEQ_PROG_BASE_HI.BASE : Fld := ⟨0x54, 0x0, 31, 0, .rw, 0⟩
def SEQ_START.OFFSET : Fld := ⟨0x58, 0x0, 23, 0, .rw, 0⟩
def SEQ_COND_MASK.MASK : Fld := ⟨0x5c, 0x0, 15, 0, .rws, 0xffff⟩
def SEQ_RUN.STATE : Fld := ⟨0x60, 0x0, 2, 0, .ro, 0⟩
def SEQ_RUN.CAUSE : Fld := ⟨0x60, 0x0, 7, 4, .ro, 0⟩
def SEQ_RUN.INVALID : Fld := ⟨0x60, 0x0, 8, 8, .ro, 0⟩
def SEQ_RUN_FLAGS.TIME_SUSPECT : Fld := ⟨0x64, 0x0, 0, 0, .ro, 0⟩
def SEQ_RUN_FLAGS.EDGE_FAULT : Fld := ⟨0x64, 0x0, 1, 1, .ro, 0⟩
def SEQ_RUN_FLAGS.PARTNER_LOST : Fld := ⟨0x64, 0x0, 2, 2, .ro, 0⟩
def SEQ_RUN_FLAGS.MATCH_TIMEOUT : Fld := ⟨0x64, 0x0, 3, 3, .ro, 0⟩
def SEQ_RUN_FLAGS.WAIT_LATE : Fld := ⟨0x64, 0x0, 4, 4, .ro, 0⟩
def SEQ_RUN_FLAGS.TIME_LOST : Fld := ⟨0x64, 0x0, 5, 5, .ro, 0⟩
def SEQ_RUN_T_LO.TIME : Fld := ⟨0x68, 0x0, 31, 0, .ro, 0⟩
def SEQ_RUN_T_HI.TIME : Fld := ⟨0x6c, 0x0, 31, 0, .ro, 0⟩
def SEQ_CYCLE_LO.COUNT : Fld := ⟨0x70, 0x0, 31, 0, .ro, 0⟩
def SEQ_CYCLE_HI.COUNT : Fld := ⟨0x74, 0x0, 31, 0, .ro, 0⟩
def SEQ_ADDR.OFFSET : Fld := ⟨0x78, 0x0, 23, 0, .ro, 0⟩
def SEQ_ADDR.INDEX : Fld := ⟨0x78, 0x0, 25, 24, .ro, 0⟩
def SEQ_SNAP_CYC_LO.COUNT : Fld := ⟨0x80, 0x0, 31, 0, .ro, 0⟩
def SEQ_SNAP_CYC_HI.COUNT : Fld := ⟨0x84, 0x0, 31, 0, .ro, 0⟩
def SEQ_SUSP_FIRST_LO.CYCLE : Fld := ⟨0x88, 0x0, 31, 0, .ro, 0⟩
def SEQ_SUSP_FIRST_HI.CYCLE : Fld := ⟨0x8c, 0x0, 31, 0, .ro, 0⟩
def SEQ_SUSP_COUNT.COUNT : Fld := ⟨0x90, 0x0, 31, 0, .ro, 0⟩
def SEQ_MATCH.ITER : Fld := ⟨0x94, 0x0, 15, 0, .ro, 0⟩
def SEQ_MATCH.TIMEOUT : Fld := ⟨0x94, 0x0, 16, 16, .ro, 0⟩
def SEQ_STACK.LOOP_DEPTH : Fld := ⟨0x98, 0x0, 3, 0, .ro, 0⟩
def SEQ_STACK.CALL_DEPTH : Fld := ⟨0x98, 0x0, 12, 8, .ro, 0⟩
def SEQ_BUF.SEGS : Fld := ⟨0x9c, 0x0, 10, 0, .ro, 0⟩
def SEQ_BUF.MIN_LEAD : Fld := ⟨0x9c, 0x0, 31, 16, .ro, 0xffff⟩
def SEQ_PARTNERk.DEV : Fld := ⟨0xc0, 0x4, 11, 0, .rw, 0⟩
def SEQ_PARTNERk.SEQ : Fld := ⟨0xc0, 0x4, 19, 16, .rw, 0⟩
def SEQ_PARTNERk.VALID : Fld := ⟨0xc0, 0x4, 31, 31, .rw, 0⟩

/-- The seq registers. -/
def rowsSeq : List RegRow := [
  ⟨"SEQ_CTL", 0x40, 0x0, 1, false, [SEQ_CTL.ARM, SEQ_CTL.START_NOW, SEQ_CTL.PARTNER_LOST]⟩,
  ⟨"SEQ_CFG", 0x44, 0x0, 1, true, [SEQ_CFG.TGT_SEGS]⟩,
  ⟨"SEQ_GANG", 0x48, 0x0, 1, true, [SEQ_GANG.MODE]⟩,
  ⟨"SEQ_PROG_BASE_LO", 0x50, 0x0, 1, true, [SEQ_PROG_BASE_LO.BASE]⟩,
  ⟨"SEQ_PROG_BASE_HI", 0x54, 0x0, 1, true, [SEQ_PROG_BASE_HI.BASE]⟩,
  ⟨"SEQ_START", 0x58, 0x0, 1, true, [SEQ_START.OFFSET]⟩,
  ⟨"SEQ_COND_MASK", 0x5c, 0x0, 1, true, [SEQ_COND_MASK.MASK]⟩,
  ⟨"SEQ_RUN", 0x60, 0x0, 1, false, [SEQ_RUN.STATE, SEQ_RUN.CAUSE, SEQ_RUN.INVALID]⟩,
  ⟨"SEQ_RUN_FLAGS", 0x64, 0x0, 1, false, [SEQ_RUN_FLAGS.TIME_SUSPECT, SEQ_RUN_FLAGS.EDGE_FAULT, SEQ_RUN_FLAGS.PARTNER_LOST, SEQ_RUN_FLAGS.MATCH_TIMEOUT, SEQ_RUN_FLAGS.WAIT_LATE, SEQ_RUN_FLAGS.TIME_LOST]⟩,
  ⟨"SEQ_RUN_T_LO", 0x68, 0x0, 1, false, [SEQ_RUN_T_LO.TIME]⟩,
  ⟨"SEQ_RUN_T_HI", 0x6c, 0x0, 1, false, [SEQ_RUN_T_HI.TIME]⟩,
  ⟨"SEQ_CYCLE_LO", 0x70, 0x0, 1, false, [SEQ_CYCLE_LO.COUNT]⟩,
  ⟨"SEQ_CYCLE_HI", 0x74, 0x0, 1, false, [SEQ_CYCLE_HI.COUNT]⟩,
  ⟨"SEQ_ADDR", 0x78, 0x0, 1, false, [SEQ_ADDR.OFFSET, SEQ_ADDR.INDEX]⟩,
  ⟨"SEQ_SNAP_CYC_LO", 0x80, 0x0, 1, false, [SEQ_SNAP_CYC_LO.COUNT]⟩,
  ⟨"SEQ_SNAP_CYC_HI", 0x84, 0x0, 1, false, [SEQ_SNAP_CYC_HI.COUNT]⟩,
  ⟨"SEQ_SUSP_FIRST_LO", 0x88, 0x0, 1, false, [SEQ_SUSP_FIRST_LO.CYCLE]⟩,
  ⟨"SEQ_SUSP_FIRST_HI", 0x8c, 0x0, 1, false, [SEQ_SUSP_FIRST_HI.CYCLE]⟩,
  ⟨"SEQ_SUSP_COUNT", 0x90, 0x0, 1, false, [SEQ_SUSP_COUNT.COUNT]⟩,
  ⟨"SEQ_MATCH", 0x94, 0x0, 1, false, [SEQ_MATCH.ITER, SEQ_MATCH.TIMEOUT]⟩,
  ⟨"SEQ_STACK", 0x98, 0x0, 1, false, [SEQ_STACK.LOOP_DEPTH, SEQ_STACK.CALL_DEPTH]⟩,
  ⟨"SEQ_BUF", 0x9c, 0x0, 1, false, [SEQ_BUF.SEGS, SEQ_BUF.MIN_LEAD]⟩,
  ⟨"SEQ_PARTNERk", 0xc0, 0x4, 4, true, [SEQ_PARTNERk.DEV, SEQ_PARTNERk.SEQ, SEQ_PARTNERk.VALID]⟩]

/-! ### wft registers -/

def WFT_CFG.CATCH_SRC : Fld := ⟨0x40, 0x0, 0, 0, .rws, 1⟩
def WFT_CFG.TOPO_EN : Fld := ⟨0x40, 0x0, 1, 1, .rws, 0⟩
def WFT_SCRt_CFG.SRC : Fld := ⟨0x44, 0x4, 0, 0, .rws, 0⟩
def WFT_SCRt_CFG.SHIFT : Fld := ⟨0x44, 0x4, 11, 8, .rws, 0⟩
def WFT_SCRt_CFG.EN : Fld := ⟨0x44, 0x4, 15, 15, .rws, 0⟩
def WFT_TOPO_SEL_LO.SEL0 : Fld := ⟨0x4c, 0x0, 7, 0, .rws, 0x38⟩
def WFT_TOPO_SEL_LO.SEL1 : Fld := ⟨0x4c, 0x0, 15, 8, .rws, 0x38⟩
def WFT_TOPO_SEL_LO.SEL2 : Fld := ⟨0x4c, 0x0, 23, 16, .rws, 0x38⟩
def WFT_TOPO_SEL_LO.SEL3 : Fld := ⟨0x4c, 0x0, 31, 24, .rws, 0x38⟩
def WFT_TOPO_SEL_HI.SEL4 : Fld := ⟨0x50, 0x0, 7, 0, .rws, 0x38⟩
def WFT_TOPO_SEL_HI.SEL5 : Fld := ⟨0x50, 0x0, 15, 8, .rws, 0x38⟩
def WFT_TOPO_SEL_HI.SEL6 : Fld := ⟨0x50, 0x0, 23, 16, .rws, 0x38⟩
def WFT_TOPO_SEL_HI.SEL7 : Fld := ⟨0x50, 0x0, 31, 24, .rws, 0x38⟩
def WFT_X_INIT.VALUE : Fld := ⟨0x60, 0x0, 23, 0, .rws, 0⟩
def WFT_X_MIN.VALUE : Fld := ⟨0x64, 0x0, 23, 0, .rws, 0⟩
def WFT_X_MAX.VALUE : Fld := ⟨0x68, 0x0, 23, 0, .rws, 0xffffff⟩
def WFT_X_STEP.VALUE : Fld := ⟨0x6c, 0x0, 23, 0, .rws, 1⟩
def WFT_Y_INIT.VALUE : Fld := ⟨0x70, 0x0, 23, 0, .rws, 0⟩
def WFT_Y_MIN.VALUE : Fld := ⟨0x74, 0x0, 23, 0, .rws, 0⟩
def WFT_Y_MAX.VALUE : Fld := ⟨0x78, 0x0, 23, 0, .rws, 0xffffff⟩
def WFT_Y_STEP.VALUE : Fld := ⟨0x7c, 0x0, 23, 0, .rws, 1⟩
def WFT_Z_CFG.INIT : Fld := ⟨0x80, 0x0, 7, 0, .rws, 0⟩
def WFT_Z_CFG.MIN : Fld := ⟨0x80, 0x0, 15, 8, .rws, 0⟩
def WFT_Z_CFG.MAX : Fld := ⟨0x80, 0x0, 23, 16, .rws, 0xff⟩
def WFT_D_INIT_LO.D : Fld := ⟨0x88, 0x0, 31, 0, .rws, 0⟩
def WFT_D_INIT_HI.D : Fld := ⟨0x8c, 0x0, 31, 0, .rws, 0⟩
def WFT_DB_LO.DB : Fld := ⟨0x90, 0x0, 31, 0, .rws, 0⟩
def WFT_DB_HI.DB : Fld := ⟨0x94, 0x0, 31, 0, .rws, 0⟩
def WFT_Mm_LO.MASK : Fld := ⟨0xa0, 0x8, 31, 0, .rws, 0⟩
def WFT_Mm_HI.MASK : Fld := ⟨0xa4, 0x8, 31, 0, .rws, 0⟩
def WFT_X.VALUE : Fld := ⟨0xc0, 0x0, 23, 0, .ro, 0⟩
def WFT_Y.VALUE : Fld := ⟨0xc4, 0x0, 23, 0, .ro, 0⟩
def WFT_Z.VALUE : Fld := ⟨0xc8, 0x0, 7, 0, .ro, 0⟩
def WFT_XSAVE.VALUE : Fld := ⟨0xcc, 0x0, 23, 0, .ro, 0⟩
def WFT_YSAVE.VALUE : Fld := ⟨0xd0, 0x0, 23, 0, .ro, 0⟩
def WFT_D_LO.D : Fld := ⟨0xd8, 0x0, 31, 0, .ro, 0⟩
def WFT_D_HI.D : Fld := ⟨0xdc, 0x0, 31, 0, .ro, 0⟩
def WFT_TBL_ADDR.INDEX : Fld := ⟨0x100, 0x0, 11, 0, .rw, 0⟩
def WFT_TBL_ADDR.TBL : Fld := ⟨0x100, 0x0, 13, 12, .rw, 0⟩
def WFT_TBL_ADDR.AUTOINC : Fld := ⟨0x100, 0x0, 15, 15, .rw, 1⟩
def WFT_TBL_DATA.DATA : Fld := ⟨0x104, 0x0, 11, 0, .rw, 0⟩
def WFT_ECC.CORR : Fld := ⟨0x108, 0x0, 15, 0, .rc, 0⟩
def WFT_ECC.FATAL : Fld := ⟨0x108, 0x0, 31, 31, .rc, 0⟩
def WFT_PMAP_CHn_LO.SLOT0 : Fld := ⟨0x200, 0x8, 7, 0, .rws, 0x38⟩
def WFT_PMAP_CHn_LO.SLOT1 : Fld := ⟨0x200, 0x8, 15, 8, .rws, 0x38⟩
def WFT_PMAP_CHn_LO.SLOT2 : Fld := ⟨0x200, 0x8, 23, 16, .rws, 0x38⟩
def WFT_PMAP_CHn_LO.SLOT3 : Fld := ⟨0x200, 0x8, 31, 24, .rws, 0x38⟩
def WFT_PMAP_CHn_HI.SLOT4 : Fld := ⟨0x204, 0x8, 7, 0, .rws, 0x38⟩
def WFT_PMAP_CHn_HI.SLOT5 : Fld := ⟨0x204, 0x8, 15, 8, .rws, 0x38⟩
def WFT_PMAP_CHn_HI.SLOT6 : Fld := ⟨0x204, 0x8, 23, 16, .rws, 0x38⟩
def WFT_PMAP_CHn_HI.SLOT7 : Fld := ⟨0x204, 0x8, 31, 24, .rws, 0x38⟩

/-- The wft registers. -/
def rowsWft : List RegRow := [
  ⟨"WFT_CFG", 0x40, 0x0, 1, true, [WFT_CFG.CATCH_SRC, WFT_CFG.TOPO_EN]⟩,
  ⟨"WFT_SCRt_CFG", 0x44, 0x4, 2, true, [WFT_SCRt_CFG.SRC, WFT_SCRt_CFG.SHIFT, WFT_SCRt_CFG.EN]⟩,
  ⟨"WFT_TOPO_SEL_LO", 0x4c, 0x0, 1, true, [WFT_TOPO_SEL_LO.SEL0, WFT_TOPO_SEL_LO.SEL1, WFT_TOPO_SEL_LO.SEL2, WFT_TOPO_SEL_LO.SEL3]⟩,
  ⟨"WFT_TOPO_SEL_HI", 0x50, 0x0, 1, true, [WFT_TOPO_SEL_HI.SEL4, WFT_TOPO_SEL_HI.SEL5, WFT_TOPO_SEL_HI.SEL6, WFT_TOPO_SEL_HI.SEL7]⟩,
  ⟨"WFT_X_INIT", 0x60, 0x0, 1, true, [WFT_X_INIT.VALUE]⟩,
  ⟨"WFT_X_MIN", 0x64, 0x0, 1, true, [WFT_X_MIN.VALUE]⟩,
  ⟨"WFT_X_MAX", 0x68, 0x0, 1, true, [WFT_X_MAX.VALUE]⟩,
  ⟨"WFT_X_STEP", 0x6c, 0x0, 1, true, [WFT_X_STEP.VALUE]⟩,
  ⟨"WFT_Y_INIT", 0x70, 0x0, 1, true, [WFT_Y_INIT.VALUE]⟩,
  ⟨"WFT_Y_MIN", 0x74, 0x0, 1, true, [WFT_Y_MIN.VALUE]⟩,
  ⟨"WFT_Y_MAX", 0x78, 0x0, 1, true, [WFT_Y_MAX.VALUE]⟩,
  ⟨"WFT_Y_STEP", 0x7c, 0x0, 1, true, [WFT_Y_STEP.VALUE]⟩,
  ⟨"WFT_Z_CFG", 0x80, 0x0, 1, true, [WFT_Z_CFG.INIT, WFT_Z_CFG.MIN, WFT_Z_CFG.MAX]⟩,
  ⟨"WFT_D_INIT_LO", 0x88, 0x0, 1, true, [WFT_D_INIT_LO.D]⟩,
  ⟨"WFT_D_INIT_HI", 0x8c, 0x0, 1, true, [WFT_D_INIT_HI.D]⟩,
  ⟨"WFT_DB_LO", 0x90, 0x0, 1, true, [WFT_DB_LO.DB]⟩,
  ⟨"WFT_DB_HI", 0x94, 0x0, 1, true, [WFT_DB_HI.DB]⟩,
  ⟨"WFT_Mm_LO", 0xa0, 0x8, 4, true, [WFT_Mm_LO.MASK]⟩,
  ⟨"WFT_Mm_HI", 0xa4, 0x8, 4, true, [WFT_Mm_HI.MASK]⟩,
  ⟨"WFT_X", 0xc0, 0x0, 1, false, [WFT_X.VALUE]⟩,
  ⟨"WFT_Y", 0xc4, 0x0, 1, false, [WFT_Y.VALUE]⟩,
  ⟨"WFT_Z", 0xc8, 0x0, 1, false, [WFT_Z.VALUE]⟩,
  ⟨"WFT_XSAVE", 0xcc, 0x0, 1, false, [WFT_XSAVE.VALUE]⟩,
  ⟨"WFT_YSAVE", 0xd0, 0x0, 1, false, [WFT_YSAVE.VALUE]⟩,
  ⟨"WFT_D_LO", 0xd8, 0x0, 1, false, [WFT_D_LO.D]⟩,
  ⟨"WFT_D_HI", 0xdc, 0x0, 1, false, [WFT_D_HI.D]⟩,
  ⟨"WFT_TBL_ADDR", 0x100, 0x0, 1, false, [WFT_TBL_ADDR.INDEX, WFT_TBL_ADDR.TBL, WFT_TBL_ADDR.AUTOINC]⟩,
  ⟨"WFT_TBL_DATA", 0x104, 0x0, 1, false, [WFT_TBL_DATA.DATA]⟩,
  ⟨"WFT_ECC", 0x108, 0x0, 1, false, [WFT_ECC.CORR, WFT_ECC.FATAL]⟩,
  ⟨"WFT_PMAP_CHn_LO", 0x200, 0x8, 16, true, [WFT_PMAP_CHn_LO.SLOT0, WFT_PMAP_CHn_LO.SLOT1, WFT_PMAP_CHn_LO.SLOT2, WFT_PMAP_CHn_LO.SLOT3]⟩,
  ⟨"WFT_PMAP_CHn_HI", 0x204, 0x8, 16, true, [WFT_PMAP_CHn_HI.SLOT4, WFT_PMAP_CHn_HI.SLOT5, WFT_PMAP_CHn_HI.SLOT6, WFT_PMAP_CHn_HI.SLOT7]⟩]

/-! ### cat registers -/

def CAT_CMD.OP : Fld := ⟨0x40, 0x0, 2, 0, .wo, 0⟩
def CAT_CMD_STAT.STATUS : Fld := ⟨0x44, 0x0, 1, 0, .ro, 0⟩
def CAT_CMD_STAT.LEFT : Fld := ⟨0x44, 0x0, 31, 12, .ro, 0⟩
def CAT_CMD_SITES_LO.SITES : Fld := ⟨0x48, 0x0, 31, 0, .rw, 0⟩
def CAT_CMD_SITES_HI.SITES : Fld := ⟨0x4c, 0x0, 31, 0, .rw, 0⟩
def CAT_TCLR_BASE.VALUE : Fld := ⟨0x50, 0x0, 20, 0, .rw, 0⟩
def CAT_TCLR_LEN.VALUE : Fld := ⟨0x54, 0x0, 20, 0, .rw, 0⟩
def CAT_CACHE_CFG.WB : Fld := ⟨0x58, 0x0, 7, 0, .rws, 0x80⟩
def CAT_CACHE_CFG.RISK : Fld := ⟨0x58, 0x0, 15, 8, .rws, 0xe0⟩
def CAT_CACHE_STAT.LINES : Fld := ⟨0x5c, 0x0, 16, 0, .ro, 0⟩
def CAT_CACHE_PEAK.LINES : Fld := ⟨0x60, 0x0, 16, 0, .ro, 0⟩
def CAT_MASK_LO.MASK : Fld := ⟨0x68, 0x0, 31, 0, .w1c, 0⟩
def CAT_MASK_HI.MASK : Fld := ⟨0x6c, 0x0, 31, 0, .w1c, 0⟩
def CAT_MASK_SET_LO.SET : Fld := ⟨0x70, 0x0, 31, 0, .w1s, 0⟩
def CAT_MASK_SET_HI.SET : Fld := ⟨0x74, 0x0, 31, 0, .w1s, 0⟩
def CAT_LOGONLY_LO.SITES : Fld := ⟨0x78, 0x0, 31, 0, .ro, 0⟩
def CAT_LOGONLY_HI.SITES : Fld := ⟨0x7c, 0x0, 31, 0, .ro, 0⟩
def CAT_VEC_LOST.COUNT : Fld := ⟨0x80, 0x0, 31, 0, .rc, 0⟩
def CAT_SITE_SEL.SITE : Fld := ⟨0x84, 0x0, 5, 0, .rw, 0⟩
def CAT_CHMAPn.SITE : Fld := ⟨0x100, 0x4, 5, 0, .rws, 0⟩
def CAT_CHMAPn.LANE : Fld := ⟨0x100, 0x4, 13, 8, .rws, 0⟩
def CAT_CHMAPn.EN : Fld := ⟨0x100, 0x4, 15, 15, .rws, 0⟩
def CAT_FCNTn_LO.COUNT : Fld := ⟨0x200, 0x8, 31, 0, .ro, 0⟩
def CAT_FCNTn_HI.COUNT : Fld := ⟨0x204, 0x8, 31, 0, .ro, 0⟩
def CAT_FSNAPn_LO.COUNT : Fld := ⟨0x400, 0x8, 31, 0, .ro, 0⟩
def CAT_FSNAPn_HI.COUNT : Fld := ⟨0x404, 0x8, 31, 0, .ro, 0⟩
def CAT_S_CFG.LOG : Fld := ⟨0x1000, 0x40, 1, 0, .rws, 0⟩
def CAT_S_CFG.MASK_MODE : Fld := ⟨0x1000, 0x40, 3, 2, .rws, 0⟩
def CAT_S_CFG.MAP_EN : Fld := ⟨0x1000, 0x40, 4, 4, .rws, 0⟩
def CAT_S_CFG.TALLY_EN : Fld := ⟨0x1000, 0x40, 5, 5, .rws, 0⟩
def CAT_S_CFG.SPOOL : Fld := ⟨0x1000, 0x40, 28, 16, .rws, 0⟩
def CAT_S_LIMITS.LOG_MAX : Fld := ⟨0x1004, 0x40, 15, 0, .rws, 0⟩
def CAT_S_LIMITS.MASK_AT : Fld := ⟨0x1004, 0x40, 31, 16, .rws, 1⟩
def CAT_S_MAP_BASE_LO.BASE : Fld := ⟨0x1008, 0x40, 31, 0, .rws, 0⟩
def CAT_S_MAP_BASE_HI.BASE : Fld := ⟨0x100c, 0x40, 31, 0, .rws, 0⟩
def CAT_S_MAP_FMT.XB : Fld := ⟨0x1010, 0x40, 4, 0, .rws, 0⟩
def CAT_S_MAP_FMT.YB : Fld := ⟨0x1010, 0x40, 9, 5, .rws, 0⟩
def CAT_S_MAP_FMT.ZB : Fld := ⟨0x1010, 0x40, 13, 10, .rws, 0⟩
def CAT_S_MAP_FMT.CB : Fld := ⟨0x1010, 0x40, 16, 14, .rws, 0⟩
def CAT_S_MAP_FMT.XSH : Fld := ⟨0x1010, 0x40, 21, 17, .rws, 0⟩
def CAT_S_MAP_FMT.YSH : Fld := ⟨0x1010, 0x40, 26, 22, .rws, 0⟩
def CAT_S_MAP_FMT.ORDER : Fld := ⟨0x1010, 0x40, 28, 27, .rws, 0⟩
def CAT_S_TALLY.ROW_AX : Fld := ⟨0x1014, 0x40, 0, 0, .rws, 0⟩
def CAT_S_TALLY.RB : Fld := ⟨0x1014, 0x40, 5, 1, .rws, 0⟩
def CAT_S_TALLY.TCB : Fld := ⟨0x1014, 0x40, 10, 6, .rws, 0⟩
def CAT_S_TALLY.LB : Fld := ⟨0x1014, 0x40, 13, 11, .rws, 0⟩
def CAT_S_TALLY.TZB : Fld := ⟨0x1014, 0x40, 17, 14, .rws, 0⟩
def CAT_S_TROW.BASE : Fld := ⟨0x1018, 0x40, 19, 0, .rws, 0⟩
def CAT_S_TCOL.BASE : Fld := ⟨0x101c, 0x40, 19, 0, .rws, 0⟩
def CAT_S_STAT.FAILED : Fld := ⟨0x3000, 0x40, 0, 0, .ro, 0⟩
def CAT_S_STAT.MASKED : Fld := ⟨0x3000, 0x40, 1, 1, .ro, 0⟩
def CAT_S_STAT.LOG_ONLY : Fld := ⟨0x3000, 0x40, 2, 2, .ro, 0⟩
def CAT_S_STAT.MAP_ERR : Fld := ⟨0x3000, 0x40, 3, 3, .ro, 0⟩
def CAT_S_STAT.TSAT : Fld := ⟨0x3000, 0x40, 4, 4, .ro, 0⟩
def CAT_S_STAT.SUSPECT : Fld := ⟨0x3000, 0x40, 5, 5, .ro, 0⟩
def CAT_S_STAT.LOG_FULL : Fld := ⟨0x3000, 0x40, 6, 6, .ro, 0⟩
def CAT_S_STAT.BAD_DESC : Fld := ⟨0x3000, 0x40, 7, 7, .ro, 0⟩
def CAT_S_STAT.MAP_ERRS : Fld := ⟨0x3000, 0x40, 31, 16, .ro, 0⟩
def CAT_S_NFAIL.COUNT : Fld := ⟨0x3004, 0x40, 31, 0, .ro, 0⟩
def CAT_S_FF_CYC_LO.CYCLE : Fld := ⟨0x3010, 0x40, 31, 0, .ro, 0⟩
def CAT_S_FF_CYC_HI.CYCLE : Fld := ⟨0x3014, 0x40, 31, 0, .ro, 0⟩
def CAT_S_FF_VADDR.VADDR : Fld := ⟨0x3018, 0x40, 25, 0, .ro, 0⟩
def CAT_S_FF_VADDR.BANK : Fld := ⟨0x3018, 0x40, 29, 28, .ro, 0⟩
def CAT_S_FF_VADDR.SUSPECT : Fld := ⟨0x3018, 0x40, 30, 30, .ro, 0⟩
def CAT_S_FF_VADDR.VALID : Fld := ⟨0x3018, 0x40, 31, 31, .ro, 0⟩
def CAT_S_FF_X.VALUE : Fld := ⟨0x301c, 0x40, 23, 0, .ro, 0⟩
def CAT_S_FF_Y.VALUE : Fld := ⟨0x3020, 0x40, 23, 0, .ro, 0⟩
def CAT_S_FF_Z.VALUE : Fld := ⟨0x3024, 0x40, 23, 0, .ro, 0⟩
def CAT_S_FF_LANES_LO.LANES : Fld := ⟨0x3028, 0x40, 31, 0, .ro, 0⟩
def CAT_S_FF_LANES_HI.LANES : Fld := ⟨0x302c, 0x40, 31, 0, .ro, 0⟩
def CAT_S_FF_TIME_LO.TIME : Fld := ⟨0x3030, 0x40, 31, 0, .ro, 0⟩
def CAT_S_FF_TIME_HI.TIME : Fld := ⟨0x3034, 0x40, 31, 0, .ro, 0⟩
def CAT_S_LOST_CYC_LO.CYCLE : Fld := ⟨0x3038, 0x40, 31, 0, .ro, 0⟩
def CAT_S_LOST_CYC_HI.CYCLE : Fld := ⟨0x303c, 0x40, 31, 0, .ro, 0⟩

/-- The cat registers. -/
def rowsCat : List RegRow := [
  ⟨"CAT_CMD", 0x40, 0x0, 1, false, [CAT_CMD.OP]⟩,
  ⟨"CAT_CMD_STAT", 0x44, 0x0, 1, false, [CAT_CMD_STAT.STATUS, CAT_CMD_STAT.LEFT]⟩,
  ⟨"CAT_CMD_SITES_LO", 0x48, 0x0, 1, false, [CAT_CMD_SITES_LO.SITES]⟩,
  ⟨"CAT_CMD_SITES_HI", 0x4c, 0x0, 1, false, [CAT_CMD_SITES_HI.SITES]⟩,
  ⟨"CAT_TCLR_BASE", 0x50, 0x0, 1, false, [CAT_TCLR_BASE.VALUE]⟩,
  ⟨"CAT_TCLR_LEN", 0x54, 0x0, 1, false, [CAT_TCLR_LEN.VALUE]⟩,
  ⟨"CAT_CACHE_CFG", 0x58, 0x0, 1, true, [CAT_CACHE_CFG.WB, CAT_CACHE_CFG.RISK]⟩,
  ⟨"CAT_CACHE_STAT", 0x5c, 0x0, 1, false, [CAT_CACHE_STAT.LINES]⟩,
  ⟨"CAT_CACHE_PEAK", 0x60, 0x0, 1, false, [CAT_CACHE_PEAK.LINES]⟩,
  ⟨"CAT_MASK_LO", 0x68, 0x0, 1, false, [CAT_MASK_LO.MASK]⟩,
  ⟨"CAT_MASK_HI", 0x6c, 0x0, 1, false, [CAT_MASK_HI.MASK]⟩,
  ⟨"CAT_MASK_SET_LO", 0x70, 0x0, 1, false, [CAT_MASK_SET_LO.SET]⟩,
  ⟨"CAT_MASK_SET_HI", 0x74, 0x0, 1, false, [CAT_MASK_SET_HI.SET]⟩,
  ⟨"CAT_LOGONLY_LO", 0x78, 0x0, 1, false, [CAT_LOGONLY_LO.SITES]⟩,
  ⟨"CAT_LOGONLY_HI", 0x7c, 0x0, 1, false, [CAT_LOGONLY_HI.SITES]⟩,
  ⟨"CAT_VEC_LOST", 0x80, 0x0, 1, false, [CAT_VEC_LOST.COUNT]⟩,
  ⟨"CAT_SITE_SEL", 0x84, 0x0, 1, false, [CAT_SITE_SEL.SITE]⟩,
  ⟨"CAT_CHMAPn", 0x100, 0x4, 64, true, [CAT_CHMAPn.SITE, CAT_CHMAPn.LANE, CAT_CHMAPn.EN]⟩,
  ⟨"CAT_FCNTn_LO", 0x200, 0x8, 64, false, [CAT_FCNTn_LO.COUNT]⟩,
  ⟨"CAT_FCNTn_HI", 0x204, 0x8, 64, false, [CAT_FCNTn_HI.COUNT]⟩,
  ⟨"CAT_FSNAPn_LO", 0x400, 0x8, 64, false, [CAT_FSNAPn_LO.COUNT]⟩,
  ⟨"CAT_FSNAPn_HI", 0x404, 0x8, 64, false, [CAT_FSNAPn_HI.COUNT]⟩,
  ⟨"CAT_S_CFG", 0x1000, 0x40, 64, true, [CAT_S_CFG.LOG, CAT_S_CFG.MASK_MODE, CAT_S_CFG.MAP_EN, CAT_S_CFG.TALLY_EN, CAT_S_CFG.SPOOL]⟩,
  ⟨"CAT_S_LIMITS", 0x1004, 0x40, 64, true, [CAT_S_LIMITS.LOG_MAX, CAT_S_LIMITS.MASK_AT]⟩,
  ⟨"CAT_S_MAP_BASE_LO", 0x1008, 0x40, 64, true, [CAT_S_MAP_BASE_LO.BASE]⟩,
  ⟨"CAT_S_MAP_BASE_HI", 0x100c, 0x40, 64, true, [CAT_S_MAP_BASE_HI.BASE]⟩,
  ⟨"CAT_S_MAP_FMT", 0x1010, 0x40, 64, true, [CAT_S_MAP_FMT.XB, CAT_S_MAP_FMT.YB, CAT_S_MAP_FMT.ZB, CAT_S_MAP_FMT.CB, CAT_S_MAP_FMT.XSH, CAT_S_MAP_FMT.YSH, CAT_S_MAP_FMT.ORDER]⟩,
  ⟨"CAT_S_TALLY", 0x1014, 0x40, 64, true, [CAT_S_TALLY.ROW_AX, CAT_S_TALLY.RB, CAT_S_TALLY.TCB, CAT_S_TALLY.LB, CAT_S_TALLY.TZB]⟩,
  ⟨"CAT_S_TROW", 0x1018, 0x40, 64, true, [CAT_S_TROW.BASE]⟩,
  ⟨"CAT_S_TCOL", 0x101c, 0x40, 64, true, [CAT_S_TCOL.BASE]⟩,
  ⟨"CAT_S_STAT", 0x3000, 0x40, 64, false, [CAT_S_STAT.FAILED, CAT_S_STAT.MASKED, CAT_S_STAT.LOG_ONLY, CAT_S_STAT.MAP_ERR, CAT_S_STAT.TSAT, CAT_S_STAT.SUSPECT, CAT_S_STAT.LOG_FULL, CAT_S_STAT.BAD_DESC, CAT_S_STAT.MAP_ERRS]⟩,
  ⟨"CAT_S_NFAIL", 0x3004, 0x40, 64, false, [CAT_S_NFAIL.COUNT]⟩,
  ⟨"CAT_S_FF_CYC_LO", 0x3010, 0x40, 64, false, [CAT_S_FF_CYC_LO.CYCLE]⟩,
  ⟨"CAT_S_FF_CYC_HI", 0x3014, 0x40, 64, false, [CAT_S_FF_CYC_HI.CYCLE]⟩,
  ⟨"CAT_S_FF_VADDR", 0x3018, 0x40, 64, false, [CAT_S_FF_VADDR.VADDR, CAT_S_FF_VADDR.BANK, CAT_S_FF_VADDR.SUSPECT, CAT_S_FF_VADDR.VALID]⟩,
  ⟨"CAT_S_FF_X", 0x301c, 0x40, 64, false, [CAT_S_FF_X.VALUE]⟩,
  ⟨"CAT_S_FF_Y", 0x3020, 0x40, 64, false, [CAT_S_FF_Y.VALUE]⟩,
  ⟨"CAT_S_FF_Z", 0x3024, 0x40, 64, false, [CAT_S_FF_Z.VALUE]⟩,
  ⟨"CAT_S_FF_LANES_LO", 0x3028, 0x40, 64, false, [CAT_S_FF_LANES_LO.LANES]⟩,
  ⟨"CAT_S_FF_LANES_HI", 0x302c, 0x40, 64, false, [CAT_S_FF_LANES_HI.LANES]⟩,
  ⟨"CAT_S_FF_TIME_LO", 0x3030, 0x40, 64, false, [CAT_S_FF_TIME_LO.TIME]⟩,
  ⟨"CAT_S_FF_TIME_HI", 0x3034, 0x40, 64, false, [CAT_S_FF_TIME_HI.TIME]⟩,
  ⟨"CAT_S_LOST_CYC_LO", 0x3038, 0x40, 64, false, [CAT_S_LOST_CYC_LO.CYCLE]⟩,
  ⟨"CAT_S_LOST_CYC_HI", 0x303c, 0x40, 64, false, [CAT_S_LOST_CYC_HI.CYCLE]⟩]

/-! ### spl registers -/

def SPL_POOL_FREE.FREE : Fld := ⟨0x40, 0x0, 17, 0, .ro, 0x20000⟩
def SPL_POOL_MIN.MIN : Fld := ⟨0x44, 0x0, 17, 0, .ro, 0x20000⟩
def SPL_OPEN.COUNT : Fld := ⟨0x48, 0x0, 8, 0, .ro, 0⟩
def SPL_Q_SEL.QUEUE : Fld := ⟨0x4c, 0x0, 10, 0, .rw, 0⟩
def SPL_FLUSH.QUEUE : Fld := ⟨0x50, 0x0, 10, 0, .wo, 0⟩
def SPL_NOQ.COUNT : Fld := ⟨0x54, 0x0, 31, 0, .rc, 0⟩
def SPL_ECC.CORR : Fld := ⟨0x58, 0x0, 15, 0, .rc, 0⟩
def SPL_ECC.FATAL : Fld := ⟨0x58, 0x0, 31, 31, .rc, 0⟩
def SPL_CELLk.DATA : Fld := ⟨0x100, 0x4, 31, 0, .rw, 0⟩
def SPL_OP.OP : Fld := ⟨0x140, 0x0, 1, 0, .wo, 0⟩
def SPL_OP.FIRST : Fld := ⟨0x140, 0x0, 2, 2, .wo, 0⟩
def SPL_OP.LAST : Fld := ⟨0x140, 0x0, 3, 3, .wo, 0⟩
def SPL_OP.HANDLE : Fld := ⟨0x140, 0x0, 28, 16, .wo, 0⟩
def SPL_OP_RES.STATUS : Fld := ⟨0x144, 0x0, 2, 0, .ro, 0⟩
def SPL_OP_RES.FIRST : Fld := ⟨0x144, 0x0, 4, 4, .ro, 0⟩
def SPL_OP_RES.LAST : Fld := ⟨0x144, 0x0, 5, 5, .ro, 0⟩
def SPL_OP_RES.MARKER : Fld := ⟨0x144, 0x0, 6, 6, .ro, 0⟩
def SPL_Q_CFG.LIMIT : Fld := ⟨0x1000, 0x4, 17, 0, .rws, 0⟩
def SPL_Q_CFG.EN : Fld := ⟨0x1000, 0x4, 31, 31, .rws, 0⟩
def SPL_Q_STAT.CELLS : Fld := ⟨0x4000, 0x4, 17, 0, .ro, 0⟩
def SPL_Q_STAT.MARKER : Fld := ⟨0x4000, 0x4, 24, 24, .ro, 0⟩
def SPL_Q_STAT.MID_ITEM : Fld := ⟨0x4000, 0x4, 25, 25, .ro, 0⟩
def SPL_Q_ITEMS.COUNT : Fld := ⟨0x6000, 0x4, 17, 0, .ro, 0⟩
def SPL_Q_DROPS.COUNT : Fld := ⟨0x8000, 0x4, 31, 0, .rc, 0⟩
def SPL_Q_DISC.COUNT : Fld := ⟨0xa000, 0x4, 31, 0, .rc, 0⟩
def SPL_Q_PEAK.CELLS : Fld := ⟨0xc000, 0x4, 17, 0, .ro, 0⟩

/-- The spl registers. -/
def rowsSpl : List RegRow := [
  ⟨"SPL_POOL_FREE", 0x40, 0x0, 1, false, [SPL_POOL_FREE.FREE]⟩,
  ⟨"SPL_POOL_MIN", 0x44, 0x0, 1, false, [SPL_POOL_MIN.MIN]⟩,
  ⟨"SPL_OPEN", 0x48, 0x0, 1, false, [SPL_OPEN.COUNT]⟩,
  ⟨"SPL_Q_SEL", 0x4c, 0x0, 1, false, [SPL_Q_SEL.QUEUE]⟩,
  ⟨"SPL_FLUSH", 0x50, 0x0, 1, false, [SPL_FLUSH.QUEUE]⟩,
  ⟨"SPL_NOQ", 0x54, 0x0, 1, false, [SPL_NOQ.COUNT]⟩,
  ⟨"SPL_ECC", 0x58, 0x0, 1, false, [SPL_ECC.CORR, SPL_ECC.FATAL]⟩,
  ⟨"SPL_CELLk", 0x100, 0x4, 16, false, [SPL_CELLk.DATA]⟩,
  ⟨"SPL_OP", 0x140, 0x0, 1, false, [SPL_OP.OP, SPL_OP.FIRST, SPL_OP.LAST, SPL_OP.HANDLE]⟩,
  ⟨"SPL_OP_RES", 0x144, 0x0, 1, false, [SPL_OP_RES.STATUS, SPL_OP_RES.FIRST, SPL_OP_RES.LAST, SPL_OP_RES.MARKER]⟩,
  ⟨"SPL_Q_CFG", 0x1000, 0x4, 2048, true, [SPL_Q_CFG.LIMIT, SPL_Q_CFG.EN]⟩,
  ⟨"SPL_Q_STAT", 0x4000, 0x4, 2048, false, [SPL_Q_STAT.CELLS, SPL_Q_STAT.MARKER, SPL_Q_STAT.MID_ITEM]⟩,
  ⟨"SPL_Q_ITEMS", 0x6000, 0x4, 2048, false, [SPL_Q_ITEMS.COUNT]⟩,
  ⟨"SPL_Q_DROPS", 0x8000, 0x4, 2048, false, [SPL_Q_DROPS.COUNT]⟩,
  ⟨"SPL_Q_DISC", 0xa000, 0x4, 2048, false, [SPL_Q_DISC.COUNT]⟩,
  ⟨"SPL_Q_PEAK", 0xc000, 0x4, 2048, false, [SPL_Q_PEAK.CELLS]⟩]

/-! ### shu registers -/

def SHU_CL_LOCK.HELD : Fld := ⟨0x40, 0x0, 0, 0, .ro, 0⟩
def SHU_CL_LOCK.OWNER : Fld := ⟨0x40, 0x0, 7, 4, .ro, 0⟩
def SHU_CL_LOCK.WAITS : Fld := ⟨0x40, 0x0, 31, 16, .rc, 0⟩
def SHU_CL_RUN.ENGINES : Fld := ⟨0x44, 0x0, 15, 0, .ro, 0⟩
def SHU_CL_RUN.FETCH : Fld := ⟨0x44, 0x0, 31, 16, .ro, 0⟩
def SHU_CL_START.ENGINES : Fld := ⟨0x48, 0x0, 15, 0, .w1s, 0⟩
def SHU_CL_KILL.ENGINES : Fld := ⟨0x4c, 0x0, 15, 0, .w1s, 0⟩
def SHU_CL_ECC.CORR : Fld := ⟨0x50, 0x0, 15, 0, .rc, 0⟩
def SHU_CL_ECC.FATAL : Fld := ⟨0x50, 0x0, 31, 31, .rc, 0⟩
def SHU_En_CTL.START : Fld := ⟨0x400, 0x40, 0, 0, .w1s, 0⟩
def SHU_En_CTL.KILL : Fld := ⟨0x400, 0x40, 1, 1, .w1s, 0⟩
def SHU_En_CTL.KICK : Fld := ⟨0x400, 0x40, 2, 2, .w1s, 0⟩
def SHU_En_ENTRY.PC : Fld := ⟨0x404, 0x40, 13, 0, .rw, 0x40⟩
def SHU_En_STAT.STATE : Fld := ⟨0x408, 0x40, 1, 0, .ro, 0⟩
def SHU_En_STAT.CAUSE : Fld := ⟨0x408, 0x40, 7, 4, .ro, 0⟩
def SHU_En_STAT.WAIT : Fld := ⟨0x408, 0x40, 8, 8, .ro, 0⟩
def SHU_En_STAT.LOCK_BROKEN : Fld := ⟨0x408, 0x40, 9, 9, .rc, 0⟩
def SHU_En_STAT.IN_LOCK : Fld := ⟨0x408, 0x40, 10, 10, .ro, 0⟩
def SHU_En_STAT.START_REFUSED : Fld := ⟨0x408, 0x40, 11, 11, .rc, 0⟩
def SHU_En_PC.PC : Fld := ⟨0x40c, 0x40, 13, 0, .ro, 0⟩
def SHU_En_INT_EN.EN : Fld := ⟨0x410, 0x40, 7, 0, .rw, 0⟩
def SHU_En_INT_EN.EVT : Fld := ⟨0x410, 0x40, 19, 16, .rw, 0⟩
def SHU_En_INT_PEND.PEND : Fld := ⟨0x414, 0x40, 7, 0, .w1c, 0⟩
def SHU_En_DOORBELL.RING : Fld := ⟨0x418, 0x40, 0, 0, .w1s, 0⟩
def SHU_En_SPWATCH.HANDLE : Fld := ⟨0x41c, 0x40, 12, 0, .rw, 0⟩
def SHU_En_SPWATCH.EN : Fld := ⟨0x41c, 0x40, 15, 15, .rw, 0⟩
def SHU_En_TIMER.COUNT : Fld := ⟨0x420, 0x40, 31, 0, .ro, 0⟩
def SHU_En_TIMER_RELOAD.VALUE : Fld := ⟨0x424, 0x40, 31, 0, .rw, 0⟩
def SHU_En_WDOG.PERIOD : Fld := ⟨0x428, 0x40, 15, 0, .rw, 0⟩
def SHU_En_WDOG.LEFT : Fld := ⟨0x428, 0x40, 31, 16, .ro, 0⟩
def SHU_En_CYC_LO.COUNT : Fld := ⟨0x430, 0x40, 31, 0, .ro, 0⟩
def SHU_En_CYC_HI.COUNT : Fld := ⟨0x434, 0x40, 31, 0, .ro, 0⟩
def SHU_En_SNAP_LO.COUNT : Fld := ⟨0x438, 0x40, 31, 0, .ro, 0⟩
def SHU_En_SNAP_HI.COUNT : Fld := ⟨0x43c, 0x40, 31, 0, .ro, 0⟩
def SHU_Fi_SRC_LO.ADDR : Fld := ⟨0x800, 0x20, 31, 0, .rw, 0⟩
def SHU_Fi_SRC_HI.ADDR : Fld := ⟨0x804, 0x20, 15, 0, .rw, 0⟩
def SHU_Fi_DST.WORD : Fld := ⟨0x808, 0x20, 18, 0, .rw, 0⟩
def SHU_Fi_DST.DSPACE : Fld := ⟨0x808, 0x20, 31, 31, .rw, 0⟩
def SHU_Fi_SIZE.LEN : Fld := ⟨0x80c, 0x20, 15, 0, .rw, 0⟩
def SHU_Fi_SIZE.ROWS : Fld := ⟨0x80c, 0x20, 27, 16, .rw, 0⟩
def SHU_Fi_STRIDE.BYTES : Fld := ⟨0x810, 0x20, 31, 0, .rw, 0⟩
def SHU_Fi_CTL.GO : Fld := ⟨0x814, 0x20, 0, 0, .w1s, 0⟩
def SHU_Fi_CTL.DIR : Fld := ⟨0x814, 0x20, 1, 1, .rw, 0⟩
def SHU_Fi_STAT.STATUS : Fld := ⟨0x818, 0x20, 1, 0, .ro, 0⟩
def SHU_Fi_STAT.ERR : Fld := ⟨0x818, 0x20, 6, 4, .ro, 0⟩
def SHU_Fi_MOVED.WORDS : Fld := ⟨0x81c, 0x20, 31, 0, .ro, 0⟩

/-- The shu registers. -/
def rowsShu : List RegRow := [
  ⟨"SHU_CL_LOCK", 0x40, 0x0, 1, false, [SHU_CL_LOCK.HELD, SHU_CL_LOCK.OWNER, SHU_CL_LOCK.WAITS]⟩,
  ⟨"SHU_CL_RUN", 0x44, 0x0, 1, false, [SHU_CL_RUN.ENGINES, SHU_CL_RUN.FETCH]⟩,
  ⟨"SHU_CL_START", 0x48, 0x0, 1, false, [SHU_CL_START.ENGINES]⟩,
  ⟨"SHU_CL_KILL", 0x4c, 0x0, 1, false, [SHU_CL_KILL.ENGINES]⟩,
  ⟨"SHU_CL_ECC", 0x50, 0x0, 1, false, [SHU_CL_ECC.CORR, SHU_CL_ECC.FATAL]⟩,
  ⟨"SHU_En_CTL", 0x400, 0x40, 16, false, [SHU_En_CTL.START, SHU_En_CTL.KILL, SHU_En_CTL.KICK]⟩,
  ⟨"SHU_En_ENTRY", 0x404, 0x40, 16, true, [SHU_En_ENTRY.PC]⟩,
  ⟨"SHU_En_STAT", 0x408, 0x40, 16, false, [SHU_En_STAT.STATE, SHU_En_STAT.CAUSE, SHU_En_STAT.WAIT, SHU_En_STAT.LOCK_BROKEN, SHU_En_STAT.IN_LOCK, SHU_En_STAT.START_REFUSED]⟩,
  ⟨"SHU_En_PC", 0x40c, 0x40, 16, false, [SHU_En_PC.PC]⟩,
  ⟨"SHU_En_INT_EN", 0x410, 0x40, 16, true, [SHU_En_INT_EN.EN, SHU_En_INT_EN.EVT]⟩,
  ⟨"SHU_En_INT_PEND", 0x414, 0x40, 16, false, [SHU_En_INT_PEND.PEND]⟩,
  ⟨"SHU_En_DOORBELL", 0x418, 0x40, 16, false, [SHU_En_DOORBELL.RING]⟩,
  ⟨"SHU_En_SPWATCH", 0x41c, 0x40, 16, true, [SHU_En_SPWATCH.HANDLE, SHU_En_SPWATCH.EN]⟩,
  ⟨"SHU_En_TIMER", 0x420, 0x40, 16, false, [SHU_En_TIMER.COUNT]⟩,
  ⟨"SHU_En_TIMER_RELOAD", 0x424, 0x40, 16, true, [SHU_En_TIMER_RELOAD.VALUE]⟩,
  ⟨"SHU_En_WDOG", 0x428, 0x40, 16, true, [SHU_En_WDOG.PERIOD, SHU_En_WDOG.LEFT]⟩,
  ⟨"SHU_En_CYC_LO", 0x430, 0x40, 16, false, [SHU_En_CYC_LO.COUNT]⟩,
  ⟨"SHU_En_CYC_HI", 0x434, 0x40, 16, false, [SHU_En_CYC_HI.COUNT]⟩,
  ⟨"SHU_En_SNAP_LO", 0x438, 0x40, 16, false, [SHU_En_SNAP_LO.COUNT]⟩,
  ⟨"SHU_En_SNAP_HI", 0x43c, 0x40, 16, false, [SHU_En_SNAP_HI.COUNT]⟩,
  ⟨"SHU_Fi_SRC_LO", 0x800, 0x20, 16, false, [SHU_Fi_SRC_LO.ADDR]⟩,
  ⟨"SHU_Fi_SRC_HI", 0x804, 0x20, 16, false, [SHU_Fi_SRC_HI.ADDR]⟩,
  ⟨"SHU_Fi_DST", 0x808, 0x20, 16, false, [SHU_Fi_DST.WORD, SHU_Fi_DST.DSPACE]⟩,
  ⟨"SHU_Fi_SIZE", 0x80c, 0x20, 16, false, [SHU_Fi_SIZE.LEN, SHU_Fi_SIZE.ROWS]⟩,
  ⟨"SHU_Fi_STRIDE", 0x810, 0x20, 16, false, [SHU_Fi_STRIDE.BYTES]⟩,
  ⟨"SHU_Fi_CTL", 0x814, 0x20, 16, false, [SHU_Fi_CTL.GO, SHU_Fi_CTL.DIR]⟩,
  ⟨"SHU_Fi_STAT", 0x818, 0x20, 16, false, [SHU_Fi_STAT.STATUS, SHU_Fi_STAT.ERR]⟩,
  ⟨"SHU_Fi_MOVED", 0x81c, 0x20, 16, false, [SHU_Fi_MOVED.WORDS]⟩]

/-! ### darn registers -/

def DARN_CFG.EN : Fld := ⟨0x40, 0x0, 0, 0, .rws, 1⟩
def DARN_CFG.PACE : Fld := ⟨0x40, 0x0, 15, 8, .rws, 0x18⟩
def DARN_PASS.COUNT : Fld := ⟨0x44, 0x0, 31, 0, .ro, 0⟩
def DARN_POS.FRAME : Fld := ⟨0x48, 0x0, 16, 0, .ro, 0⟩
def DARN_CORR.COUNT : Fld := ⟨0x4c, 0x0, 31, 0, .rc, 0⟩
def DARN_MULTI.COUNT : Fld := ⟨0x50, 0x0, 31, 0, .rc, 0⟩
def DARN_LAST.FRAME : Fld := ⟨0x54, 0x0, 16, 0, .ro, 0⟩
def DARN_LAST.KIND : Fld := ⟨0x54, 0x0, 19, 18, .ro, 0⟩
def DARN_LAST.BIT : Fld := ⟨0x54, 0x0, 31, 20, .ro, 0⟩
def DARN_LAST_T_LO.TIME : Fld := ⟨0x58, 0x0, 31, 0, .ro, 0⟩
def DARN_LAST_T_HI.TIME : Fld := ⟨0x5c, 0x0, 31, 0, .ro, 0⟩
def DARN_TMR.FIX : Fld := ⟨0x60, 0x0, 15, 0, .rc, 0⟩
def DARN_TBL_ECC.CORR : Fld := ⟨0x64, 0x0, 15, 0, .rc, 0⟩
def DARN_TBL_ECC.FATAL : Fld := ⟨0x64, 0x0, 31, 31, .rc, 0⟩
def DARN_TBL_SUM_REF.SUM : Fld := ⟨0x68, 0x0, 31, 0, .ro, 0⟩
def DARN_TBL_SUM_NOW.SUM : Fld := ⟨0x6c, 0x0, 31, 0, .ro, 0⟩
def DARN_HB.COUNT : Fld := ⟨0x70, 0x0, 15, 0, .ro, 0⟩

/-- The darn registers. -/
def rowsDarn : List RegRow := [
  ⟨"DARN_CFG", 0x40, 0x0, 1, true, [DARN_CFG.EN, DARN_CFG.PACE]⟩,
  ⟨"DARN_PASS", 0x44, 0x0, 1, false, [DARN_PASS.COUNT]⟩,
  ⟨"DARN_POS", 0x48, 0x0, 1, false, [DARN_POS.FRAME]⟩,
  ⟨"DARN_CORR", 0x4c, 0x0, 1, false, [DARN_CORR.COUNT]⟩,
  ⟨"DARN_MULTI", 0x50, 0x0, 1, false, [DARN_MULTI.COUNT]⟩,
  ⟨"DARN_LAST", 0x54, 0x0, 1, false, [DARN_LAST.FRAME, DARN_LAST.KIND, DARN_LAST.BIT]⟩,
  ⟨"DARN_LAST_T_LO", 0x58, 0x0, 1, false, [DARN_LAST_T_LO.TIME]⟩,
  ⟨"DARN_LAST_T_HI", 0x5c, 0x0, 1, false, [DARN_LAST_T_HI.TIME]⟩,
  ⟨"DARN_TMR", 0x60, 0x0, 1, false, [DARN_TMR.FIX]⟩,
  ⟨"DARN_TBL_ECC", 0x64, 0x0, 1, false, [DARN_TBL_ECC.CORR, DARN_TBL_ECC.FATAL]⟩,
  ⟨"DARN_TBL_SUM_REF", 0x68, 0x0, 1, false, [DARN_TBL_SUM_REF.SUM]⟩,
  ⟨"DARN_TBL_SUM_NOW", 0x6c, 0x0, 1, false, [DARN_TBL_SUM_NOW.SUM]⟩,
  ⟨"DARN_HB", 0x70, 0x0, 1, false, [DARN_HB.COUNT]⟩]

/-! ### fab registers -/

def FAB_INFO.SWATCHES : Fld := ⟨0x40, 0x0, 17, 0, .ro, 0x30d40⟩
def FAB_INFO.BOLTS : Fld := ⟨0x40, 0x0, 31, 20, .ro, 0x700⟩
def FAB_CLKSTAT.RUN : Fld := ⟨0x44, 0x0, 8, 0, .ro, 0⟩
def FAB_SEAM_DIR.HORIZ : Fld := ⟨0x48, 0x0, 11, 0, .rws, 0⟩
def FAB_SEAM_DIR.VERT : Fld := ⟨0x48, 0x0, 27, 16, .rws, 0⟩
def FAB_TX_UNDER.COUNT : Fld := ⟨0x4c, 0x0, 31, 0, .rc, 0⟩
def FAB_UREGk.VALUE : Fld := ⟨0x80, 0x4, 31, 0, .rw, 0⟩
def FAB_USTATk.VALUE : Fld := ⟨0xc0, 0x4, 31, 0, .ro, 0⟩
def FAB_PORTf_CFG.CLK : Fld := ⟨0x100, 0x8, 3, 0, .rws, 8⟩
def FAB_PORTf_CFG.STREAM : Fld := ⟨0x100, 0x8, 4, 4, .rws, 0⟩
def FAB_PORTf_CFG.DST_RTR : Fld := ⟨0x100, 0x8, 13, 8, .rws, 0⟩
def FAB_PORTf_CFG.DST_PORT : Fld := ⟨0x100, 0x8, 19, 16, .rws, 0⟩
def FAB_PORTf_STAT.TAGS : Fld := ⟨0x104, 0x8, 10, 0, .ro, 0⟩
def FAB_PORTf_STAT.CREDITS : Fld := ⟨0x104, 0x8, 22, 16, .ro, 0⟩
def FAB_PORTf_STAT.RXBUF : Fld := ⟨0x104, 0x8, 30, 24, .ro, 0⟩
def FAB_SPk_CFG.MODE : Fld := ⟨0x200, 0x8, 2, 0, .rws, 0⟩
def FAB_SPk_CFG.PARITY : Fld := ⟨0x200, 0x8, 3, 3, .rws, 0⟩
def FAB_SPk_CFG.ODD : Fld := ⟨0x200, 0x8, 4, 4, .rws, 0⟩
def FAB_SPk_CFG.STOP2 : Fld := ⟨0x200, 0x8, 5, 5, .rws, 0⟩
def FAB_SPk_CFG.CLK : Fld := ⟨0x200, 0x8, 9, 6, .rws, 8⟩
def FAB_SPk_CFG.DIV : Fld := ⟨0x200, 0x8, 31, 16, .rws, 0x3640⟩
def FAB_SPk_STAT.TXQ : Fld := ⟨0x204, 0x8, 4, 0, .ro, 0⟩
def FAB_SPk_STAT.RXQ : Fld := ⟨0x204, 0x8, 12, 8, .ro, 0⟩
def FAB_SPk_STAT.RX_LOST : Fld := ⟨0x204, 0x8, 31, 16, .rc, 0⟩

/-- The fab registers. -/
def rowsFab : List RegRow := [
  ⟨"FAB_INFO", 0x40, 0x0, 1, false, [FAB_INFO.SWATCHES, FAB_INFO.BOLTS]⟩,
  ⟨"FAB_CLKSTAT", 0x44, 0x0, 1, false, [FAB_CLKSTAT.RUN]⟩,
  ⟨"FAB_SEAM_DIR", 0x48, 0x0, 1, true, [FAB_SEAM_DIR.HORIZ, FAB_SEAM_DIR.VERT]⟩,
  ⟨"FAB_TX_UNDER", 0x4c, 0x0, 1, false, [FAB_TX_UNDER.COUNT]⟩,
  ⟨"FAB_UREGk", 0x80, 0x4, 16, true, [FAB_UREGk.VALUE]⟩,
  ⟨"FAB_USTATk", 0xc0, 0x4, 16, false, [FAB_USTATk.VALUE]⟩,
  ⟨"FAB_PORTf_CFG", 0x100, 0x8, 16, true, [FAB_PORTf_CFG.CLK, FAB_PORTf_CFG.STREAM, FAB_PORTf_CFG.DST_RTR, FAB_PORTf_CFG.DST_PORT]⟩,
  ⟨"FAB_PORTf_STAT", 0x104, 0x8, 16, false, [FAB_PORTf_STAT.TAGS, FAB_PORTf_STAT.CREDITS, FAB_PORTf_STAT.RXBUF]⟩,
  ⟨"FAB_SPk_CFG", 0x200, 0x8, 4, true, [FAB_SPk_CFG.MODE, FAB_SPk_CFG.PARITY, FAB_SPk_CFG.ODD, FAB_SPk_CFG.STOP2, FAB_SPk_CFG.CLK, FAB_SPk_CFG.DIV]⟩,
  ⟨"FAB_SPk_STAT", 0x204, 0x8, 4, false, [FAB_SPk_STAT.TXQ, FAB_SPk_STAT.RXQ, FAB_SPk_STAT.RX_LOST]⟩]

/-- The block-area registers of a page kind (R37). -/
def rowsOf : PageKind → List RegRow
  | .seam => rowsSeam
  | .hub => rowsHub
  | .mbx => rowsMbx
  | .dbg => rowsDbg
  | .alm => rowsAlm
  | .time => rowsTime
  | .clkSel => rowsClkSel
  | .clkPnl => rowsClkPnl
  | .pwr => rowsPwr
  | .cfg => rowsCfg
  | .drcMap => rowsDrcMap
  | .drc => rowsDrc
  | .lin => rowsLin
  | .noc => rowsNoc
  | .gov => rowsGov
  | .pat => rowsPat
  | .klfRt => rowsKlfRt
  | .klfCom => rowsKlfCom
  | .klfLink => rowsKlfLink
  | .lane => rowsLane
  | .edg => rowsEdg
  | .seq => rowsSeq
  | .wft => rowsWft
  | .cat => rowsCat
  | .spl => rowsSpl
  | .shu => rowsShu
  | .darn => rowsDarn
  | .fab => rowsFab

/-- The offset is one of the register's copies. -/
def RegRow.hits (r : RegRow) (off : Nat) : Bool :=
  if r.stride = 0 then off == r.off
  else decide (r.off ≤ off) && (off - r.off) % r.stride == 0
    && decide ((off - r.off) / r.stride < r.count)

/-- The register at an offset of a page kind; header registers lie below 0x040 (R37). -/
def rowAt (k : PageKind) (off : Nat) : Option RegRow :=
  if off < 0x40 then rowsHeader.find? (·.hits off) else (rowsOf k).find? (·.hits off)

/-- The bits of the fields whose type passes the test, as a mask. -/
def RegRow.mask (r : RegRow) (p : FTy → Bool) : Nat :=
  r.fields.foldl (fun m f => if p f.ty then m ||| (2 ^ (f.hi + 1) - 2 ^ f.lo) else m) 0

/-- The reset word of a register: every listed field at its reset value, other bits 0 (R3, R4). -/
def RegRow.resetNat (r : RegRow) : Nat :=
  r.fields.foldl (fun n f => putBits n f.hi f.lo f.rst) 0

end Sys2Proof.Machine
end

