-- ==== Sys2Proof/Machine/Table.lean ====
section
/-! DEFINITION. Sparse tables: lists of (key, value) pairs with strictly rising keys.
Every memory, register file and indexed unit of the machine is held in one. -/

namespace Sys2Proof.Machine

/-- A sparse table; the keys rise strictly from the front. -/
abbrev Tbl (α : Type) := List (Nat × α)

/-- The entry held under a key. -/
def Tbl.find {α : Type} : Tbl α → Nat → Option α
  | [], _ => none
  | (j, v) :: r, k => if k = j then some v else Tbl.find r k

/-- The table with the value put under the key. -/
def Tbl.put {α : Type} : Tbl α → Nat → α → Tbl α
  | [], k, v => [(k, v)]
  | (j, u) :: r, k, v =>
    if k < j then (k, v) :: (j, u) :: r
    else if k = j then (k, v) :: r
    else (j, u) :: Tbl.put r k v

/-- The table with no entry under the key. -/
def Tbl.del {α : Type} : Tbl α → Nat → Tbl α
  | [], _ => []
  | (j, u) :: r, k => if k = j then Tbl.del r k else (j, u) :: Tbl.del r k

/-- What a key reads as, where an unlisted key reads as `d`. -/
def Tbl.getD {α : Type} (t : Tbl α) (k : Nat) (d : α) : α := (t.find k).getD d

/-- A write that keeps the canonical form: the value that an unlisted key reads as is not listed. -/
def Tbl.setD {α : Type} [DecidableEq α] (t : Tbl α) (k : Nat) (d v : α) : Tbl α :=
  if v = d then t.del k else t.put k v

/-- Every key of the table is greater than `k`. -/
def Tbl.above {α : Type} (k : Nat) (t : Tbl α) : Bool := t.all fun e => decide (k < e.1)

/-- The keys rise strictly. -/
def Tbl.sorted {α : Type} : Tbl α → Bool
  | [] => true
  | e :: r => Tbl.above e.1 r && Tbl.sorted r

/-- The entries whose key lies in a range. -/
def Tbl.range {α : Type} (t : Tbl α) (lo hi : Nat) : Tbl α :=
  t.filter fun e => decide (lo ≤ e.1 ∧ e.1 < hi)

/-- The table without the entries whose key lies in a range. -/
def Tbl.clear {α : Type} (t : Tbl α) (lo hi : Nat) : Tbl α :=
  t.filter fun e => !decide (lo ≤ e.1 ∧ e.1 < hi)

end Sys2Proof.Machine
end

