-- ==== Sys2Proof/Machine/State.lean ====
section
/-! DEFINITION. The state of the device as plain data: the software-visible registers of every
page in one sparse file, their shadows, and the state that the chapters give each block beside
its registers; the outcomes other than a next state; and the state after reset. -/

namespace Sys2Proof.Machine

/-- The responses of R311. -/
inductive BusStatus where
  | ok | decode | align | gated | off | absent | dieDown | ecc | tag | denied | notReady
  | lineExhausted | unreachable | noBudget | firewall | routeOff
  deriving DecidableEq, Repr

/-- The code that R311 gives a response. -/
def BusStatus.code : BusStatus → Nat
  | .ok => 0 | .decode => 1 | .align => 2 | .gated => 3 | .off => 4 | .absent => 5
  | .dieDown => 6 | .ecc => 7 | .tag => 8 | .denied => 9 | .notReady => 10
  | .lineExhausted => 11 | .unreachable => 12 | .noBudget => 13 | .firewall => 14
  | .routeOff => 15

/-- The answer to the last access: its status, its data as a little-endian number, and whether
the outcome of the request is unsure (R345), and of a spool operation its SPST and SPF (R309). `issued` is false when nothing was answered. -/
structure Resp where
  status : BusStatus := .ok
  data : Nat := 0
  unsure : Bool := false
  issued : Bool := false
  spst : Nat := 0
  spf : Nat := 0
  deriving DecidableEq, Repr

/-- One entry of the alarm log (R476). -/
structure AlarmEnt where
  page : Nat
  cls : Nat
  bitNo : Option Nat
  die : Nat
  time : Nat
  deriving DecidableEq, Repr

/-- A CRC pass in progress (R49, R52): when it started, whether it serves a commit, whether the
commit's conditions have held so far, and whether a covered register has changed under it. -/
structure CrcPass where
  start : Nat
  commit : Bool
  clean : Bool
  touched : Bool
  deriving DecidableEq, Repr

/-- What a page holds beside its registers: the running CRC pass, the start of the last one, and
whether a shadow of the pending set holds a parity error (R46). -/
structure PageX where
  pass : Option CrcPass := none
  lastStart : Nat := 0
  upset : Bool := false
  deriving DecidableEq, Repr

/-- A bus access that is stalled while it crosses into another clock domain (R54): the access,
whether the shadow that it writes takes a parity error, and how it ends where its block has been
lost meanwhile (R55). -/
structure Stall where
  addr : Nat
  width : Nat
  write : Bool
  value : Nat
  init : Nat
  src : Nat
  upset : Bool := false
  stop : Option BusStatus := none
  deriving DecidableEq, Repr

/-- What the selvage die knows of a die, and the last TCLK edge that the die took (R9, R11, R12, R22,
R27, R65, R422), with the start of the package reference to a panel. -/
structure DieX where
  porDone : Bool := false
  answered : Bool := false
  lost : Bool := false
  dieId : Nat := 0
  pkgVar : Nat := 0
  liveSince : Option Nat := none
  detour : Bool := false
  refAt : Option Nat := none
  tclkAt : Nat := 0
  deriving DecidableEq, Repr

/-- The single-wire outputs of the device (R427, R478, R398, R401, R444). A pin that is not
driven is `none`; `some true` is asserted. -/
structure Pins where
  alarmN : Option Bool := none
  confDone : Option Bool := none
  confErrN : Option Bool := none
  thermN : Option Bool := none
  deriving DecidableEq, Repr

/-- What the last beacon reply on a port carried (R70, R343). -/
structure BeaconReply where
  valid : Bool
  suspect : Bool
  depth : Nat
  deriving DecidableEq, Repr

/-- The beacon exchange of one Kelef port (R70, R343): when the last one was started, the t1 and the
exchange number of the one in flight, and the last reply received. -/
structure BeaconX where
  last : Option Nat := none
  t1 : Option Nat := none
  seq : Nat := 0
  reply : Option BeaconReply := none
  deriving DecidableEq, Repr

/-- Why a parent switch runs: a rewritten PRIMARY (R76), the loss of the parent (R81), or the
primary's return in holdover (R82). -/
inductive SwitchKind where
  | deliberate | alternate | back
  deriving DecidableEq, Repr

/-- A parent switch in progress: the port, and the time from which its phase drift is measured
(R76, R81). -/
structure SwitchX where
  port : Nat
  kind : SwitchKind
  since : Nat
  deriving DecidableEq, Repr

/-- The time unit and the shell's reference watch: the rotator's phase in G/1024, the rotator steps
that the steering still has to make and the time up to which it has made them, the last sixteen
offsets, the count of consecutive exchanges within CLOSE, whether the initial step was made, whether
beacons on the parent run at the short interval after a switch, the switch in progress, the port that
a deliberate switch has yet to reach and when it was last tried, the alternate in force at the last
loss, the start of holdover, whether the primary's signal has come back in it, whether a reference port is chosen, the windows judged on it, whether a
first judgement has set, whether every clock stands after a withdrawal, the last budget-period
boundary taken, and whether the power-on reset has ended (R42, R62–R64, R68, R73, R74, R76, R81, R83,
R84, R428). -/
structure TimeX where
  rot : Nat := 0
  goal : Int := 0
  slewAt : Nat := 0
  thetas : List Int := []
  confirm : Nat := 0
  stepped : Bool := false
  jumped : Int := 0
  fast : Bool := false
  switch : Option SwitchX := none
  wish : Option Nat := none
  triedAt : Nat := 0
  alt : Option Nat := none
  holdStart : Nat := 0
  back : Bool := false
  hasRef : Bool := false
  tried : Nat := 0
  everJudged : Bool := false
  dark : Bool := false
  periodAt : Nat := 0
  porDone : Bool := false
  deriving DecidableEq, Repr

/-- A user clock generator (R67): the divider it was running with and until when, and the divider that
it runs with since a time; a divider of 0 rests low. -/
structure UclkX where
  was : Nat := 0
  till : Nat := 0
  n : Nat := 0
  since : Nat := 0
  deriving DecidableEq, Repr

/-- An entry of the launch table (R85). -/
structure LaunchEnt where
  t : Nat
  action : Nat
  fullLoad : Bool
  event : Nat
  arg : Nat
  gen : Nat
  deriving DecidableEq, Repr

/-- A slot of the launch table: its entry, and for a free slot the generation of the entry that
last left it and whether that entry fired (R89). -/
structure LaunchSlot where
  ent : Option LaunchEnt := none
  gen : Nat := 0
  fired : Bool := false
  used : Bool := false
  deriving DecidableEq, Repr

/-- A change of one channel's outputs that is placed at a time in VS (R109). -/
structure PinEv where
  t : Nat
  drv : Option Bool
  ena : Option Bool
  deriving DecidableEq, Repr

/-- One edge channel: its outputs (`none` floats), the changes placed but not yet reached, the
placed times of recent events of each pin by cycle (R111), and the comparator levels seen. -/
structure ChanX where
  drv : Option Bool := none
  ena : Option Bool := none
  evq : List PinEv := []
  drvT : List (Nat × Nat) := []
  enaT : List (Nat × Nat) := []
  strT : List (Nat × Nat × Nat) := []
  cmp : List CmpLevel := []
  inRun : Bool := false
  deriving DecidableEq, Repr

/-- What a strobe expects once its slot is read (R106, R171). -/
inductive Expect where
  | x | l | h | m | v
  deriving DecidableEq, Repr

/-- A strobe that is placed: channel, kind, expectation, and start and end in VS (R105, R109). -/
structure PStrobe where
  ch : Nat
  kind : Nat
  expect : Expect
  start : Nat
  stop : Nat
  deriving DecidableEq, Repr

/-- An event of a cycle that awaits the next cycle's period (R110). -/
inductive Spill where
  | drive (ch : Nat) (limit : Nat) (drvT enaT : Option (Nat × Bool))
  | strobe (limit : Nat) (p : PStrobe)
  deriving DecidableEq, Repr

/-- The values a cycle passes to the catch unit with its vector (R150, R172). -/
structure VecTag where
  vaddr : Nat
  x : Nat
  y : Nat
  z : Nat
  suspect : Bool
  deriving DecidableEq, Repr

/-- A fail vector that its bank has not delivered yet (R112, R113, R320): cycle, start, end, whether
it is compared, its MATCH iteration (0 for none), placed strobes, channels failed by a dropped
strobe, channels masked when the cycle was issued, what it passes on, the members of its run,
leader first, the run, its symbols, and whether it is a hold cycle and the run's final one. -/
structure Vec where
  n : Nat
  start : Nat
  stop : Nat
  compared : Bool
  iter : Nat
  strobes : List PStrobe
  dropped : Nat
  masked : Nat
  tag : VecTag
  gang : List Nat
  run : Nat
  syms : Nat
  hold : Bool
  final : Bool
  deriving DecidableEq, Repr

/-- A waveform command in progress (R115, R116); a write counts the channels it has written. -/
inductive WaveOp where
  | write (tset wave mask : Nat) (words : List Nat) (done : Nat)
  | read (tset wave ch : Nat)
  deriving DecidableEq, Repr

/-- A record for a bank's stream tap: the end of its strobe + 128 G in VS, channel, whether
it is a NONE record, and T (R422). -/
structure TapRec where
  due : Nat
  ch : Nat
  empty : Bool
  t : Nat
  deriving DecidableEq, Repr

/-- An edge bank beside its registers: waveform memory, the waveform command, the time-stamp
queue, the tap's records to come and its last window, its channels, undelivered vectors, events awaiting judgement, the HELD state, the site
masks that have reached the bank and those in force, the last delivery, and calibration: which copies of
the lines are in use, when each line last calibrated, when the next exchange falls due. -/
structure BankX where
  wave : Tbl Nat := []
  op : Option WaveOp := none
  tsq : List Nat := []
  tapq : List TapRec := []
  tap : Option (Nat × List TapRec) := none
  chans : Tbl ChanX := []
  vecs : List Vec := []
  spills : List Spill := []
  held : Bool := true
  holdDue : Bool := false
  maskIn : Nat := 0
  maskAct : Nat := 0
  lastD : Nat := 0
  copies : Nat := 0
  lastCal : Tbl Nat := []
  calDue : Nat := 1280000
  stale : Bool := false
  deriving DecidableEq, Repr

/-- A decoded record (R126, R127): its offset in 8 B units and size in bytes, its fields, the timing
sets of its one or four cycles, and its symbol words by cycle and member. -/
structure Rec where
  off : Nat
  size : Nat
  op : Nat
  tsets : List Nat
  nocmp : Bool
  clrf : Bool
  wop : Nat
  arg : Nat
  ext : Nat
  hold0 : Bool
  syms : List (List Nat)
  deriving DecidableEq, Repr

/-- A segment of the warp buffer (R137, R140): its 2 KB as one number, whether its fetch failed,
when it was last used, and its place in the buffers of its run's members. -/
structure Seg where
  data : Nat
  poisoned : Bool
  used : Nat
  slot : Nat := 0
  deriving DecidableEq, Repr

/-- A record that the walk has passed beyond the execution point: offset, size, the time of its
normal cycles in VS, and how it goes on after them: the period of its hold cycles, its operation, and the
time of a WAIT in VS after the run's start (R137, SEQ_BUF.MIN_LEAD). -/
structure Passed where
  off : Nat
  size : Nat
  dur : Nat
  per : Nat := 2048
  op : Nat := 0
  wait : Nat := 0
  deriving DecidableEq, Repr

/-- A segment request (R137): the segment, its lines issued, those of them that were admitted,
the lines that were refused, and whether its run has ended. -/
structure SegReq where
  seg : Nat
  lines : Nat
  went : Nat
  missed : List Nat := []
  sink : Bool := false
  deriving DecidableEq, Repr

/-- The walker (R137): whether it walks, where its walk stands, its own stacks, the records passed
beyond the execution point (newest first), the record in execution, the segments pinned for each
unresolved branch (oldest first), the segments to request, the requests that are out, the segments
its walk has reached since ARM, and a counter of uses. -/
structure WalkX where
  active : Bool := false
  off : Nat := 0
  atEnd : Bool := false
  loops : List (Nat × Nat) := []
  calls : List Nat := []
  passed : List Passed := []
  exec : Option Passed := none
  pins : List (Nat × List Nat) := []
  kept : List Nat := []
  wanted : List Nat := []
  reqs : List SegReq := []
  reached : List Nat := []
  tick : Nat := 0
  deriving DecidableEq, Repr

/-- The result of one MATCH iteration in one member's bank (R133). -/
structure MatchRes where
  iter : Nat
  bank : Nat
  d : Nat
  fails : Nat
  cond : Bool
  v : Vec
  deriving DecidableEq, Repr

/-- The weft working state that the cycle in progress leaves at its end (R155). -/
structure WeftNext where
  x : Nat
  y : Nat
  z : Nat
  d : Nat
  xs : Nat
  ys : Nat
  deriving DecidableEq, Repr

/-- Cycles in a row that carry no suspect flag: the first one's number and start, their period and
their count (R149). -/
structure Starts where
  n : Nat
  s : Nat
  p : Nat
  count : Nat
  deriving DecidableEq, Repr

/-- A lockstep partner of a run (R151): device, sequencer, and when a probe went out. -/
structure Partner where
  dev : Nat
  seq : Nat
  probe : Option Nat
  due : Nat := 0
  stalls : Bool := false
  deriving DecidableEq, Repr

/-- A sequencer, or the leader of a gang, beside its registers: what ARM latched, the count of its
runs, the stacks, F, the next record's offset, the records decoded ahead, the fault met at decode,
the record in execution, its cycles issued and whether its branch or wait is resolved, the cycle
number, start of the next and of the present cycle and period of the present one, the causes that
make the present cycle final, the cycle of a branch and its deliveries, MATCH results, the weft
state to come, a pending START_NOW, unflagged cycle starts, the walker and its buffer, the
partners, the debug halt, and what the places of its warp buffer hold since they last lost their contents,
with the number of such losses (R32, R123–R151, R470). -/
structure SeqX where
  base : Nat := 0
  tgt : Nat := 4
  run : Nat := 0
  loops : List (Nat × Nat) := []
  calls : List Nat := []
  f : Bool := false
  nextOff : Option Nat := none
  ahead : List Rec := []
  stop : Option (Nat × Nat) := none
  cur : Option Rec := none
  issued : Nat := 0
  resolved : Bool := false
  n : Nat := 0
  sNext : Nat := 0
  sCur : Nat := 0
  pCur : Nat := 0
  causes : List Nat := []
  brN : Option Nat := none
  brD : List (Nat × Nat) := []
  results : List MatchRes := []
  weft : Option WeftNext := none
  pendStart : Option (Nat × Nat) := none
  starts : List Starts := []
  walk : WalkX := {}
  segs : Tbl Seg := []
  partners : List Partner := []
  halted : Bool := false
  haltReq : Bool := false
  resumeAt : Option Nat := none
  oneStep : Bool := false
  store : Tbl Nat := []
  life : Nat := 0
  deriving DecidableEq, Repr

/-- A line of the catch cache (R185): the bits still to be sent, the bits of its merge that is out
and whether one is, when it was last updated, the site of that update, the budget period in
which its merge was answered LINE_EXHAUSTED (R188), and its place in the cache memory. -/
structure CatLine where
  bits : Nat := 0
  out : Bool := false
  sent : Nat := 0
  used : Nat := 0
  site : Nat := 0
  retry : Option Nat := none
  no : Nat := 0
  deriving DecidableEq, Repr

/-- A catch command in progress (R194): a flush holds the bits of each line still to merge. -/
inductive CatOp where
  | flush (lines : List (Nat × Nat))
  | clearSites (sites : Nat)
  | clearTally (next stop : Nat)
  | clearCounters
  deriving DecidableEq, Repr

/-- The part of a gang cycle's vector that has been delivered: leader, run, cycle, and the fail bits
by bank (R175). -/
structure GangVec where
  leader : Nat
  run : Nat
  n : Nat
  got : List (Nat × Nat)
  deriving DecidableEq, Repr

/-- A catch unit beside its registers: the cache by DRAM address, the merges that are out (and whether the
cache has been lost since), the log records that wait to be sent to their spools, the answers that came while
its clock stood, the command in progress, the tally memory, LOG_MAX progress by site, the sites whose last
descriptor check failed, an update counter, gang vectors in parts, whether vectors were lost since the clock
last ran, the time at which a CLEAR_TALLY stood at its next counter, when each site's mask was removed, what
the places of the cache memory hold, and how often it has lost its contents (R32, R174–R196). -/
structure CatX where
  lines : Tbl CatLine := []
  flight : List (Nat × Nat × Bool) := []
  logq : List (Nat × Nat) := []
  acks : List (Nat × BusStatus) := []
  op : Option CatOp := none
  tally : Tbl Nat := []
  logged : Tbl Nat := []
  bad : Nat := 0
  tick : Nat := 0
  gang : List GangVec := []
  lost : Bool := false
  paceAt : Nat := 0
  unmaskAt : Tbl Nat := []
  store : Tbl Nat := []
  life : Nat := 0
  deriving DecidableEq, Repr

/-- The gap marker of a queue while it is unread (R204, R205). -/
structure SplMark where
  count : Nat
  first : Nat
  last : Nat
  cause : Nat
  init : Nat
  dev : Nat
  inter : Bool
  deriving DecidableEq, Repr

/-- A cell in use: its number in the pool, and what it holds. -/
structure SplCell where
  no : Nat
  data : Nat
  deriving DecidableEq, Repr

/-- A queued item (R199): the cells not read yet and whether a cell has been read, or the marker. -/
inductive SplItem where
  | cells (rest : List SplCell) (mid : Bool)
  | marker
  deriving DecidableEq, Repr

/-- A queue: its items oldest first, its marker, whether the next pop answers FLUSHED, and the number
of its reserved marker cell. -/
structure SplQ where
  items : List SplItem := []
  mark : Option SplMark := none
  flushed : Bool := false
  home : Option Nat := none
  deriving DecidableEq, Repr

/-- An open item: queue, producer (initiator and source device), the limit in force at its FIRST
cell, and its cells (R199, R202). -/
structure SplOpen where
  queue : Nat
  init : Nat
  dev : Nat
  limit : Nat
  cells : List SplCell
  deriving DecidableEq, Repr

/-- An operation of a spool page's host port: a push or a pop, its handle, its initiator with the device, and a push's
cell, FIRST and LAST. -/
structure HostOp where
  push : Bool
  h : Nat
  init : Nat
  dev : Nat
  cell : Nat
  first : Bool
  last : Bool
  deriving DecidableEq, Repr

/-- A spool manager beside its registers: what its pool's cells hold, where they have been written
since the pool last lost its contents, how often it has lost them, and the operations of its host port that wait to be
issued. -/
structure SplX where
  queues : Tbl SplQ := []
  opens : List SplOpen := []
  store : Tbl Nat := []
  life : Nat := 0
  host : List HostOp := []
  deriving DecidableEq, Repr

/-- A parallel move of a P-format instruction (R244): store or load, pointer, step code, register. -/
structure ParMove where
  store : Bool
  ptr : Nat
  step : Nat
  reg : Nat
  deriving DecidableEq, Repr

/-- A count or a handle: immediate, or from a register (R250, R252). -/
inductive ImmReg where
  | imm (n : Nat)
  | reg (code : Nat)
  deriving DecidableEq, Repr

/-- A shuttle instruction, decoded (R239–R253). -/
inductive ShuInstr where
  | par (op d s1 s2 : Nat) (m0 m1 : Option ParMove)
  | move (dst src : Nat)
  | movi (dst imm : Nat)
  | adda (dst : Nat) (circ : Bool) (imm : Nat)
  | mem (store : Bool) (reg ptr step : Nat)
  | clu (store : Bool) (reg ptr step size : Nat)
  | pio (write : Bool) (reg per : Nat)
  | bra (cond target : Nat)
  | call (cond target : Nat)
  | ret (cond : Nat)
  | rti
  | rptn (count : ImmReg)
  | loop (stop : Nat) (count : ImmReg)
  | lpop
  | halt
  | kick
  | signal (j : Nat)
  | lock
  | unlock
  | waiti
  | spush (ptr step : Nat) (first last : Bool) (h : ImmReg)
  | spop (ptr step dreg : Nat) (h : ImmReg)
  | spflush (h : ImmReg)
  deriving DecidableEq, Repr

/-- What an engine waits for: its cluster-memory access, the lock, an answer to an earlier push
with the cell that it has read, the answer to its pop, the lock for the cell that its pop has brought (with
the answer's status in DREG's coding), an interrupt, or the buffered pushes of its UNLOCK. -/
inductive EngWait where
  | mem (i : ShuInstr)
  | lock
  | post (i : ShuInstr) (cell : Nat)
  | pop (i : ShuInstr)
  | cell (i : ShuInstr) (word cell : Nat)
  | irq
  | unlock
  deriving DecidableEq, Repr

/-- An entry of the lock buffer (R226): a store of some bits of a cluster word, a popped cell, or a
push. -/
inductive LockEnt where
  | store (addr mask val : Nat)
  | push (h : Nat) (first last : Bool) (cell : Nat)
  deriving DecidableEq, Repr

/-- A fetch transfer (R222): what GO latched, the row and word that come next, and the words moved. -/
structure FetX where
  src : Nat
  dst : Nat
  dspace : Bool
  len : Nat
  rows : Nat
  stride : Nat
  out : Bool
  row : Nat := 0
  col : Nat := 0
  done : Nat := 0
  deriving DecidableEq, Repr

/-- A request of a fetch channel that is out: its local address, the words it carries, the place of its
first word in the transfer, where it goes, and whether its response is sunk (R222, R236). -/
structure FetReq where
  addr : Nat
  words : Nat
  at0 : Nat
  dst : Nat
  dspace : Bool
  out : Bool
  sink : Bool := false
  deriving DecidableEq, Repr

/-- The slots of an engine's data or program memory (R217): for each access from elsewhere that waits for
one, the engine cycles that it has waited, and the last engine cycles in a row that left none unused. -/
structure SlotX where
  waiting : List Nat := []
  full : Nat := 0
  deriving DecidableEq, Repr

/-- A shuttle engine beside its page registers (R212): its registers by their 6-bit codes, PC, the
stacks (tops first), the register writes that the next instruction's end performs (those of loaded data
marked), the delay slots left with the way after them, the repetitions left, what it waits for, its cycles
since the start, when the timer expires in those cycles, the cycles that the watchdog has counted since its
reload up to one of those cycles, the address of the LOCK and the instructions executed since, the lock
buffer, the push status, its fetch transfer with the requests that are out, its memories, the debugger's
halt (R467–R469), the slots of its data and program memory (R217), whether its cluster-memory access has met
another engine's lock or another requester of its bank, and the words that its SPUSH has read (R221). -/
structure EngX where
  r : Tbl Nat := []
  pc : Nat := 0
  calls : List (Nat × Nat) := []
  loops : List (Nat × Nat × Nat) := []
  late : List (Nat × Nat × Bool) := []
  br : Option (Nat × Nat) := none
  rpt : Option Nat := none
  wait : Option EngWait := none
  cyc : Nat := 0
  tmr : Option Nat := none
  wd : Nat := 0
  wdAt : Nat := 0
  lockPc : Nat := 0
  lockCnt : Nat := 0
  lockBuf : List LockEnt := []
  lastPush : Nat := 0
  loss : Bool := false
  fet : Option FetX := none
  fetOut : List FetReq := []
  data : Tbl Nat := []
  prog : Tbl Nat := []
  haltAt : Option Nat := none
  stepping : Bool := false
  dslot : SlotX := {}
  pslot : SlotX := {}
  contend : Bool := false
  crowd : Bool := false
  got : List (Nat × Nat) := []
  deriving DecidableEq, Repr

/-- A spool operation of a cluster that is not answered: engine, handle, whether its answer is sunk, and
whether it has been issued (R225, R235, R253). -/
inductive SpOp where
  | push (first last : Bool) (cell : Nat)
  | pop
  | flush
  deriving DecidableEq, Repr

structure SpReq where
  eng : Nat
  h : Nat
  op : SpOp
  sink : Bool
  out : Bool := false
  deriving DecidableEq, Repr

/-- A cluster beside its registers: its memory, its spool operations (those issued first, in the order of
their issue), the engine that holds the lock, the stores of ended runs that the lock holds back (R235), the
requester that each bank of the memory served last, and the channel that issued last (R221, R222). -/
structure CluX where
  mem : Tbl Nat := []
  sps : List SpReq := []
  owner : Option Nat := none
  owed : List (Nat × Nat × Nat) := []
  served : Tbl Nat := []
  fetLast : Nat := 15
  deriving DecidableEq, Repr

/-- One entry of a DRAM channel's error log (R279): channel address, symbol, kind, codeword, time, and the
subchannel, rank, bank group, bank and column as DRC_LOG_LOC shows them, and the row. -/
structure DrcLog where
  ca : Nat
  chip : Nat
  kind : Nat
  cw : Nat
  time : Nat
  loc : Nat
  row : Nat
  deriving DecidableEq, Repr

/-- A DRAM channel beside its registers: which contents its chips took when they last lost
theirs, the stored lines with their check symbols (80 B each, by channel address ÷ 64), the
activate tallies and open rows by bank, the neighbour refreshes waiting, the banks whose requests
wait, corrections by subchannel, rank and chip, chip marks and write-backs waiting, the log, the
scrubber's next line, the refresh intervals since the tallies cleared and the end of the last of
them, the state held at a withdrawal, and whether an initialisation is under way (R262–R282, R499). -/
structure DrcX where
  epoch : Nat := 0
  lines : Tbl Nat := []
  tally : Tbl (List (Nat × Nat)) := []
  rows : Tbl (Nat × Nat) := []
  nbr : List (Nat × Nat) := []
  throttled : List (Nat × Nat × Nat) := []
  corr : Tbl Nat := []
  marks : List (Nat × Nat) := []
  wback : List Nat := []
  log : List DrcLog := []
  scrub : Nat := 0
  intervals : Nat := 0
  intervalAt : Nat := 0
  heldState : Option Nat := none
  training : Bool := false
  deriving DecidableEq, Repr

/-- A key slot (R294): 0 FREE, 1 ACTIVE, 2 RETIRING, 3 HELD; its two keys. -/
structure KeySlot where
  state : Nat := 0
  cipher : Nat := 0
  tag : Nat := 0
  deriving DecidableEq, Repr

/-- A lined region beside its registers (R295–R299): the units whose fence acknowledgement is
outstanding (controllers, catch units, spool managers), the cache lines each catch unit must still
merge, and the sweep's next group. -/
structure LinX where
  ctlOut : List Nat := []
  catOut : List (Nat × List (Nat × Nat)) := []
  splOut : List Nat := []
  group : Nat := 0
  base : Nat := 0
  size : Nat := 0
  paid : Nat := 0
  deriving DecidableEq, Repr

/-- The counters of one initiator (R313, R322, R323). -/
structure NocStat where
  bytes : Nat := 0
  trans : Nat := 0
  maxLat : Nat := 0
  defer : Nat := 0
  nobud : Nat := 0
  hist : List Nat := [0, 0, 0, 0, 0, 0, 0, 0, 0, 0, 0, 0, 0, 0, 0, 0]
  deriving DecidableEq, Repr

/-- The header flit of a packet, field by field (R309). -/
structure Hdr where
  vc : Nat := 0
  dl : Nat := 0
  tv : Nat
  op : Nat
  drtr : Nat
  dep : Nat
  sel : Bool
  init : Nat
  tag : Nat
  sdev : Nat := 0
  ddev : Nat := 0xFFF
  addr : Nat
  len : Nat
  opn : Bool := false
  spf : Nat := 0
  status : Nat := 0
  spst : Nat := 0
  be : Nat := 0
  itime : Nat
  deriving DecidableEq, Repr

/-- A packet of the network: its header, the 64 B of its two data flits where it has them, and, of a request to
another device, the number under which its answer comes back (R309). -/
structure NetPkt where
  hdr : Hdr
  data : Option Nat := none
  out : Option Nat := none
  deriving DecidableEq, Repr

/-- A request that its interface has deferred: its initiator, the mark by which it is known again, the classes
that it charges, and whether it has been answered NO_BUDGET since (R322, R323). -/
structure Defer where
  init : Nat
  key : Nat
  classes : List Nat
  refused : Bool := false
  deriving DecidableEq, Repr

/-- The network interface of a die: counters by initiator and their last snapshot, tags held by
initiator and how many of them under the old table version, the requests that are deferred, the initiators that
wait out a table switch, the requests in flight in the order of their issue, the last response that arrived here,
and the detour tables by bank × 2^11 + router × 2^7 + entry (R309, R312–R315, R322). -/
structure NocX where
  stats : Tbl NocStat := []
  snap : Tbl NocStat := []
  held : Tbl Nat := []
  old : Tbl Nat := []
  deferred : List Defer := []
  paused : List Nat := []
  flight : List NetPkt := []
  back : Option NetPkt := none
  tbl : Tbl Nat := []
  deriving DecidableEq, Repr

/-- A patch site's firewall: requests admitted by window in this period, and for each of its stream
groups how many words went to the site and the last of them (R318–R320). -/
structure PatX where
  used : Tbl Nat := []
  sent : Tbl (Nat × Nat) := []
  deriving DecidableEq, Repr

/-- A Kelef packet (R339, R340): the fields of its header, its payload as a
number, whether a response travels on the control channel, and its data columns. -/
structure Packet where
  typ : Nat := 0
  sr : Bool := false
  unsure : Bool := false
  bcast : Bool := false
  part : Bool := false
  status : Nat := 0
  len : Nat := 0
  tag : Nat := 0
  addr : Nat := 0
  dst : Nat := 0
  src : Nat := 0
  orig : Nat := 0
  ttl : Nat := 255
  spf : Nat := 0
  spst : Nat := 0
  opn : Bool := false
  itime : Nat := 0
  hops : Nat := 0
  idx : Nat := 0
  route : Nat := 0
  data : Nat := 0
  ctl : Bool := false
  ncol : Nat := 0
  deriving DecidableEq, Repr

/-- A frame of a replay buffer (R337): its sequence number, packet, when it was last sent, and
whether it waits to be sent again. -/
structure KFrame where
  seq : Nat
  pkt : Packet
  sentAt : Nat
  due : Bool := false
  deriving DecidableEq, Repr

/-- A packet that waits to leave on a port: the port whose receive buffer it occupies, and a number
that the copies of one broadcast share (R341, R364). -/
structure TxEnt where
  pkt : Packet
  src : Option Nat
  share : Nat
  deriving DecidableEq, Repr

/-- A request from Kelef that is split into line requests (R344): bytes done, the status of the first
line that failed, whether a lower line succeeded, and the data read. -/
structure IngX where
  pos : Nat := 0
  fail : Option Nat := none
  partly : Bool := false
  data : Nat := 0
  deriving DecidableEq, Repr

/-- A Kelef port beside its registers (R333–R337): when its state was entered, the end of the
silence of a port that is down, what the partner's training columns say and how many came in a
row, the frames that wait to leave, the next sequence number, the replay buffer, the frames
acknowledged and their count at the last replay, the replays without progress, the number expected,
whether a NAK is out or due, an acknowledgement due, the columns of credit owed by channel, the
frames accepted and not yet consumed, the progress of the request that the ingress splits, the columns sent last, when
the first of them left, the columns since the last IDL column, and when the port last left UP. -/
structure PortX where
  enter : Nat := 0
  quiet : Option Nat := none
  pdev : Nat := 0xFFF
  pport : Nat := 0
  trn : Nat := 0
  txq : List TxEnt := []
  nextSeq : Nat := 0
  replay : List KFrame := []
  acked : Nat := 0
  mark : Option Nat := none
  stuck : Nat := 0
  expect : Nat := 0
  naked : Bool := false
  nakDue : Bool := false
  ackDue : Bool := false
  owe : List Nat := [0, 0, 0, 0]
  rx : List Packet := []
  ing : Option IngX := none
  lnkT : Nat := 0
  wire : List Column := []
  wireAt : Nat := 0
  run : Nat := 0
  fell : Option Nat := none
  deriving DecidableEq, Repr

/-- A tag of the egress pool that is held (R345): the initiator and its own number for the request,
and when the request was issued. -/
structure EgrX where
  init : Nat
  num : Nat
  issued : Nat
  deriving DecidableEq, Repr

/-- An answer that the egress has for an initiator and that it has not taken yet. -/
structure EgrAns where
  init : Nat
  num : Nat
  status : Nat
  unsure : Bool
  spst : Nat
  spf : Nat
  data : Nat
  deriving DecidableEq, Repr

/-- An eye scan in progress (R383): 1 POINT or 2 SWEEP, the time of its start, the length of a
point in G, its destination, the counts of a finished sweep, and the result lines written. -/
structure ScanX where
  op : Nat
  start : Nat
  point : Nat
  dst : Nat
  counts : List Nat := []
  line : Nat := 0
  deriving DecidableEq, Repr

/-- A pattern checker (R379): how many bits it has taken to lock itself, and the pattern's history. -/
structure ChkX where
  got : Nat := 0
  h : Nat := 0
  deriving DecidableEq, Repr

/-- A quad of serial lanes beside its registers (R372, R373, R379, R380, R383): the state it moves to,
whether its PLL relocks, and by lane the scans, the last word sent on the line, the scrambler and the
descrambler, and the pattern generator and checker. -/
structure QuadX where
  move : Option Nat := none
  relock : Bool := false
  scans : Tbl ScanX := []
  sent : Tbl Nat := []
  scr : Tbl Nat := []
  dscr : Tbl Nat := []
  gen : Tbl Nat := []
  chk : Tbl ChkX := []
  deriving DecidableEq, Repr

/-- A stream in progress (R390–R397): the TAG that must come next, the bytes received and not yet
processed, when the last packet came, and from the header the kind of load, encryption, key slot,
region, tiles by panel, initialisation vector and authenticated bytes; the hash that the next block
must have, the payload areas processed, the panels whose bases it made LOADING, and the digest of its
header. -/
structure StreamX where
  tag : Nat
  buf : Nat := 0
  len : Nat := 0
  last : Nat := 0
  full : Bool := false
  enc : Bool := false
  ekey : Nat := 0
  region : Nat := 0
  mask : List Nat := []
  iv : Nat := 0
  aad : Nat := 0
  hash : Nat := 0
  areas : List Nat := []
  panels : List Nat := []
  head : Nat := 0
  deriving DecidableEq, Repr

/-- A configuration frame (R386, R404): its bits now, the bits that its check bits were computed
for, how many check bits have flipped since, its mask class and its golden signature. -/
structure CfgFrame where
  data : Nat := 0
  orig : Nat := 0
  chk : Nat := 0
  cls : Nat := 0
  gold : Nat := 0
  deriving DecidableEq, Repr

/-- The configuration controller beside its registers: the stream in progress, the tiles of the
partial regions by region × 4 + panel − 1, the stages that each region has passed (bits O, W, R) and
those to come with their times, and the header digest of the last full load that
verified (R387, R402, R453). -/
structure CfgX where
  stream : Option StreamX := none
  tiles : Tbl Nat := []
  passed : Tbl Nat := []
  stages : Tbl (List (Nat × Nat)) := []
  lastFull : Nat := 0
  deriving DecidableEq, Repr

/-- A panel's configuration memory and darner beside the registers (R386, R403–R408): the frames by
tile × 2^11 + frame, the mask classes, when the frame in visit was reached and what was read of it, whether a table was
written in the present pass, the frames that the loader has written in it, and when the hub last had a heartbeat. -/
structure DarnX where
  frames : Tbl CfgFrame := []
  masks : Tbl Nat := []
  visit : Nat := 0
  read : Option CfgFrame := none
  written : Bool := false
  newly : List Nat := []
  beat : Nat := 0
  deriving DecidableEq, Repr

/-- The moving parts of a panel's fabric beside its frames (R411, R414, R417, R421–R423): flip-flops by
2 · cell + 1 for FB, those not listed at their initial values; tacks by routing segment; the outputs of bolt ports;
the words that stand before the fabric at lanes and stream groups, stream words on their way, and by tile since
when its flip-flops are out of reset and its bolt memories can be written. -/
structure LogicX where
  ffs : Tbl Nat := []
  tacks : Tbl Nat := []
  bolts : Tbl Nat := []
  lanes : Tbl Nat := []
  seam : Tbl Nat := []
  coming : Tbl Nat := []
  freeAt : Tbl Nat := []
  openAt : Tbl Nat := []
  deriving DecidableEq, Repr

/-- A request of a fabric port (R419, R420): tag, op, global address, bytes − 1, byte enables, data,
spool flags, open-row hint, its number while it is out to another device, and whether it has left the queue. -/
structure FabReq where
  tag : Nat
  op : Nat
  addr : Nat
  len : Nat
  be : Nat
  data : Nat
  spf : Nat
  opn : Bool
  sent : Option Nat := none
  gone : Bool := false
  deriving DecidableEq, Repr

/-- A response at RS. -/
structure FabRsp where
  tag : Nat
  status : Nat
  spst : Nat
  spf : Nat
  data : Nat
  deriving DecidableEq, Repr

/-- A stream packet at a fabric port: the fabric port that sent it (none for Kelef), its data, and the header
under which it travels the package network. -/
structure FabPkt where
  src : Option Nat
  len : Nat
  data : Nat
  hdr : Option Hdr := none
  deriving DecidableEq, Repr

/-- A fabric port beside its registers: its requests in order, the responses in the space that their tags reserve, in
the order of their arrival, the last one the fabric took, the stream
packets on their way to it and buffered at SR, and the last one the fabric took (R419–R421). -/
structure FabX where
  queue : List FabReq := []
  wait : List FabRsp := []
  rs : Option FabRsp := none
  air : List FabPkt := []
  sr : List FabPkt := []
  got : Option FabPkt := none
  deriving DecidableEq, Repr

/-- What a hard serial port sends on its balls (R424): bits, and the START, STOP and acknowledge of I2C. -/
inductive SerSym where
  | bit (b : Bool) | start | stop | ack
  deriving DecidableEq, Repr

/-- A hard serial port's queues, the last entry it transmitted with what it sent on the balls, when the oldest entry
began to be sent, and the last entry the fabric took (R424). -/
structure SerX where
  tx : List Nat := []
  rx : List Nat := []
  sent : Option Nat := none
  line : List SerSym := []
  began : Nat := 0
  got : Option Nat := none
  deriving DecidableEq, Repr

/-- The power controller beside its registers: the states that domains move to, and when nap
sampled last since EN was set, and when the temperatures were sampled last (R437, R444, R445). -/
structure PowX where
  moves : Tbl Nat := []
  napped : Option Nat := none
  sampled : Option Nat := none
  deriving DecidableEq, Repr

/-- The persistent store of the flash (R449), which no reset changes: boot preference, firmware SVN
minimum, the images written (unlisted ones hold what manufacture put there) and those written but not
committed, the end of the last FW_WRITE, signing keys provisioned and revoked with their digests,
CFG_SVN_MIN, minimum revisions by die type, the debug lock, the last crash record with its length, and the firmware
log with its length, its oldest byte lowest. -/
structure StoreX where
  pref : Nat := 0
  fwMin : Nat := 0
  images : Tbl Nat := []
  stale : List Nat := []
  wrEnd : Option Nat := none
  pkValid : Nat := 0
  pkRevoked : Nat := 0
  digests : Tbl Nat := []
  svnMin : Nat := 0
  minRev : Tbl (Nat × Nat) := []
  lock : Bool := false
  crash : Option (Nat × Nat) := none
  log : Nat × Nat := (0, 0)
  deriving DecidableEq, Repr

/-- A line of a copy in flight (R461): its place in the copy, the global address of its request, its data once
it has been read, whether the request has been issued, the request's number while it is out to another device,
and whether its response is no longer wanted. -/
structure MovLine where
  pos : Nat
  ga : Nat
  data : Option Nat := none
  sent : Bool := true
  out : Option Nat := none
  sink : Bool := false
  deriving DecidableEq, Repr

/-- A hub mover (R461): whether a copy is active, its source, destination and length, the bytes whose reads have
been issued, the bytes copied, and the lines in flight, in the order of their issue. -/
structure MoverX where
  run : Bool := false
  src : Nat := 0
  dst : Nat := 0
  len : Nat := 0
  next : Nat := 0
  done : Nat := 0
  lines : List MovLine := []
  deriving DecidableEq, Repr

/-- The hub controller beside its registers: the times of its restarts, the SVN of the image that
runs, the notices that wait behind the buffer (kind, length, payload), the nonce of the report being
signed, whether a debugger has been attached since package reset, whether the first release is made, whether it
locked the roles, whether firmware's tables lead around removed links, whether the wiring is at fault, whether releases are barred until a package reset, the reasons of
refused dies, and whether a reset is ordered (R11, R14, R20, R429, R451–R460, R466). -/
structure HubX where
  restarts : List Nat := []
  svn : Nat := 0
  notes : List (Nat × Nat × Nat) := []
  signing : Option Nat := none
  seenDbg : Bool := false
  first : Bool := false
  locked : Bool := false
  linkDetour : Bool := false
  wiring : Bool := false
  barred : Bool := false
  reasons : Tbl Nat := []
  resetDue : Bool := false
  deriving DecidableEq, Repr

/-- The debug port's registers (R463), its access in progress (write or read, address, width in bytes,
data) with its number while it is out to another device, and whether the port waits for a line reset
after a wrong start pattern (R462). -/
structure DpX where
  attached : Bool := false
  locked : Bool := true
  chkErr : Bool := false
  busErr : Bool := false
  err : Nat := 0
  addr : Nat := 0
  data : Nat := 0
  size : Bool := false
  inc : Bool := false
  acc : Option (Bool × Nat × Nat × Nat) := none
  out : Option Nat := none
  deaf : Bool := false
  deriving DecidableEq, Repr

/-- What the debug port answers a transaction with (R462). -/
inductive DpStatus where
  | done | retry | reject | chkFail
  deriving DecidableEq, Repr

/-- The answer to a debug-port transaction: the status and, for DONE to a read, the data and the reply
check (R462). -/
structure DpAns where
  status : DpStatus
  data : Nat := 0
  check : Nat := 0
  deriving DecidableEq, Repr

/-- The device. Sparse fields list only what differs from what an unlisted key reads as:
`regs` from the reset word of the register, the unit tables from the unit's reset state, the
memories from 0 (`dram`: from a line never written, R499). -/
structure State where
  /-- Fabric time in G (R68), or the free-running count while TIME_STAT.VALID is 0. -/
  now : Nat := 0
  /-- The model's own counter, from which every free value is drawn. -/
  fresh : Nat := 0
  /-- The answer to the last bus access (R311). -/
  resp : Resp := {}
  /-- The applied value of every register, by page × 2^20 + offset. -/
  regs : Tbl Word := []
  /-- The shadows written since the last application, under the same keys (R40, R41). -/
  shadow : Tbl Word := []
  /-- The CRC machinery of every page (R49). -/
  pages : Tbl PageX := []
  /-- The alarm log, oldest entry first (R476). -/
  alarms : List AlarmEnt := []
  /-- The accesses that are stalled while they cross a clock domain (R54). -/
  stalls : List Stall := []
  /-- What the selvage die knows of each die. -/
  dies : Tbl DieX := []
  /-- The time unit and the reference watch. -/
  tu : TimeX := {}
  /-- The beacon exchanges, by Kelef port. -/
  beacons : Tbl BeaconX := []
  /-- The user clock generators, by 8(p − 1) + n (R67). -/
  uclks : Tbl UclkX := []
  /-- The launch table, by slot (R85). -/
  launch : Tbl LaunchSlot := []
  /-- The edge banks, by 4(p − 1) + s. -/
  banks : Tbl BankX := []
  /-- The sequencers, by 4(p − 1) + s. -/
  seqs : Tbl SeqX := []
  /-- The weft tables, by sequencer × 2^14 + table × 2^12 + index; an unlisted scramble entry i
  reads as i, an unlisted topology entry as 0 (R168). -/
  weftTab : Tbl Nat := []
  /-- The catch units, by panel. -/
  cats : Tbl CatX := []
  /-- The spool managers, by panel. -/
  spls : Tbl SplX := []
  /-- The DRAM channels 0–7. -/
  drcs : Tbl DrcX := []
  /-- The 64 key slots (R294). -/
  slots : Tbl KeySlot := []
  /-- The lined regions 0–15. -/
  regions : Tbl LinX := []
  /-- The network interfaces, by die. -/
  nocs : Tbl NocX := []
  /-- The governor's balances, by initiator × 16 + class; an unlisted balance is its reset
  budget (R322). -/
  govBal : Tbl Int := []
  /-- The patch sites, by 0 for site 5 and 1 for site 6. -/
  pats : Tbl PatX := []
  /-- The Kelef ports. -/
  ports : Tbl PortX := []
  /-- The routing banks, by bank × 2^12 + ID (R356). -/
  rt : Tbl Nat := []
  /-- The routing entries whose check bits fail: 1 a single-bit error, 2 an uncorrectable one (R356). -/
  rtHit : Tbl Nat := []
  /-- The egress tags that are held, and the generation of each tag (R345). -/
  egr : Tbl EgrX := []
  egrGen : Tbl Nat := []
  /-- Answers from other devices that their initiators have not taken yet (R345). -/
  answers : List EgrAns := []
  /-- The stream sinks' buffers, by sink (R346). -/
  sinks : Tbl (List Packet) := []
  /-- The shuttle engines, by 64(p − 1) + e. -/
  engs : Tbl EngX := []
  /-- The shuttle clusters, by 4(p − 1) + c. -/
  clus : Tbl CluX := []
  /-- The lane quads: Kelef quads 0–15, then general quads 16 + 8(p − 1) + q. -/
  quads : Tbl QuadX := []
  /-- The configuration controller. -/
  cfg : CfgX := {}
  /-- The configuration memories and darners, by panel. -/
  darns : Tbl DarnX := []
  /-- The logic fabric, by panel. -/
  logics : Tbl LogicX := []
  /-- The fabric ports, by 16(p − 1) + f. -/
  fabs : Tbl FabX := []
  /-- The hard serial ports, by 4(p − 1) + k. -/
  sers : Tbl SerX := []
  /-- The power controller. -/
  pow : PowX := {}
  /-- The persistent store (R449). -/
  store : StoreX := {}
  /-- The hub controller, its movers by number, and the 1 MB hub SRAM by 8 B word (R32). -/
  hub : HubX := {}
  movers : Tbl MoverX := []
  sram : Tbl Nat := []
  /-- The debug port, and its answer to the last transaction with the data of a read (R462). -/
  dp : DpX := {}
  dpAnswer : Option DpAns := none
  /-- The single-wire outputs. -/
  pins : Pins := {}
  /-- The commands that wait, first in, first out. -/
  pending : List Instr := []
  deriving DecidableEq, Repr

/-- The faults of the machine: the stops for which the spec gives no effect. No command of this
device needs one, so the type has a single constructor, raised by nobody (safe). -/
inductive Fault where
  /-- Raised by no command. Safe. -/
  | none
  deriving DecidableEq, Repr

/-- The refusals of the machine. -/
inductive Refusal where
  /-- Raised by `exec` for a command that the model does not give a meaning yet. Safe. -/
  | notModelled (mnemonic : String)
  deriving DecidableEq, Repr

/-- The device right after reset: every register at its reset word, every unit idle, every
memory empty, no command waiting. -/
def State.reset : State := {}

end Sys2Proof.Machine
end

