-- ==== Sys2Proof/Machine/Ops.lean ====
section
/-! DEFINITION. The shared operations: the register file, the map of pages and power domains,
the hub alarm, page events, the answer to an access, and shadows. -/

namespace Sys2Proof.Machine

/-! ### The register file -/

/-- Pages have 2^20 keys each: the 4 KB page, then the per-entry copies of its windows at the
offsets that the page CRC counts them at (R197, R210, R327). -/
def regKey (pg off : Nat) : Nat := pg * 2 ^ 20 + off

/-- The page number of die `d` and page `n` of it (R31). -/
def pageNo (d n : Nat) : Nat := d * 512 + n

/-- The kind of the block that implements a page number of the selvage die. -/
def kindSel (n : Nat) : Option PageKind :=
  if n = 0 then some .seam else if n = 1 then some .hub else if n = 2 then some .mbx
  else if n = 3 then some .dbg else if n = 4 then some .alm else if n = 0x10 then some .time
  else if n = 0x11 then some .clkSel else if n = 0x14 then some .pwr
  else if n = 0x18 then some .cfg else if n = 0x20 then some .drcMap
  else if n = 0x21 then some .lin else if n = 0x30 then some .noc
  else if n = 0x31 then some .gov else if n = 0x40 ∨ n = 0x41 then some .pat
  else if n = 0x4E then some .klfRt else if n = 0x4F then some .klfCom
  else if 0x50 ≤ n ∧ n < 0x60 then some .klfLink
  else if 0x60 ≤ n ∧ n < 0x70 then some .lane else none

/-- The kind of the block that implements a page number of a panel die. -/
def kindPnl (n : Nat) : Option PageKind :=
  if n = 0x11 then some .clkPnl else if 0x80 ≤ n ∧ n < 0x84 then some .edg
  else if 0x90 ≤ n ∧ n < 0x94 then some .seq else if 0xA0 ≤ n ∧ n < 0xA4 then some .wft
  else if n = 0xB0 then some .cat else if n = 0xC0 then some .spl
  else if 0xD0 ≤ n ∧ n < 0xD4 then some .shu else if 0xE0 ≤ n ∧ n < 0xE2 then some .drc
  else if n = 0xF0 then some .noc else if 0x100 ≤ n ∧ n < 0x108 then some .lane
  else if n = 0x110 then some .darn else if n = 0x120 then some .fab else none

/-- The kind of a page number DIE[2:0] ‖ PAGE[8:0] (R31, R35). -/
def pageKind (pg : Nat) : Option PageKind :=
  if pg / 512 = 0 then kindSel pg
  else if pg / 512 ≤ 4 then kindPnl (pg % 512) else none

def pgSeam : Nat := 0
def pgHub : Nat := 1
def pgMbx : Nat := 2
def pgDbg : Nat := 3
def pgAlm : Nat := 4
def pgTime : Nat := 0x10
def pgClk : Nat := 0x11
def pgPwr : Nat := 0x14
def pgCfg : Nat := 0x18
def pgMap : Nat := 0x20
def pgLin : Nat := 0x21
def pgGov : Nat := 0x31
def pgKlfRt : Nat := 0x4E
def pgKlfCom : Nat := 0x4F
def pgKlf (p : Nat) : Nat := 0x50 + p
def pgPat (site : Nat) : Nat := 0x40 + (site - 5)
/-- The pages of bank `b`, counted 4(p − 1) + s over the package. -/
def pgEdg (b : Nat) : Nat := pageNo (b / 4 + 1) (0x80 + b % 4)
def pgSeq (b : Nat) : Nat := pageNo (b / 4 + 1) (0x90 + b % 4)
def pgWft (b : Nat) : Nat := pageNo (b / 4 + 1) (0xA0 + b % 4)
def pgCat (p : Nat) : Nat := pageNo p 0xB0
def pgSpl (p : Nat) : Nat := pageNo p 0xC0
/-- The page of cluster `c`, counted 4(p − 1) + c over the package. -/
def pgShu (c : Nat) : Nat := pageNo (c / 4 + 1) (0xD0 + c % 4)
/-- The page of DRAM channel `k`, counted 2(p − 1) + k over the package. -/
def pgDrc (k : Nat) : Nat := pageNo (k / 2 + 1) (0xE0 + k % 2)
def pgNoc (d : Nat) : Nat := if d = 0 then 0x30 else pageNo d 0xF0
def pgDarn (p : Nat) : Nat := pageNo p 0x110
def pgFab (p : Nat) : Nat := pageNo p 0x120
def pgClkPnl (p : Nat) : Nat := pageNo p 0x11
/-- The page of lane quad `q`: Kelef quads 0–15, then general quads 16 + 8(p − 1) + q. -/
def pgLane (q : Nat) : Nat :=
  if q < 16 then 0x60 + q else pageNo ((q - 16) / 8 + 1) (0x100 + (q - 16) % 8)

/-- The governor budgets after package reset (R326). -/
def govReset (init cls : Nat) : Nat :=
  if init = 0x01 ∨ init = 0x02 ∨ init = 0x08 then (if cls < 10 then 32 else 0)
  else if init = 0x84 ∨ init = 0x85 then (if cls < 8 then 32 else 0)
  else if init = 0x86 then (if cls < 8 then 64 else 0)
  else 0

/-- A power domain that the table of R434 lists. -/
def domListed (d : Nat) : Bool := decide (d < 128 ∧ d % 32 ≤ 21) || decide (128 ≤ d ∧ d ≤ 144)

/-- The reset value of a register: the reset word of its row, but for the rows whose reset
value depends on the page or on the entry (R326, the LANE tables), and those of no domain. -/
def resetNat (pg off : Nat) : Nat :=
  match pageKind pg with
  | none => 0
  | some k =>
    match rowAt k off with
    | none => 0
    | some r =>
      if k = .lane ∧ off = 0x40 ∧ 512 ≤ pg then 0x22
      else if k = .pwr ∧ 0x400 ≤ off ∧ !domListed ((off - 0x400) / 4) then 0
      else if k = .gov ∧ 0x80 ≤ off ∧ off < 0xA8 then (if off < 0xA0 then 224 else 96)
      else if k = .gov ∧ 0x1000 ≤ off then govReset ((off - 0x1000) / 0x40) (off % 0x40 / 4)
      else r.resetNat

/-- The applied value of a register. -/
def State.reg (s : State) (pg off : Nat) : Word :=
  s.regs.getD (regKey pg off) (BitVec.ofNat 32 (resetNat pg off))

/-- The state with the applied value of a register replaced. -/
def State.setReg (s : State) (pg off : Nat) (w : Word) : State :=
  { s with regs := s.regs.setD (regKey pg off) (BitVec.ofNat 32 (resetNat pg off)) w }

/-- The value of a field. -/
def State.rd (s : State) (pg : Nat) (f : Fld) : Nat := bitsOf (s.reg pg f.off).toNat f.hi f.lo

/-- The state with a field replaced; every other bit of the register stays. -/
def State.wr (s : State) (pg : Nat) (f : Fld) (v : Nat) : State :=
  s.setReg pg f.off (BitVec.ofNat 32 (putBits (s.reg pg f.off).toNat f.hi f.lo v))

/-- The field is non-zero. -/
def State.on (s : State) (pg : Nat) (f : Fld) : Bool := s.rd pg f != 0

/-- The field counts up and saturates at its largest value. -/
def State.bump (s : State) (pg : Nat) (f : Fld) (n : Nat) : State :=
  s.wr pg f (satAdd (f.hi + 1 - f.lo) (s.rd pg f) n)

/-- A value held in a _LO and _HI pair. -/
def State.rdPair (s : State) (pg : Nat) (lo hi : Fld) : Nat :=
  s.rd pg lo + 2 ^ 32 * s.rd pg hi

/-- The state with a value put into a _LO and _HI pair. -/
def State.wrPair (s : State) (pg : Nat) (lo hi : Fld) (v : Nat) : State :=
  (s.wr pg lo v).wr pg hi (v / 2 ^ 32)

/-- Draws a free value of `w` bits. -/
def State.draw (s : State) (w : Nat) : Nat × State :=
  (Config.free w s.fresh, { s with fresh := s.fresh + 1 })

/-! ### Dies -/

def State.die (s : State) (d : Nat) : DieX := s.dies.getD d {}
def State.setDie (s : State) (d : Nat) (x : DieX) : State := { s with dies := s.dies.setD d {} x }

/-- Bit `d` of a mask. -/
def maskBit (m d : Nat) : Bool := m / 2 ^ d % 2 == 1

/-- The mask with bit `d` set or cleared. -/
def maskSet (m d : Nat) (b : Bool) : Nat := putBits m d d (bit b)

/-- The die has been released (SEAM_PKG.RELEASED). -/
def State.released (s : State) (d : Nat) : Bool := maskBit (s.rd pgSeam SEAM_PKG.RELEASED) d

/-- The patch site is fitted, as the selvage die's straps say (R10, R12). -/
def State.fitted (s : State) (d : Nat) : Bool :=
  (d = 5 && maskBit (s.rd pgSeam SEAM_PKG.PKG_VAR) 0)
    || (d = 6 && maskBit (s.rd pgSeam SEAM_PKG.PKG_VAR) 1)

/-- A bit of SEAM_CAP_EFF (R13, R14). -/
def State.cap (s : State) (b : Nat) : Bool := maskBit (s.rd pgSeam SEAM_CAP_EFF.CAP) b

/-- Fabric time as a 64-bit count (R68). -/
def State.time (s : State) : Nat := s.now % 2 ^ 64

/-! ### The hub alarm (R475–R478) -/

/-- ALARM_N and HUB_ALM_LEVEL.PIN follow the pending classes and the BOOT condition (R478); the
pin is not driven during the shell's power-on reset (R427). -/
def State.alarmSync (s : State) : State :=
  let a := (s.rd pgAlm HUB_ALM_PEND.CLASS &&& (s.reg pgAlm HUB_ALM_PIN_EN.PAGE.off).toNat % 128) != 0
    || s.on pgAlm HUB_ALM_LEVEL.BOOT
  let s := s.wr pgAlm HUB_ALM_LEVEL.PIN (bit a)
  { s with pins := { s.pins with alarmN := s.pins.alarmN.map fun _ => a } }

/-- The log with a new entry: raises in the same instant are logged in ascending page number (R476). While the
count stands equal times are no one instant, and `State.atOnce` sorts what one command raises. -/
def State.logAlarm (s : State) (e : AlarmEnt) : List AlarmEnt :=
  let runs := s.on pgClk CLK_ROOT_STAT.JUDGED && !s.tu.dark
  let later := (s.alarms.reverse.takeWhile fun x => runs && x.time == e.time && decide (e.page < x.page)).reverse
  s.alarms.take (s.alarms.length - later.length) ++ e :: later

/-- An entry in its place by page number, after those of the same page. -/
def AlarmEnt.among (e : AlarmEnt) : List AlarmEnt → List AlarmEnt
  | [] => [e]
  | x :: l => if e.page < x.page then e :: x :: l else x :: e.among l

/-- What happens in one instant, whether the count runs or not: the entries that it logs stand in ascending page
number (R476). -/
def State.atOnce (s : State) (f : State → State) : State :=
  let t := f s
  let n := s.alarms.length
  if t.alarms.take n = s.alarms then
    { t with alarms := s.alarms ++ (t.alarms.drop n).foldl (fun l e => e.among l) [] }
  else t

/-- The raise repeats an entry that is held: its page and its bit match, or both are without a bit (R476). -/
def AlarmEnt.repeats (e : AlarmEnt) (pg : Nat) (b : Option Nat) : Bool := e.page == pg && e.bitNo == b

/-- A raise that does not look at LOG_LOST: the class bit, the log, the repeats and the losses
(R476). The second part says whether LOST counted. -/
def State.raiseCore (s : State) (pg cls : Nat) (b : Option Nat) (d : Nat) : State × Bool :=
  let s := s.wr pgAlm HUB_ALM_PEND.CLASS (maskSet (s.rd pgAlm HUB_ALM_PEND.CLASS) cls true)
  if s.alarms.any (·.repeats pg b) then
    (s.bump pgAlm HUB_ALM_LOG_LEVEL.REPEATS 1, false)
  else if s.alarms.length < 64 then
    let e : AlarmEnt := ⟨pg, cls, b, d, s.time⟩
    let s : State := { s with alarms := s.logAlarm e }
    (s.wr pgAlm HUB_ALM_LOG_LEVEL.COUNT s.alarms.length, false)
  else (s.bump pgAlm HUB_ALM_LOG_LEVEL.LOST 1, true)

/-- A raise of the hub alarm (R476): page, class, PAGE_STAT bit and, for DIE and SCRUB, the die.
An entry that the full log loses sets LOG_LOST of the alarm page (R480), which is itself a raise
of the PAGE class when its PAGE_ALARM_EN bit is 1 (R39). -/
def State.raise (s : State) (pg cls : Nat) (b : Option Nat) (d : Nat := 0) : State :=
  let (s, lost) := s.raiseCore pg cls b d
  let s :=
    if lost then
      let s := s.wr pgAlm PAGE_STAT.BLOCK (maskSet (s.rd pgAlm PAGE_STAT.BLOCK) 0 true)
      if maskBit (s.rd pgAlm PAGE_ALARM_EN.BLOCK) 0 then (s.raiseCore pgAlm 0 (some 8) 0).1 else s
    else s
  s.alarmSync

/-! ### Page events (R39) -/

/-- The PAGE_ALARM_EN bit that enables a PAGE_STAT bit. -/
def alarmBit (b : Nat) : Option Nat :=
  if b = 0 then some 0 else if b = 4 then some 1 else if b = 1 then some 2
  else if 8 ≤ b then some b else none

/-- A PAGE_STAT bit sets, and raises the hub alarm where it is enabled (R39). -/
def State.ev (s : State) (pg b : Nat) : State :=
  let w := (s.reg pg PAGE_STAT.DONE.off).toNat
  let s := s.setReg pg PAGE_STAT.DONE.off (BitVec.ofNat 32 (maskSet w b true))
  match alarmBit b with
  | none => s
  | some a =>
    if maskBit (s.reg pg PAGE_ALARM_EN.CRC.off).toNat a then s.raise pg 0 (some b) else s

/-- An operation ends with exactly one of DONE and ABORTED (R59). -/
def State.evDone (s : State) (pg : Nat) : State := s.ev pg 6
def State.evAborted (s : State) (pg : Nat) : State := s.ev pg 7

/-! ### Power domains (R434) -/

/-- The power domain that a page's block area lies in; none for the core and shell blocks. -/
def domainOf (pg : Nat) : Nat :=
  let d := pg / 512
  let n := pg % 512
  if d = 0 then
    if 0x50 ≤ n ∧ n < 0x60 then 128 + (n - 0x50)
    else if 0x60 ≤ n ∧ n < 0x70 then 128 + (n - 0x60) else 144
  else
    let b := 32 * (d - 1)
    if n = 0x120 then b + 1
    else if 0x80 ≤ n ∧ n < 0x84 then b + 2 + (n - 0x80)
    else if 0x90 ≤ n ∧ n < 0x94 then b + 2 + (n - 0x90)
    else if 0xA0 ≤ n ∧ n < 0xA4 then b + 2 + (n - 0xA0)
    else if n = 0xB0 then b + 6 else if n = 0xC0 then b + 7
    else if 0xD0 ≤ n ∧ n < 0xD4 then b + 8 + (n - 0xD0)
    else if 0xE0 ≤ n ∧ n < 0xE2 then b + 12 + (n - 0xE0)
    else if 0x100 ≤ n ∧ n < 0x108 then b + 14 + (n - 0x100) else b

/-- The power state that a domain is really in: while a debugger is attached, STATE may record
a state that the domain does not take (R447). -/
def State.domState (s : State) (d : Nat) : Nat :=
  if s.on pgPwr (PWR_Dd.EMUL.nth d) then 0 else s.rd pgPwr (PWR_Dd.STATE.nth d)

/-- PAGE_LEVEL.DOMAIN of a page; the PWR page lies in the always-on shell (R448). -/
def State.pageDomain (s : State) (pg : Nat) : Nat :=
  if pg = pgPwr then 0 else s.domState (domainOf pg)

/-- The block area of these registers is clockless, so it is never answered GATED (R33, R92,
R448, R472, R480); of the HUB page, the mover registers are clocked. -/
def clockless (pg off : Nat) : Bool :=
  pg == 0 || (pg == 1 && !(decide (0x200 ≤ off ∧ off < 0x300))) || pg == 2 || pg == 3 || pg == 4
    || pg == 0x11 || pg == 0x14

/-- The clocks of the device run: a first judgement has set and they are not withdrawn (R83). -/
def State.clocksOn (s : State) : Bool :=
  s.on pgClk CLK_ROOT_STAT.JUDGED && !s.on pgClk CLK_ROOT_STAT.GATED

/-- The blocks that run again before UNGATE once a withdrawal's reference is judged: the Kelef
ports, their lanes and the time unit (R84). -/
def restartsFirst (pg : Nat) : Bool := pg == 0x10 || decide (0x4E ≤ pg ∧ pg < 0x70)

/-- The clock of a page's block is supplied (R63, R83, R84). -/
def State.clocksOnFor (s : State) (pg : Nat) : Bool :=
  s.on pgClk CLK_ROOT_STAT.JUDGED
    && (!s.on pgClk CLK_ROOT_STAT.GATED || (restartsFirst pg && !s.tu.dark))

/-- The block of a page runs: its domain is on, its clock is enabled and the clocks run (R56). -/
def State.running (s : State) (pg : Nat) : Bool :=
  s.pageDomain pg == 0 && s.on pg PAGE_CTL.CLK_EN && s.clocksOnFor pg

/-- A register page that this device has: a page that a block implements, and not a page of the
Kelef ports 8–15 where the selvage die's own capability word lacks KLF_16 (R16). -/
def State.implemented (s : State) (pg : Nat) : Bool :=
  (pageKind pg).isSome &&
    !((decide (0x58 ≤ pg ∧ pg < 0x60) || decide (0x68 ≤ pg ∧ pg < 0x70))
      && !maskBit (s.rd pgSeam (SEAM_DIEn_CAP.CAP.nth 0)) 10)

/-- How the dies answer a control-space access to a page number, before the page itself does
(R12, R23, R31, R35). -/
def State.dieCheck (s : State) (d : Nat) : Option BusStatus :=
  if d = 0 then none
  else if d = 7 then some .decode
  else if 5 ≤ d && !s.fitted d then some .absent
  else if (s.die d).lost then some .dieDown
  else if 5 ≤ d && !s.cap 11 then some .absent
  else none

/-- The check of R55, made when an access reaches the shell. -/
def State.pageCheck (s : State) (pg off : Nat) : Option BusStatus :=
  match s.dieCheck (pg / 512) with
  | some e => some e
  | none =>
    if !s.implemented pg then some .decode
    else if off < 0x40 then none
    else if s.pageDomain pg != 0 then some .off
    else if clockless pg off then none
    else if !s.on pg PAGE_CTL.CLK_EN || !s.clocksOnFor pg then some .gated
    else none

/-- The machine answers an access. -/
def State.answer (s : State) (st : BusStatus) (data : Nat := 0) : State :=
  { s with resp := ⟨st, data, false, true, 0, 0⟩ }

/-- A DIE_DOWN response that a seam endpoint makes for die `d` counts (R23, SEAM_DDn). -/
def State.synth (s : State) (d : Nat) (e : BusStatus) : State :=
  if e = .dieDown then s.bump pgSeam (SEAM_DDn.COUNT.nth d) 1 else s

/-- The device answers an access to a page for the block (R23, R55). -/
def State.answerFor (s : State) (pg : Nat) (e : BusStatus) : State :=
  (s.synth (pg / 512) e).answer e

/-- A write that enables a feature absent from SEAM_CAP_EFF is recorded (R15). -/
def State.capDeny (s : State) (pg : Nat) : State :=
  (s.wr pgSeam SEAM_CAP_DENY.PAGE pg).wr pgSeam SEAM_CAP_DENY.VALID 1

/-- A command of a page: its effect when the access reaches the page, the bus error otherwise
(R55). In the shell's power-on reset nothing takes an access and nothing answers one (R33, R427). -/
def State.guarded (s : State) (pg off : Nat) (f : State → State) : State :=
  if !s.tu.porDone then s
  else match s.pageCheck pg off with
    | some e => s.answerFor pg e
    | none => (f s).answer .ok

/-! ### Accesses that stall (R54, R55) -/

/-- An access to the control space: the page, the offset, and whether it goes through the peek alias
(R31, R36). -/
def ctlPlace (addr : Nat) : Option (Nat × Nat × Bool) :=
  if addr < 0x0C0000000000 ∨ 0x0C0002000000 ≤ addr then none
  else some (addr / 2 ^ 12 % 2 ^ 12, addr % 2 ^ 12, addr / 2 ^ 24 % 2 == 1)

/-- The stalled accesses whose page passes a test end with a status, since their block is lost to
them while they wait (R55). -/
def State.stallsStop (s : State) (e : BusStatus) (hit : Nat → Nat → Bool) : State :=
  { s with stalls := s.stalls.map fun x =>
      match ctlPlace x.addr with
      | some (pg, off, _) => if x.stop.isNone && hit pg off then { x with stop := some e } else x
      | none => x }

/-! ### Shadows (R40–R46, R50) -/

def State.page (s : State) (pg : Nat) : PageX := s.pages.getD pg {}
def State.setPage (s : State) (pg : Nat) (x : PageX) : State :=
  { s with pages := s.pages.setD pg {} x }

/-- A covered register changed: a running CRC pass may or may not reflect it (R49). -/
def State.crcTouch (s : State) (pg : Nat) : State :=
  match (s.page pg).pass with
  | none => s
  | some p => s.setPage pg { s.page pg with pass := some { p with touched := true } }

/-- Something happened that refuses the commit whose pass is running (R52). -/
def State.crcSpoil (s : State) (pg : Nat) : State :=
  match (s.page pg).pass with
  | none => s
  | some p => s.setPage pg { s.page pg with pass := some { p with clean := false } }

/-- A covered register or its shadow took a write: ARMED and CRC_BAD clear, DISARMED sets where
ARMED was 1, and a commit whose pass runs is refused (R50, R51, R52). -/
def State.disarm (s : State) (pg : Nat) : State :=
  let s := s.crcSpoil pg
  if s.on pg PAGE_LEVEL.ARMED then
    ((s.wr pg PAGE_LEVEL.ARMED 0).wr pg PAGE_LEVEL.CRC_BAD 0).ev pg 1
  else s

/-- The shadows of a page's pending set. -/
def State.pendingSet (s : State) (pg : Nat) : Tbl Word :=
  s.shadow.range (regKey pg 0) (regKey (pg + 1) 0)

/-- A register of a page is in the page's pending set. -/
def State.inSet (s : State) (pg off : Nat) : Bool := (s.shadow.find (regKey pg off)).isSome

/-- The pending set is gone, with any parity error in it: PENDING, KIND and COUNT return to 0 (R41,
R45, R46). -/
def State.dropPending (s : State) (pg : Nat) : State :=
  let s := { s with shadow := s.shadow.clear (regKey pg 0) (regKey (pg + 1) 0) }
  let s := s.setPage pg { s.page pg with upset := false }
  ((s.wr pg PAGE_PEND.PENDING 0).wr pg PAGE_PEND.KIND 0).wr pg PAGE_PEND.COUNT 0

/-- The bits of a register whose fields have a type that passes the test. -/
def typeMask (pg off : Nat) (p : FTy → Bool) : Word :=
  match pageKind pg with
  | none => 0
  | some k => match rowAt k off with
    | none => 0
    | some r => BitVec.ofNat 32 (r.mask p)

/-- The bits of `new` where the mask is 1, of `old` elsewhere. -/
def merge (mask old new : Word) : Word := (old &&& ~~~mask) ||| (new &&& mask)

/-- The bits of a register that the page CRC counts: the RW and RWS bits of a covered one (R48). -/
def coverMask (pg off : Nat) : Word :=
  match pageKind pg with
  | none => 0
  | some k => match rowAt k off with
    | none => 0
    | some r => if r.covered then BitVec.ofNat 32 (r.mask fun t => t == .rw || t == .rws) else 0

/-- A counted bit of the page differs between two states. -/
def State.coverDiffers (s0 s : State) (pg : Nat) : Bool :=
  (s0.regs.range (regKey pg 0) (regKey (pg + 1) 0) ++ s.regs.range (regKey pg 0) (regKey (pg + 1) 0)).any
    fun e =>
      let off := e.1 - regKey pg 0
      ((s0.reg pg off ^^^ s.reg pg off) &&& coverMask pg off) != 0

/-- The pass that runs on a page meets the counted bits that have changed since a state (R49). -/
def State.crcSee (s s0 : State) (pg : Nat) : State :=
  if (s.page pg).pass.isSome && s0.coverDiffers s pg then s.crcTouch pg else s

/-- A covered field takes a value other than by an access to its page: a pass that runs meets it (R49). -/
def State.wrCov (s : State) (pg : Nat) (f : Fld) (v : Nat) : State := (s.wr pg f v).crcSee s pg

/-- The RWS bits of a register (R2). -/
def rwsMask (pg off : Nat) : Word := typeMask pg off (· == .rws)

/-- What a register would read after its page's pending set applied. -/
def State.staged (s : State) (pg off : Nat) : Word :=
  match s.shadow.find (regKey pg off) with
  | none => s.reg pg off
  | some w => merge (rwsMask pg off) (s.reg pg off) w

/-- The value a field would have after its page's pending set applied. -/
def State.rdStaged (s : State) (pg : Nat) (f : Fld) : Nat :=
  bitsOf (s.staged pg f.off).toNat f.hi f.lo

/-- A shadow takes a value: the pending set grows, and its boundary kind is latched at its first
write (R40, R41). -/
def State.shadowWrite (s : State) (pg off : Nat) (w : Word) : State :=
  let s := { s with shadow := s.shadow.put (regKey pg off) w }
  let s := if s.on pg PAGE_PEND.PENDING then s
    else (s.wr pg PAGE_PEND.PENDING 1).wr pg PAGE_PEND.KIND (s.rd pg PAGE_BNDRY.KIND)
  s.wr pg PAGE_PEND.COUNT (min (s.pendingSet pg).length 255)

/-- Every shadow of the set goes to its register, in one step (R41). -/
def State.moveShadows (s : State) (pg : Nat) : State :=
  (s.pendingSet pg).foldl
    (fun s e => let off := e.1 - regKey pg 0; s.setReg pg off (s.staged pg off)) s

end Sys2Proof.Machine
end

