-- ==== Sys2Proof/Machine/Columns.lean ====
section
/-! DEFINITION. What a Kelef link carries (R329–R332, R336, R338, R343): columns of four blocks, the types of
control columns, the two CRCs of a link, and how a frame lies in its columns. -/

namespace Sys2Proof.Machine

/-! ### Cyclic redundancy checks -/

/-- One bit enters a CRC register of `w` bits, at its most significant end. -/
def crcShift (w poly c : Nat) (b : Bool) : Nat :=
  let d := c * 2 % 2 ^ w
  if maskBit c (w - 1) != b then d ^^^ poly else d

/-- The low `n` bits of a number, least significant first. -/
def lowBits (n v : Nat) : List Bool := (List.range n).map (maskBit v)

/-- The number whose bits are given, most significant first. -/
def ofBits (bs : List Bool) : Nat := bs.foldl (fun n b => 2 * n + bit b) 0

/-- The CRC-16 of a control column over its payload bits [207:0] (R332), with the end they enter from. -/
def crc16At (top : Bool) (payload : Nat) : Nat :=
  let bs := lowBits 208 payload
  (if top then bs.reverse else bs).foldl (crcShift 16 0x1021) 0xFFFF

def crc16 (payload : Nat) : Nat := crc16At Config.crc16Top payload

/-- The CRC-32 of R338 over `n` bytes, byte 0 lowest: the polynomial 0x04C1_1DB7, initial value and final
exclusive-OR all ones. `lsb`: the bits of a byte enter lowest first; `mirror`: the result is read with its
bits mirrored. -/
def crc32At (lsb mirror : Bool) (n v : Nat) : Nat :=
  let bits (i : Nat) : List Bool :=
    let b := lowBits 8 (v / 2 ^ (8 * i))
    if lsb then b else b.reverse
  let c := (List.range n).foldl (fun c i => (bits i).foldl (crcShift 32 0x04C11DB7) c) 0xFFFFFFFF
  (if mirror then ofBits (lowBits 32 c) else c) ^^^ 0xFFFFFFFF

def crc32 (n v : Nat) : Nat := crc32At Config.crc32Lsb Config.crc32Mirror n v

end Sys2Proof.Machine

namespace Sys2Proof

/-! ### Columns (R329, R330) -/

/-- The sync headers of data and of control blocks, as R329 writes them. -/
def syncData : BitVec 2 := 0b01#2
def syncCtl : BitVec 2 := 0b10#2

/-- The blocks of a column, lane 0 first. -/
def Column.blocks (c : Column) : List Block := [c.b0, c.b1, c.b2, c.b3]

/-- A column with the polarity of the marked lanes inverted. -/
def Column.turned (c : Column) (inv : Nat → Bool) : Column :=
  let f (l : Nat) (b : Block) : Block := if inv l then ⟨~~~b.sync, ~~~b.bits⟩ else b
  ⟨f 0 c.b0, f 1 c.b1, f 2 c.b2, f 3 c.b3⟩

/-- All four blocks carry sync header 01: a data column. -/
def Column.isData (c : Column) : Bool := c.blocks.all fun b => b.sync == syncData

/-- All four blocks carry sync header 10: a control column. -/
def Column.isCtl (c : Column) : Bool := c.blocks.all fun b => b.sync == syncCtl

/-- The column whose lane `l` holds the 64 bits `f l`. -/
def Column.mk4 (sync : BitVec 2) (f : Nat → Nat) : Column :=
  ⟨⟨sync, .ofNat 64 (f 0)⟩, ⟨sync, .ofNat 64 (f 1)⟩, ⟨sync, .ofNat 64 (f 2)⟩, ⟨sync, .ofNat 64 (f 3)⟩⟩

/-- The 32 bytes of a data column: lane l carries bytes 8l to 8l + 7. -/
def Column.bytes (c : Column) : Nat :=
  c.b0.bits.toNat + c.b1.bits.toNat * 2 ^ 64 + c.b2.bits.toNat * 2 ^ 128 + c.b3.bits.toNat * 2 ^ 192

def Column.ofBytes (v : Nat) : Column := .mk4 syncData fun l => v / 2 ^ (64 * l)

/-- Byte 0 of lane 0's block: the type of a control column. -/
def Column.typ (c : Column) : Nat := c.b0.bits.toNat % 256

/-- Bytes 0 of lanes 1–3, lane 1 lowest. -/
def Column.sides (c : Column) : Nat :=
  c.b1.bits.toNat % 256 + c.b2.bits.toNat % 256 * 2 ^ 8 + c.b3.bits.toNat % 256 * 2 ^ 16

/-- The 224 payload bits of a control column: lane l carries bits [56l + 55:56l] after its byte 0. -/
def Column.payload (c : Column) : Nat :=
  c.b0.bits.toNat / 256 + c.b1.bits.toNat / 256 * 2 ^ 56 + c.b2.bits.toNat / 256 * 2 ^ 112
    + c.b3.bits.toNat / 256 * 2 ^ 168

/-- A control column of a type, the bytes 0 of lanes 1–3, and a payload. -/
def Column.ctl (typ sides payload : Nat) : Column :=
  .mk4 syncCtl fun l =>
    (if l = 0 then typ else sides / 2 ^ (8 * (l - 1))) % 256 + payload / 2 ^ (56 * l) % 2 ^ 56 * 256

/-- The types of control columns. -/
inductive CtlKind where
  | idl | lnk | bcn | brp | trn | hdr
  deriving DecidableEq, Repr

def CtlKind.code : CtlKind → Nat
  | .idl => 0x1E
  | .lnk => 0x2D
  | .bcn => 0x33
  | .brp => 0x4B
  | .trn => 0x55
  | .hdr => 0x78

def CtlKind.all : List CtlKind := [.idl, .lnk, .bcn, .brp, .trn, .hdr]

end Sys2Proof

namespace Sys2Proof.Machine

/-- A control column other than HDR: its type on all lanes, its payload, and the CRC-16 over it (R332). -/
def ctlColumn (k : CtlKind) (w : Nat) : Column :=
  .ctl k.code (k.code * 0x10101) (w % 2 ^ 208 + crc16 (w % 2 ^ 208) * 2 ^ 208)

/-- What a control column is, where it is not discarded (R332): its type is listed, and for all but HDR
the type bytes of its lanes agree and its CRC holds. -/
def ctlKind (c : Column) : Option CtlKind :=
  match CtlKind.all.find? fun k => k.code == c.typ with
  | none => none
  | some .hdr => some .hdr
  | some k =>
    if c.sides = c.typ * 0x10101 ∧ bitsOf c.payload 223 208 = crc16 (c.payload % 2 ^ 208) then some k else none

/-- A control column that a receiver discards. -/
def ctlBad (c : Column) : Bool := c.isCtl && (ctlKind c).isNone

/-! ### Frames (R338) -/

/-- What the frame CRC covers: the three link-field bytes, the header and the bytes of the data columns. -/
def frameSum (link hdr data ncol : Nat) : Nat :=
  crc32 (3 + 24 + 32 * ncol) (link % 2 ^ 24 + hdr % 2 ^ 192 * 2 ^ 24 + data % 2 ^ (256 * ncol) * 2 ^ 216)

/-- The columns of a frame: HDR, then its data columns. -/
def frameColumns (link hdr data : Nat) : List Column :=
  let n := bitsOf link 19 16
  .ctl CtlKind.hdr.code link (frameSum link hdr data n + hdr % 2 ^ 192 * 2 ^ 32)
    :: (List.range n).map fun j => .ofBytes (data / 2 ^ (256 * j))

/-- The bytes of data columns, the first lowest. -/
def dataOf : List Column → Nat
  | [] => 0
  | c :: r => c.bytes + dataOf r * 2 ^ 256

/-- The link fields and the header of a frame, from its HDR column. -/
def hdrLink (c : Column) : Nat := c.sides
def hdrHeader (c : Column) : Nat := bitsOf c.payload 223 32

/-- The frame CRC of received columns holds. DEDUCED: columns whose number is not NCOL + 1, or with another
than a data column behind HDR, are no whole frame and fail it as well. -/
def frameGood (h : Column) (ds : List Column) : Bool :=
  decide (ds.length = bitsOf (hdrLink h) 19 16) && ds.all (·.isData)
    && decide (bitsOf h.payload 31 0 = frameSum (hdrLink h) (hdrHeader h) (dataOf ds) ds.length)

/-! ### Beacons (R343) -/

/-- The payload of a BRP column. -/
def brpPayload (seq t2 t3 depth : Nat) (valid suspect : Bool) : Nat :=
  seq % 2 ^ 16 + t2 % 2 ^ 72 * 2 ^ 16 + t3 % 2 ^ 72 * 2 ^ 88 + depth % 2 ^ 6 * 2 ^ 160
    + bit valid * 2 ^ 166 + bit suspect * 2 ^ 167

/-- The IDL column that a transmitter with nothing to send sends (R331). -/
def idlColumn : Column := ctlColumn .idl 0

end Sys2Proof.Machine
end

