-- ==== Sys2Proof/Machine/Weft.lean ====
section
/-! DEFINITION. The weft generators (chapter 6): weft operations, physical addresses and data,
the pin map, and the table commands. -/

namespace Sys2Proof.Machine

/-! ### Gangs (R123) -/

/-- The number 4(p − 1) + s of the sequencer that leads sequencer `b`'s gang; an ungeared
sequencer leads itself. -/
def State.leader (s : State) (b : Nat) : Nat :=
  let k := b / 4 * 4
  let i := b % 4
  let m := s.rd (pgSeq k) SEQ_GANG.MODE
  if m = 4 then k
  else if (m = 1 ∨ m = 3) ∧ i = 1 then k
  else if (m = 2 ∨ m = 3) ∧ i = 3 then k + 2
  else b

/-- The members that a sequencer leads, itself first, upward. -/
def State.members (s : State) (l : Nat) : List Nat :=
  ((List.range 4).map (l / 4 * 4 + ·)).filter fun b => s.leader b == l

/-- The sequencer is a gang member that does not lead. -/
def State.isMember (s : State) (b : Nat) : Bool := s.leader b != b

/-- The run state of the sequencer or of its gang's leader (R500). -/
def State.seqState (s : State) (b : Nat) : Nat := s.rd (pgSeq (s.leader b)) SEQ_RUN.STATE

/-- The sequencer has a run (R500). -/
def State.hasRun (s : State) (b : Nat) : Bool := s.seqState b == 3

/-- The sequencer is busy: armed, ready or running (R500). -/
def State.seqBusy (s : State) (b : Nat) : Bool := decide (1 ≤ s.seqState b ∧ s.seqState b ≤ 3)

/-! ### Weft operations (R158–R162) -/

/-- One axis under its operation code: the new value, the new save value, and whether a carry or
borrow came out (R159). With MIN above MAX every INC gives MIN and every DEC gives MAX, with a
carry or a borrow. -/
def axisOp (code a mn mx st sv : Nat) : Nat × Nat × Bool :=
  if code = 1 ∧ mx < mn then (mn, sv, true)
  else if code = 2 ∧ mx < mn then (mx, sv, true)
  else if code = 1 then if a + st ≤ mx then ((a + st) % 2 ^ 24, sv, false) else (mn, sv, true)
  else if code = 2 then if mn + st ≤ a then (a - st, sv, false) else (mx, sv, true)
  else if code = 3 then (mn, sv, false)
  else if code = 4 then (mx, sv, false)
  else if code = 5 then (a, a, false)
  else if code = 6 then (sv, sv, false)
  else if code = 7 then ((mn + mx + 2 ^ 25 - a) % 2 ^ 24, sv, false)
  else (a, sv, false)

/-- Z under its operation code, whose INC and DEC are those of R159 with a step of 1 (R160). -/
def zOp (code z mn mx : Nat) : Nat :=
  if code = 1 ∨ code = 2 then (axisOp code z mn mx 1 0).1
  else if code = 3 then mn
  else z

/-- D under its operation code (R161). -/
def dOp (code d db : Nat) : Nat :=
  if code = 1 then 2 ^ 64 - 1 - d
  else if code = 2 then db
  else if code = 3 then d * 2 % 2 ^ 64 + d / 2 ^ 63
  else d

/-- An INC or DEC that its chain holds back does nothing (R162). -/
def gated (go : Bool) (code : Nat) : Nat := if go || code = 0 || 3 ≤ code then code else 0

/-- The working state that one weft operation leaves, from the state and the parameters of a
generator (R155–R162). -/
def State.weftOp (s : State) (l wop : Nat) : WeftNext :=
  let pg := pgWft l
  let x := s.rd pg WFT_X.VALUE
  let y := s.rd pg WFT_Y.VALUE
  let z := s.rd pg WFT_Z.VALUE
  let d := s.rdPair pg WFT_D_LO.D WFT_D_HI.D
  let xop := bitsOf wop 2 0
  let yop := bitsOf wop 5 3
  let zc := bitsOf wop 7 6
  let chain := bitsOf wop 11 10
  let ax (c : Nat) := axisOp c x (s.rd pg WFT_X_MIN.VALUE) (s.rd pg WFT_X_MAX.VALUE)
    (s.rd pg WFT_X_STEP.VALUE) (s.rd pg WFT_XSAVE.VALUE)
  let ay (c : Nat) := axisOp c y (s.rd pg WFT_Y_MIN.VALUE) (s.rd pg WFT_Y_MAX.VALUE)
    (s.rd pg WFT_Y_STEP.VALUE) (s.rd pg WFT_YSAVE.VALUE)
  let rx := if chain = 2 then ax (gated (ay yop).2.2 xop) else ax xop
  let ry := if chain = 1 then ay (gated (ax xop).2.2 yop) else ay yop
  let zgo := if chain = 1 then ry.2.2 else if chain = 2 then rx.2.2 else true
  ⟨rx.1, ry.1, zOp (gated zgo zc) z (s.rd pg WFT_Z_CFG.MIN) (s.rd pg WFT_Z_CFG.MAX),
   dOp (bitsOf wop 9 8) d (s.rdPair pg WFT_DB_LO.DB WFT_DB_HI.DB), rx.2.1, ry.2.1⟩

/-- The working state takes the values an operation left (R155). -/
def State.weftTake (s : State) (l : Nat) (w : WeftNext) : State :=
  let pg := pgWft l
  let s := ((s.wr pg WFT_X.VALUE w.x).wr pg WFT_Y.VALUE w.y).wr pg WFT_Z.VALUE w.z
  let s := (s.wr pg WFT_XSAVE.VALUE w.xs).wr pg WFT_YSAVE.VALUE w.ys
  s.wrPair pg WFT_D_LO.D WFT_D_HI.D w.d

/-- SEQ_CTL.ARM loads the working state from the applied initial values (R154). -/
def State.weftLoad (s : State) (l : Nat) : State :=
  let pg := pgWft l
  let x := s.rd pg WFT_X_INIT.VALUE
  let y := s.rd pg WFT_Y_INIT.VALUE
  s.weftTake l ⟨x, y, s.rd pg WFT_Z_CFG.INIT,
    s.rdPair pg WFT_D_INIT_LO.D WFT_D_INIT_HI.D, x, y⟩

/-! ### Tables (R167, R168) -/

/-- The key of a table entry. -/
def weftKey (b t i : Nat) : Nat := b * 2 ^ 14 + t * 2 ^ 12 + i

/-- What an entry holds after reset (R168). -/
def weftReset (t i : Nat) : Nat := if t < 2 then i else 0

def State.weftEntry (s : State) (b t i : Nat) : Nat :=
  s.weftTab.getD (weftKey b t i) (weftReset t i)

def State.setWeftEntry (s : State) (b t i v : Nat) : State :=
  { s with weftTab := s.weftTab.setD (weftKey b t i) (weftReset t i) v }

/-- The table and the entry that WFT_TBL_ADDR selects; the topology table ignores INDEX[11:8]. -/
def State.weftSel (s : State) (b : Nat) : Nat × Nat :=
  let t := s.rd (pgWft b) WFT_TBL_ADDR.TBL
  let i := s.rd (pgWft b) WFT_TBL_ADDR.INDEX
  (t, if t = 2 then i % 256 else i)

/-- INDEX advances by one after an access when AUTOINC is 1; in the topology table the low eight
bits wrap and INDEX[11:8] stays (R167). DESIGN CHOICE: with TBL 3 too, whose accesses read 0 or are ignored,
INDEX advances, modulo 4,096. -/
def State.weftAdvance (s : State) (b : Nat) : State :=
  let pg := pgWft b
  let i := s.rd pg WFT_TBL_ADDR.INDEX
  if s.on pg WFT_TBL_ADDR.AUTOINC then
    s.wr pg WFT_TBL_ADDR.INDEX
      (if s.rd pg WFT_TBL_ADDR.TBL = 2 then i / 256 * 256 + (i + 1) % 256 else (i + 1) % 4096)
  else s

/-- What a read of WFT_TBL_DATA returns; TBL 3 reads 0 (R167). -/
def State.weftPeek (s : State) (b : Nat) : Nat :=
  let (t, i) := s.weftSel b
  if t = 3 then 0 else s.weftEntry b t i

/-- The ECC verdict of a table access (R169). -/
def State.weftEcc (s : State) (b : Nat) (e : Ecc) : State :=
  match e with
  | .clean => s
  | .corrected => (s.bump (pgWft b) WFT_ECC.CORR 1).ev (pgWft b) 9
  | .fatal => (s.wr (pgWft b) WFT_ECC.FATAL 1).ev (pgWft b) 10

/-- A read of entry `i` of table `t` meets a verdict: the stored bits of a fatal entry are open
(R169). -/
def State.weftMeet (s : State) (b t i : Nat) (e : Ecc) : State :=
  let s := s.weftEcc b e
  match e with
  | .fatal =>
    let (v, s) := s.draw (if t = 2 then 2 else 12)
    s.setWeftEntry b t i v
  | _ => s

/-- A read of WFT_TBL_DATA through the register reads the selected entry, with a verdict of its check
bits that is free. -/
def State.weftSeen (s : State) (b : Nat) : State :=
  let (t, i) := s.weftSel b
  if t = 3 then s
  else
    let (r, s) := s.draw 2
    s.weftMeet b t i (if r = 1 then .corrected else if r = 2 then .fatal else .clean)

/-- WFT_TBL_WRITE: refused while the sequencer is busy, ignored with TBL 3 (R167, R168). DESIGN CHOICE: a
refused write does not advance INDEX. -/
def State.weftWrite (s : State) (b v : Nat) : State :=
  if s.seqBusy b then s.ev (pgWft b) 8
  else
    let (t, i) := s.weftSel b
    let s := if t = 3 then s
      else s.setWeftEntry b t i (if t = 2 then v % 4 else v % 4096)
    s.weftAdvance b

/-- The bank number is one of the sixteen of the package (R123). -/
def bankOk (b : Nat) : Bool := decide (b < 16)

def execWftTblWrite (b v : Nat) (s : State) : Host.Outcome State Fault Refusal :=
  .next (if bankOk b then s.guarded (pgWft b) 0x104 (·.weftWrite b v) else s.answer .decode)

/-- WFT_TBL_READ: returns the entry and advances INDEX; a fatal entry returns its stored bits. -/
def State.weftRead (s : State) (b : Nat) (e : Ecc) : State :=
  if !s.tu.porDone then s
  else match s.pageCheck (pgWft b) 0x104 with
  | some err => s.answerFor (pgWft b) err
  | none =>
    let (t, i) := s.weftSel b
    let s := if t = 3 then s else s.weftMeet b t i e
    (s.weftAdvance b).answer .ok (s.weftPeek b)

def execWftTblRead (b : Nat) (e : Ecc) (s : State) : Host.Outcome State Fault Refusal :=
  .next (if bankOk b then s.weftRead b e else s.answer .decode)

/-! ### Physical address and data (R164–R166, R170) -/

/-- The outputs of a cycle: physical X′, Y′, Z′ and data D′. -/
structure WeftOut where
  x : Nat
  y : Nat
  z : Nat
  d : Nat
  deriving DecidableEq, Repr

/-- A 24-bit axis with the 12-bit window at bit `sh` replaced through a table. -/
def scramble (a sh : Nat) (f : Nat → Nat) : Nat :=
  (putBits a (sh + 11) sh (f (bitsOf a (sh + 11) sh))) % 2 ^ 24

/-- One scramble table acts on its axis (R164). -/
def State.scrambleBy (s : State) (l t : Nat) (a : Nat × Nat) : Nat × Nat :=
  let pg := pgWft l
  if s.on pg (WFT_SCRt_CFG.EN.nth t) then
    let sh := min 12 (s.rd pg (WFT_SCRt_CFG.SHIFT.nth t))
    if s.on pg (WFT_SCRt_CFG.SRC.nth t) then (a.1, scramble a.2 sh (s.weftEntry l t))
    else (scramble a.1 sh (s.weftEntry l t), a.2)
  else a

/-- A source bit by its code (R170). -/
def srcBit (o : WeftOut) (c : Nat) : Nat :=
  if c < 0x18 then o.x / 2 ^ c % 2
  else if c < 0x30 then o.y / 2 ^ (c - 0x18) % 2
  else if c < 0x38 then o.z / 2 ^ (c - 0x30) % 2
  else if c = 0x39 then 1
  else if c < 0x40 then 0
  else o.d / 2 ^ (c - 0x40) % 2

/-- Topology selector `k` (R166). -/
def State.topoSel (s : State) (l k : Nat) : Nat :=
  if k < 4 then bitsOf (s.reg (pgWft l) 0x4C).toNat (8 * k + 6) (8 * k)
  else bitsOf (s.reg (pgWft l) 0x50).toNat (8 * (k - 4) + 6) (8 * (k - 4))

/-- The outputs formed from the working state as it stands (R155, R164, R166). Topology
selectors above 0x39 give 0. -/
def State.weftOut (s : State) (l : Nat) : WeftOut :=
  let pg := pgWft l
  let (x, y) := s.scrambleBy l 1 (s.scrambleBy l 0 (s.rd pg WFT_X.VALUE, s.rd pg WFT_Y.VALUE))
  let d := s.rdPair pg WFT_D_LO.D WFT_D_HI.D
  let o : WeftOut := ⟨x, y, s.rd pg WFT_Z.VALUE, 0⟩
  let t := (List.range 8).foldl
    (fun n k => let c := s.topoSel l k; n + (if 0x39 < c then 0 else srcBit o c) * 2 ^ k) 0
  let e := s.weftEntry l 2 t
  let m := s.rdPair pg (WFT_Mm_LO.MASK.nth e) (WFT_Mm_HI.MASK.nth e)
  { o with d := if s.on pg WFT_CFG.TOPO_EN then d ^^^ m else d }

/-- The tables whose entries a cycle's outputs need (R164, R166): 0 and 1 scramble, 2 is topology. -/
def State.weftNeeds (s : State) (l : Nat) : List Nat :=
  (List.range 3).filter fun t =>
    if t = 2 then s.on (pgWft l) WFT_CFG.TOPO_EN else s.on (pgWft l) (WFT_SCRt_CFG.EN.nth t)

/-- The verdicts of the entries that a cycle's outputs need, out of one for each table. -/
def State.weftVerdicts (s : State) (l : Nat) (tab : List Ecc) : List Ecc :=
  (s.weftNeeds l).map (tab.getD · .clean)

/-- The pin-map value of a slot of a channel of a bank (R170). -/
def State.pinSlot (s : State) (b ch slot : Nat) (o : WeftOut) : Nat :=
  let off := 0x200 + 8 * ch + (if slot < 4 then 0 else 4)
  let e := bitsOf (s.reg (pgWft b) off).toNat (8 * (slot % 4) + 7) (8 * (slot % 4))
  let c := e % 128
  if 0x3A ≤ c ∧ c < 0x40 ∨ c = 0x38 then 0
  else (srcBit o c + e / 128) % 2

/-- Data slot `k` of a channel in a cycle with a symbol (R102). -/
def State.slotVal (s : State) (b ch k sym : Nat) (o : WeftOut) : Bool :=
  if k < 4 ∧ ¬ maskBit (s.rd (pgEdg b) (EDG_CHn_CFG.SLOT_SRC.nth ch)) k then maskBit sym k
  else s.pinSlot b ch k o == 1

end Sys2Proof.Machine
end

