-- ==== Sys2Proof/Machine/Edge.lean ====
section
/-! DEFINITION. The edge channels (chapter 4): channel states, placement of events and strobes,
waveform commands, the time-stamp queue and calibration. Times within a bank are in VS. -/

namespace Sys2Proof.Machine

def State.bank (s : State) (b : Nat) : BankX := s.banks.getD b {}
def State.setBank (s : State) (b : Nat) (x : BankX) : State := { s with banks := s.banks.setD b {} x }
def State.modBank (s : State) (b : Nat) (f : BankX → BankX) : State := s.setBank b (f (s.bank b))
def BankX.chan (x : BankX) (c : Nat) : ChanX := x.chans.getD c {}
def BankX.setChan (x : BankX) (c : Nat) (y : ChanX) : BankX := { x with chans := x.chans.setD c {} y }

/-! ### Channel states (R94) -/

/-- The state of a channel: 0 OFF, 1 FLOAT, 2 PARKED, 3 RUNNING, 4 HELD. A run that the debugger has
halted executes no cycles, and its channels are PARKED (R470). -/
def State.chanState (s : State) (b c : Nat) : Nat :=
  let m := s.rd (pgEdg b) (EDG_CHn_CFG.MODE.nth c)
  if s.pageDomain (pgEdg b) != 0 || (s.die (b / 4 + 1)).lost then 0
  else if (s.bank b).held then 4
  else if m = 0 then 1
  else if m = 2 && s.hasRun b && !(s.seqs.getD (s.leader b) {}).halted then 3
  else 2

/-- The parked levels of a channel. -/
def State.parkLevels (s : State) (b c : Nat) : Option Bool × Option Bool :=
  (some (s.on (pgEdg b) (EDG_CHn_CFG.IDLE_DRV.nth c)),
   some (s.on (pgEdg b) (EDG_CHn_CFG.IDLE_ENA.nth c)))

/-- The outputs of a channel that is not RUNNING follow its state: floating when OFF or FLOAT,
the idle levels when PARKED, and by HOLD_MODE when HELD (R94). A PARKED channel whose ended run
still has events placed keeps them, and reaches the idle levels with the last of them, its park
(R95). -/
def State.settleChan (s : State) (b c : Nat) : State :=
  let st := s.chanState b c
  if st = 3 then s
  else
    let lv : Option Bool × Option Bool :=
      if st = 2 ∨ (st = 4 ∧ s.on (pgEdg b) EDG_BANK_CFG.HOLD_MODE) then s.parkLevels b c
      else (none, none)
    s.modBank b fun x =>
      let y := x.chan c
      match y.evq.getLast? with
      | some e =>
        if st = 2 && !y.inRun && y.drv.isSome then
          x.setChan c { y with evq := y.evq.dropLast ++ [⟨e.t, lv.1, lv.2⟩] }
        else x.setChan c { y with drv := lv.1, ena := lv.2, evq := [], inRun := false }
      | none => x.setChan c { y with drv := lv.1, ena := lv.2, inRun := false }

/-- All sixteen channels settle. -/
def State.settleBank (s : State) (b : Nat) : State :=
  (List.range 16).foldl (fun s c => s.settleChan b c) s

/-- The outputs take every placed change whose time is reached. -/
def ChanX.upTo (y : ChanX) (t : Nat) : ChanX :=
  let due := (y.evq.filter fun e => decide (e.t ≤ t)).mergeSort fun a b => decide (a.t ≤ b.t)
  let y := due.foldl (fun (y : ChanX) e =>
    { y with drv := e.drv.orElse fun _ => y.drv, ena := e.ena.orElse fun _ => y.ena }) y
  { y with evq := y.evq.filter fun e => decide (t < e.t) }

/-- A channel is masked when the site it is assigned to is masked in the bank (R97, R174). -/
def State.chanMasked (s : State) (b c : Nat) : Bool :=
  let pg := pgCat (b / 4 + 1)
  let i := 16 * (b % 4) + c
  s.on pg (CAT_CHMAPn.EN.nth i) && maskBit (s.bank b).maskAct (s.rd pg (CAT_CHMAPn.SITE.nth i))

/-- The channels of a bank that are masked, as a mask. -/
def State.maskedChans (s : State) (b : Nat) : Nat :=
  (List.range 16).foldl (fun m c => if s.chanMasked b c then m + 2 ^ c else m) 0

/-- The minimum spacing of R111, in VS. -/
def State.minSpacing (s : State) : Nat := if s.cap 0 then 256 else 512

/-! ### Waveform memory (R114–R117) -/

/-- The key of word `w` of waveform `wv` of set `t` of channel `c`. -/
def waveKey (c t wv w : Nat) : Nat := ((c * 32 + t) * 16 + wv) * 16 + w

/-- A word of waveform memory; a word never written reads zero (R122). -/
def BankX.waveWord (x : BankX) (c t wv w : Nat) : Nat := x.wave.getD (waveKey c t wv w) 0

/-- A waveform is written whole into one channel. -/
def BankX.putWave (x : BankX) (c t wv : Nat) (ws : List Nat) : BankX :=
  let m := (List.range 16).foldl (fun m w => m.setD (waveKey c t wv w) 0 (ws.getD w 0)) x.wave
  { x with wave := m }

/-- The staged words EDG_WAVE_EV0–EV15. -/
def State.staging (s : State) (b : Nat) : List Nat :=
  (List.range 16).map fun k =>
    s.rdPair (pgEdg b) (EDG_WAVE_EVk_LO.WORD.nth k) (EDG_WAVE_EVk_HI.WORD.nth k)

def wTime (w : Nat) : Nat := bitsOf w 32 0
def wValid (w : Nat) : Bool := maskBit w 33
def wAction (w : Nat) : Nat := bitsOf w 37 34
def wSlot (w : Nat) : Nat := bitsOf w 40 38
def wKind (w : Nat) : Nat := bitsOf w 35 34
def wExpect (w : Nat) : Nat := bitsOf w 39 36
def sSlot (w : Nat) : Nat := bitsOf w 42 40
def wWidth (w : Nat) : Nat := bitsOf w 63 43

/-- The action changes DRV (R104). -/
def actsDrv (a : Nat) : Bool := decide (1 ≤ a ∧ a ≤ 4) || decide (7 ≤ a ∧ a ≤ 10)
/-- The action changes ENA (R104). -/
def actsEna (a : Nat) : Bool := decide (1 ≤ a ∧ a ≤ 6) || decide (11 ≤ a ∧ a ≤ 12)

/-- The level an action gives DRV, from the value of its slot (R104). -/
def drvLevel (a : Nat) (sl : Bool) : Bool :=
  if a = 1 ∨ a = 7 then false else if a = 2 ∨ a = 8 then true
  else if a = 3 ∨ a = 9 then sl else !sl

/-- The level an action gives ENA (R104). -/
def enaLevel (a : Nat) (sl : Bool) : Bool :=
  if a = 5 then false else if a = 11 then sl else if a = 12 then !sl else true

/-- The end of a strobe word's interval: TIME for a point, TIME + WIDTH otherwise (R105). -/
def strobeEnd (w : Nat) : Nat := if wKind w = 0 then wTime w else wTime w + wWidth w

/-- The first index of a list of indexed words whose word fails a test. -/
def firstBad (ws : List (Nat × Nat)) (bad : Nat → Nat → Bool) : Option Nat :=
  (ws.find? fun e => bad e.1 e.2).map (·.1)

/-- A valid word with a reserved code or bit, or a time-stamp strobe without STROBE_TS (R114). -/
def badCode (ts : Bool) (i w : Nat) : Bool :=
  wValid w && (if i < 8 then wAction w == 0 || decide (13 ≤ wAction w) || bitsOf w 63 41 != 0
    else wKind w == 3 || decide (8 ≤ wExpect w) || (wKind w == 2 && !ts))

def badWidth (i w : Nat) : Bool :=
  wValid w && decide (8 ≤ i) && wKind w != 0 && decide (wWidth w < 256)

/-- A valid word of the same kind with a lower index has a later TIME. -/
def badOrder (ws : List (Nat × Nat)) (i w : Nat) : Bool :=
  wValid w && ws.any fun e => decide (e.1 < i) && (decide (e.1 < 8) == decide (i < 8))
    && wValid e.2 && decide (wTime w < wTime e.2)

/-- An earlier valid word stands closer than the minimum spacing on an output that both change,
or on the comparator (R111). -/
def badSpacing (ms : Nat) (ws : List (Nat × Nat)) (i w : Nat) : Bool :=
  wValid w && ws.any fun e => decide (e.1 < i) && wValid e.2 &&
    (if i < 8 then
      decide (e.1 < 8) && ((actsDrv (wAction w) && actsDrv (wAction e.2))
        || (actsEna (wAction w) && actsEna (wAction e.2))) && decide (wTime w < wTime e.2 + ms)
     else decide (8 ≤ e.1) && decide (wTime w < strobeEnd e.2 + ms))

/-- The checks of R114 in their order: STATUS and EVENT of the first condition that holds.
DESIGN CHOICE: IN_USE, which no staged word causes, reports EVENT 0. -/
def State.waveCheck (s : State) (b : Nat) (ws : List Nat) : Option (Nat × Nat) :=
  let e := (List.range 16).map fun k => (k, ws.getD k 0)
  if maskBit (s.rd (pgEdg b) EDG_TS_EN.EN) (s.rd (pgEdg b) EDG_WAVE_SEL.TSET) && s.seqBusy b then
    some (4, 0)
  else match firstBad e (badCode (s.cap 1)) with
    | some i => some (1, i)
    | none => match firstBad e badWidth with
      | some i => some (5, i)
      | none => match firstBad e (badOrder e) with
        | some i => some (2, i)
        | none => (firstBad e (badSpacing s.minSpacing e)).map ((3, ·))

/-- EDG_WAVE_STAT reports a command's result. -/
def State.waveStat (s : State) (b st e done : Nat) : State :=
  let pg := pgEdg b
  ((s.wr pg EDG_WAVE_STAT.STATUS st).wr pg EDG_WAVE_STAT.EVENT e).wr pg EDG_WAVE_STAT.DONE_MASK done

/-- WAVE_WRITE: EDG_WAVE_CMD.OP = 1 (R114–R116). -/
def State.waveWrite (s : State) (b : Nat) : State :=
  let pg := pgEdg b
  if (s.bank b).op.isSome then s.ev pg 17
  else
    let ws := s.staging b
    match s.waveCheck b ws with
    | some (st, i) => (s.waveStat b st i 0).evDone pg
    | none =>
      let mask := s.rd pg EDG_WAVE_CHMASK.MASK
      let s := s.waveStat b 0 0 0
      if mask = 0 then s.evDone pg
      else
        let op := WaveOp.write (s.rd pg EDG_WAVE_SEL.TSET) (s.rd pg EDG_WAVE_SEL.WAVE) mask ws 0
        s.modBank b fun x => { x with op := some op }

def execWaveWrite (b : Nat) (s : State) : Host.Outcome State Fault Refusal :=
  .next (if bankOk b then s.guarded (pgEdg b) 0x108 (·.waveWrite b) else s.answer .decode)

/-- The first `n` channels of the mask, lowest first, take the waveform (R115). -/
def State.waveCopy (s : State) (b t wv mask n : Nat) (ws : List Nat) : State :=
  let cs := ((List.range 16).filter (maskBit mask ·)).take n
  let s := s.modBank b fun x => cs.foldl (fun x c => x.putWave c t wv ws) x
  s.wr (pgEdg b) EDG_WAVE_STAT.DONE_MASK (cs.foldl (fun m c => m + 2 ^ c) 0)

/-- A running write goes on by a number of channels that the spec leaves open, short of its final
state (R115). -/
def State.waveProgress (s : State) (b : Nat) : State :=
  match (s.bank b).op with
  | some (.write t wv mask ws k) =>
    if s.running (pgEdg b) then
      let total := ((List.range 16).filter (maskBit mask ·)).length
      let (r, s) := s.draw 16
      let k := k + r % (total - k)
      (s.waveCopy b t wv mask k ws).modBank b fun x => { x with op := some (.write t wv mask ws k) }
    else s
  | _ => s

/-- WAVE_WRITE_DONE: the highest channel of the mask is written (R115). -/
def State.waveWriteDone (s : State) (b : Nat) : State :=
  match (s.bank b).op with
  | some (.write t wv mask ws _) =>
    if s.running (pgEdg b) then
      ((s.waveCopy b t wv mask 16 ws).modBank b fun x => { x with op := none }).evDone (pgEdg b)
    else s
  | _ => s

def execWaveWriteDone (b : Nat) (s : State) : Host.Outcome State Fault Refusal :=
  .next (s.waveWriteDone b)

/-- WAVE_READ: EDG_WAVE_CMD.OP = 2 (R116). -/
def State.waveRead (s : State) (b : Nat) : State :=
  let pg := pgEdg b
  if (s.bank b).op.isSome then s.ev pg 17
  else
    let op := WaveOp.read (s.rd pg EDG_WAVE_SEL.TSET) (s.rd pg EDG_WAVE_SEL.WAVE)
      (s.rd pg EDG_WAVE_SEL.CH)
    s.modBank b fun x => { x with op := some op }

def execWaveRead (b : Nat) (s : State) : Host.Outcome State Fault Refusal :=
  .next (if bankOk b then s.guarded (pgEdg b) 0x108 (·.waveRead b) else s.answer .decode)

/-- The ECC verdict of a waveform-memory read (R117). DESIGN CHOICE: bit 11 sets with FATAL whoever reads,
a command too, for whose read R117 names FATAL alone. -/
def State.waveEcc (s : State) (b : Nat) (e : Ecc) : State :=
  match e with
  | .clean => s
  | .corrected => (s.bump (pgEdg b) EDG_ECC.CORR 1).ev (pgEdg b) 10
  | .fatal => (s.wr (pgEdg b) EDG_ECC.FATAL 1).ev (pgEdg b) 11

/-- A word of waveform memory is read for a command: a word with an uncorrectable error reads as
the damaged bits that the memory holds, which are open (R117). -/
def State.waveReadWord (s : State) (b c t wv w : Nat) (e : Ecc) : State :=
  let s := s.waveEcc b e
  match e with
  | .fatal =>
    let (v, s) := s.draw 64
    s.modBank b fun x => { x with wave := x.wave.setD (waveKey c t wv w) 0 v }
  | _ => s

/-- WAVE_READ_DONE: the staging registers load in one step (R116, R117). `es` gives the ECC verdict
of each word read; a word that it does not reach is clean. -/
def State.waveReadDone (s : State) (b : Nat) (es : List Ecc) : State :=
  let pg := pgEdg b
  match (s.bank b).op with
  | some (.read t wv c) =>
    if s.running pg then
      let s := (List.range 16).foldl (fun s k => s.waveReadWord b c t wv k (es.getD k .clean)) s
      let s := (List.range 16).foldl (fun s k =>
        s.wrPair pg (EDG_WAVE_EVk_LO.WORD.nth k) (EDG_WAVE_EVk_HI.WORD.nth k)
          ((s.bank b).waveWord c t wv k)) s
      ((s.wr pg EDG_WAVE_STAT.STATUS 0).modBank b fun x => { x with op := none }).evDone pg
    else s
  | _ => s

def execWaveReadDone (b : Nat) (es : List Ecc) (s : State) : Host.Outcome State Fault Refusal :=
  .next (s.waveReadDone b es)

/-- An abort of a waveform command before its final state: a write has reached some of its
channels, how many the spec leaves to its pace (R115, R116). -/
def State.waveAbort (s : State) (b : Nat) : State :=
  let pg := pgEdg b
  match (s.bank b).op with
  | none => s
  | some _ =>
    let s := s.waveProgress b
    ((s.wr pg EDG_WAVE_STAT.STATUS 6).modBank b fun x => { x with op := none }).evAborted pg

/-! ### The time-stamp queue (R108) -/

/-- The 64-bit form of a time-stamp record (EDG_TS_FIFO). -/
def tsWord (offset : Nat) (none fail : Bool) (ch cycle : Nat) : Nat :=
  offset % 2 ^ 33 + bit none * 2 ^ 33 + 2 ^ 34 + bit fail * 2 ^ 35 + ch % 16 * 2 ^ 36
    + cycle % 2 ^ 24 * 2 ^ 40

/-- A time-stamp strobe adds its record; a full queue drops it. -/
def State.tsRecord (s : State) (b w : Nat) : State :=
  let pg := pgEdg b
  if (s.bank b).tsq.length < 256 then
    let s := s.modBank b fun x => { x with tsq := x.tsq ++ [w] }
    s.wr pg EDG_TS_LEVEL.COUNT (s.bank b).tsq.length
  else (s.bump pg EDG_TS_LEVEL.LOST 1).ev pg 13

/-- TS_FIFO_POP: a 64-bit read of EDG_TS_FIFO returns the head and removes it; an empty queue
reads 0 (R122). -/
def State.tsPop (s : State) (b : Nat) : State :=
  if !s.tu.porDone then s
  else match s.pageCheck (pgEdg b) 0x300 with
  | some e => s.answerFor (pgEdg b) e
  | none =>
    let h := (s.bank b).tsq.headD 0
    let s := s.modBank b fun x => { x with tsq := x.tsq.tail }
    (s.wr (pgEdg b) EDG_TS_LEVEL.COUNT (s.bank b).tsq.length).answer .ok h

def execTsFifoPop (b : Nat) (s : State) : Host.Outcome State Fault Refusal :=
  .next (if bankOk b then s.tsPop b else s.answer .decode)

/-! ### Calibration (R118, R120)

A bank has 48 delay lines, each built twice: line 3c + k is the drive, the enable and the compare
sampler of channel c for k = 0, 1, 2. Bit i of `copies` says which copy of line i places events. -/

/-- The time that has gone by since reset, in G, without the jumps of the count at alignments (R74). -/
def State.elapsed (s : State) : Nat := ((s.now : Int) - s.tu.jumped).toNat

/-- The time since the least recently calibrated line of a bank calibrated. -/
def State.calAge (s : State) (b : Nat) : Nat :=
  s.elapsed - (List.range 48).foldl (fun m i => min m ((s.bank b).lastCal.getD i 0)) s.elapsed

/-- A bank whose domain powers up calibrates its lines; their ages start at 0 (R118, R122). -/
def State.calFresh (s : State) (b : Nat) : State :=
  s.modBank b fun x => { x with
    lastCal := (List.range 48).map fun i => (i, s.elapsed), calDue := s.elapsed + 1280000 }

/-- The banks of a panel die whose domains power up (R118). -/
def State.panelCal (s : State) (d : Nat) : State :=
  if 1 ≤ d ∧ d ≤ 4 then (List.range 4).foldl (fun s k => s.calFresh (4 * (d - 1) + k)) s else s

/-- A channel one of whose lines is in a mask of lines. -/
def lineChan (f c : Nat) : Bool := bitsOf f (3 * c + 2) (3 * c) != 0

/-- CAL_EXCHANGE: 1,280,000 G after the last one, the copies of every line exchange roles, but for
the lines in `failed`, whose other copy failed calibration: they keep their active copy with its
last calibration, and their channels set CAL_FAIL (R118, R120). CAL_STALE ends when no line is
5,120,000 G old. -/
def State.calExchange (s : State) (b failed : Nat) : State :=
  let pg := pgEdg b
  if s.pageDomain pg == 0 && !(s.die (b / 4 + 1)).lost && s.clocksOnFor pg && bankOk b then
    let f := failed % 2 ^ 48
    let s := { s with now := s.now + ((s.bank b).calDue - s.elapsed) }
    let s := s.modBank b fun x => { x with
      copies := x.copies ^^^ (2 ^ 48 - 1 - f),
      lastCal := (List.range 48).foldl
                   (fun m i => if maskBit f i then m else m.setD i 0 s.elapsed) x.lastCal,
      calDue := s.elapsed + 1280000 }
    let s := s.modBank b fun x => { x with stale := x.stale && decide (5120000 ≤ s.calAge b) }
    (List.range 16).foldl (fun s c =>
      if lineChan f c then
        (s.wr pg EDG_CAL_AGE.FAIL_CH (maskSet (s.rd pg EDG_CAL_AGE.FAIL_CH) c true)).wr pg
          (EDG_CHn_STAT.CAL_FAIL.nth c) 1
      else s) s
  else s

def execCalExchange (b failed : Nat) (s : State) : Host.Outcome State Fault Refusal :=
  .next (s.calExchange b failed)

/-- CAL_STALE: a line has gone 5,120,000 G without a successful calibration. -/
def State.calStale (s : State) (b : Nat) : State :=
  if bankOk b && decide (5120000 ≤ s.calAge b) && !(s.bank b).stale then
    (s.modBank b fun x => { x with stale := true }).ev (pgEdg b) 14
  else s

def execCalStale (b : Nat) (s : State) : Host.Outcome State Fault Refusal :=
  .next (s.calStale b)

/-! ### Placing events (R109–R112) -/

/-- A placed time may lie before the cycle's start by a trim; times are never below 0. -/
def placeAt (start time : Nat) (trim : Int) : Nat := ((start : Int) + time + trim).toNat

/-- Two times on one pin keep the minimum spacing. -/
def apart (ms a b : Nat) : Bool := decide (a + ms ≤ b) || decide (b + ms ≤ a)

/-- A time keeps the spacing from every event that another cycle placed on the pin (R111). -/
def clearOf (ms n : Nat) (hist : List (Nat × Nat)) (t : Nat) : Bool :=
  hist.all fun e => e.1 == n || apart ms e.2 t

/-- A strobe keeps the spacing from every strobe that another cycle placed. -/
def strobeClear (ms n : Nat) (hist : List (Nat × Nat × Nat)) (a b : Nat) : Bool :=
  hist.all fun e => e.1 == n || decide (e.2.2 + ms ≤ a) || decide (b + ms ≤ e.2.1)

/-- A channel's SPACING fault (R111). -/
def State.spacingFault (s : State) (b c : Nat) : State :=
  let pg := pgEdg b
  let s := s.wr pg EDG_FAULT_CH.SPACING (maskSet (s.rd pg EDG_FAULT_CH.SPACING) c true)
  (s.wr pg (EDG_CHn_STAT.SPACING.nth c) 1).ev pg 9

/-- A channel's SPILL_DROP fault (R110). -/
def State.spillFault (s : State) (b c : Nat) : State :=
  let pg := pgEdg b
  let s := s.wr pg EDG_FAULT_CH.SPILL (maskSet (s.rd pg EDG_FAULT_CH.SPILL) c true)
  (s.wr pg (EDG_CHn_STAT.SPILL_DROP.nth c) 1).ev pg 8

/-- The vector of cycle `n` changes. -/
def BankX.modVec (x : BankX) (n : Nat) (f : Vec → Vec) : BankX :=
  { x with vecs := x.vecs.map fun v => if v.n == n then f v else v }

/-- A drive event of cycle `n` is placed, or dropped for spacing. The result says whether it was
dropped. -/
def State.placeDrive (s : State) (b c n : Nat) (d e : Option (Nat × Bool)) : State × Bool :=
  let y := (s.bank b).chan c
  let ms := s.minSpacing
  let okD := match d with | none => true | some p => clearOf ms n y.drvT p.1
  let okE := match e with | none => true | some p => clearOf ms n y.enaT p.1
  if okD && okE then
    let evD := match d with | none => [] | some p => [⟨p.1, some p.2, none⟩]
    let evE := match e with | none => [] | some p => [⟨p.1, none, some p.2⟩]
    (s.modBank b fun x => x.setChan c { y with
      evq := y.evq ++ evD ++ evE,
      drvT := y.drvT ++ d.toList.map fun p => (n, p.1),
      enaT := y.enaT ++ e.toList.map fun p => (n, p.1) }, false)
  else (s.spacingFault b c, true)

/-- A strobe of cycle `n` is placed into its vector, or dropped for spacing, which fails its
channel (R111, R112). -/
def State.placeStrobe (s : State) (b n : Nat) (p : PStrobe) : State × Bool :=
  let y := (s.bank b).chan p.ch
  if strobeClear s.minSpacing n y.strT p.start p.stop then
    (s.modBank b fun x =>
      (x.setChan p.ch { y with strT := y.strT ++ [(n, p.start, p.stop)] }).modVec n
        fun v => { v with strobes := v.strobes ++ [p] }, false)
  else
    ((s.spacingFault b p.ch).modBank b fun x =>
      x.modVec n fun v => { v with dropped := maskSet v.dropped p.ch true }, true)

/-- The expectation of a strobe word, its slot read (R106). -/
def expectOf (code : Nat) (sl sl3 : Bool) : Expect :=
  if code = 1 then .l else if code = 2 then .h else if code = 3 then .m else if code = 4 then .v
  else if code = 5 then (if sl then .h else .l)
  else if code = 6 then (if sl then .l else .h)
  else if code = 7 then (if sl3 then .x else if sl then .h else .l)
  else .x

/-- The events of one cycle's waveform of one channel: those whose interval ends below the period
are placed at once, the others await the next cycle's period (R110). -/
def State.placeChannel (s : State) (b c n start period t sym : Nat) (o : WeftOut) (masked : Bool) :
    State × Bool :=
  let pg := pgEdg b
  let td := signed 16 (s.rd pg (EDG_CHn_TRIM.DRV.nth c))
  let te := signed 16 (s.rd pg (EDG_CHn_TRIM.ENA.nth c))
  let tc := signed 16 (s.rd pg (EDG_CHn_TRIM_CMP.CMP.nth c))
  let word (w : Nat) := (s.bank b).waveWord c t sym w
  let drives := if masked then [] else (List.range 8).filter fun w => wValid (word w)
  let strobes := (List.range 8).filter fun w => wValid (word (8 + w))
  let (s, bad) := drives.foldl (fun (acc : State × Bool) w =>
    let (s, bad) := acc
    let ev := word w
    let sl := s.slotVal b c (wSlot ev) sym o
    let d := if actsDrv (wAction ev) then
      some (placeAt start (wTime ev) td, drvLevel (wAction ev) sl) else none
    let e := if actsEna (wAction ev) then
      some (placeAt start (wTime ev) te, enaLevel (wAction ev) sl) else none
    if wTime ev < period then
      let (s, f) := s.placeDrive b c n d e
      (s, bad || f)
    else (s.modBank b fun x => { x with spills := x.spills ++ [.drive c (wTime ev) d e] }, bad))
    (s, false)
  strobes.foldl (fun (acc : State × Bool) w =>
    let (s, bad) := acc
    let ev := word (8 + w)
    let p : PStrobe := ⟨c, wKind ev,
      expectOf (wExpect ev) (s.slotVal b c (sSlot ev) sym o) (s.slotVal b c 3 sym o),
      placeAt start (wTime ev) tc, placeAt start (strobeEnd ev) tc⟩
    if strobeEnd ev < period then
      let (s, f) := s.placeStrobe b n p
      (s, bad || f)
    else (s.modBank b fun x => { x with spills := x.spills ++ [.strobe (strobeEnd ev) p] }, bad))
    (s, bad)

/-- The spilling events of cycle `n` are judged against P(n) + P(n + 1), and placed or dropped
(R110). The result says whether an edge fault arose. -/
def State.judgeSpills (s : State) (b n sum : Nat) : State × Bool :=
  let sp := (s.bank b).spills
  let s := s.modBank b fun x => { x with spills := [] }
  sp.foldl (fun (acc : State × Bool) e =>
    let (s, bad) := acc
    match e with
    | .drive c lim d en =>
      if lim < sum then
        let (s, f) := s.placeDrive b c n d en
        (s, bad || f)
      else (s.spillFault b c, true)
    | .strobe lim p =>
      if lim < sum then
        let (s, f) := s.placeStrobe b n p
        (s, bad || f)
      else ((s.spillFault b p.ch).modBank b fun x =>
        x.modVec n fun v => { v with dropped := maskSet v.dropped p.ch true }, true))
    (s, false)

/-- The histories keep only what can still break a spacing: trims move an event by less than
2^15 VS. -/
def ChanX.prune (y : ChanX) (start : Nat) : ChanX :=
  { y with
    drvT := y.drvT.filter fun e => decide (start ≤ e.2 + 2 ^ 17),
    enaT := y.enaT.filter fun e => decide (start ≤ e.2 + 2 ^ 17),
    strT := y.strT.filter fun e => decide (start ≤ e.2.2 + 2 ^ 17) }

/-- Every channel's outputs take the changes reached at a time, and the histories are pruned. -/
def BankX.upTo (x : BankX) (t : Nat) : BankX :=
  (List.range 16).foldl (fun x c => x.setChan c (((x.chan c).upTo t).prune t)) x

/-- The channel of an event that awaits judgement. -/
def Spill.chan : Spill → Nat
  | .drive c _ _ _ => c
  | .strobe _ p => p.ch

def Spill.isDrive : Spill → Bool
  | .drive _ _ _ _ => true
  | .strobe _ _ => false

/-- A strobe that awaits judgement and has ended by a time (R95, R502). -/
def Spill.over (stop : Nat) : Spill → Bool
  | .drive _ _ _ _ => false
  | .strobe _ p => decide (p.stop ≤ stop)

/-- A vector keeps the strobes that pass a test. -/
def Vec.keepStrobes (v : Vec) (f : PStrobe → Bool) : Vec := { v with strobes := v.strobes.filter f }

/-- The output changes placed at or after a time are discarded. -/
def BankX.cutEvents (x : BankX) (stop : Nat) : BankX :=
  (List.range 16).foldl (fun x c =>
    let y := x.chan c
    x.setChan c { y with evq := y.evq.filter fun e => decide (e.t < stop) }) x

/-- A channel joins a run: its outputs start from the parked levels, with ENA at 0 when its site
is masked (R95, R97, R502). -/
def State.joinRun (s : State) (b c : Nat) : State :=
  let lv := s.parkLevels b c
  let ena := if s.chanMasked b c then some false else lv.2
  s.modBank b fun x => x.setChan c { x.chan c with drv := lv.1, ena := ena, evq := [], inRun := true }

/-- A channel's MODE at a cycle boundary: it joins or leaves the run in progress (R502). Events
and strobes of earlier cycles still pending on a channel that leaves are discarded; a strobe that has
ended by the boundary, also one that ends with its cycle, is not pending. -/
def State.modeStep (s : State) (b start : Nat) : State :=
  (List.range 16).foldl (fun s c =>
    let y := (s.bank b).chan c
    if s.chanState b c = 3 then (if y.inRun then s else s.joinRun b c)
    else if y.inRun then
      let s := s.modBank b fun x => { x with
        spills := x.spills.filter fun e => e.chan != c || e.over start,
        vecs := x.vecs.map fun v => v.keepStrobes fun p => p.ch != c || decide (p.stop ≤ start) }
      s.settleChan b c
    else s) s

/-- Site masks that have reached the bank act at the boundary: ENA of a newly masked channel goes
to 0 and its pending drive events, of which those before the boundary have been placed, are
discarded (R97). -/
def State.maskStep (s : State) (b : Nat) : State :=
  let s := s.modBank b fun x => { x with maskAct := x.maskIn }
  (List.range 16).foldl (fun s c =>
    let y := (s.bank b).chan c
    if y.inRun && s.chanMasked b c then
      s.modBank b fun x => { x.setChan c { y with ena := some false, evq := [] } with
        spills := x.spills.filter fun e => e.chan != c || !e.isDrive }
    else s) s

/-- MASK_ARRIVES: a site mask or its removal reaches a bank (R97, R179). New masks reach it at any
time after they are set, which the spec bounds by 32 G; with none, what arrives is a removal, 32 G
after its write. -/
def State.maskArrives (s : State) (b : Nat) : State :=
  let pg := pgCat (b / 4 + 1)
  if bankOk b then
    let due (i : Nat) : Nat := (s.cats.getD (b / 4 + 1) {}).unmaskAt.getD i 0 + 32
    let old := (s.bank b).maskIn
    let m := s.rdPair pg CAT_MASK_LO.MASK CAT_MASK_HI.MASK
    let gone := (List.range 64).filter fun i => maskBit old i && !maskBit m i
    let fresh := (List.range 64).any fun i => maskBit m i && !maskBit old i
    let t := match gone with
      | [] => s.now
      | i :: is => if fresh then s.now else max s.now (is.foldl (fun t i => min t (due i)) (due i))
    let late := gone.filter fun i => decide (t < due i)
    { s with now := t }.modBank b fun x => { x with maskIn := late.foldl (fun m i => maskSet m i true) m }
  else s

def execMaskArrives (b : Nat) (s : State) : Host.Outcome State Fault Refusal :=
  .next (s.maskArrives b)

/-- The run ends on a bank at `stop`, the end of its final cycle. After HALT the spilled events
of the final cycle are placed and the channel parks 1 G after the later of that end and the end of
its last event or strobe; after any other cause what spills past the end is discarded and the
channel parks at the end (R95). A site mask that has reached the bank acts at that boundary too (R97).
The result says whether an edge fault arose. DESIGN CHOICE: after another cause, a strobe
that ends with the cycle or, by its trim, before it, is complete, and is judged as after HALT. -/
def State.endBank (s : State) (b n period stop : Nat) (halt : Bool) : State × Bool :=
  let s := (s.modBank b (·.upTo (stop - 1))).maskStep b
  let s := if halt then s else s.modBank b fun x => { x.cutEvents stop with
    spills := x.spills.filter (·.over stop),
    vecs := x.vecs.map fun v => v.keepStrobes fun p => decide (p.stop ≤ stop) }
  let (s, bad) := s.judgeSpills b n (2 * period)
  let s := (List.range 16).foldl (fun s c =>
    let y := (s.bank b).chan c
    if y.inRun then
      let last := ((y.evq.map (·.t)) ++ y.strT.map (·.2.2)).foldl max stop
      let park := if halt then last + 256 else stop
      let lv := s.parkLevels b c
      s.modBank b fun x => x.setChan c { y with
        evq := y.evq ++ [⟨park, lv.1, lv.2⟩], inRun := false }
    else s) s
  (s, bad)

/-! ### Judging strobes (R106, R107, R112) -/

/-- The level of the comparator pair at a time. DESIGN CHOICE: (0, 0) until a first level is seen, which the
spec leaves open. -/
def levelAt (ls : List CmpLevel) (t : Nat) : Bool × Bool :=
  ((ls.filter fun l => decide (l.t ≤ t)).getLast?.map fun l => (l.cmh, l.cml)).getD (false, false)

/-- The pair matches the expectation (R106). -/
def Expect.pass (e : Expect) (p : Bool × Bool) : Bool :=
  match e with
  | .x => true
  | .l => !p.1 && p.2
  | .h => p.1 && !p.2
  | .m => !p.1 && !p.2
  | .v => p.1 != p.2

/-- The changes seen after the start of a window and before its end. -/
def changesIn (ls : List CmpLevel) (a b : Nat) : List CmpLevel :=
  ls.filter fun l => decide (a < l.t ∧ l.t < b) && levelAt ls (l.t - 1) != (l.cmh, l.cml)

/-- The first change within a time-stamp window into the state that EXPECT requires; with X the
first change of either input (R107). DESIGN CHOICE: a change into the
state is one from a pair that does not match EXPECT to one that does, so with V a direct change
between L and H is none. -/
def firstChange (ls : List CmpLevel) (p : PStrobe) : Option Nat :=
  ((changesIn ls p.start p.stop).find? fun l =>
    p.expect == .x || (p.expect.pass (l.cmh, l.cml) && !p.expect.pass (levelAt ls (l.t - 1)))).map (·.t)

/-- A placed strobe fails (R107). -/
def strobeFails (ls : List CmpLevel) (p : PStrobe) : Bool :=
  if p.kind = 2 then (firstChange ls p).isNone
  else if p.expect = .x then false
  else if p.kind = 1 then
    !p.expect.pass (levelAt ls p.start) || !(changesIn ls p.start p.stop).isEmpty
  else !p.expect.pass (levelAt ls p.start)

/-- The fail bits of a vector: the strobes that fail and the dropped ones, but masked channels
report pass (R97, R112). -/
def BankX.failBits (x : BankX) (v : Vec) : Nat :=
  (List.range 16).foldl (fun m c =>
    let fails := maskBit v.dropped c
      || (v.strobes.filter fun p => p.ch == c).any (strobeFails (x.chan c).cmp)
    if fails && !maskBit v.masked c then m + 2 ^ c else m) 0

/-- The end of the last placed strobe of a vector's cycle, or the end of the cycle (R113). -/
def Vec.lastEnd (v : Vec) : Nat := v.strobes.foldl (fun m p => max m p.stop) v.stop

/-- The delivery time of a vector, in cycle order (R113). -/
def BankX.delivery (x : BankX) (v : Vec) : Nat := max x.lastD (v.lastEnd + 128 * 256)

/-- New comparator levels join a bank's channels. -/
def BankX.see (x : BankX) (ls : List CmpLevel) : BankX :=
  ls.foldl (fun x l => x.setChan (l.ch % 16)
    { x.chan (l.ch % 16) with cmp := (x.chan (l.ch % 16)).cmp ++ [l] }) x

/-- Levels older than a time are of no use beyond the last of them. -/
def ChanX.forget (y : ChanX) (t : Nat) : ChanX :=
  let old := y.cmp.filter fun l => decide (l.t ≤ t)
  { y with cmp := old.drop (old.length - 1) ++ y.cmp.filter fun l => decide (t < l.t) }

/-- The time-stamp records of a vector, in channel and waveform order, to the queue
and, where the stream tap's windows have not reached them yet, for those (R108, R422). DESIGN CHOICES: the
OFFSET of a change that a negative trim puts before the cycle's start is 0, and FAIL of a masked
channel's record is set with NONE, as for any other channel. -/
def State.tsRecords (s : State) (b : Nat) (v : Vec) : State :=
  (v.strobes.filter fun p => p.kind == 2).foldl (fun s p =>
    let ls := ((s.bank b).chan p.ch).cmp
    let hit := firstChange ls p
    let s := s.tsRecord b (tsWord ((hit.getD p.stop) - v.start) hit.isNone hit.isNone p.ch v.n)
    let r : TapRec := ⟨p.stop + 128 * 256, p.ch, hit.isNone, (hit.getD p.stop) % 2 ^ 22⟩
    if (s.die (b / 4 + 1)).tclkAt * 256 ≤ r.due then s.modBank b fun x => { x with tapq := x.tapq ++ [r] } else s) s

end Sys2Proof.Machine
end

