-- ==== Sys2Proof/Machine/Crypto.lean ====
section
/-! DEFINITION. The functions of published standards that the spec names: AES-256 (FIPS 197), AES-CMAC
(SP 800-38B), AES-GCM (SP 800-38D), AES key wrap (SP 800-38F), SHA-384 (FIPS 180-4), ECDSA and ECDH on
P-384 (FIPS 186, SP 800-56A). The spec does not restate them (R287, R288, R391, R392, R450, R452, R458). A
block, a key and a point's coordinate are numbers with their first byte most significant; a message of many
bytes is a number with its first byte lowest, as a memory holds it. -/

namespace Sys2Proof.Machine

/-- The bytes of a number in the other order. -/
def revBytes (n x : Nat) : Nat :=
  (List.range n).foldl (fun v i => v + bitsOf x (8 * i + 7) (8 * i) * 2 ^ (8 * (n - 1 - i))) 0

/-! ### AES-256 -/

/-- Doubling in GF(2^8) with x^8 + x^4 + x^3 + x + 1. -/
def aesTwice (a : Nat) : Nat := if a < 128 then 2 * a else (2 * a ^^^ 0x11B) % 256

/-- The product in that field, over the bits of the second factor. -/
def aesMulBits : Nat → Nat → Nat → Nat
  | 0, _, _ => 0
  | n + 1, a, b => (if b % 2 = 1 then a else 0) ^^^ aesMulBits n (aesTwice a) (b / 2)
def aesMul (a b : Nat) : Nat := aesMulBits 8 a b

/-- The inverse, a^254; 0 for 0. -/
def aesInvert (a : Nat) : Nat :=
  let sq (x : Nat) := aesMul x x
  let a2 := sq a
  let a4 := sq a2
  let a8 := sq a4
  let a16 := sq a8
  let a32 := sq a16
  let a64 := sq a32
  let a128 := sq a64
  [a4, a8, a16, a32, a64, a128].foldl aesMul a2

/-- A byte rotated left. -/
def byteRot (x k : Nat) : Nat := (x * 2 ^ k ||| x / 2 ^ (8 - k)) % 256

/-- SubBytes of a byte, and its inverse. -/
def aesSub (a : Nat) : Nat :=
  let b := aesInvert a
  b ^^^ byteRot b 1 ^^^ byteRot b 2 ^^^ byteRot b 3 ^^^ byteRot b 4 ^^^ 0x63
def aesUnsub (a : Nat) : Nat := aesInvert (byteRot a 1 ^^^ byteRot a 3 ^^^ byteRot a 6 ^^^ 0x05)

/-- Byte `i` of a number of `n` bytes, the first most significant. -/
def byteBe (n x i : Nat) : Nat := x / 2 ^ (8 * (n - 1 - i)) % 256

/-- A number from its bytes, the first most significant. -/
def fromBytes (l : List Nat) : Nat := l.foldl (fun n b => n * 256 + b) 0

/-- SubWord and RotWord of the key schedule. -/
def aesSubWord (w : Nat) : Nat := fromBytes ((List.range 4).map fun i => aesSub (byteBe 4 w i))
def aesRotWord (w : Nat) : Nat := w % 2 ^ 24 * 2 ^ 8 + w / 2 ^ 24

/-- The round constant of step `i`, the power 2^(i − 1) of the field. -/
def aesRcon : Nat → Nat
  | 0 => 0
  | 1 => 1
  | n + 2 => aesTwice (aesRcon (n + 1))

/-- The key schedule: `n` more words after those of `ws`, which are newest first. -/
def aesExpand : Nat → List Nat → List Nat
  | 0, ws => ws
  | n + 1, ws =>
    let i := ws.length
    let t := ws.headD 0
    let t := if i % 8 = 0 then aesSubWord (aesRotWord t) ^^^ aesRcon (i / 8) * 2 ^ 24
      else if i % 8 = 4 then aesSubWord t else t
    aesExpand n ((ws.getD 7 0 ^^^ t) :: ws)

/-- The sixty words of the schedule of a 256-bit key, oldest first. -/
def aesKeys (key : Nat) : List Nat :=
  (aesExpand 52 ((List.range 8).map fun i => bitsOf key (32 * i + 31) (32 * i))).reverse

/-- Round key `r` of a schedule. -/
def roundKey (ws : List Nat) (r : Nat) : Nat :=
  (List.range 4).foldl (fun n i => n * 2 ^ 32 + ws.getD (4 * r + i) 0) 0

/-- One column mixed with four coefficients. -/
def mixWith (c0 c1 c2 c3 : Nat) (f : Nat → Nat) (i : Nat) : Nat :=
  let c := i / 4 * 4
  let g (k : Nat) := f (c + (i + k) % 4)
  aesMul (g 0) c0 ^^^ aesMul (g 1) c1 ^^^ aesMul (g 2) c2 ^^^ aesMul (g 3) c3

/-- The bytes of a block after a map on their places. -/
def blockMap (x : Nat) (f : (Nat → Nat) → Nat → Nat) : Nat :=
  fromBytes ((List.range 16).map (f (byteBe 16 x)))

/-- SubBytes and ShiftRows. -/
def aesShift (x : Nat) : Nat := blockMap x fun b i => aesSub (b ((i + 4 * (i % 4)) % 16))
def aesUnshift (x : Nat) : Nat := blockMap x fun b i => aesUnsub (b ((i + 12 * (i % 4)) % 16))

/-- AES-256 of a block. -/
def aes256 (key x : Nat) : Nat :=
  let ws := aesKeys key
  let x := (List.range 13).foldl (fun x r =>
    blockMap (aesShift x) (mixWith 2 3 1 1) ^^^ roundKey ws (r + 1)) (x ^^^ roundKey ws 0)
  aesShift x ^^^ roundKey ws 14

/-- The inverse of AES-256. -/
def aes256Inv (key x : Nat) : Nat :=
  let ws := aesKeys key
  let x := (List.range 13).foldl (fun x r =>
    blockMap (aesUnshift x ^^^ roundKey ws (13 - r)) (mixWith 14 11 13 9)) (x ^^^ roundKey ws 14)
  aesUnshift x ^^^ roundKey ws 0

/-! ### AES-CMAC -/

/-- The first subkey: the cipher of zero, doubled in GF(2^128). -/
def cmacKey (key : Nat) : Nat :=
  let l := aes256 key 0
  if l < 2 ^ 127 then 2 * l else (2 * l % 2 ^ 128) ^^^ 0x87

/-- AES-CMAC of a message of whole blocks, at least one. -/
def aesCmac (key : Nat) (blocks : List Nat) : Nat :=
  let last := blocks.getLastD 0 ^^^ cmacKey key
  aes256 key ((blocks.dropLast.foldl (fun c m => aes256 key (c ^^^ m)) 0) ^^^ last)

/-! ### AES-GCM -/

/-- A step of the product of SP 800-38D: bit `i` of `x` from the left, and `v` moved right. -/
def gcmMulBits : Nat → Nat → Nat → Nat → Nat
  | 0, _, _, z => z
  | n + 1, x, v, z =>
    gcmMulBits n x (if v % 2 = 1 then v / 2 ^^^ 0xE1 * 2 ^ 120 else v / 2) (if x / 2 ^ n % 2 = 1 then z ^^^ v else z)
def gcmMul (x y : Nat) : Nat := gcmMulBits 128 x y 0

/-- Block `i` of a message whose first byte is lowest. -/
def msgBlock (m i : Nat) : Nat := revBytes 16 (bitsOf m (128 * i + 127) (128 * i))

/-- GHASH over `n` blocks of a message, from a value on. -/
def ghash (h y n m : Nat) : Nat := (List.range n).foldl (fun y i => gcmMul (y ^^^ msgBlock m i) h) y

/-- The counter block `i` of a 96-bit nonce, whose first byte is lowest; the tag takes block 1. -/
def gcmCounter (iv i : Nat) : Nat := revBytes 12 iv * 2 ^ 32 + i % 2 ^ 32

/-- `n` blocks of a ciphertext turned into plaintext, the first of them block `i` of its stream. -/
def gcmOpen (key iv i n c : Nat) : Nat :=
  (List.range n).foldl (fun v j =>
    v + (bitsOf c (128 * j + 127) (128 * j) ^^^ revBytes 16 (aes256 key (gcmCounter iv (i + j + 2)))) * 2 ^ (128 * j)) 0

/-- The tag over additional data of `na` blocks and parts of the ciphertext of `nc` blocks each; the tag's
first byte is lowest. -/
def gcmTag (key iv na aad nc : Nat) (parts : List Nat) : Nat :=
  let h := aes256 key 0
  let y := parts.foldl (fun y c => ghash h y nc c) (ghash h 0 na aad)
  let len := 128 * na * 2 ^ 64 + 128 * nc * parts.length
  revBytes 16 (gcmMul (y ^^^ len) h ^^^ aes256 key (gcmCounter iv 1))

/-! ### AES key wrap -/

/-- One step of the unwrapping, the step number `t` from 24 down: A and the four halves. -/
def kwStep (key : Nat) (a : Nat × List Nat) (t : Nat) : Nat × List Nat :=
  let i := (t - 1) % 4
  let b := aes256Inv key ((a.1 ^^^ t) * 2 ^ 64 + a.2.getD i 0)
  (b / 2 ^ 64, a.2.set i (b % 2 ^ 64))

/-- The 256-bit key that a 40-byte payload, first byte lowest, wraps; none where the check fails. -/
def kwUnwrap (key payload : Nat) : Option Nat :=
  let half (i : Nat) := revBytes 8 (bitsOf payload (64 * i + 63) (64 * i))
  let (a, rs) := ((List.range 24).map (24 - ·)).foldl (kwStep key) (half 0, (List.range 4).map fun i => half (i + 1))
  if a = 0xA6A6A6A6A6A6A6A6 then some (rs.foldl (fun n r => n * 2 ^ 64 + r) 0) else none

/-! ### SHA-384 -/

/-- The round constants: fractions of the cube roots of the first eighty primes. -/
def shaK : List Nat :=
  [0x428a2f98d728ae22, 0x7137449123ef65cd, 0xb5c0fbcfec4d3b2f, 0xe9b5dba58189dbbc, 0x3956c25bf348b538,
   0x59f111f1b605d019, 0x923f82a4af194f9b, 0xab1c5ed5da6d8118, 0xd807aa98a3030242, 0x12835b0145706fbe] ++
  [0x243185be4ee4b28c, 0x550c7dc3d5ffb4e2, 0x72be5d74f27b896f, 0x80deb1fe3b1696b1, 0x9bdc06a725c71235,
   0xc19bf174cf692694, 0xe49b69c19ef14ad2, 0xefbe4786384f25e3, 0xfc19dc68b8cd5b5, 0x240ca1cc77ac9c65] ++
  [0x2de92c6f592b0275, 0x4a7484aa6ea6e483, 0x5cb0a9dcbd41fbd4, 0x76f988da831153b5, 0x983e5152ee66dfab,
   0xa831c66d2db43210, 0xb00327c898fb213f, 0xbf597fc7beef0ee4, 0xc6e00bf33da88fc2, 0xd5a79147930aa725] ++
  [0x6ca6351e003826f, 0x142929670a0e6e70, 0x27b70a8546d22ffc, 0x2e1b21385c26c926, 0x4d2c6dfc5ac42aed,
   0x53380d139d95b3df, 0x650a73548baf63de, 0x766a0abb3c77b2a8, 0x81c2c92e47edaee6, 0x92722c851482353b] ++
  [0xa2bfe8a14cf10364, 0xa81a664bbc423001, 0xc24b8b70d0f89791, 0xc76c51a30654be30, 0xd192e819d6ef5218,
   0xd69906245565a910, 0xf40e35855771202a, 0x106aa07032bbd1b8, 0x19a4c116b8d2d0c8, 0x1e376c085141ab53] ++
  [0x2748774cdf8eeb99, 0x34b0bcb5e19b48a8, 0x391c0cb3c5c95a63, 0x4ed8aa4ae3418acb, 0x5b9cca4f7763e373,
   0x682e6ff3d6b2b8a3, 0x748f82ee5defb2fc, 0x78a5636f43172f60, 0x84c87814a1f0ab72, 0x8cc702081a6439ec] ++
  [0x90befffa23631e28, 0xa4506cebde82bde9, 0xbef9a3f7b2c67915, 0xc67178f2e372532b, 0xca273eceea26619c,
   0xd186b8c721c0c207, 0xeada7dd6cde0eb1e, 0xf57d4f7fee6ed178, 0x6f067aa72176fba, 0xa637dc5a2c898a6] ++
  [0x113f9804bef90dae, 0x1b710b35131c471b, 0x28db77f523047d84, 0x32caab7b40c72493, 0x3c9ebe0a15c9bebc,
   0x431d67c49c100d4c, 0x4cc5d4becb3e42b6, 0x597f299cfc657e2a, 0x5fcb6fab3ad6faec, 0x6c44198c4a475817]

/-- The initial hash value. -/
def sha384Init : List Nat :=
  [0xcbbb9d5dc1059ed8, 0x629a292a367cd507, 0x9159015a3070dd17, 0x152fecd8f70e5939, 0x67332667ffc00b31,
   0x8eb44a8768581511, 0xdb0c2e0d64f98fa7, 0x47b5481dbefa4fa4]

/-- A 64-bit word rotated right, and the four mixing functions. -/
def rotr (x k : Nat) : Nat := x / 2 ^ k ||| x % 2 ^ k * 2 ^ (64 - k)
def shaBig0 (x : Nat) : Nat := rotr x 28 ^^^ rotr x 34 ^^^ rotr x 39
def shaBig1 (x : Nat) : Nat := rotr x 14 ^^^ rotr x 18 ^^^ rotr x 41
def shaSmall0 (x : Nat) : Nat := rotr x 1 ^^^ rotr x 8 ^^^ x / 2 ^ 7
def shaSmall1 (x : Nat) : Nat := rotr x 19 ^^^ rotr x 61 ^^^ x / 2 ^ 6

/-- The message schedule: `n` more words, newest first. -/
def shaExpand : Nat → List Nat → List Nat
  | 0, ws => ws
  | n + 1, ws =>
    shaExpand n ((shaSmall1 (ws.getD 1 0) + ws.getD 6 0 + shaSmall0 (ws.getD 14 0) + ws.getD 15 0) % 2 ^ 64 :: ws)

/-- The working variables of a block. -/
structure ShaVars where
  a : Nat
  b : Nat
  c : Nat
  d : Nat
  e : Nat
  f : Nat
  g : Nat
  h : Nat
  deriving DecidableEq, Repr

/-- One round with a constant and a word. -/
def ShaVars.round (v : ShaVars) (kw : Nat × Nat) : ShaVars :=
  let t1 := v.h + shaBig1 v.e + ((v.e &&& v.f) ^^^ ((2 ^ 64 - 1 - v.e) &&& v.g)) + kw.1 + kw.2
  let t2 := shaBig0 v.a + ((v.a &&& v.b) ^^^ (v.a &&& v.c) ^^^ (v.b &&& v.c))
  ⟨(t1 + t2) % 2 ^ 64, v.a, v.b, v.c, (v.d + t1) % 2 ^ 64, v.e, v.f, v.g⟩

/-- The hash value after a block of 128 bytes, first byte lowest. -/
def shaBlock (h : List Nat) (blk : Nat) : List Nat :=
  let ws := (shaExpand 64 (((List.range 16).map fun i => revBytes 8 (bitsOf blk (64 * i + 63) (64 * i))).reverse)).reverse
  let g (i : Nat) := h.getD i 0
  let v := (shaK.zip ws).foldl ShaVars.round ⟨g 0, g 1, g 2, g 3, g 4, g 5, g 6, g 7⟩
  [g 0 + v.a, g 1 + v.b, g 2 + v.c, g 3 + v.d, g 4 + v.e, g 5 + v.f, g 6 + v.g, g 7 + v.h].map (· % 2 ^ 64)

/-- SHA-384 of the first `n` bytes of a message; the digest's first byte is lowest. -/
def sha384 (n m : Nat) : Nat :=
  let blocks := (n + 17 + 127) / 128
  let p := m % 2 ^ (8 * n) + 0x80 * 2 ^ (8 * n) + revBytes 16 (8 * n) * 2 ^ (1024 * blocks - 128)
  let h := (List.range blocks).foldl (fun h i => shaBlock h (bitsOf p (1024 * i + 1023) (1024 * i))) sha384Init
  revBytes 48 ((h.take 6).foldl (fun n w => n * 2 ^ 64 + w) 0)

/-! ### P-384 -/

def p384P : Nat := 2 ^ 384 - 2 ^ 128 - 2 ^ 96 + 2 ^ 32 - 1
def p384N : Nat := 0xffffffffffffffffffffffffffffffffffffffffffffffffc7634d81f4372ddf581a0db248b0a77aecec196accc52973
def p384B : Nat := 0xb3312fa7e23ee7e4988e056be3f82d19181d9c6efe8141120314088f5013875ac656398d8a2ed19d2a85c8edd3ec2aef
def p384Gx : Nat := 0xaa87ca22be8b05378eb1c71ef320ad746e1d3b628ba79b9859f741e082542a385502f25dbf55296c3a545e3872760ab7
def p384Gy : Nat := 0x3617de4a96262c6f5d9e98bf9292dc29f8f41dbd289a147ce9da3113b5f0b8c00a60b1ce1d7e819d7a431d7c90ea0e5f

/-- A power modulo `m`, over the lowest `n` bits of the exponent. -/
def powMod (m : Nat) : Nat → Nat → Nat → Nat
  | 0, _, _ => 1
  | n + 1, a, k => (if k % 2 = 1 then a else 1) * powMod m n (a * a % m) (k / 2) % m

/-- The inverse modulo a prime of 384 bits. -/
def invMod (m a : Nat) : Nat := powMod m 384 (a % m) (m - 2)

/-- A point of the curve in Jacobian coordinates: x = X/Z² and y = Y/Z³; Z is 0 at infinity. -/
structure Pt where
  x : Nat
  y : Nat
  z : Nat
  deriving DecidableEq, Repr

/-- The point at infinity, and an affine point. -/
def Pt.zero : Pt := ⟨1, 1, 0⟩
def Pt.affine (q : Nat × Nat) : Pt := ⟨q.1, q.2, 1⟩

/-- A difference modulo p. -/
def subP (a b : Nat) : Nat := (a + p384P - b % p384P) % p384P

/-- Twice a point. -/
def Pt.twice (q : Pt) : Pt :=
  let p := p384P
  let g := q.y * q.y % p
  let b := q.x * g % p
  let d := q.z * q.z % p
  let a := 3 * subP q.x d * (q.x + d) % p
  let x := subP (a * a) (8 * b)
  ⟨x, subP (a * subP (4 * b) x) (8 * g * g), 2 * q.y * q.z % p⟩

/-- The sum of two points. -/
def Pt.add (q r : Pt) : Pt :=
  if q.z = 0 then r
  else if r.z = 0 then q
  else
    let p := p384P
    let qz := q.z * q.z % p
    let rz := r.z * r.z % p
    let u := q.x * rz % p
    let s := q.y * rz * r.z % p
    let h := subP (r.x * qz) u
    let t := subP (r.y * qz * q.z) s
    if h = 0 then (if t = 0 then q.twice else .zero)
    else
      let h2 := h * h % p
      let x := subP (subP (t * t) (h2 * h)) (2 * u * h2)
      ⟨x, subP (t * subP (u * h2) x) (s * h2 * h), h * q.z * r.z % p⟩

/-- A multiple of a point, over the lowest `n` bits of the factor. -/
def Pt.mul : Nat → Nat → Pt → Pt
  | 0, _, _ => .zero
  | n + 1, k, q =>
    let r := (Pt.mul n (k / 2) q).twice
    if k % 2 = 1 then r.add q else r

/-- The affine coordinates, none at infinity. -/
def Pt.coords (q : Pt) : Option (Nat × Nat) :=
  if q.z = 0 then none
  else
    let w := invMod p384P q.z
    some (q.x * w * w % p384P, q.y * w * w * w % p384P)

def p384G : Pt := .affine (p384Gx, p384Gy)

/-- The point of a public key X ‖ Y, first byte lowest, if it lies on the curve. -/
def keyPoint (pub : Nat) : Option (Nat × Nat) :=
  let x := revBytes 48 (pub % 2 ^ 384)
  let y := revBytes 48 (pub / 2 ^ 384 % 2 ^ 384)
  if x < p384P ∧ y < p384P ∧ (y * y) % p384P = (x * x * x + (p384P - 3) * x + p384B) % p384P then some (x, y) else none

/-- The public key of a private key, X ‖ Y with the first byte lowest. -/
def publicKey (d : Nat) : Nat :=
  match (Pt.mul 384 d p384G).coords with
  | none => 0
  | some (x, y) => revBytes 48 x + revBytes 48 y * 2 ^ 384

/-- An ECDSA signature r ‖ s over a message of `n` bytes verifies under a public key. -/
def ecdsaOk (pub n m sig : Nat) : Bool :=
  let r := revBytes 48 (sig % 2 ^ 384)
  let s := revBytes 48 (sig / 2 ^ 384 % 2 ^ 384)
  match keyPoint pub with
  | none => false
  | some q =>
    if r = 0 ∨ p384N ≤ r ∨ s = 0 ∨ p384N ≤ s then false
    else
      let w := invMod p384N s
      let e := revBytes 48 (sha384 n m)
      match ((Pt.mul 384 (e * w % p384N) p384G).add (Pt.mul 384 (r * w % p384N) (.affine q))).coords with
      | none => false
      | some (x, _) => x % p384N == r

/-- The ECDSA signature of a private key with a secret number `k`. -/
def ecdsaSign (d k n m : Nat) : Nat :=
  let k := k % (p384N - 1) + 1
  let r := ((Pt.mul 384 k p384G).coords.map (·.1 % p384N)).getD 0
  let s := invMod p384N k * (revBytes 48 (sha384 n m) + r * d) % p384N
  revBytes 48 r + revBytes 48 s * 2 ^ 384

/-- The shared secret of a private key and a public key: its X coordinate, first byte lowest; none for a
point that is not on the curve. -/
def ecdh (d pub : Nat) : Option Nat :=
  (keyPoint pub).bind fun q => (Pt.mul 384 d (.affine q)).coords.map fun e => revBytes 48 e.1

/-- The device's identity key: its private half, and the public half as it is shown (R452). -/
def idSecret : Nat := Config.idPrivate % (p384N - 1) + 1
def idKey : Nat := publicKey idSecret

/-- The stream key that KEY_IMPORT unwraps from an ephemeral public key and a wrapped key; none for an invalid
point or a failed unwrap (R458). -/
def keyUnwrap (pub wrapped : Nat) : Option Nat :=
  (ecdh idSecret pub).bind fun x => kwUnwrap (revBytes 32 (sha384 48 x)) wrapped

end Sys2Proof.Machine
end

