-- ==== Sys2Proof/Machine/Net.lean ====
section
/-! DEFINITION. The package network and the tension governor (chapter 13): initiators, routes,
tags, statistics, detour tables, router changes, and admission. -/

namespace Sys2Proof.Machine

def State.noc (s : State) (d : Nat) : NocX := s.nocs.getD d {}
def State.setNoc (s : State) (d : Nat) (x : NocX) : State := { s with nocs := s.nocs.setD d {} x }

/-! ### Initiators (R60) -/

/-- The initiator IDs that R60 lists. -/
def initListed (i : Nat) : Bool :=
  decide (1 ≤ i ∧ i ≤ 6) || i == 8 || decide (0x10 ≤ i ∧ i < 0x24) || decide (0x30 ≤ i ∧ i < 0x88)
    || i == 0xA0 || i == 0xA1

/-- The die on which an initiator issues (R312). -/
def initDie (i : Nat) : Nat :=
  if 0x10 ≤ i ∧ i < 0x20 then (i - 0x10) / 4 + 1
  else if 0x20 ≤ i ∧ i < 0x24 then i - 0x1F
  else if 0x30 ≤ i ∧ i < 0x40 then (i - 0x30) / 4 + 1
  else if 0x40 ≤ i ∧ i < 0x80 then (i - 0x40) / 16 + 1
  else if 0x80 ≤ i ∧ i < 0x84 then i - 0x7F
  else 0

/-- The local router 4r′ + c′ of a panel at which an initiator injects (R303). -/
def initRouter (i : Nat) : Nat :=
  if 0x10 ≤ i ∧ i < 0x20 then (i - 0x10) % 4
  else if 0x20 ≤ i ∧ i < 0x24 then 5
  else if 0x30 ≤ i ∧ i < 0x40 then 8 + (i - 0x30) % 4
  else if 0x40 ≤ i ∧ i < 0x80 then (i - 0x40) % 16
  else 12

/-- The local router of the endpoint that serves a panel's page (R303). -/
def pageRouter (n : Nat) : Nat :=
  if (0x80 ≤ n ∧ n < 0x84) ∨ (0x90 ≤ n ∧ n < 0x94) ∨ (0xA0 ≤ n ∧ n < 0xA4) then n % 4
  else if n = 0xE0 then 4 else if n = 0xE1 then 7 else if n = 0xB0 then 5 else if n = 0xC0 then 6
  else if 0xD0 ≤ n ∧ n < 0xD4 then 8 + n % 4
  else if (0x100 ≤ n ∧ n < 0x108) ∨ n = 0x120 then 13
  else 12

/-- The local router of DRAM channel `k` (R303). -/
def drcRouter (k : Nat) : Nat := if k % 2 = 0 then 4 else 7

/-! ### Routes (R302, R305, R314, R316) -/

/-- The place row × 8 + col of local router `l` of panel `p` (R302). -/
def rowCol (p l : Nat) : Nat :=
  let r := l / 4
  let c := l % 4
  (if p ≤ 2 then r else 7 - r) * 8 + (if p % 2 = 1 then c else 7 - c)

/-- The panel and the local router at a place. -/
def panelAt (rc : Nat) : Nat × Nat :=
  let r := rc / 8
  let c := rc % 8
  ((if r < 4 then 1 else 3) + (if c < 4 then 0 else 1),
   (if r < 4 then r else 7 - r) * 4 + (if c < 4 then c else 7 - c))

/-- The place of bridge `j` of the selvage die: bridge link 0 lies at local router (3, 3), link 1
at (3, 2). -/
def bridgeAt (j : Nat) : Nat := rowCol (j / 2 + 1) (if j % 2 = 0 then 15 else 14)

/-- The output port of dimension order: east or south on a tie (R305). -/
def dimPort (rc dest : Nat) : Option Nat :=
  let dc := (dest % 8 + 8 - rc % 8) % 8
  let dr := (dest / 8 + 8 - rc / 8) % 8
  if dc ≠ 0 then some (if dc ≤ 4 then 2 else 3)
  else if dr ≠ 0 then some (if dr ≤ 4 then 1 else 0)
  else none

/-- The place that a port leads to. -/
def portTo (rc port : Nat) : Nat :=
  if port = 0 then (rc / 8 + 7) % 8 * 8 + rc % 8
  else if port = 1 then (rc / 8 + 1) % 8 * 8 + rc % 8
  else if port = 2 then rc / 8 * 8 + (rc % 8 + 1) % 8
  else rc / 8 * 8 + (rc % 8 + 7) % 8

/-- The hops between two places under dimension order. -/
def hopsOf (a b : Nat) : Nat :=
  let d (x y : Nat) := min ((x + 8 - y) % 8) ((y + 8 - x) % 8)
  d (a % 8) (b % 8) + d (a / 8) (b / 8)

/-- The key of a detour entry. -/
def tblKey (bank rtr dest : Nat) : Nat := bank * 2 ^ 11 + rtr * 2 ^ 7 + dest

/-- A detour entry as its router reads it: reserved codes, and the bridge code where the router
has no bridge, read as 7 (R314). -/
def State.detour (s : State) (bank d rtr dest : Nat) : Nat :=
  let v := (s.noc d).tbl.getD (tblKey bank rtr dest) 7
  if v = 5 ∨ v = 6 ∨ (v = 4 ∧ rtr ≠ 15 ∧ rtr ≠ 14) then 7 else v

/-- The active bank of the detour tables. -/
def State.netBank (s : State) : Nat := s.rd (pgNoc 0) NOC_VER.ACTIVE

/-- What stops a request on its way, and the die whose router answers it or, for DIE_DOWN, the lost
die. -/
structure RouteStop where
  status : BusStatus
  die : Nat
  deriving DecidableEq, Repr

/-- Where a way ends: at its endpoint with the header as it arrives, at a router or seam that answers for it, or
nowhere, because the tables send the packet in a circle (R315 leaves such tables to whoever wrote them). -/
inductive Way where
  | arrives (h : Hdr)
  | stops (r : RouteStop)
  | circles
  deriving DecidableEq, Repr

/-- The NET bits of the panel–panel join that a ring link crosses, and the link's group: row k's middle link
is group k, its wrap link group k + 4, and columns alike (R7, R302); rows and columns of an edge are counted
by panel-local coordinates. -/
def State.joinOf (s : State) (rc port : Nat) : Option (Nat × Nat) :=
  let r := rc / 8
  let c := rc % 8
  let loc (x : Nat) := if x < 4 then x else 7 - x
  let horiz (mid : Bool) := some (if r < 4 then s.rd pgSeam SEAM_ROLE_E12.NET else s.rd pgSeam SEAM_ROLE_E34.NET,
    loc r + if mid then 0 else 4)
  let vert (mid : Bool) := some (if c < 4 then s.rd pgSeam SEAM_ROLE_E13.NET else s.rd pgSeam SEAM_ROLE_E24.NET,
    loc c + if mid then 0 else 4)
  if port = 2 then (if c = 3 then horiz true else if c = 7 then horiz false else none)
  else if port = 3 then (if c = 4 then horiz true else if c = 0 then horiz false else none)
  else if port = 1 then (if r = 3 then vert true else if r = 7 then vert false else none)
  else if r = 4 then vert true else if r = 0 then vert false else none

/-- A torus group in stream mode carries no network link (R21). -/
def State.linkGone (s : State) (rc port : Nat) : Bool :=
  match s.joinOf rc port with
  | none => false
  | some (net, g) => !maskBit net g

/-- The bridge nearest a place in hops, bridge link 0 winning a tie (R305). -/
def State.nearBridge (s : State) (rc : Nat) : Nat :=
  let live := [0, 2, 4, 6, 1, 3, 5, 7].filter fun j => !(s.die (j / 2 + 1)).lost
  live.foldl (fun b j => if hopsOf rc (bridgeAt j) < hopsOf rc (bridgeAt b) then j else b)
    (live.headD 0)

/-- The bridge by which the selvage die enters the torus for a destination, in a bank (R305, R314). -/
def State.enterBridge (s : State) (bank dest : Nat) : Nat :=
  let v := (s.noc 0).tbl.getD (tblKey bank 0 dest) 7
  if v = 7 then 2 * ((panelAt dest).1 - 1) else v

/-- A link is the wrap link of its ring, between positions 7 and 0 (R302). -/
def wrapLink (rc port : Nat) : Bool :=
  (port == 2 && rc % 8 == 7) || (port == 3 && rc % 8 == 0) || (port == 1 && rc / 8 == 7) || (port == 0 && rc / 8 == 0)

/-- The sub-class of a packet beyond a link of a ring: it enters a ring in 0 and changes to 1 at the wrap link.
`ring` is the dimension in which it came, none where it enters the torus (R306). -/
def Hdr.over (h : Hdr) (ring : Option Bool) (rc port : Nat) : Hdr :=
  { h with dl := if wrapLink rc port then 1 else if ring = some (decide (2 ≤ port)) then h.dl else 0 }

/-- The way of a packet through the torus to a destination place; of a SEL packet that is the bridge it was
sent to, and it leaves the torus there or wherever entry 64 of a router names the bridge. A draining router
answers through-requests and discards streams, and forwards responses and control packets; the last router
before one that is off, lies on a lost die or would need a removed link answers for it (R21, R25, R305, R314,
R316). A packet for a router that leaves by a bridge is forwarded by the selvage die to the bridge of its table
(R305). -/
def State.walk (s : State) : Nat → Nat → Option Bool → Nat → Hdr → Way
  | 0, _, _, _, _ => .circles
  | n + 1, prev, ring, rc, h =>
    let (p, l) := panelAt rc
    if (s.die p).lost then .stops ⟨.dieDown, p⟩
    else if maskBit (s.rd (pgNoc p) NOC_RTR_STAT.OFF) l then .stops ⟨.routeOff, prev⟩
    else
      let t := s.detour h.tv p l (if h.sel then 64 else h.drtr)
      let port := if t = 7 then (dimPort rc h.drtr).getD (if h.sel then 4 else 8) else t
      if h.sel ∧ port = 4 then .arrives { h with dl := 0 }
      else if !h.sel ∧ rc = h.drtr then .arrives h
      else if maskBit (s.rd (pgNoc p) NOC_RTR_STAT.DRAINING) l && (h.vc == 0 || h.vc == 2) then .stops ⟨.routeOff, p⟩
      else if port = 4 then s.walk n p none (bridgeAt (s.enterBridge h.tv h.drtr % 8)) { h with dl := 0 }
      else if s.linkGone rc port then .stops ⟨.routeOff, p⟩
      else s.walk n p (some (decide (2 ≤ port))) (portTo rc port) (h.over ring rc port)

/-! ### Packets (R309) -/

/-- The tags that a die holds now (R312). -/
def NocX.used (x : NocX) : Nat := x.held.foldl (fun n e => n + e.2) 0

/-- The 256 bits of a header flit, with the field at the places of R309. -/
def Hdr.flit (h : Hdr) : Nat :=
  [(h.vc, 0, 1), (h.dl, 2, 2), (h.tv, 3, 3), (h.op, 4, 7), (h.drtr, 8, 13), (h.dep, 14, 16), (bit h.sel, 17, 17),
   (h.init, 18, 25), (h.tag, 26, 43), (h.sdev, 44, 55), (h.ddev, 56, 67), (h.addr, 68, 115), (h.len, 116, 121),
   (bit h.opn, 122, 122), (h.spf, 123, 125), (h.status, 126, 129), (h.spst, 130, 132), (h.be, 133, 196),
   (h.itime, 197, 228)].foldl (fun n f => putBits n f.2.2 f.2.1 f.1) 0

/-- The flits of a packet: its header, and two flits for the 64 B that it carries. -/
def NetPkt.flits (k : NetPkt) : List Nat :=
  k.hdr.flit :: match k.data with
    | some d => [d % 2 ^ 256, d / 2 ^ 256 % 2 ^ 256]
    | none => []

/-- The channel that R310 gives an operation: requests, streams, device control. -/
def opVc (op : Nat) : Nat := if op < 8 then 0 else if op = 8 then 2 else 3

/-- The table version under which an initiator's requests travel: the old one until every request that it
issued under it has been answered (R315). -/
def State.tableVersion (s : State) (init : Nat) : Nat :=
  if (s.noc (initDie init)).old.getD init 0 = 0 then s.netBank else 1 - s.netBank

/-- The bridge or the router to which a request for local router `l` of die `d` goes. -/
def State.goal (s : State) (init d l : Nat) : Nat :=
  if d = 0 ∨ 5 ≤ d then bridgeAt (s.nearBridge (rowCol (initDie init) (initRouter init))) else rowCol d l

/-- What an initiator asks for: the operation, the die and the local router of the endpoint, the address or spool
handle, the bytes, the data and enables counted from the address, the open-row hint, FIRST, LAST and MARKER, the
Kelef source device, and the destination device. -/
structure NetReq where
  op : Nat
  die : Nat
  rtr : Nat
  addr : Nat
  n : Nat := 64
  be : Nat := 2 ^ 64 - 1
  data : Nat := 0
  opn : Bool := false
  spf : Nat := 0
  sdev : Nat := 0
  ddev : Nat := 0xFFF
  deriving DecidableEq, Repr

/-- The first free one of `n` numbers from a number on, among those that are not in use. -/
def pickFree (n start : Nat) (used : List Nat) : Nat :=
  (((List.range (used.length + 1)).map fun i => (start + i) % n).find? fun k => !used.contains k).getD (start % n)

/-- What tells the endpoints of one router's local port apart: where R303 gives the port several (the control
pages at local routers (3, 0) and (3, 1), and what lies beyond a bridge) the page or the die of the address. DESIGN
CHOICE: each control page there is an endpoint of its own. -/
def NetReq.end (q : NetReq) : Nat :=
  if q.op < 3 ∧ q.ddev = 0xFFF ∧ (q.die = 0 ∨ 5 ≤ q.die ∨ q.rtr = 12 ∨ q.rtr = 13) then
    (if 0x0C0000000000 ≤ q.addr then q.addr / 2 ^ 12 % 2 ^ 12 else q.die) else 0

/-- The header of a request as an initiator's interface forms it at issue. Which code names an endpoint, and which
free tag is taken, the spec leaves open. -/
def State.header (s : State) (init : Nat) (q : NetReq) : Hdr :=
  let d := initDie init
  let x := s.noc d
  { vc := opVc q.op, tv := s.tableVersion init, op := q.op, drtr := s.goal init q.die q.rtr,
    dep := Config.endpoint q.die q.rtr q.end % 8, sel := decide (q.die = 0 ∨ 5 ≤ q.die), init := init,
    tag := pickFree (if d = 0 then 16384 else 32768) (Config.tagPick d x.used) (x.flight.map (·.hdr.tag)),
    sdev := if init = 8 then q.sdev else 0, ddev := q.ddev, addr := q.addr % 2 ^ 48, len := q.n - 1, opn := q.opn,
    spf := q.spf, be := if q.op = 1 then q.be % 2 ^ q.n * 2 ^ (q.addr % 64) % 2 ^ 64 else 0, itime := s.now % 2 ^ 32 }

/-- The packet of a request: a WRITE, MERGE or SPUSH carries 64 B, bytes of a line at their offsets. -/
def State.packet (s : State) (init : Nat) (q : NetReq) (out : Option Nat) : NetPkt :=
  { hdr := s.header init q, out := out,
    data := if q.op = 1 ∨ q.op = 2 then some (q.data % 2 ^ (8 * q.n) * 2 ^ (8 * (q.addr % 64)) % 2 ^ 512)
      else if q.op = 3 then some (q.data % 2 ^ 512) else none }

/-- The way of a packet from an initiator's interface, on the bank that its TV names. The selvage die reaches
itself and the patch sites without the torus. -/
def State.route (s : State) (h : Hdr) : Way :=
  let sd := initDie h.init
  if sd = 0 then
    if h.sel then .arrives h else s.walk 80 0 none (bridgeAt (s.enterBridge h.tv h.drtr % 8)) h
  else s.walk 80 sd none (rowCol sd (initRouter h.init)) h

/-- The way of a request of an initiator to local router `l` of die `d`; die 0, 5 and 6 lie beyond a
bridge. -/
def State.wayTo (s : State) (init d l : Nat) : Way := s.route (s.header init ⟨0, d, l, 0, 1, 0, 0, false, 0, 0, 0xFFF⟩)

/-- What answers a request on its way in place of its target. -/
def Way.stop : Way → Option RouteStop
  | .stops r => some r
  | _ => none

def State.way (s : State) (init d l : Nat) : Option RouteStop := (s.wayTo init d l).stop

/-- The tables send the request in a circle, so it is never answered. -/
def State.circles (s : State) (init d l : Nat) : Bool := s.wayTo init d l == .circles

/-- The header of a response: the channel and the way back, the request's tag, and the outcome. It crosses
draining routers too (R316), and its sub-class is what its way gives it. -/
def State.responseHdr (s : State) (h : Hdr) (st spst spf : Nat) : Hdr :=
  let d := initDie h.init
  let r : Hdr := { h with vc := 1, dl := 0, drtr := if d = 0 then bridgeAt (s.nearBridge h.drtr) else rowCol d (initRouter h.init),
                          sel := decide (d = 0), sdev := 0, spf := spf, status := st, spst := spst, be := 0 }
  let w := if h.sel then (if d = 0 then .arrives r else s.walk 80 0 none (bridgeAt (s.enterBridge r.tv r.drtr % 8)) r)
    else s.walk 80 (panelAt h.drtr).1 none h.drtr r
  match w with
  | .arrives r => r
  | _ => r

/-- A request leaves its initiator: its packet is in flight. -/
def State.depart (s : State) (init : Nat) (q : NetReq) (out : Option Nat := none) : State :=
  let d := initDie init
  let x := s.noc d
  s.setNoc d { x with flight := x.flight ++ [s.packet init q out] }

/-- The first packet that passes a test, taken out of a list. -/
def takeFirst (f : NetPkt → Bool) : List NetPkt → Option (NetPkt × List NetPkt)
  | [] => none
  | k :: ks => if f k then some (k, ks) else (takeFirst f ks).map fun r => (r.1, k :: r.2)

/-- The response of a request in flight has arrived at its initiator, which consumes it. -/
def State.consume (s : State) (init : Nat) (f : NetPkt → Bool) (st spst spf : Nat) (data : Option Nat) : State :=
  let d := initDie init
  let x := s.noc d
  match takeFirst (fun k => k.hdr.init == init && f k) x.flight with
  | none => s
  | some (k, rest) =>
    s.setNoc d { x with flight := rest, back := some ⟨s.responseHdr k.hdr st spst spf, data, none⟩ }

/-- What tells a request in flight from others: its operation and its address. -/
def NetReq.is (q : NetReq) (k : NetPkt) : Bool := k.hdr.op == q.op && k.hdr.addr == q.addr % 2 ^ 48 && k.out.isNone

/-- The packets that keep their order: one virtual channel, one initiator, one endpoint, one version (R308). -/
def Hdr.lane (h : Hdr) : Nat × Nat × Nat × Nat × Bool × Nat := (h.vc, h.init, h.tv, h.drtr, h.sel, h.dep)

/-- No packet stands before those of a test that must arrive before them. -/
def firstOf (f : NetPkt → Bool) : List NetPkt → List (Nat × Nat × Nat × Nat × Bool × Nat) → Bool
  | [], _ => true
  | k :: ks, seen => if f k then !seen.contains k.hdr.lane && firstOf f ks seen else firstOf f ks (k.hdr.lane :: seen)

/-- The requests of an initiator that pass a test may arrive now (R308). -/
def State.inTurn (s : State) (init : Nat) (f : NetPkt → Bool) : Bool :=
  firstOf (fun k => k.hdr.init == init && f k) (s.noc (initDie init)).flight []

/-- A router that answers ROUTE_OFF counts it (R316), a seam that answers DIE_DOWN likewise (R23). -/
def State.countRoute (s : State) (r : RouteStop) : State :=
  if r.status = .routeOff then (s.bump (pgNoc r.die) NOC_ROUTE_OFF.COUNT 1).ev (pgNoc r.die) 10
  else s.synth r.die r.status

/-! ### Statistics and tags (R312, R313) -/

def State.modStat (s : State) (init : Nat) (f : NocStat → NocStat) : State :=
  let d := initDie init
  let x := s.noc d
  s.setNoc d { x with stats := x.stats.setD init {} (f (x.stats.getD init {})) }

/-- The bin of a latency. -/
def latBin (g : Nat) : Nat :=
  if g < 32 then 0 else min 15 (Nat.log2 g - 4)

/-- One transaction is answered: bytes, transactions, and a latency that the spec leaves open. -/
def State.countAnswer (s : State) (init bytes : Nat) : State :=
  let (lat, s) := s.draw 32
  s.modStat init fun t => { t with
    bytes := satAdd 48 t.bytes bytes, trans := satAdd 32 t.trans 1, maxLat := max t.maxLat lat,
    hist := t.hist.modify (latBin lat) fun n => satAdd 32 n 1 }

/-- The packets of the old version in flight: those of a die's requests, and in all, with the stream packets on
their way (R315). -/
def NocX.oldUsed (x : NocX) : Nat := x.old.foldl (fun n e => n + e.2) 0
def FabX.oldAir (x : FabX) (bank : Nat) : Nat := (x.air.filter fun k => k.hdr.any (·.tv != bank)).length
def State.oldInFlight (s : State) : Nat :=
  s.nocs.foldl (fun n e => n + e.2.oldUsed) 0 + s.fabs.foldl (fun n e => n + e.2.oldAir s.netBank) 0

/-- NOC_TAGS of a die and NOC_VER.OLD of every die follow the tags held. -/
def State.tagSync (s : State) (d : Nat) : State :=
  let u := min (s.noc d).used (2 ^ 16 - 1)
  let s := (s.wr (pgNoc d) NOC_TAGS.USED u).wr (pgNoc d) NOC_TAGS.PEAK
    (max u (s.rd (pgNoc d) NOC_TAGS.PEAK))
  (List.range 5).foldl (fun s d => s.wr (pgNoc d) NOC_VER.OLD (min s.oldInFlight (2 ^ 16 - 1))) s

/-- The tag pool of a die. -/
def tagPool (d : Nat) : Nat := if d = 0 then 16384 else 32768

/-- A fabric port, which takes a request's tag when it accepts the request from the fabric and not at
issue (R317, R420). -/
def isFabInit (init : Nat) : Bool := decide (0x40 ≤ init ∧ init < 0x80)

/-- Tags are free for `n` more requests of an initiator (R312). -/
def State.tagsFree (s : State) (init n : Nat) : Bool :=
  let d := initDie init
  let cap := min (tagPool d) (s.rd (pgNoc d) NOC_TAG_CAP.CAP)
  decide ((s.noc d).used + n ≤ tagPool d) && decide ((s.noc d).held.getD init 0 + n ≤ cap)

def State.tagTake (s : State) (init n : Nat) : State :=
  let d := initDie init
  let x := s.noc d
  (s.setNoc d { x with held := x.held.setD init 0 (x.held.getD init 0 + n) }).tagSync d

/-- `n` responses are consumed: their tags return, the oldest version first. The tags of a fabric port follow
its queue. -/
def State.tagFree (s : State) (init n : Nat) : State :=
  let d := initDie init
  let x := s.noc d
  let m := if isFabInit init then 0 else n
  (s.setNoc d { x with held := x.held.setD init 0 (x.held.getD init 0 - m),
                       old := x.old.setD init 0 (x.old.getD init 0 - n) }).tagSync d

/-! ### The governor (R321–R325) -/

/-- The budget register of an initiator and a class. -/
def govB (init c : Nat) : Fld := ⟨0x1000 + 0x40 * init + 4 * c, 0, 11, 0, .rws, 0⟩

def State.budget (s : State) (init c : Nat) : Nat := s.rd pgGov (govB init c)

/-- The key of a balance. -/
def balKey (init c : Nat) : Nat := init * 16 + c

def State.balance (s : State) (init c : Nat) : Int :=
  s.govBal.getD (balKey init c) (govReset init c)

def State.setBalance (s : State) (init c : Nat) (v : Int) : State :=
  { s with govBal := s.govBal.setD (balKey init c) (govReset init c) v }

/-- The answer of the issuing interface to a request. -/
inductive Admit where
  | go | wait | noBudget
  deriving DecidableEq, Repr

/-- The mark by which a request is known again when its initiator tries it again. -/
def NetReq.key (q : NetReq) : Nat := q.addr * 2 ^ 4 + q.op

/-- The deferred request of an initiator with a mark, and the interface without it. -/
def NocX.deferOf (x : NocX) (init key : Nat) : Option Defer := x.deferred.find? fun e => e.init == init && e.key == key
def NocX.settled (x : NocX) (init key : Nat) : NocX :=
  { x with deferred := x.deferred.filter fun e => !(e.init == init && e.key == key) }

/-- The admission of `n` requests whose credits per class are given: NO_BUDGET where an applied
budget is 0 or was while the request was deferred, deferred where a balance is below 1 (R322, R323), stalled
without tags (R312) or while the initiator waits out a table switch (R315). Each request counts as deferred
once, and once as answered NO_BUDGET. -/
def State.issue (s : State) (init n : Nat) (costs : List (Nat × Nat)) (key : Nat := 0) : Admit × State :=
  let d := initDie init
  let x := s.noc d
  let n := if isFabInit init then 0 else n
  if (x.deferOf init key).any (·.refused) then (.noBudget, s.setNoc d (x.settled init key))
  else if costs.any fun c => s.budget init c.1 == 0 then
    (.noBudget, (s.setNoc d (x.settled init key)).modStat init fun t => { t with nobud := satAdd 32 t.nobud 1 })
  else if x.paused.contains init then (.wait, s)
  else if costs.any fun c => decide (s.balance init c.1 < 1) then
    if (x.deferOf init key).isSome then (.wait, s)
    else (.wait, (s.setNoc d { x with deferred := x.deferred ++ [{ init := init, key := key, classes := costs.map (·.1) }] }).modStat init
      fun t => { t with defer := satAdd 32 t.defer 1 })
  else if n ≠ 0 ∧ !s.tagsFree init n then (.wait, s.ev (pgNoc d) 11)
  else
    let s := s.setNoc d (x.settled init key)
    let s := costs.foldl (fun s c => s.setBalance init c.1 (s.balance init c.1 - c.2)) s
    (.go, s.tagTake init n)

/-- One request is issued: when it is admitted, its packet leaves. -/
def State.send (s : State) (init : Nat) (costs : List (Nat × Nat)) (q : NetReq) (out : Option Nat := none) : Admit × State :=
  match s.issue init 1 costs q.key with
  | (.go, s) => (.go, s.depart init q out)
  | r => r

/-- Budgets have applied: a deferred request that charges a class whose budget is now 0 is answered NO_BUDGET and
counted; its initiator meets the answer where it would try the request again (R323). -/
def State.deferRefuse (s : State) : State :=
  (List.range 5).foldl (fun s d =>
    (s.noc d).deferred.foldl (fun s e =>
      if !e.refused && e.classes.any (fun c => s.budget e.init c == 0) then
        let x := s.noc d
        (s.setNoc d { x with deferred := x.deferred.map fun y => if y = e then { y with refused := true } else y }).modStat e.init
          fun t => { t with nobud := satAdd 32 t.nobud 1 }
      else s) s) s

/-- A request of an initiator is answered: its response arrives and its tag returns; it has moved `bytes`. -/
def State.answered (s : State) (init : Nat) (f : NetPkt → Bool) (st spst spf : Nat) (data : Option Nat) (bytes : Nat) : State :=
  ((s.consume init f st spst spf data).tagFree init 1).countAnswer init bytes

/-- `n` requests of an initiator are answered, each having moved `bytes`. -/
def State.settle (s : State) (init n bytes : Nat) : State :=
  (List.range n).foldl (fun s _ => s.countAnswer init bytes) (s.tagFree init n)

/-- The initiators that have a budget in some class. -/
def govInits : List Nat := (List.range 0xA2).filter initListed

/-- The sum of the budgets of a class, by a reading of each budget. -/
def govSum (f : Nat → Nat) : Nat := govInits.foldl (fun n i => n + f i) 0

/-- The capacity of a class (R324). -/
def State.govCap (s : State) (c : Nat) : Nat :=
  if c < 8 then s.rd (pgDrc c) DRC_CAP.CREDITS - s.rd (pgDrc c) DRC_CAP.RSV
  else if c = 8 then s.rd pgGov GOV_CAP_KLF.CAP
  else s.rd pgGov GOV_CAP_SEL.CAP

/-- The balances refill at a budget-period boundary: a debt is repaid, a rest is lost (R322). -/
def State.refill (s : State) : State :=
  govInits.foldl (fun s i => (List.range 10).foldl (fun s c =>
    s.setBalance i c ((s.budget i c : Int) + min (s.balance i c) 0)) s) s

/-- GOV_SUMc follows the applied budgets. -/
def State.govSums (s : State) : State :=
  (List.range 10).foldl (fun s c =>
    s.wr pgGov (GOV_SUMc.SUM.nth c) (govSum fun i => s.budget i c)) s

/-- Every applied sum is compared with its class's capacity (R325). -/
def State.govOver (s : State) : State :=
  let old := s.rd pgGov GOV_OVER.OVER
  let new := (List.range 10).foldl
    (fun m c => if s.govCap c < s.rd pgGov (GOV_SUMc.SUM.nth c) then m + 2 ^ c else m) 0
  let s := s.wr pgGov GOV_OVER.OVER new
  if (List.range 10).any fun c => maskBit new c && !maskBit old c then s.ev pgGov 9 else s

/-- The lowest class whose sum the pending budgets would take past its capacity (R324). -/
def State.govRefused (s : State) : Option (Nat × Nat) :=
  ((List.range 10).map fun c => (c, govSum fun i => s.rdStaged pgGov (govB i c))).find?
    fun e => decide (s.govCap e.1 < e.2)

/-! ### Table versions and routers (R314–R316, R327) -/

/-- DEST advances after an access when AUTOINC is 1, wrapping 64 to 0. -/
def State.nocAdvance (s : State) (d : Nat) : State :=
  let i := s.rd (pgNoc d) NOC_TBL_ADDR.DEST
  if s.on (pgNoc d) NOC_TBL_ADDR.AUTOINC then
    s.wr (pgNoc d) NOC_TBL_ADDR.DEST (if i = 64 then 0 else i + 1) else s

/-- The router that NOC_TBL_ADDR selects; ignored in the selvage page. -/
def State.nocRtr (s : State) (d : Nat) : Nat :=
  if d = 0 then 0 else s.rd (pgNoc d) NOC_TBL_ADDR.RTR

/-- NOC_TBL_WRITE: a write to the active bank, or while old-version packets are in flight, is
ignored with TBL_REFUSED (R314). A DEST above 64 names no entry. -/
def State.nocTblWrite (s : State) (d v : Nat) : State :=
  let pg := pgNoc d
  let b := s.rd pg NOC_TBL_ADDR.BANK
  let e := s.rd pg NOC_TBL_ADDR.DEST
  let s :=
    if b = s.netBank ∨ s.rd pg NOC_VER.OLD ≠ 0 then s.ev pg 8
    else if 64 < e then s
    else
      let x := s.noc d
      s.setNoc d { x with tbl := x.tbl.setD (tblKey b (s.nocRtr d) e) 7 (v % 8) }
  s.nocAdvance d

/-- What NOC_TBL_DATA reads. -/
def State.nocPeek (s : State) (d : Nat) : Nat :=
  (s.noc d).tbl.getD (tblKey (s.rd (pgNoc d) NOC_TBL_ADDR.BANK) (s.nocRtr d)
    (s.rd (pgNoc d) NOC_TBL_ADDR.DEST)) 7

/-- NOC_VER.SWITCH: acts in the selvage page only (R315). -/
def State.nocSwitch (s : State) (d : Nat) : State :=
  if d = 0 then s.wr (pgNoc 0) NOC_VER.PENDING 1 else s

/-- Of the tags that an initiator holds, those whose requests have been issued: a fabric port's requests in
its queue have not. -/
def State.inFlight (s : State) (init n : Nat) : Nat :=
  if isFabInit init then ((s.fabs.getD (init - 0x40) {}).queue.filter (·.gone)).length else n

/-- The table switch at a budget-period boundary: what is in flight is of the old version, and the
initiators that have requests in flight stop issuing (R315). -/
def State.nocTurn (s : State) : State :=
  if s.on (pgNoc 0) NOC_VER.PENDING then
    let a := 1 - s.netBank
    let s := (List.range 5).foldl (fun s d =>
      let x := s.noc d
      let f := (x.held.map fun e => (e.1, s.inFlight e.1 e.2)).filter fun e => e.2 != 0
      (s.setNoc d { x with old := f, paused := f.map (·.1) }).wr (pgNoc d) NOC_VER.ACTIVE a) s
    let s := (List.range 5).foldl (fun s d => s.tagSync d) s
    (s.wr (pgNoc 0) NOC_VER.PENDING 0).ev (pgNoc 0) 9
  else s

/-- NOC_VERSION_RESUME: every request that the initiator issued under the old version is
answered, and it issues again (R315). -/
def State.nocResume (s : State) (init : Nat) : State :=
  let d := initDie init
  let x := s.noc d
  if x.old.getD init 0 = 0 then s.setNoc d { x with paused := x.paused.erase init } else s

/-- NOC_CTL.CLR_STATS (R327). -/
def State.nocClear (s : State) (d : Nat) : State :=
  let s := s.setNoc d { s.noc d with stats := [] }
  s.wr (pgNoc d) NOC_TAGS.PEAK (s.rd (pgNoc d) NOC_TAGS.USED)

/-- A write of NOC_RTR_CTL.DISABLE: a bit that sets drains its router at once; a router whose bit
clears is restored by ROUTER_RESTORE_DONE (R316). The selvage die has no router. -/
def State.nocDisable (s : State) (d v : Nat) : State :=
  let pg := pgNoc d
  let s := s.wrCov pg NOC_RTR_CTL.DISABLE v
  if d = 0 then s
  else s.wr pg NOC_RTR_STAT.DRAINING (s.rd pg NOC_RTR_STAT.DRAINING ||| (v % 2 ^ 16 &&&
    (2 ^ 16 - 1 - s.rd pg NOC_RTR_STAT.OFF)))

/-- ROUTER_POWER_DOWN: a draining router that holds no packet, with OLD at 0 (R316). -/
def State.nocPowerDown (s : State) (p l : Nat) : State :=
  let pg := pgNoc p
  if maskBit (s.rd pg NOC_RTR_STAT.DRAINING) l && maskBit (s.rd pg NOC_RTR_CTL.DISABLE) l
      && s.oldInFlight == 0 then
    (s.wr pg NOC_RTR_STAT.DRAINING (maskSet (s.rd pg NOC_RTR_STAT.DRAINING) l false)).wr pg
      NOC_RTR_STAT.OFF (maskSet (s.rd pg NOC_RTR_STAT.OFF) l true)
  else s

/-- ROUTER_RESTORE_DONE: a router whose DISABLE bit is 0 runs again (R316). -/
def State.nocRestore (s : State) (p l : Nat) : State :=
  let pg := pgNoc p
  if maskBit (s.rd pg NOC_RTR_CTL.DISABLE) l then s
  else (s.wr pg NOC_RTR_STAT.DRAINING (maskSet (s.rd pg NOC_RTR_STAT.DRAINING) l false)).wr pg
    NOC_RTR_STAT.OFF (maskSet (s.rd pg NOC_RTR_STAT.OFF) l false)

/-- A die number that has a NOC page. -/
def nocOk (d : Nat) : Bool := decide (d < 5)
def panelOk (p : Nat) : Bool := decide (1 ≤ p ∧ p ≤ 4)

def execNocTblWrite (d v : Nat) (s : State) : Host.Outcome State Fault Refusal :=
  .next (if nocOk d then s.guarded (pgNoc d) 0x4C (·.nocTblWrite d v) else s.answer .decode)

/-- NOC_TBL_READ returns the entry and advances DEST; a DEST above 64 names no entry, and the
spec states no value for it. -/
def State.nocTblRead (s : State) (d : Nat) : State :=
  if !s.tu.porDone then s
  else match s.pageCheck (pgNoc d) 0x4C with
  | some e => s.answerFor (pgNoc d) e
  | none =>
    if 64 < s.rd (pgNoc d) NOC_TBL_ADDR.DEST then
      let (v, s) := s.draw 3
      (s.nocAdvance d).answer .ok v
    else (s.nocAdvance d).answer .ok (s.nocPeek d)

def execNocTblRead (d : Nat) (s : State) : Host.Outcome State Fault Refusal :=
  .next (if nocOk d then s.nocTblRead d else s.answer .decode)

def execNocSwitch (d : Nat) (s : State) : Host.Outcome State Fault Refusal :=
  .next (if nocOk d then s.guarded (pgNoc d) 0x44 (·.nocSwitch d) else s.answer .decode)

def execNocVersionResume (init : Nat) (s : State) : Host.Outcome State Fault Refusal :=
  .next (s.nocResume init)

def execNocClrStats (d : Nat) (s : State) : Host.Outcome State Fault Refusal :=
  .next (if nocOk d then s.guarded (pgNoc d) 0x40 (·.nocClear d) else s.answer .decode)

/-- ROUTER_DISABLE: NOC_RTR_CTL is covered, so the write disarms its page (R50). -/
def execRouterDisable (d v : Nat) (s : State) : Host.Outcome State Fault Refusal :=
  .next (if nocOk d then s.guarded (pgNoc d) 0x50 (fun s => (s.disarm (pgNoc d)).nocDisable d v)
    else s.answer .decode)

def execRouterPowerDown (p l : Nat) (s : State) : Host.Outcome State Fault Refusal :=
  .next (if panelOk p && decide (l < 16) then s.nocPowerDown p l else s)

def execRouterRestoreDone (p l : Nat) (s : State) : Host.Outcome State Fault Refusal :=
  .next (if panelOk p && decide (l < 16) then s.nocRestore p l else s)

end Sys2Proof.Machine
end

