-- ==== Sys2Proof/Machine/Dram.lean ====
section
/-! DEFINITION. The DRAM channels (chapter 11): interleaving, the Reed–Solomon code, page policy,
activate tallies, neighbour refresh, the error log, scrubbing and flips. A line is held as its
chips hold it: 80 B, codeword k in bits [80k + 79:80k], its symbol i in byte i. -/

namespace Sys2Proof.Machine

def State.drc (s : State) (k : Nat) : DrcX := s.drcs.getD k {}
def State.setDrc (s : State) (k : Nat) (x : DrcX) : State := { s with drcs := s.drcs.setD k {} x }

/-! ### The code (R276, R277) -/

/-- Doubling in GF(2^8) with x^8 + x^4 + x^3 + x^2 + 1. -/
def gfDouble (a : Nat) : Nat := if a < 128 then 2 * a else (2 * a ^^^ 0x11D) % 256

/-- The product in GF(2^8), over the bits of the second factor. -/
def gfMulBits : Nat → Nat → Nat → Nat
  | 0, _, _ => 0
  | n + 1, a, b => (if b % 2 = 1 then a else 0) ^^^ gfMulBits n (gfDouble a) (b / 2)
def gfMul (a b : Nat) : Nat := gfMulBits 8 a b

/-- α^i, α = 0x02. -/
def gfPow : Nat → Nat
  | 0 => 1
  | n + 1 => gfDouble (gfPow n)

/-- Symbol `i` of a codeword. -/
def sym (cw i : Nat) : Nat := bitsOf cw (8 * i + 7) (8 * i)

/-- The exclusive OR of a list of symbols. -/
def xorAll (l : List Nat) : Nat := l.foldl (· ^^^ ·) 0

/-- The syndromes over the first `n` symbols. -/
def synd0 (n cw : Nat) : Nat := xorAll ((List.range n).map fun i => sym cw i)
def synd1 (n cw : Nat) : Nat := xorAll ((List.range n).map fun i => gfMul (sym cw i) (gfPow i))

/-- The inverse of α^8 + α^9, by which the check symbols are found. -/
def checkInv : Nat := 138

/-- The codeword of 64 data bits: symbols 8 and 9 make both syndromes vanish. -/
def encodeCw (d : Nat) : Nat :=
  let a := synd0 8 d
  let b := synd1 8 d
  let r9 := gfMul (b ^^^ gfMul a (gfPow 8)) checkInv
  d % 2 ^ 64 + (a ^^^ r9) * 2 ^ 64 + r9 * 2 ^ 72

/-- The stored line of 64 data bytes. -/
def encodeLine (d : Nat) : Nat :=
  (List.range 8).foldl (fun n k => n + encodeCw (bitsOf d (64 * k + 63) (64 * k)) * 2 ^ (80 * k)) 0

/-- The outcomes of R277. -/
inductive CwOut where
  | clean | corrected (chip : Nat) | rebuilt | bad
  deriving DecidableEq, Repr

/-- A codeword with symbol `j` replaced by itself XOR `v`. -/
def fixSym (cw j v : Nat) : Nat := cw ^^^ v * 2 ^ (8 * j)

/-- The decoding of one codeword under an erasure. -/
def decodeCw (erased : Option Nat) (cw : Nat) : CwOut × Nat :=
  let s0 := synd0 10 cw
  let s1 := synd1 10 cw
  match erased with
  | some m =>
    if s1 = gfMul s0 (gfPow m) then (if s0 = 0 then .clean else .rebuilt, fixSym cw m s0)
    else (.bad, cw)
  | none =>
    if s0 = 0 ∧ s1 = 0 then (.clean, cw)
    else if s0 = 0 then (.bad, cw)
    else match (List.range 10).find? fun j => s1 == gfMul s0 (gfPow j) with
      | some j => (.corrected j, fixSym cw j s0)
      | none => (.bad, cw)

/-- The codewords of a stored line decoded, lowest first. -/
def decodeLine (erased : Option Nat) (raw : Nat) : List (CwOut × Nat) :=
  (List.range 8).map fun k => decodeCw erased (bitsOf raw (80 * k + 79) (80 * k))

/-- The data bytes of decoded codewords. -/
def lineData (l : List (CwOut × Nat)) : Nat :=
  (List.range 8).foldl (fun n k => n + (l.getD k (.clean, 0)).2 % 2 ^ 64 * 2 ^ (64 * k)) 0

def anyBad (l : List (CwOut × Nat)) : Bool := l.any fun o => o.1 == .bad
def isCorrected : CwOut → Bool
  | .corrected _ => true
  | _ => false
def anyCorrected (l : List (CwOut × Nat)) : Bool := l.any fun o => isCorrected o.1

/-! ### Address mapping (R267–R269) -/

/-- The field VALUE, FIRST … of window `w` as applied, and as staged. -/
def winLo (s : State) (w : Nat) : Nat := s.rd pgMap (DRC_WINw_BASE.VALUE.nth w) * 2 ^ 30
def winLen (s : State) (w : Nat) : Nat := s.rd pgMap (DRC_WINw_SIZE.VALUE.nth w) * 2 ^ 30

/-- Window `w` is enabled and passed its last check. -/
def State.winOn (s : State) (w : Nat) : Bool :=
  s.on pgMap (DRC_WINw_CFG.EN.nth w) && !maskBit (s.rd pgMap DRC_MAP_STAT.BAD) w

/-- The channel and channel address of a plain-view address (R267). -/
def State.mapAddr (s : State) (a : Nat) : Option (Nat × Nat) :=
  match (List.range 16).find? fun w =>
      s.winOn w && decide (winLo s w ≤ a ∧ a < winLo s w + winLen s w) with
  | none => none
  | some w =>
    let o := a - winLo s w
    let g := s.rd pgMap (DRC_WINw_CFG.GRAIN.nth w)
    let n := 2 ^ s.rd pgMap (DRC_WINw_CFG.WAYS.nth w)
    let unit := o / 2 ^ g
    some (s.rd pgMap (DRC_WINw_CFG.FIRST.nth w) + unit % n,
      s.rd pgMap (DRC_WINw_OFF.OFF.nth w) * 2 ^ 27 + unit / n * 2 ^ g + o % 2 ^ g)

/-- log2 of a channel's capacity in bytes (R269), for values read by `f`. -/
def capLog (f : Nat → Fld → Nat) (k : Nat) : Nat :=
  let pg := pgDrc k
  7 + f pg DRC_GEOM.BGB + f pg DRC_GEOM.CB + f pg DRC_GEOM.BKB + f pg DRC_GEOM.RKB
    + f pg DRC_GEOM.ROWB

/-- The place of a channel address (R269). -/
structure Place where
  sub : Nat
  bg : Nat
  col : Nat
  bank : Nat
  rank : Nat
  row : Nat
  deriving DecidableEq, Repr

def State.place (s : State) (k ca : Nat) : Place :=
  let g (f : Fld) := s.rd (pgDrc k) f
  let c1 := ca / 128
  let c2 := c1 / 2 ^ g DRC_GEOM.BGB
  let c3 := c2 / 2 ^ g DRC_GEOM.CB
  let c4 := c3 / 2 ^ g DRC_GEOM.BKB
  let c5 := c4 / 2 ^ g DRC_GEOM.RKB
  ⟨ca / 64 % 2, c1 % 2 ^ g DRC_GEOM.BGB, c2 % 2 ^ g DRC_GEOM.CB, c3 % 2 ^ g DRC_GEOM.BKB,
   c4 % 2 ^ g DRC_GEOM.RKB, c5 % 2 ^ g DRC_GEOM.ROWB⟩

/-- The key of a bank: 1,024 of them in a channel (R272). -/
def Place.bankKey (p : Place) : Nat := ((p.sub * 16 + p.rank) * 8 + p.bg) * 4 + p.bank

/-- One window's check of R268 over values read by `f` (staged values when a set would apply);
`good` are the windows of lower number that are enabled and did not fail. -/
def winFails (f : Nat → Fld → Nat) (good : List Nat) (w : Nat) : Bool :=
  let v (x : Fld) := f pgMap (x.nth w)
  let n := 2 ^ v DRC_WINw_CFG.WAYS
  let first := v DRC_WINw_CFG.FIRST
  let base := v DRC_WINw_BASE.VALUE
  let size := v DRC_WINw_SIZE.VALUE
  let off := v DRC_WINw_OFF.OFF
  let chs := (List.range n).map (first + ·)
  let share := size * 2 ^ 30 / n
  first % n != 0 || v DRC_WINw_CFG.GRAIN < 8 || 16 < v DRC_WINw_CFG.GRAIN || size == 0
    || decide (4096 < base + size)
    || good.any (fun u =>
        let ub := f pgMap (DRC_WINw_BASE.VALUE.nth u)
        let us := f pgMap (DRC_WINw_SIZE.VALUE.nth u)
        decide (base < ub + us ∧ ub < base + size))
    || chs.any (fun c => f (pgDrc c) DRC_GEOM.DPC != f (pgDrc first) DRC_GEOM.DPC)
    || chs.any (fun c => decide (2 ^ capLog f c < off * 2 ^ 27 + share))
    || good.any (fun u =>
        let m := 2 ^ f pgMap (DRC_WINw_CFG.WAYS.nth u)
        let uf := f pgMap (DRC_WINw_CFG.FIRST.nth u)
        let uo := f pgMap (DRC_WINw_OFF.OFF.nth u) * 2 ^ 27
        let ul := f pgMap (DRC_WINw_SIZE.VALUE.nth u) * 2 ^ 30 / m
        decide (first < uf + m ∧ uf < first + n ∧ off * 2 ^ 27 < uo + ul ∧ uo < off * 2 ^ 27 + share))

/-- The windows that fail, as a mask, in ascending order. -/
def badWindows (f : Nat → Fld → Nat) : Nat :=
  ((List.range 16).foldl (fun (acc : Nat × List Nat) w =>
    if f pgMap (DRC_WINw_CFG.EN.nth w) = 0 then acc
    else if winFails f acc.2 w then (acc.1 + 2 ^ w, acc.2) else (acc.1, acc.2 ++ [w])) (0, [])).1

/-- The windows are checked when a set of the map page has applied (R268). -/
def State.mapApplied (s : State) : State :=
  let bad := badWindows s.rd
  let s := s.wr pgMap DRC_MAP_STAT.BAD bad
  if bad = 0 then s else s.ev pgMap 8

/-! ### Activates, tallies and neighbour refreshes (R271–R275) -/

/-- The queue of a channel holds 64 neighbour refreshes; what a trigger adds beyond them waits
behind. -/
def DrcX.nbrFull (x : DrcX) : Bool := decide (64 ≤ x.nbr.length)

/-- A bank whose activates wait: it has a trigger in a full queue (R274). -/
def DrcX.holdsBank (x : DrcX) (bank : Nat) : Bool := x.nbrFull && x.nbr.any fun e => e.1 == bank

/-- A bank's tally after one activate of a row, and the row's count (R272). -/
def tallyOf (t : List (Nat × Nat)) (row : Nat) : List (Nat × Nat) × Nat :=
  match t.find? fun e => e.1 == row with
  | some e => (t.map fun x => if x.1 == row then (row, x.2 + 1) else x, e.2 + 1)
  | none =>
    if t.length < 32 then (t ++ [(row, 1)], 1)
    else
      let least := t.foldl (fun m e => min m e.2) (t.headD (0, 0)).2
      let i := t.findIdx fun e => e.2 == least
      (t.set i (row, least + 1), least + 1)

/-- The victims of a row: rows ± 1, or ± 1 and ± 2, within the bank. -/
def State.victims (s : State) (k row : Nat) : List Nat :=
  let rows := 2 ^ s.rd (pgDrc k) DRC_GEOM.ROWB
  let d := if s.on (pgDrc k) DRC_HAMMER.DIST then [1, 2] else [1]
  (d.flatMap fun i => (if i ≤ row then [row - i] else []) ++ [row + i]).filter (· < rows)

/-- One activate of a row: the tally counts it, and at THRESH the count restarts and neighbour
refreshes queue (R272, R273). -/
def State.activate (s : State) (k bank row : Nat) : State :=
  let x := s.drc k
  let (t, n) := tallyOf (x.tally.getD bank []) row
  if max 256 (s.rd (pgDrc k) DRC_HAMMER.THRESH) ≤ n then
    let t := t.map fun e => if e.1 == row then (row, 0) else e
    let s := s.setDrc k { x with
      tally := x.tally.setD bank [] t, nbr := x.nbr ++ (s.victims k row).map ((bank, ·)) }
    s.bump (pgDrc k) DRC_HAMMER_STAT.TRIGGERS 1
  else s.setDrc k { x with tally := x.tally.setD bank [] t }

/-- PAGE_LEVEL.BLOCK bit 8 (THROTTLING) follows the waits. -/
def State.throttleSync (s : State) (k : Nat) : State :=
  let x := s.drc k
  let x := { x with throttled := x.throttled.filter fun w => x.holdsBank w.1 }
  (s.setDrc k x).wr (pgDrc k) PAGE_LEVEL.BLOCK
    (maskSet (s.rd (pgDrc k) PAGE_LEVEL.BLOCK) 0 (!x.throttled.isEmpty))

/-- A request to a bank whose activates wait; each request that waits counts once, by its initiator and
line (R274). -/
def State.throttle (s : State) (k bank init ca : Nat) : State :=
  let x := s.drc k
  if x.throttled.contains (bank, init, ca / 64) then s
  else
    let s := s.setDrc k { x with throttled := x.throttled ++ [(bank, init, ca / 64)] }
    ((s.bump (pgDrc k) DRC_HAMMER_STAT.THROTTLES 1).ev (pgDrc k) 13).throttleSync k

/-- A request opens its row under the page policy in force (R271): it activates unless the row is
open, and the row stays open where the policy is Hint and the hint is set. -/
def State.openRow (s : State) (k : Nat) (p : Place) (hint : Bool) : State :=
  let x := s.drc k
  let key := p.bankKey
  let hit := (x.rows.find key).map (·.1) == some p.row
  let keep := hint && s.rd (pgDrc k) DRC_STAT.STATE != 3
  let s := if hit then s else s.activate k key p.row
  let x := s.drc k
  s.setDrc k { x with rows := if keep then x.rows.put key (p.row, s.now) else x.rows.del key }

/-- The request of a row activates it, unless it is open already. -/
def State.needsActivate (s : State) (k : Nat) (p : Place) : Bool :=
  ((s.drc k).rows.find p.bankKey).map (·.1) != some p.row

/-! ### Reading and writing a line -/

/-- What the chips of a line hold. -/
def State.rawLine (s : State) (k la : Nat) : Nat :=
  match (s.drc k).lines.find la with
  | some v => v
  | none => Config.dramChip k (s.drc k).epoch la % 2 ^ 640

def State.putRaw (s : State) (k la v : Nat) : State :=
  let x := s.drc k
  s.setDrc k { x with lines := x.lines.put la v }

/-- Errors come into the chips. -/
def State.disturb (s : State) (e : Noise) : State :=
  e.foldl (fun s n => if n.1 < 8 then
    s.putRaw n.1 n.2.1 ((s.rawLine n.1 n.2.1 ^^^ n.2.2) % 2 ^ 640) else s) s

/-- The chip marked for a subchannel and rank (R278). A mark of 10–15 names no chip. -/
def State.erased (s : State) (k : Nat) (p : Place) : Option Nat :=
  let x := 16 * p.sub + p.rank
  let c := s.rd (pgDrc k) (DRC_ERASEx.CHIP.nth x)
  if s.on (pgDrc k) (DRC_ERASEx.VALID.nth x) && decide (c < 10) then some c else none

/-- Subchannel, rank, bank group, bank and column ÷ 16 of a line, as DRC_LOG_LOC shows them. -/
def State.logLoc (s : State) (k ca : Nat) : Nat :=
  let p := s.place k ca
  p.sub % 2 + p.rank % 16 * 2 + p.bg % 8 * 2 ^ 5 + p.bank % 4 * 2 ^ 8 + p.col % 256 * 2 ^ 16

/-- An entry joins the error log, or a full log loses it (R279). -/
def State.drcLog (s : State) (k : Nat) (e : DrcLog) : State :=
  let x := s.drc k
  if x.log.length < 32 then
    (s.setDrc k { x with log := x.log ++ [e] }).wr (pgDrc k) DRC_LOG_LEVEL.COUNT (x.log.length + 1)
  else
    let first := s.rd (pgDrc k) DRC_LOG_LEVEL.LOST == 0
    let s := s.bump (pgDrc k) DRC_LOG_LEVEL.LOST 1
    if first then s.ev (pgDrc k) 12 else s

/-- A chip that has reached MARK_AT in this window is marked at the next native boundary, while AUTO_MARK is
1; a chip that already is needs no mark (R278). -/
def State.markDue (s : State) (k rank chip : Nat) : State :=
  let pg := pgDrc k
  let x := s.drc k
  let marked := s.on pg (DRC_ERASEx.VALID.nth rank) && s.rd pg (DRC_ERASEx.CHIP.nth rank) == chip
  if s.on pg DRC_ECC_CFG.AUTO_MARK && decide (max 1 (s.rd pg DRC_ECC_CFG.MARK_AT) ≤ x.corr.getD (rank * 16 + chip) 0)
      && !marked && !x.marks.contains (rank, chip) then
    s.setDrc k { x with marks := x.marks ++ [(rank, chip)] }
  else s

/-- One corrected codeword counts towards its chip's mark. -/
def State.countChip (s : State) (k : Nat) (p : Place) (chip : Nat) : State :=
  let x := s.drc k
  let rank := 16 * p.sub + p.rank
  let key := rank * 16 + chip
  (s.setDrc k { x with corr := x.corr.setD key 0 (x.corr.getD key 0 + 1) }).markDue k rank chip

/-- The chips that counts already made marks, once AUTO_MARK or MARK_AT has changed. -/
def State.markAll (s : State) (k : Nat) : State :=
  (s.drc k).corr.foldl (fun s e => s.markDue k (e.1 / 16) (e.1 % 16)) s

/-- The counts, the log and the events of a decoded line (R277–R281). -/
def State.eccRecord (s : State) (k ca : Nat) (scrub : Bool) (l : List (CwOut × Nat)) : State :=
  let pg := pgDrc k
  let p := s.place k ca
  let s := l.foldl (fun s o => match o.1 with
    | .corrected j => ((s.bump pg DRC_ECC_CNT.COUNT 1).countChip k p j).ev pg 8
    | .bad => s.bump pg DRC_UE_CNT.COUNT 1
    | _ => s) s
  let s := match l.findIdx? fun o => isCorrected o.1 || o.1 == .bad with
    | none => s
    | some i =>
      let o := (l.getD i (.clean, 0)).1
      let chip := match o with | .corrected j => j | _ => 15
      let kind := (if o = .bad then 1 else 0) + (if scrub then 2 else 0)
      s.drcLog k ⟨ca, chip, kind, i, s.time, s.logLoc k ca, (s.place k ca).row⟩
  if anyBad l then s.ev pg (if scrub then 16 else 9) else s

/-- A line is stored. The first write on the armed subchannel stores codeword 0 flipped (R282). -/
def State.storeLine (s : State) (k ca data : Nat) : State :=
  let pg := pgDrc k
  let raw := encodeLine data
  if s.on pg DRC_FLIP_CTL.ARMED && s.rd pg DRC_FLIP_CTL.SUB == ca / 64 % 2 then
    let m := s.rd pg DRC_FLIP0.MASK + 2 ^ 32 * s.rd pg DRC_FLIP1.MASK
      + 2 ^ 64 * (s.rd pg DRC_FLIP2.MASK % 2 ^ 16)
    let s := (s.putRaw k (ca / 64) (raw ^^^ m)).wr pg DRC_FLIP_CTL.ARMED 0
    (s.wrPair pg DRC_FLIP_ADDR_LO.CA DRC_FLIP_ADDR_HI.CA (ca / 64 * 64)).ev pg 17
  else s.putRaw k (ca / 64) raw

/-- Whether a channel takes a request of an initiator (R264, R23, R55). -/
def State.drcAccepts (s : State) (k init : Nat) : Option BusStatus :=
  let pg := pgDrc k
  let st := s.rd pg DRC_STAT.STATE
  if (s.die (k / 2 + 1)).lost then some .dieDown
  else if s.pageDomain pg != 0 ∨ st = 0 then some .off
  else if st = 1 ∨ st = 6 then some .notReady
  else if st = 2 ∧ init ≠ 1 ∧ init ≠ 2 then some .notReady
  else if !s.on pg PAGE_CTL.CLK_EN || !s.clocksOnFor pg then some .gated
  else none

/-- A request of a channel's own initiators to a line of it; ADDR holds the channel address, which is how they count
lines (R281). DESIGN CHOICE: the spec gives their headers no address. -/
def State.drcNet (_ : State) (k ca op : Nat) : NetReq := { op := op, die := k / 2 + 1, rtr := drcRouter k, addr := ca / 64 * 64 }

/-- The scrub initiator writes a corrected line back: a read and a write, one credit (R270, R280).
Without budget, while its bank's activates wait (R274) or the channel is gated, the write-back waits for the
next budget period; in a state that takes no request of 0x86 it is refused and gone (R264). -/
def State.writeBack (s : State) (k ca : Nat) : State :=
  let p := s.place k ca
  let later (s : State) : State := s.setDrc k { s.drc k with wback := (s.drc k).wback ++ [ca] }
  match s.drcAccepts k 0x86 with
  | some .gated => later s
  | some _ => s
  | none =>
    if s.needsActivate k p && (s.drc k).holdsBank p.bankKey then later (s.throttle k p.bankKey 0x86 ca)
    else match s.send 0x86 [(k, 1)] (s.drcNet k ca 1) with
      | (.go, s) =>
        let s := s.openRow k p false
        let l := decodeLine (s.erased k p) (s.rawLine k (ca / 64))
        let s := if anyBad l then s else s.storeLine k ca (lineData l)
        s.answered 0x86 (s.drcNet k ca 1).is 0 0 0 none 64
      | (.wait, s) => later s
      | (.noBudget, s) => s

/-- A decoded read of a line on behalf of a requester. -/
def State.readLine (s : State) (k ca : Nat) : List (CwOut × Nat) × State :=
  let l := decodeLine (s.erased k (s.place k ca)) (s.rawLine k (ca / 64))
  (l, s.eccRecord k ca false l)

/-- With CORR_WB, the write-back of a line that a read corrected, a request of its own, follows the request that
read it (R270, R280). -/
def State.afterRead (s : State) (k ca : Nat) (l : List (CwOut × Nat)) : State :=
  if !anyBad l && anyCorrected l && s.on (pgDrc k) DRC_ECC_CFG.CORR_WB then s.writeBack k ca else s

/-- Bytes of a line with the bytes of `data` where `be` is 1. -/
def mergeBytes (old data be : Nat) : Nat :=
  (List.range 64).foldl (fun n i => n + 2 ^ (8 * i) *
    (if maskBit be i then bitsOf data (8 * i + 7) (8 * i) else bitsOf old (8 * i + 7) (8 * i))) 0

/-- What a request does to a line. -/
inductive LineOp where
  | read
  | write (data be : Nat)
  | merge (data : Nat)
  deriving DecidableEq, Repr

/-- All 64 bytes are enabled: the write is a full-line write (R309). -/
def fullBe (be : Nat) : Bool := be % 2 ^ 64 == 2 ^ 64 - 1

/-- The credits of a request to its line's channel (R270). -/
def LineOp.cost : LineOp → Nat
  | .read => 1
  | .write _ be => if fullBe be then 1 else 2
  | .merge _ => 2

/-- One request at its channel, without lining: one activate, and the read, the write or the
indivisible read and write (R270, R280). The answer is the status and the line's data. -/
def State.lineOp (s : State) (k ca : Nat) (hint : Bool) (op : LineOp) :
    (BusStatus × Nat) × State :=
  let s := s.openRow k (s.place k ca) hint
  match op with
  | .read =>
    let (l, s) := s.readLine k ca
    if anyBad l then ((.ecc, 0), s) else ((.ok, lineData l), s.afterRead k ca l)
  | .write data be =>
    if fullBe be then ((.ok, 0), s.storeLine k ca data)
    else
      let (l, s) := s.readLine k ca
      if anyBad l then ((.ecc, 0), s)
      else ((.ok, 0), (s.storeLine k ca (mergeBytes (lineData l) data be)).afterRead k ca l)
  | .merge data =>
    let (l, s) := s.readLine k ca
    if anyBad l then ((.ecc, 0), s)
    else ((.ok, 0), (s.storeLine k ca ((lineData l ||| data) % 2 ^ 512)).afterRead k ca l)

/-! ### Maintenance of a channel -/

/-- NEIGHBOUR_REFRESH: the oldest queued refresh of a victim row runs as initiator 0x85 (R273). -/
def State.neighbour (s : State) (k : Nat) : State :=
  let st := s.rd (pgDrc k) DRC_STAT.STATE
  match (s.drc k).nbr with
  | [] => s
  | (bank, row) :: rest =>
    if s.running (pgDrc k) && decide (2 ≤ st ∧ st ≤ 5) then
      match s.send 0x85 [(k, 1)] (s.drcNet k 0 0) with
      | (.go, s) =>
        let x := s.drc k
        let s := s.setDrc k { x with nbr := rest, rows := x.rows.del bank }
        ((s.activate k bank row).throttleSync k).answered 0x85 (s.drcNet k 0 0).is 0 0 0 none 64
      | (_, s) => s
    else s

def execNeighbourRefresh (k : Nat) (s : State) : Host.Outcome State Fault Refusal :=
  .next (if k < 8 then s.neighbour k else s)

/-- The capacity of a channel in bytes. -/
def State.capacity (s : State) (k : Nat) : Nat := 2 ^ capLog s.rd k

/-- SCRUB_READ: the scrubber reads the next line in ascending order and writes a corrected line
back (R281). -/
def State.scrubRead (s : State) (k : Nat) : State :=
  let pg := pgDrc k
  let st := s.rd pg DRC_STAT.STATE
  if s.running pg && decide (3 ≤ st ∧ st ≤ 5) && s.on pg DRC_ECC_CFG.SCRUB_EN then
    let ca := (s.drc k).scrub
    let p := s.place k ca
    if s.needsActivate k p && (s.drc k).holdsBank p.bankKey then s.throttle k p.bankKey 0x86 ca
    else match s.send 0x86 [(k, 1)] (s.drcNet k ca 0) with
      | (.go, s) =>
        let s := s.openRow k p false
        let l := decodeLine (s.erased k p) (s.rawLine k (ca / 64))
        let s := (s.eccRecord k ca true l).answered 0x86 (s.drcNet k ca 0).is (if anyBad l then 7 else 0) 0 0
          (if anyBad l then none else some (lineData l)) 64
        let s := if !anyBad l && anyCorrected l then s.writeBack k ca else s
        let wrap := decide (s.capacity k ≤ ca + 64)
        let s := s.setDrc k { s.drc k with scrub := if wrap then 0 else ca + 64 }
        if wrap then s.wr pg DRC_SCRUB.PASSES (s.rd pg DRC_SCRUB.PASSES + 1) else s
      | (_, s) => s
  else s

def execScrubRead (k : Nat) (e : Noise) (s : State) : Host.Outcome State Fault Refusal :=
  .next (if k < 8 then (s.disturb e).scrubRead k else s)

/-- OPEN_ROW_IDLE_CLOSE: an open row idle for DRC_OPEN.IDLE × 64 G closes (R271). -/
def State.idleClose (s : State) (k bank : Nat) : State :=
  let lim := 64 * max 1 (s.rd (pgDrc k) DRC_OPEN.IDLE)
  match (s.drc k).rows.find bank with
  | none => s
  | some r =>
    let s := { s with now := max s.now (r.2 + lim) }
    s.setDrc k { s.drc k with rows := (s.drc k).rows.del bank }

def execOpenRowIdleClose (k bank : Nat) (s : State) : Host.Outcome State Fault Refusal :=
  .next (if k < 8 then s.idleClose k bank else s)

/-- HAMMER_TALLY_CLEAR: after 8,192 refresh intervals every tally clears, and with it the window
in which corrections count towards a mark (R272, R278). -/
def State.tallyClear (s : State) (k : Nat) : State :=
  let x := s.drc k
  if 8192 ≤ x.intervals then s.setDrc k { x with tally := [], corr := [], intervals := 0 } else s

def execHammerTallyClear (k : Nat) (s : State) : Host.Outcome State Fault Refusal :=
  .next (if k < 8 then s.tallyClear k else s)

/-- DRC_CMD.OP = 1 empties the log (R279). LOST returns to 0 with it. -/
def State.drcClearLog (s : State) (k : Nat) : State :=
  ((s.setDrc k { s.drc k with log := [] }).wr (pgDrc k) DRC_LOG_LEVEL.COUNT 0).wr (pgDrc k)
    DRC_LOG_LEVEL.LOST 0

def execDrcClearLog (k : Nat) (s : State) : Host.Outcome State Fault Refusal :=
  .next (if k < 8 then s.guarded (pgDrc k) 0x78 (·.drcClearLog k) else s.answer .decode)

/-- DRC_CMD.OP = 2 zeroes both counts (R279). -/
def State.drcClearCounts (s : State) (k : Nat) : State :=
  (s.wr (pgDrc k) DRC_ECC_CNT.COUNT 0).wr (pgDrc k) DRC_UE_CNT.COUNT 0

def execDrcClearCounts (k : Nat) (s : State) : Host.Outcome State Fault Refusal :=
  .next (if k < 8 then s.guarded (pgDrc k) 0x78 (·.drcClearCounts k) else s.answer .decode)

/-- FLIP_ARM: DRC_FLIP_CTL.ARM with its SUB (R282). -/
def State.flipArm (s : State) (k sub : Nat) : State :=
  (s.wr (pgDrc k) DRC_FLIP_CTL.SUB sub).wr (pgDrc k) DRC_FLIP_CTL.ARMED 1

def execFlipArm (k sub : Nat) (s : State) : Host.Outcome State Fault Refusal :=
  .next (if k < 8 then s.guarded (pgDrc k) 0x10C (·.flipArm k sub) else s.answer .decode)

end Sys2Proof.Machine
end

