-- ==== Sys2Proof/Machine/Lining.lean ====
section
/-! DEFINITION. Lined regions (chapter 12), and the whole of one DRAM request: mapping, lining and
channel. -/

namespace Sys2Proof.Machine

def State.lin (s : State) (r : Nat) : LinX := s.regions.getD r {}
def State.setLin (s : State) (r : Nat) (x : LinX) : State := { s with regions := s.regions.setD r {} x }
def State.slot (s : State) (k : Nat) : KeySlot := s.slots.getD k {}

/-- EXHAUSTED of a region returns to 0 whenever the region is ACTIVE with a FREE slot (LIN_Rr_STAT). -/
def State.exhSync (s : State) : State :=
  if (List.range 64).any fun k => (s.slot k).state == 0 then
    (List.range 16).foldl (fun s r =>
      if s.rd pgLin (LIN_Rr_STAT.STATE.nth r) = 2 then s.wr pgLin (LIN_Rr_STAT.EXHAUSTED.nth r) 0
      else s) s
  else s

/-- LIN_KEYS reports the count of slots in each state (R294). -/
def State.keySync (s : State) : State :=
  let n (st : Nat) := ((List.range 64).filter fun k => (s.slot k).state == st).length
  ((((s.wr pgLin LIN_KEYS.FREE (n 0)).wr pgLin LIN_KEYS.ACTIVE (n 1)).wr pgLin
    LIN_KEYS.RETIRING (n 2)).wr pgLin LIN_KEYS.HELD (n 3)).exhSync

def State.setSlot (s : State) (k : Nat) (x : KeySlot) : State :=
  ({ s with slots := s.slots.setD k {} x } : State).keySync

/-- A FREE slot is taken; its keys come from the random generator. Which FREE slot is taken the
spec leaves open. -/
def State.takeSlot (s : State) (state : Nat) : Option (Nat × State) :=
  let free := (List.range 64).filter fun k => (s.slot k).state == 0
  if free.isEmpty then none
  else
    let (r, s) := s.draw 16
    let k := free.getD (r % free.length) 0
    let (c, s) := s.draw 256
    let (t, s) := s.draw 256
    some (k, s.setSlot k ⟨state, c, t⟩)

/-- A slot is overwritten with zeros and becomes FREE. -/
def State.freeSlot (s : State) (k : Nat) : State := s.setSlot k {}

/-! ### Regions (R284, R285) -/

def linStat (r : Nat) (f : Fld) : Fld := f.nth r
def State.linState (s : State) (r : Nat) : Nat := s.rd pgLin (LIN_Rr_STAT.STATE.nth r)

/-- PAGE_LEVEL.BLOCK bit 8 (ROLLING) follows the regions (R301). -/
def State.linSync (s : State) : State :=
  let on := (List.range 16).any fun r => s.linState r == 3 || s.linState r == 4
  s.wr pgLin PAGE_LEVEL.BLOCK (maskSet (s.rd pgLin PAGE_LEVEL.BLOCK) 0 on)

def State.setLinState (s : State) (r v : Nat) : State :=
  (s.wr pgLin (LIN_Rr_STAT.STATE.nth r) v).linSync.exhSync

/-- The region that covers a plain-view address and has been enabled, by the extent it was enabled
with. -/
def State.regionOf (s : State) (a : Nat) : Option Nat :=
  (List.range 16).find? fun r => s.linState r != 0 &&
    decide ((s.lin r).base * 2 ^ 30 ≤ a ∧ a < ((s.lin r).base + (s.lin r).size) * 2 ^ 30)

/-- The address of the metadata line of a data line, and the line's entry in it (R285). -/
def metaOf (a : Nat) : Nat × Nat :=
  let o := a % 2 ^ 30
  let m := a / 2 ^ 30 * 2 ^ 30 + 0x38000000 + o / 64 * 8
  (m / 64 * 64, m % 64 / 8)

def entry (line i : Nat) : Nat := bitsOf line (64 * i + 63) (64 * i)
def entryCtr (e : Nat) : Nat := e % 2 ^ 23
def entryEpoch (e : Nat) : Nat := e / 2 ^ 23 % 2
def entryTag (e : Nat) : Nat := e / 2 ^ 24
def mkEntry (ctr epoch tag : Nat) : Nat := ctr + epoch * 2 ^ 23 + tag * 2 ^ 24

/-! ### Cipher and tag (R287, R288) -/

/-- A line exclusive-ORed with its key stream. -/
def cipherLine (key la ctr id line : Nat) : Nat :=
  (List.range 4).foldl (fun n j =>
    let c := la / 64 % 2 ^ 42 * 2 ^ 86 + ctr * 2 ^ 63 + id * 2 ^ 57 + j
    n + (bitsOf line (128 * j + 127) (128 * j) ^^^ revBytes 16 (aes256 key c))
      * 2 ^ (128 * j)) 0

/-- The 40-bit tag of a line's ciphertext. -/
def tagOf (key la ctr epoch id line : Nat) : Nat :=
  let head := la / 64 % 2 ^ 42 * 2 ^ 86 + ctr * 2 ^ 63 + epoch * 2 ^ 62 + id * 2 ^ 56
  aesCmac key (head :: (List.range 4).map (msgBlock line)) / 2 ^ 88

/-- The key slot that an epoch of a region names, if any. -/
def State.epochSlot (s : State) (r epoch : Nat) : Option Nat :=
  if epoch = s.rd pgLin (LIN_Rr_STAT.EPOCH.nth r) then some (s.rd pgLin (LIN_Rr_STAT.KEY_CUR.nth r))
  else if s.on pgLin (LIN_Rr_STAT.OLD_VALID.nth r) then
    some (s.rd pgLin (LIN_Rr_STAT.KEY_OLD.nth r))
  else none

/-- The plaintext of a stored line under its entry, if its tag checks (R291). -/
def State.openLine (s : State) (r la e line : Nat) : Option Nat :=
  match s.epochSlot r (entryEpoch e) with
  | none => none
  | some k =>
    if tagOf (s.slot k).tag la (entryCtr e) (entryEpoch e) k line = entryTag e then
      some (cipherLine (s.slot k).cipher la (entryCtr e) k line)
    else none

/-- The ciphertext and the entry of a plaintext under the current key. -/
def State.sealLine (s : State) (r la ctr plain : Nat) : Nat × Nat :=
  let ep := s.rd pgLin (LIN_Rr_STAT.EPOCH.nth r)
  let k := s.rd pgLin (LIN_Rr_STAT.KEY_CUR.nth r)
  let c := cipherLine (s.slot k).cipher la ctr k plain
  (c, mkEntry ctr ep (tagOf (s.slot k).tag la ctr ep k c))

/-- A tag failure is logged, counted and raised in the security class (R291). -/
def State.tagFail (s : State) (r la init dev kind : Nat) : State :=
  let s := s.wrPair pgLin LIN_TAGF_ADDR_LO.ADDR LIN_TAGF_ADDR_HI.ADDR la
  let s := ((s.wr pgLin LIN_TAGF_INFO.INIT init).wr pgLin LIN_TAGF_INFO.REGION r).wr pgLin
    LIN_TAGF_INFO.KIND kind
  let s := s.wr pgLin LIN_TAGF_INFO.DEV (if init = 8 then dev else 0)
  ((s.bump pgLin LIN_TAGF_CNT.COUNT 1).ev pgLin 8).raise pgLin 1 (some 8)

/-! ### Requests -/

/-- A request for bytes of one 64 B line: initiator and source device, view, address, number of
bytes, open-row hint. -/
structure MemReq where
  init : Nat
  dev : Nat
  raw : Bool
  addr : Nat
  hint : Bool
  deriving DecidableEq, Repr

/-- The initiator matches an entry of the region's access list (R290). -/
def State.aclMatch (s : State) (r init dev : Nat) : Bool :=
  (List.range 8).any fun k =>
    let w := (s.reg pgLin (0x120 + 0x40 * r + 4 * k)).toNat
    let m := bitsOf w 15 8
    maskBit w 31 && (init &&& m) == (bitsOf w 7 0 &&& m)
      && (!maskBit w 30 || (init == 8 && bitsOf w 27 16 == dev))

/-- Initiators that never see plaintext (R289). -/
def neverPlain (i : Nat) : Bool := i == 1 || decide (3 ≤ i ∧ i ≤ 6) || i == 0xA0 || i == 0xA1

/-- The answer to one DRAM request: its status and, for a read that is OK, the data of its line. -/
abbrev MemRes := BusStatus × Nat

/-- A DENIED response (R289). -/
def State.denied (s : State) : MemRes × State := ((.denied, 0), s.ev pgLin 10)

/-- The channel and channel address of a line, unless the map or the channel answers the request
itself. -/
def State.reach (s : State) (a init : Nat) : Except BusStatus (Nat × Nat) :=
  match s.mapAddr (a / 64 * 64) with
  | none => .error .decode
  | some (k, ca) =>
    match s.drcAccepts k init with
    | some e => .error e
    | none => .ok (k, ca)

/-- A DIE_DOWN answer for the channel of a line counts for its die (R23). -/
def State.synthAt (s : State) (a : Nat) (e : BusStatus) : State :=
  match s.mapAddr (a / 64 * 64) with
  | none => s
  | some (k, _) => s.synth (k / 2 + 1) e

/-- A request that waits for a bank's activates: channel, bank, channel address (R274). -/
structure BankWait where
  k : Nat
  bank : Nat
  ca : Nat
  deriving DecidableEq, Repr

/-- The request of an initiator waits. -/
def State.bankHolds (s : State) (w : BankWait) (init : Nat) : State := s.throttle w.k w.bank init w.ca

/-- The channel and the bank for which a request to a line must wait (R274). -/
def State.lineWaits (s : State) (a init : Nat) : Option BankWait :=
  match s.reach a init with
  | .error _ => none
  | .ok (k, ca) =>
    let p := s.place k ca
    if s.needsActivate k p && (s.drc k).holdsBank p.bankKey then some ⟨k, p.bankKey, ca⟩ else none

/-- The activate of a request to a line, as far as it counts towards the tallies. -/
def State.lineOpens (s : State) (a init : Nat) : State :=
  match s.reach a init with
  | .error _ => s
  | .ok (k, ca) => s.openRow k (s.place k ca) false

/-- The channel and the bank for which a step of several activates, in this order, must wait: an activate of
its own may fill the queue that holds a later one (R274). -/
def State.linesWait (s : State) (init : Nat) : List Nat → Option BankWait
  | [] => none
  | a :: rest =>
    match s.lineWaits a init with
    | some w => some w
    | none => (s.lineOpens a init).linesWait init rest

/-- LIN_EXH of a write that finds its counter exhausted (R298). -/
def State.exhausted (s : State) (r : Nat) : MemRes × State :=
  ((.lineExhausted, 0),
   ((s.wr pgLin (LIN_Rr_STAT.EXHAUSTED.nth r) 1).bump pgLin LIN_EXH_CNT.COUNT 1).ev pgLin 9)

/-- A roll starts: a FREE slot becomes the key of the other epoch, and the sweeper starts at the
region's first metadata line (R296). -/
def State.rollStart (s : State) (r : Nat) : Option State :=
  match s.takeSlot 1 with
  | none => none
  | some (k, s) =>
    let st (f : Fld) := f.nth r
    let s := (s.wr pgLin (st LIN_Rr_STAT.KEY_OLD) (s.rd pgLin (st LIN_Rr_STAT.KEY_CUR))).wr pgLin
      (st LIN_Rr_STAT.OLD_VALID) 1
    let s := (s.wr pgLin (st LIN_Rr_STAT.KEY_CUR) k).wr pgLin (st LIN_Rr_STAT.EPOCH)
      (1 - s.rd pgLin (st LIN_Rr_STAT.EPOCH))
    let s := s.wr pgLin (st LIN_Rr_STAT.PART) 0
    let s := (s.setLin r { s.lin r with group := 0 }).wr pgLin (LIN_Rr_SWEEP.LEFT.nth r)
      ((s.lin r).size * 1835008)
    some ((s.setLinState r 3).wr pgLin (st LIN_Rr_STAT.EXHAUSTED) 0)

/-- A line of an enabled region is written with new plaintext: the counter advances, an old epoch
moves to the current one, an exhausted counter starts a roll or stops the write (R292, R296,
R298). `m` is the decoded metadata line. -/
def State.linedStore (s : State) (r k ca kM cM la m i plain : Nat) : MemRes × State :=
  let e := entry m i
  let cur := s.rd pgLin (LIN_Rr_STAT.EPOCH.nth r)
  let put (s : State) (ctr : Nat) : MemRes × State :=
    let (c, e') := s.sealLine r la ctr plain
    let s := s.storeLine k ca c
    ((.ok, 0), s.storeLine kM cM (putBits m (64 * i + 63) (64 * i) e'))
  if entryEpoch e ≠ cur then put s 1
  else if entryCtr e + 1 < 2 ^ 23 then put s (entryCtr e + 1)
  else if s.linState r = 2 then
    match s.rollStart r with
    | some s => put s 1
    | none => s.exhausted r
  else s.exhausted r

/-- One request to a data line of an enabled region in the plain view (R291, R292), as one
indivisible step. -/
def State.linedOp (s : State) (q : MemReq) (r : Nat) (op : LineOp) : MemRes × State :=
  let la := q.addr / 64 * 64
  let (ma, i) := metaOf la
  match s.reach la q.init, s.reach ma q.init with
  | .error e, _ => ((e, 0), s.synthAt la e)
  | _, .error e => ((e, 0), s.synthAt ma e)
  | .ok (k, ca), .ok (kM, cM) =>
      let s := s.openRow k (s.place k ca) q.hint
      let s := s.openRow kM (s.place kM cM) q.hint
      let full := match op with | .write _ be => fullBe be | _ => false
      let (ml, s) := s.readLine kM cM
      let (dl, s) := if full then ([], s) else s.readLine k ca
      let (res, s) :=
        if anyBad ml || anyBad dl then ((BusStatus.ecc, 0), s)
        else
          let m := lineData ml
          match op with
          | .write data be =>
            if full then s.linedStore r k ca kM cM la m i data
            else match s.openLine r la (entry m i) (lineData dl) with
              | none => ((.tag, 0), s.tagFail r la q.init q.dev 1)
              | some p => s.linedStore r k ca kM cM la m i (mergeBytes p data be)
          | .read => match s.openLine r la (entry m i) (lineData dl) with
            | none => ((.tag, 0), s.tagFail r la q.init q.dev 0)
            | some p => ((.ok, p), s)
          | .merge data => match s.openLine r la (entry m i) (lineData dl) with
            | none => ((.tag, 0), s.tagFail r la q.init q.dev 1)
            | some p => s.linedStore r k ca kM cM la m i ((p ||| data) % 2 ^ 512)
      let s := s.afterRead kM cM ml
      (res, if full then s else s.afterRead k ca dl)

/-- A request to unlined bytes. -/
def State.plainOp (s : State) (q : MemReq) (op : LineOp) : MemRes × State :=
  match s.reach q.addr q.init with
  | .error e => ((e, 0), s.synthAt q.addr e)
  | .ok (k, ca) => s.lineOp k ca q.hint op

def LineOp.writes : LineOp → Bool
  | .read => false
  | _ => true

/-- One request at DRAM: the views and the access lists decide (R289), then lining or the channel
alone serves it. The data of a read is that of the whole line. -/
def State.memOp (s : State) (q : MemReq) (op : LineOp) : MemRes × State :=
  match s.regionOf q.addr with
  | none => s.plainOp q op
  | some r =>
    if q.raw then
      if op.writes && !s.on pgLin (LIN_Rr_CFG.RAW_WR.nth r) then s.denied else s.plainOp q op
    else if neverPlain q.init || !s.aclMatch r q.init q.dev then s.denied
    else if 0x38000000 ≤ q.addr % 2 ^ 30 then ((.decode, 0), s)
    else if s.linState r = 1 then ((.notReady, 0), s)
    else s.linedOp q r op

/-- The credits of a request by class: its own channel under R270, and in the plain view of an
enabled region the metadata line's channel under R293. -/
def State.memCost (s : State) (q : MemReq) (op : LineOp) : List (Nat × Nat) :=
  match s.mapAddr (q.addr / 64 * 64) with
  | none => []
  | some (k, _) =>
    match s.regionOf q.addr, q.raw with
    | some _, false =>
      let add := if op.writes then 2 else 1
      match s.mapAddr (metaOf q.addr).1 with
      | none => [(k, op.cost)]
      | some (km, _) => if km = k then [(k, op.cost + add)] else [(k, op.cost), (km, add)]
    | _, _ => [(k, op.cost)]

/-- The die whose panel holds the line of an address, and the endpoint's router. -/
def State.memWay (s : State) (init a : Nat) : Option RouteStop :=
  match s.mapAddr (a / 64 * 64) with
  | none => none
  | some (k, _) => s.way init (k / 2 + 1) (drcRouter k)

/-- The tables send the request to DRAM in a circle. -/
def State.memCircles (s : State) (init a : Nat) : Bool :=
  match s.mapAddr (a / 64 * 64) with
  | none => false
  | some (k, _) => s.circles init (k / 2 + 1) (drcRouter k)

/-- A request on its way and at DRAM: a router may answer it in place of the channel. -/
def State.memGo (s : State) (q : MemReq) (op : LineOp) : MemRes × State :=
  match s.memWay q.init q.addr with
  | some r => ((r.status, 0), s.countRoute r)
  | none => s.memOp q op

/-- The lines that a request activates: its own, and in a lined region its metadata line. -/
def State.memLines (s : State) (q : MemReq) : List Nat :=
  q.addr :: if q.raw || (s.regionOf q.addr).isNone then [] else [(metaOf q.addr).1]

/-- The bank for which a request waits, at its line or at its metadata line. -/
def State.memWaits (s : State) (q : MemReq) : Option BankWait := s.linesWait q.init (s.memLines q)

/-- A request to DRAM as the network carries it (R309). -/
def State.memNet (s : State) (q : MemReq) (op : LineOp) (bytes : Nat) : NetReq :=
  let k := ((s.mapAddr (q.addr / 64 * 64)).map (·.1)).getD 0
  let o := q.addr % 64
  let (c, d, be) := match op with
    | .read => (0, 0, 0)
    | .write d be => (1, d, be)
    | .merge d => (2, d, 0)
  { op := c, die := k / 2 + 1, rtr := drcRouter k, addr := q.addr + (if q.raw then 2 ^ 42 else 0), n := bytes,
    be := be / 2 ^ o, data := d / 2 ^ (8 * o), opn := q.hint, sdev := q.dev }

/-- The response of DRAM to a request: two data flits for a READ that is OK. -/
def MemRes.data (r : MemRes) (op : LineOp) : Option Nat := if r.1 = .ok ∧ op = .read then some r.2 else none

/-- A request to DRAM is issued. -/
def State.memSend (s : State) (q : MemReq) (op : LineOp) (bytes : Nat) : Admit × State :=
  s.send q.init (s.memCost q op) (s.memNet q op bytes)

/-- The response of DRAM reaches the initiator. -/
def State.memBack (s : State) (q : MemReq) (op : LineOp) (bytes : Nat) (r : MemRes) : State :=
  s.answered q.init (s.memNet q op bytes).is r.1.code 0 0 (r.data op) bytes

/-- An admitted request reaches DRAM and is answered; `none` while a bank holds it back. -/
def State.memServe (s : State) (q : MemReq) (op : LineOp) (bytes : Nat) : Option MemRes × State :=
  match s.memWaits q with
  | some w => (none, s.bankHolds w q.init)
  | none =>
    let (r, s) := s.memGo q op
    (some r, s.memBack q op bytes r)

/-- A whole request of an initiator: admission, way, DRAM, answer. `none` while it waits. -/
def State.memAccess (s : State) (q : MemReq) (op : LineOp) (bytes : Nat) : Option MemRes × State :=
  match s.memWaits q with
  | some w => (none, s.bankHolds w q.init)
  | none =>
    if s.memCircles q.init q.addr then (none, s)
    else match s.memSend q op bytes with
    | (.noBudget, s) => (some (.noBudget, 0), s)
    | (.wait, s) => (none, s)
    | (.go, s) =>
      let (r, s) := s.memGo q op
      (some r, s.memBack q op bytes r)

/-- Bytes `off` to `off + n − 1` of a line. -/
def sliceLine (line off n : Nat) : Nat := line / 2 ^ (8 * off) % 2 ^ (8 * n)

/-- The byte enables and the placed data of a write of `n` bytes at offset `off` of a line. -/
def placeBytes (off n v : Nat) : Nat × Nat :=
  (v % 2 ^ (8 * n) * 2 ^ (8 * off), (2 ^ n - 1) * 2 ^ off % 2 ^ 64)

/-! ### The rows DRAM_READ, DRAM_WRITE and DRAM_MERGE -/

/-- The initiator is listed in R60 and its die is alive; the address lies in DRAM and the bytes
within one line (R267). -/
def memReqOk (init addr len : Nat) : Bool :=
  initListed init && decide (addr < 2 ^ 42) && decide (1 ≤ len ∧ addr % 64 + len ≤ 64)

/-- A request's answer goes to the bus. -/
def State.memAnswer (r : Option MemRes × State) (off n : Nat) : State :=
  match r.1 with
  | none => r.2
  | some (st, d) => r.2.answer st (if st = .ok then sliceLine d off n else 0)

def execDramRead (init dev : Nat) (raw : Bool) (addr len : Nat) (hint : Bool) (e : Noise)
    (s : State) : Host.Outcome State Fault Refusal :=
  .next (if memReqOk init addr len then
    State.memAnswer ((s.disturb e).memAccess ⟨init, dev, raw, addr, hint⟩ .read len) (addr % 64) len
  else s)

def execDramWrite (init dev : Nat) (raw : Bool) (addr len value : Nat) (hint : Bool) (e : Noise)
    (s : State) : Host.Outcome State Fault Refusal :=
  .next (if memReqOk init addr len then
    let (d, be) := placeBytes (addr % 64) len value
    State.memAnswer ((s.disturb e).memAccess ⟨init, dev, raw, addr, hint⟩ (.write d be) len) 0 0
  else s)

def execDramMerge (init dev : Nat) (raw : Bool) (addr len value : Nat) (hint : Bool) (e : Noise)
    (s : State) : Host.Outcome State Fault Refusal :=
  .next (if memReqOk init addr len then
    let (d, _) := placeBytes (addr % 64) len value
    State.memAnswer ((s.disturb e).memAccess ⟨init, dev, raw, addr, hint⟩ (.merge d) len) 0 0
  else s)

end Sys2Proof.Machine
end

