-- ==== Sys2Proof/Machine/Spool.lean ====
section
/-! DEFINITION. Spools (chapter 8): queues of items built from cells of a shared pool. -/

namespace Sys2Proof.Machine

def State.spl (s : State) (p : Nat) : SplX := s.spls.getD p {}
def State.setSpl (s : State) (p : Nat) (x : SplX) : State := { s with spls := s.spls.setD p {} x }
def SplX.queue (x : SplX) (q : Nat) : SplQ := x.queues.getD q {}
def State.setQueue (s : State) (p q : Nat) (y : SplQ) : State :=
  s.setSpl p { s.spl p with queues := (s.spl p).queues.setD q {} y }

/-- The codes of SPL_OP_RES.STATUS. -/
def spOk : Nat := 0
def spEmpty : Nat := 1
def spFlushed : Nat := 2
def spDropped : Nat := 3
def spDiscarded : Nat := 4
def spNoQueue : Nat := 5
def spCellErr : Nat := 6
def spDieDown : Nat := 7

/-- The answer to a spool operation: bus status, SPST, SPF (FIRST, LAST, MARKER) and a cell. -/
structure SpRes where
  status : BusStatus := .ok
  st : Nat := 0
  spf : Nat := 0
  cell : Nat := 0
  deriving DecidableEq, Repr

/-- The limit of a queue; values above the pool are taken as the pool (SPL_Q_CFG). -/
def State.splLimit (s : State) (p q : Nat) : Nat :=
  min 131072 (s.rd (pgSpl p) (SPL_Q_CFG.LIMIT.nth q))

def State.splCells (s : State) (p q : Nat) : Nat := s.rd (pgSpl p) (SPL_Q_STAT.CELLS.nth q)

/-- The pool's free count changes; MIN follows, and PAGE_LEVEL.BLOCK bit 8 (POOL_EMPTY). -/
def State.setFree (s : State) (p n : Nat) : State :=
  let pg := pgSpl p
  let s := (s.wr pg SPL_POOL_FREE.FREE n).wr pg SPL_POOL_MIN.MIN (min n (s.rd pg SPL_POOL_MIN.MIN))
  s.wr pg PAGE_LEVEL.BLOCK (maskSet (s.rd pg PAGE_LEVEL.BLOCK) 0 (n == 0))

/-- A queue's data cells change by taking from or returning to the pool. -/
def State.setCells (s : State) (p q n : Nat) : State :=
  let pg := pgSpl p
  let old := s.splCells p q
  let s := s.setFree p (s.rd pg SPL_POOL_FREE.FREE + old - n)
  let s := s.wr pg (SPL_Q_STAT.CELLS.nth q) n
  s.wr pg (SPL_Q_PEAK.CELLS.nth q) (max n (s.rd pg (SPL_Q_PEAK.CELLS.nth q)))

/-- SPL_Q_ITEMS, MARKER and MID_ITEM follow a queue, SPL_OPEN the open items. -/
def State.splSync (s : State) (p q : Nat) : State :=
  let pg := pgSpl p
  let y := (s.spl p).queue q
  let mid := match y.items with
    | .cells _ m :: _ => m
    | _ => false
  let s := s.wr pg (SPL_Q_ITEMS.COUNT.nth q) y.items.length
  let s := (s.wr pg (SPL_Q_STAT.MARKER.nth q) (bit y.mark.isSome)).wr pg
    (SPL_Q_STAT.MID_ITEM.nth q) (bit mid)
  s.wr pg SPL_OPEN.COUNT (s.spl p).opens.length

/-! ### The cells of the pool (R202, R210)

Which free cell the manager takes is open; the pool's range of the on-die view shows what each cell
was last given. -/

/-- The cells in use: of queued and open items, and the markers' own. -/
def SplX.used (x : SplX) : List Nat :=
  (x.queues.flatMap fun e => e.2.home.toList ++ e.2.items.flatMap fun i => match i with
    | .cells cs _ => cs.map (·.no)
    | .marker => []) ++ x.opens.flatMap fun o => o.cells.map (·.no)

/-- A free cell, by a free value. -/
def State.splPick (s : State) (p : Nat) : Nat × State :=
  let (r, s) := s.draw 17
  (pickFree 131072 r (s.spl p).used, s)

/-- A cell of the pool is written. -/
def State.splStore (s : State) (p k v : Nat) : State :=
  s.setSpl p { s.spl p with store := (s.spl p).store.put k (v % 2 ^ 512) }

/-- What a cell of the pool holds. -/
def State.poolCell (s : State) (p k : Nat) : Nat :=
  ((s.spl p).store.find k).getD (Config.restCell 0 p (s.spl p).life k % 2 ^ 512)

/-- The pool loses its contents. -/
def SplX.lost (x : SplX) : SplX := { life := x.life + 1 }

/-- The marker cell (R205). -/
def markerCell (m : SplMark) : Nat :=
  m.count + 2 ^ 64 * m.first + 2 ^ 128 * m.last + 2 ^ 192 * m.cause + 2 ^ 200 * m.init
    + 2 ^ 208 * m.dev + 2 ^ 224 * bit m.inter

/-- An item has joined the queue behind the marker. -/
def behindMarker (l : List SplItem) : Bool :=
  !((l.dropWhile fun i => i != .marker).drop 1).isEmpty

/-- A drop on a queue: it counts, and opens or updates the marker (R203, R204). -/
def State.splDrop (s : State) (p q init dev cause : Nat) : State :=
  let pg := pgSpl p
  let s := (s.ev pg 8).bump pg (SPL_Q_DROPS.COUNT.nth q) 1
  let s := if cause = 1 then s.ev pg 9 else s
  let y := (s.spl p).queue q
  let y' : SplQ := match y.mark with
    | none => { y with
        items := y.items ++ [.marker],
        mark := some ⟨1, s.time, s.time, 2 ^ cause, init, if init = 8 then dev else 0, false⟩ }
    | some m => { y with mark := some { m with
        count := satAdd 32 m.count 1, last := s.time, cause := m.cause ||| 2 ^ cause,
        inter := m.inter || behindMarker y.items } }
  let s := (s.setQueue p q y').splSync p q
  match y'.home, y'.mark with
  | some k, some m => s.splStore p k (markerCell m)
  | _, _ => s

/-- The open item of a producer on a queue. -/
def SplX.openOf (x : SplX) (q init dev : Nat) : Option SplOpen :=
  x.opens.find? fun o => o.queue == q && o.init == init && o.dev == dev

def SplX.dropOpen (x : SplX) (q init dev : Nat) : SplX :=
  { x with opens := x.opens.filter fun o => !(o.queue == q && o.init == init && o.dev == dev) }

/-- An open item is dropped: its cells return to the pool at once. -/
def State.dropOpen (s : State) (p q init dev cause : Nat) : State :=
  let n := (((s.spl p).openOf q init dev).map (·.cells.length)).getD 0
  let s := s.setSpl p ((s.spl p).dropOpen q init dev)
  (s.setCells p q (s.splCells p q - n)).splDrop p q init dev cause

/-- A cell of an item is taken: the item stays open, or joins the tail of its queue with LAST. -/
def State.takeCell (s : State) (p : Nat) (o : SplOpen) (cell : Nat) (last : Bool) : State :=
  let (k, s) := s.splPick p
  let s := s.splStore p k cell
  let x := (s.spl p).dropOpen o.queue o.init o.dev
  let o := { o with cells := o.cells ++ [⟨k, cell % 2 ^ 512⟩] }
  let s := s.setCells p o.queue (s.splCells p o.queue + 1)
  let s :=
    if last then
      let s := s.setSpl p x
      let y := (s.spl p).queue o.queue
      s.setQueue p o.queue { y with items := y.items ++ [.cells o.cells false] }
    else s.setSpl p { x with opens := x.opens ++ [o] }
  s.splSync p o.queue

/-- NOQUEUE: the operation changes nothing else (R208). -/
def State.noQueue (s : State) (p : Nat) : SpRes × State :=
  ({ st := spNoQueue }, (s.bump (pgSpl p) SPL_NOQ.COUNT 1).ev (pgSpl p) 10)

/-- A cell meets the limit or an empty pool: the cause bit of R203. -/
def State.splFull (s : State) (p q limit : Nat) : Option Nat :=
  if limit ≤ s.splCells p q then some 0
  else if s.rd (pgSpl p) SPL_POOL_FREE.FREE = 0 then some 1
  else none

/-- A PUSH of one cell at its manager (R199, R202, R203). -/
def State.splPush (s : State) (p q init dev cell : Nat) (first last : Bool) : SpRes × State :=
  let pg := pgSpl p
  let dev := if init = 8 then dev else 0
  if !s.on pg (SPL_Q_CFG.EN.nth q) then s.noQueue p
  else
    let op := (s.spl p).openOf q init dev
    if first then
      let s := if op.isSome then s.dropOpen p q init dev 3 else s
      let limit := s.splLimit p q
      if !last && decide (256 ≤ (s.spl p).opens.length) then
        ({ st := spDropped }, s.splDrop p q init dev 4)
      else match s.splFull p q limit with
        | some c => ({ st := spDropped }, s.splDrop p q init dev c)
        | none => ({ st := spOk }, s.takeCell p ⟨q, init, dev, limit, []⟩ cell last)
    else match op with
      | none => ({ st := spDiscarded }, s.bump pg (SPL_Q_DISC.COUNT.nth q) 1)
      | some o =>
        if 64 ≤ o.cells.length then ({ st := spDropped }, s.dropOpen p q init dev 2)
        else match s.splFull p q o.limit with
          | some c => ({ st := spDropped }, s.dropOpen p q init dev c)
          | none => ({ st := spOk }, s.takeCell p o cell last)

/-- The ECC verdict of a popped cell (R209). -/
def State.splEcc (s : State) (p : Nat) (e : Ecc) : State :=
  match e with
  | .clean => s
  | .corrected => (s.bump (pgSpl p) SPL_ECC.CORR 1).ev (pgSpl p) 12
  | .fatal => (s.wr (pgSpl p) SPL_ECC.FATAL 1).ev (pgSpl p) 13

/-- The bits that a popped cell gives: with an uncorrectable error the damaged bits that the pool holds,
which are open (R209). -/
def State.splGive (s : State) (p : Nat) (k : Option Nat) (v : Nat) (e : Ecc) : Nat × State :=
  match e, k with
  | .fatal, some k => let (w, s) := s.draw 512; (w, s.splStore p k w)
  | _, _ => (v, s)

/-- A POP at its manager (R200, R201, R207, R209). -/
def State.splPop (s : State) (p q : Nat) (e : Ecc) : SpRes × State :=
  let y := (s.spl p).queue q
  let st := if e = .fatal then spCellErr else spOk
  if !s.on (pgSpl p) (SPL_Q_CFG.EN.nth q) then s.noQueue p
  else if y.flushed then ({ st := spFlushed }, s.setQueue p q { y with flushed := false })
  else match y.items with
    | [] => ({ st := spEmpty }, s)
    | .marker :: rest =>
      let (c, s) := s.splGive p y.home ((y.mark.map markerCell).getD 0) e
      (⟨.ok, st, 7, c⟩, ((s.setQueue p q { y with items := rest, mark := none }).splEcc p e).splSync p q)
    | .cells [] _ :: rest => ({ st := spEmpty }, s.setQueue p q { y with items := rest })
    | .cells (c :: cs) mid :: rest =>
      let items := if cs.isEmpty then rest else .cells cs true :: rest
      let (v, s) := s.splGive p (some c.no) c.data e
      let s := (s.setQueue p q { y with items := items }).setCells p q (s.splCells p q - 1)
      (⟨.ok, st, bit (!mid) + 2 * bit cs.isEmpty, v⟩, (s.splEcc p e).splSync p q)

/-- A verdict on a popped cell that no command brings: a free value. -/
def State.splSeen (s : State) : Ecc × State :=
  let (r, s) := s.draw 2
  (if r = 1 then .corrected else if r = 2 then .fatal else .clean, s)

/-- A flush of one queue (R206, R207). A flush of a disabled queue finds nothing. -/
def State.splFlush (s : State) (p q : Nat) : State :=
  let y := (s.spl p).queue q
  let mid := match y.items with
    | .cells _ m :: _ => m
    | _ => false
  let s := s.setSpl p { s.spl p with opens := (s.spl p).opens.filter fun o => o.queue != q }
  let s := s.setQueue p q { y with items := [], mark := none, flushed := y.flushed || mid }
  (s.setCells p q 0).splSync p q

/-- SPL_Q_CFG of a queue has applied, its EN having been `was`: an enable takes the marker cell or
is refused, a disable flushes the queue and returns the marker cell; a FLUSHED that it owes stays
owed to the next pop that the queue answers (R202, R207, R208). -/
def State.splApplied (s : State) (p q : Nat) (was : Bool) : State :=
  let pg := pgSpl p
  let free := s.rd pg SPL_POOL_FREE.FREE
  let is := s.on pg (SPL_Q_CFG.EN.nth q)
  if is && !was then
    if free = 0 then (s.wrCov pg (SPL_Q_CFG.EN.nth q) 0).ev pg 11
    else
      let (k, s) := s.splPick p
      let s := s.setQueue p q { (s.spl p).queue q with home := some k }
      (s.setFree p (free - 1)).wr pg (SPL_Q_PEAK.CELLS.nth q) 0
  else if was && !is then
    let s := s.splFlush p q
    let s := s.setQueue p q { flushed := ((s.spl p).queue q).flushed }
    (s.setFree p (s.rd pg SPL_POOL_FREE.FREE + 1)).splSync p q
  else s

/-! ### Operations over the network (R200) -/

/-- The panel and the queue that a handle names. -/
def handlePanel (h : Nat) : Nat := h % 2 ^ 13 / 2 ^ 11 + 1
def handleQueue (h : Nat) : Nat := h % 2 ^ 11

/-- How the network and the manager's page answer before the operation (R23, R210, R316). -/
def State.splCheck (s : State) (h init : Nat) : Option (SpRes × State) :=
  let p := handlePanel h
  if (s.die p).lost then some ({ status := .dieDown, st := spDieDown }, s.synth p .dieDown)
  else match s.way init p 6 with
    | some r => some ({ status := r.status, st := if r.status = .dieDown then spDieDown else 0 }, s.countRoute r)
    | none => (s.pageCheck (pgSpl p) 0x100).map fun e => ({ status := e }, s)

def State.spoolPush (s : State) (h init dev cell : Nat) (first last : Bool) : SpRes × State :=
  match s.splCheck h init with
  | some r => r
  | none => s.splPush (handlePanel h) (handleQueue h) init dev cell first last

def State.spoolPop (s : State) (h init : Nat) (e : Ecc) : SpRes × State :=
  match s.splCheck h init with
  | some r => r
  | none => s.splPop (handlePanel h) (handleQueue h) e

def State.spoolFlush (s : State) (h init : Nat) : SpRes × State :=
  match s.splCheck h init with
  | some r => r
  | none => ({}, s.splFlush (handlePanel h) (handleQueue h))

/-- A spool operation as the network carries it: the handle in ADDR, FIRST and LAST in SPF (R309, R310). -/
def spNet (op h : Nat) : NetReq := { op := op, die := handlePanel h, rtr := 6, addr := h % 2 ^ 13 }
def spPush (h dev cell : Nat) (first last : Bool) : NetReq :=
  { spNet 3 h with data := cell, spf := bit first + 2 * bit last, sdev := dev }
def spPop (h : Nat) : NetReq := spNet 4 h
def spFlush (h : Nat) : NetReq := spNet 5 h

/-- The tables send an operation in a circle, so that it never reaches its manager (R315). -/
def State.spCircles (s : State) (init h : Nat) : Bool := s.circles init (handlePanel h) 6

/-- A spool operation is issued: it holds a tag to its answer (R312), and waits while a table switch holds its
initiator (R315). -/
def State.spIssue (s : State) (init : Nat) (q : NetReq) : Admit × State :=
  if s.circles init q.die q.rtr then (.wait, s) else s.send init [] q

/-- The response of a spool operation reaches the initiator; it counts 64 bytes (R313). -/
def State.spBack (s : State) (init : Nat) (q : NetReq) (r : SpRes) : State :=
  s.answered init q.is r.status.code r.st r.spf
    (if q.op = 4 ∧ r.status = .ok ∧ (r.st = spOk ∨ r.st = spCellErr) then some (r.cell % 2 ^ 512) else none) 64

/-- The answer of a spool operation goes to the bus. -/
def State.spAnswer (r : SpRes × State) : State :=
  { r.2 with resp := ⟨r.1.status, r.1.cell, false, true, r.1.st, r.1.spf⟩ }

/-- A spool operation of an initiator, from its issue to its answer. -/
def State.spOp (s : State) (init : Nat) (q : NetReq) (f : State → SpRes × State) : State :=
  match s.spIssue init q with
  | (.go, s) => let r := f s; State.spAnswer (r.1, r.2.spBack init q r.1)
  | (_, s) => s

def execSpoolPush (h init dev cell : Nat) (first last : Bool) (s : State) :
    Host.Outcome State Fault Refusal :=
  .next (if initListed init then
    s.spOp init (spPush h dev cell first last) (·.spoolPush h init dev cell first last) else s)

def execSpoolPop (h init : Nat) (e : Ecc) (s : State) : Host.Outcome State Fault Refusal :=
  .next (if initListed init then s.spOp init (spPop h) (·.spoolPop h init e) else s)

def execSpoolFlush (h init : Nat) (s : State) : Host.Outcome State Fault Refusal :=
  .next (if initListed init then s.spOp init (spFlush h) (·.spoolFlush h init) else s)

/-! ### The host port (SPL_OP) -/

/-- SPL_OP_RES reports an outcome. -/
def State.splReport (s : State) (p : Nat) (r : SpRes) : State :=
  let pg := pgSpl p
  let s := (s.wr pg SPL_OP_RES.STATUS r.st).wr pg SPL_OP_RES.FIRST (r.spf % 2)
  (s.wr pg SPL_OP_RES.LAST (r.spf / 2 % 2)).wr pg SPL_OP_RES.MARKER (r.spf / 4 % 2)

/-- SPL_CELL0–15 as one cell. -/
def State.portCell (s : State) (p : Nat) : Nat :=
  (List.range 16).foldl (fun n k => n + s.rd (pgSpl p) (SPL_CELLk.DATA.nth k) * 2 ^ (32 * k)) 0

def State.setPortCell (s : State) (p c : Nat) : State :=
  (List.range 16).foldl
    (fun s k => s.wr (pgSpl p) (SPL_CELLk.DATA.nth k) (bitsOf c (32 * k + 31) (32 * k))) s

/-- An operation whose handle names another panel is forwarded there from its manager's router, as a request of the
initiator that wrote SPL_OP: `none` where it waits for a tag or a table switch, or circles; else what answers it
on its way, or its arrival (R200, R312, R316). -/
def State.spForward (s : State) (p : Nat) (q : NetReq) (init : Nat) : Option (SpRes ⊕ Unit) × State :=
  let w := s.walk 80 p none (rowCol p 6) (s.header init q)
  if w = .circles then (none, s)
  else match s.send init [] q with
    | (.go, s) =>
      let d := q.die
      if (s.die d).lost then (some (.inl { status := .dieDown, st := spDieDown }), s.synth d .dieDown)
      else match w.stop with
        | some r => (some (.inl { status := r.status, st := if r.status = .dieDown then spDieDown else 0 }), s.countRoute r)
        | none => match s.pageCheck (pgSpl d) 0x100 with
          | some e => (some (.inl { status := e }), s)
          | none => (some (.inr ()), s)
    | (_, s) => (none, s)

/-- A bus error of another panel's
manager other than DIE_DOWN has no code in SPL_OP_RES, so STATUS is then a free value. -/
def State.opReport (r : SpRes × State) (p : Nat) : State :=
  if r.1.status = .ok ∨ r.1.status = .dieDown then r.2.splReport p r.1
  else let (v, s) := r.2.draw 3; s.splReport p { r.1 with st := v }

/-- An operation of the host port, at its own manager or forwarded; the producer is the initiator that wrote SPL_OP.
DESIGN CHOICE: an operation at the page's own manager is no packet and counts none; one that waits for a tag is tried
again with the page's next operation and at each budget-period boundary. -/
def State.splHost (s : State) (p : Nat) (o : HostOp) (e : Ecc) : Option SpRes × State :=
  let go (s : State) : SpRes × State :=
    if o.push then s.splPush (handlePanel o.h) (handleQueue o.h) o.init o.dev o.cell o.first o.last
    else s.splPop (handlePanel o.h) (handleQueue o.h) e
  let q := if o.push then spPush o.h o.dev o.cell o.first o.last else spPop o.h
  if handlePanel o.h = p then (let (r, s) := go s; (some r, s))
  else match s.spForward p q o.init with
    | (none, s) => (none, s)
    | (some (.inl r), s) => (some r, s.spBack o.init q r)
    | (some (.inr _), s) => let (r, s) := go s; (some r, s.spBack o.init q r)

/-- An operation of the host port is performed, or stalls at its issue. -/
def State.splDo (s : State) (p : Nat) (o : HostOp) (e : Ecc) : State :=
  match s.splHost p o e with
  | (none, s) => s.setSpl p { s.spl p with host := (s.spl p).host ++ [o] }
  | (some r, s) =>
    let s := State.opReport (r, s) p
    if !o.push ∧ r.status = .ok ∧ (r.st = spOk ∨ r.st = spCellErr) then s.setPortCell p r.cell else s

/-- The operations that stalled at their issue are tried again, in order. -/
def State.splRetry (s : State) (p : Nat) : State :=
  (s.spl p).host.foldl (fun s o => let (e, s) := s.splSeen; s.splDo p o e) (s.setSpl p { s.spl p with host := [] })

/-- SPL_OP.OP = 1: a push of SPL_CELL0–15. -/
def State.splOpPush (s : State) (p h init dev : Nat) (first last : Bool) : State :=
  (s.splRetry p).splDo p ⟨true, h, init, dev, s.portCell p, first, last⟩ .clean

/-- SPL_OP.OP = 2: a popped cell fills SPL_CELL0–15. -/
def State.splOpPop (s : State) (p h init : Nat) (e : Ecc) : State :=
  (s.splRetry p).splDo p ⟨false, h, init, 0, 0, false, false⟩ e

def execSplOpPush (p h init dev : Nat) (first last : Bool) (s : State) :
    Host.Outcome State Fault Refusal :=
  .next (if panelOk p then s.guarded (pgSpl p) 0x140 (·.splOpPush p h init dev first last)
    else s.answer .decode)

def execSplOpPop (p h init : Nat) (e : Ecc) (s : State) : Host.Outcome State Fault Refusal :=
  .next (if panelOk p then s.guarded (pgSpl p) 0x140 (·.splOpPop p h init e) else s.answer .decode)

end Sys2Proof.Machine
end

