-- ==== Sys2Proof/Machine/Catch.lean ====
section
/-! DEFINITION. Catch units and fail maps (chapter 7). -/

namespace Sys2Proof.Machine

def State.cat (s : State) (p : Nat) : CatX := s.cats.getD p {}
def State.setCat (s : State) (p : Nat) (x : CatX) : State := { s with cats := s.cats.setD p {} x }

/-- The governor initiator of a catch unit (R186). -/
def catInit (p : Nat) : Nat := 0x1F + p

/-! ### Site registers -/

/-- A site's status bit sets. -/
def State.siteSet (s : State) (p : Nat) (f : Fld) (site : Nat) : State := s.wr (pgCat p) (f.nth site) 1

/-- Bit `site` of a LO and HI pair of masks. -/
def State.pairBit (s : State) (pg : Nat) (lo hi : Fld) (site : Nat) (v : Bool) : State :=
  if site < 32 then s.wr pg lo (maskSet (s.rd pg lo) site v)
  else s.wr pg hi (maskSet (s.rd pg hi) (site - 32) v)

/-- A site is masked, by hardware or by a write (R179). -/
def State.maskSite (s : State) (p site : Nat) : State :=
  let pg := pgCat p
  ((s.pairBit pg CAT_MASK_LO.MASK CAT_MASK_HI.MASK site true).siteSet p CAT_S_STAT.MASKED site).ev pg 13

/-- A site's mask is removed; the removal reaches the banks 32 G later (R179). -/
def State.unmaskSite (s : State) (p site : Nat) : State :=
  let s := if maskBit (s.rdPair (pgCat p) CAT_MASK_LO.MASK CAT_MASK_HI.MASK) site then
    s.setCat p { s.cat p with unmaskAt := (s.cat p).unmaskAt.setD site 0 s.now } else s
  (s.pairBit (pgCat p) CAT_MASK_LO.MASK CAT_MASK_HI.MASK site false).wr (pgCat p)
    (CAT_S_STAT.MASKED.nth site) 0

/-- The sites that a write of half a mask names. -/
def sitesOf (hi : Bool) (v : Nat) : List Nat :=
  ((List.range 32).filter (maskBit v ·)).map (· + if hi then 32 else 0)

def State.catMaskSet (s : State) (p : Nat) (hi : Bool) (v : Nat) : State :=
  (sitesOf hi v).foldl (fun s site => s.maskSite p site) s

def State.catMaskClear (s : State) (p : Nat) (hi : Bool) (v : Nat) : State :=
  (sitesOf hi v).foldl (fun s site => s.unmaskSite p site) s

def execCatMaskSet (p : Nat) (hi : Bool) (v : Nat) (s : State) : Host.Outcome State Fault Refusal :=
  .next (if panelOk p then s.guarded (pgCat p) 0x70 (·.catMaskSet p hi v) else s.answer .decode)

def execCatMaskClear (p : Nat) (hi : Bool) (v : Nat) (s : State) :
    Host.Outcome State Fault Refusal :=
  .next (if panelOk p then s.guarded (pgCat p) 0x68 (·.catMaskClear p hi v) else s.answer .decode)

/-! ### Map descriptors and tally formats (R183, R184, R192, R193) -/

/-- The map check of R183 on a site's applied registers. -/
def State.mapBad (s : State) (p i : Nat) : Bool :=
  let f (x : Fld) := s.rd (pgCat p) (x.nth i)
  let sum := f CAT_S_MAP_FMT.XB + f CAT_S_MAP_FMT.YB + f CAT_S_MAP_FMT.ZB + f CAT_S_MAP_FMT.CB
  let base := f CAT_S_MAP_BASE_LO.BASE + 2 ^ 32 * f CAT_S_MAP_BASE_HI.BASE
  let size := if sum < 9 then 64 else 2 ^ (sum - 3)
  f CAT_S_MAP_FMT.ORDER == 3 || decide (45 < sum) || base % 64 != 0
    || decide (0x040000000000 < base + size)
    || decide (24 < f CAT_S_MAP_FMT.XB) || decide (24 < f CAT_S_MAP_FMT.YB)
    || decide (8 < f CAT_S_MAP_FMT.ZB) || decide (6 < f CAT_S_MAP_FMT.CB)
    || decide (23 < f CAT_S_MAP_FMT.XSH) || decide (23 < f CAT_S_MAP_FMT.YSH)

/-- The tally check of R193. DESIGN CHOICE: LB 7 and TZB 9 to 15, which no setting of the map has, fail it
beside the rule's four conditions. -/
def State.tallyBad (s : State) (p i : Nat) : Bool :=
  let f (x : Fld) := s.rd (pgCat p) (x.nth i)
  let rb := f CAT_S_TALLY.TZB + f CAT_S_TALLY.RB
  let cb := f CAT_S_TALLY.TZB + f CAT_S_TALLY.TCB + f CAT_S_TALLY.LB
  !(decide (rb ≤ 20) && decide (cb ≤ 20) && decide (f CAT_S_TROW.BASE + 2 ^ rb ≤ 2 ^ 20)
    && decide (f CAT_S_TCOL.BASE + 2 ^ cb ≤ 2 ^ 20)
    && decide (f CAT_S_TALLY.LB ≤ 6) && decide (f CAT_S_TALLY.TZB ≤ 8))

/-- A pending set of the page has applied: every site in use is checked (R183, R193). -/
def State.catApplied (s : State) (p : Nat) : State :=
  let pg := pgCat p
  (List.range 64).foldl (fun s i =>
    let bad := (s.on pg (CAT_S_CFG.MAP_EN.nth i) && s.mapBad p i)
      || (s.on pg (CAT_S_CFG.TALLY_EN.nth i) && s.tallyBad p i)
    let s := s.setCat p { s.cat p with bad := maskSet (s.cat p).bad i bad }
    if bad then (s.siteSet p CAT_S_STAT.BAD_DESC i).ev pg 17 else s) s

/-- The index of a map bit (R184). -/
def mapIndex (order xb yb zb cb xf yf zf cf : Nat) : Nat :=
  if order = 0 then ((zf * 2 ^ yb + yf) * 2 ^ xb + xf) * 2 ^ cb + cf
  else if order = 1 then ((zf * 2 ^ xb + xf) * 2 ^ yb + yf) * 2 ^ cb + cf
  else ((cf * 2 ^ zb + zf) * 2 ^ yb + yf) * 2 ^ xb + xf

/-- The line and the bit in the line of a failing lane (R184). -/
def State.mapBit (s : State) (p i x y z c : Nat) : Nat × Nat :=
  let f (r : Fld) := s.rd (pgCat p) (r.nth i)
  let xb := f CAT_S_MAP_FMT.XB
  let yb := f CAT_S_MAP_FMT.YB
  let zb := f CAT_S_MAP_FMT.ZB
  let cb := f CAT_S_MAP_FMT.CB
  let idx := mapIndex (f CAT_S_MAP_FMT.ORDER) xb yb zb cb
    (x / 2 ^ f CAT_S_MAP_FMT.XSH % 2 ^ xb) (y / 2 ^ f CAT_S_MAP_FMT.YSH % 2 ^ yb) (z % 2 ^ zb)
    (c % 2 ^ cb)
  let base := f CAT_S_MAP_BASE_LO.BASE + 2 ^ 32 * f CAT_S_MAP_BASE_HI.BASE
  ((base + idx / 8) / 64 * 64, idx % 512)

/-! ### The cache (R185, R187) -/

/-- The occupancy registers, OVERFLOW_RISK and its level follow the allocated lines. -/
def State.cacheSync (s : State) (p : Nat) : State :=
  let pg := pgCat p
  let n := (s.cat p).lines.length
  let s := (s.wr pg CAT_CACHE_STAT.LINES n).wr pg CAT_CACHE_PEAK.LINES
    (max n (s.rd pg CAT_CACHE_PEAK.LINES))
  let was := maskBit (s.rd pg PAGE_LEVEL.BLOCK) 0
  let is := decide (s.rd pg CAT_CACHE_CFG.RISK * 256 < n)
  let s := s.wr pg PAGE_LEVEL.BLOCK (maskSet (s.rd pg PAGE_LEVEL.BLOCK) 0 is)
  if is && !was then s.ev pg 9 else s

/-- The site enters log-only mode at a dropped bit (R187). -/
def State.logOnly (s : State) (p i n : Nat) : State :=
  let pg := pgCat p
  let s := s.siteSet p CAT_S_STAT.LOG_ONLY i
  let s := s.pairBit pg CAT_LOGONLY_LO.SITES CAT_LOGONLY_HI.SITES i true
  (s.wrPair pg (CAT_S_LOST_CYC_LO.CYCLE.nth i) (CAT_S_LOST_CYC_HI.CYCLE.nth i) n).ev pg 10

/-- A line of the cache takes a value; its slot of the cache memory shows its bits. -/
def CatX.putLine (x : CatX) (a : Nat) (l : CatLine) : CatX :=
  { x with lines := x.lines.put a l, store := x.store.put l.no (l.bits ||| l.sent) }

/-- The slot of a line that is allocated: which free one is open. -/
def State.catPick (s : State) (p : Nat) : Nat × State :=
  let (r, s) := s.draw 16
  (pickFree 65536 r ((s.cat p).lines.map (·.2.no)), s)

/-- What slot `k` of the cache memory holds. -/
def State.cacheSlot (s : State) (p k : Nat) : Nat :=
  ((s.cat p).store.find k).getD (Config.restCell 1 p (s.cat p).life k % 2 ^ 512)

/-- One map bit goes to its line, which is allocated where it is not held; with every line
allocated the bit is dropped. -/
def State.placeBit (s : State) (p i n line b : Nat) : State :=
  let put (s : State) (l : CatLine) : State :=
    let x := s.cat p
    let l := { l with bits := l.bits ||| 2 ^ b, used := x.tick, site := i }
    (s.setCat p { x.putLine line l with tick := x.tick + 1 }).cacheSync p
  match (s.cat p).lines.find line with
  | some l => put s l
  | none =>
    if (s.cat p).lines.length < 65536 then let (k, s) := s.catPick p; put s { no := k }
    else s.logOnly p i n

/-! ### A vector (R174–R182, R192, R195) -/

/-- What a vector carries to the unit: of a gang, the leader's bank (R175). -/
structure CatVec where
  n : Nat
  tag : VecTag
  bank : Nat
  time : Nat
  run : Nat
  deriving DecidableEq, Repr

/-- The failing lanes of a site among failing channels. -/
def State.siteLanes (s : State) (p i : Nat) (fails : List Nat) : Nat :=
  fails.foldl (fun m n =>
    if s.on (pgCat p) (CAT_CHMAPn.EN.nth n) && s.rd (pgCat p) (CAT_CHMAPn.SITE.nth n) == i then
      maskSet m (s.rd (pgCat p) (CAT_CHMAPn.LANE.nth n)) true else m) 0

def lanesOf (m : Nat) : List Nat := (List.range 64).filter (maskBit m ·)

/-- A log record (R182). -/
def logRecord (v : CatVec) (site lanes : Nat) (first lost : Bool) : Nat :=
  v.n % 2 ^ 48 + 2 ^ 48 * site + 2 ^ 54 * v.bank + 2 ^ 56 * bit v.tag.suspect + 2 ^ 57 * bit first
    + 2 ^ 58 * bit lost + 2 ^ 64 * (v.tag.vaddr % 2 ^ 26) + 2 ^ 96 * (v.tag.x % 2 ^ 24)
    + 2 ^ 120 * (v.tag.y % 2 ^ 24) + 2 ^ 144 * (v.tag.z % 2 ^ 8)
    + 2 ^ 152 * (lanesOf lanes).length + 2 ^ 160 * lanes + 2 ^ 224 * (v.time % 2 ^ 32)

/-- The first-fail record of a site (R180). -/
def State.firstFail (s : State) (p i lanes : Nat) (v : CatVec) : State :=
  let pg := pgCat p
  let n (f : Fld) := f.nth i
  let s := s.siteSet p CAT_S_STAT.FAILED i
  let s := s.wrPair pg (n CAT_S_FF_CYC_LO.CYCLE) (n CAT_S_FF_CYC_HI.CYCLE) (v.n % 2 ^ 48)
  let s := (s.wr pg (n CAT_S_FF_VADDR.VADDR) v.tag.vaddr).wr pg (n CAT_S_FF_VADDR.BANK) v.bank
  let s := (s.wr pg (n CAT_S_FF_VADDR.SUSPECT) (bit v.tag.suspect)).wr pg (n CAT_S_FF_VADDR.VALID) 1
  let s := ((s.wr pg (n CAT_S_FF_X.VALUE) v.tag.x).wr pg (n CAT_S_FF_Y.VALUE) v.tag.y).wr pg
    (n CAT_S_FF_Z.VALUE) (v.tag.z % 2 ^ 8)
  let s := s.wrPair pg (n CAT_S_FF_LANES_LO.LANES) (n CAT_S_FF_LANES_HI.LANES) lanes
  (s.wrPair pg (n CAT_S_FF_TIME_LO.TIME) (n CAT_S_FF_TIME_HI.TIME) v.time).ev pg 8

/-- The map takes no bits of a site. -/
def State.mapOff (s : State) (p i : Nat) : Bool :=
  !s.on (pgCat p) (CAT_S_CFG.MAP_EN.nth i) || maskBit (s.cat p).bad i
    || s.on (pgCat p) (CAT_S_STAT.LOG_ONLY.nth i)

/-- The log records of a unit go to their spools, in order, each under a tag (R312) and while no table switch
holds the unit (R315). -/
def State.catLogs (s : State) (p : Nat) : Nat → State
  | 0 => s
  | n + 1 =>
    match (s.cat p).logq with
    | [] => s
    | (h, cell) :: rest =>
      match s.spIssue (catInit p) (spPush h 0 cell true true) with
      | (.go, s) =>
        let (r, s) := s.spoolPush h (catInit p) 0 cell true true
        ((s.spBack (catInit p) (spPush h 0 cell true true) r).setCat p { s.cat p with logq := rest }).catLogs p n
      | (_, s) => s

/-- The log record of a failing vector, by the site's policy (R181). A record that the spool does
not take is counted there only. -/
def State.logVector (s : State) (p i lanes : Nat) (first : Bool) (v : CatVec) : State :=
  let pg := pgCat p
  let log := s.rd pg (CAT_S_CFG.LOG.nth i)
  let mx := s.rd pg (CAT_S_LIMITS.LOG_MAX.nth i)
  let done := (s.cat p).logged.getD i 0
  let push (s : State) : State :=
    (s.setCat p { s.cat p with
      logq := (s.cat p).logq ++ [(s.rd pg (CAT_S_CFG.SPOOL.nth i), logRecord v i lanes first (s.mapOff p i))] }).catLogs p
        ((s.cat p).logq.length + 1)
  if log = 2 then push s
  else if log = 1 ∧ done < mx then
    let s := push s
    let s := s.setCat p { s.cat p with logged := (s.cat p).logged.setD i 0 (done + 1) }
    if done + 1 = mx then s.siteSet p CAT_S_STAT.LOG_FULL i else s
  else s

/-- The map bits of a failing vector, lowest lane first, until one is dropped (R184, R187). -/
def State.mapVector (s : State) (p i lanes : Nat) (v : CatVec) : State :=
  (lanesOf lanes).foldl (fun s c =>
    if s.mapOff p i then s
    else
      let (line, b) := s.mapBit p i v.tag.x v.tag.y v.tag.z c
      s.placeBit p i v.n line b) s

/-- Tally counters from `b` up to `e` − 1 are zeroed. -/
def State.zeroTally (s : State) (p b e : Nat) : State :=
  s.setCat p { s.cat p with tally := (s.cat p).tally.clear b e }

/-- The next counter that a CLEAR_TALLY zeroes: it zeroes eight at each multiple of 8 G while the unit
runs (R66, R194). -/
def State.tallyNext (s : State) (p b e : Nat) : Nat :=
  if s.running (pgCat p) then min e (b + 8 * (s.now / 8 - (s.cat p).paceAt / 8)) else b

/-- A counter of the tally memory as it stands now. -/
def State.tallyCell (s : State) (p i : Nat) : Nat :=
  match (s.cat p).op with
  | some (.clearTally b e) =>
    if b ≤ i ∧ i < s.tallyNext p b e then 0 else (s.cat p).tally.getD i 0
  | _ => (s.cat p).tally.getD i 0

/-- What a CLEAR_TALLY has done until now is put into the memory: its clock is about to stop or to
start, or a counter is about to change. -/
def State.catPace (s : State) (pg : Nat) : State :=
  let p := pg / 512
  match (if pageKind pg == some .cat then (s.cat p).op else none) with
  | some (.clearTally b e) =>
    let k := s.tallyNext p b e
    let s := s.zeroTally p b k
    s.setCat p { s.cat p with op := some (.clearTally k e), paceAt := s.now }
  | _ => s

/-- A tally counter takes an amount and saturates (R193). -/
def State.tallyAdd (s : State) (p i k n : Nat) : State :=
  let s := s.catPace (pgCat p)
  let x := s.cat p
  let v := x.tally.getD k 0 + n
  let s := s.setCat p { x with tally := x.tally.setD k 0 (min v 65535) }
  if 65535 < v then (s.siteSet p CAT_S_STAT.TSAT i).ev (pgCat p) 12 else s

/-- The tallies of a failing vector (R192). -/
def State.tallyVector (s : State) (p i lanes : Nat) (v : CatVec) : State :=
  if !s.on (pgCat p) (CAT_S_CFG.TALLY_EN.nth i) || maskBit (s.cat p).bad i then s
  else
    let f (r : Fld) := s.rd (pgCat p) (r.nth i)
    let byX := f CAT_S_TALLY.ROW_AX == 0
    let r := if byX then v.tag.x else v.tag.y
    let q := if byX then v.tag.y else v.tag.x
    let zt := v.tag.z % 2 ^ f CAT_S_TALLY.TZB
    let ls := lanesOf lanes
    let rb := f CAT_S_TALLY.RB
    let s := s.tallyAdd p i (f CAT_S_TROW.BASE + zt * 2 ^ rb + r % 2 ^ rb) ls.length
    let tcb := f CAT_S_TALLY.TCB
    let lb := f CAT_S_TALLY.LB
    ls.foldl (fun s c => s.tallyAdd p i
      (f CAT_S_TCOL.BASE + (zt * 2 ^ tcb + q % 2 ^ tcb) * 2 ^ lb + c % 2 ^ lb) 1) s

/-- A site that the vector fails, in the order of R176. -/
def State.siteFails (s : State) (p i lanes : Nat) (v : CatVec) : State :=
  let pg := pgCat p
  let s := s.bump pg (CAT_S_NFAIL.COUNT.nth i) 1
  let first := !s.on pg (CAT_S_STAT.FAILED.nth i)
  let s := if first then s.firstFail p i lanes v else s
  let mode := s.rd pg (CAT_S_CFG.MASK_MODE.nth i)
  let hit := (mode == 1 && first)
    || (mode == 2 && s.rd pg (CAT_S_NFAIL.COUNT.nth i) == max 1 (s.rd pg (CAT_S_LIMITS.MASK_AT.nth i)))
  let s := if hit then s.maskSite p i else s
  ((s.logVector p i lanes first v).mapVector p i lanes v).tallyVector p i lanes v

/-- The channel numbers 16s + k of the banks in a vector, and of the failing ones. -/
def vecChans (got : List (Nat × Nat)) (fails : Bool) : List Nat :=
  got.flatMap fun g => ((List.range 16).filter fun k => !fails || maskBit g.2 k).map fun k =>
    16 * (g.1 % 4) + k

/-- The unit processes one vector, whole (R176, R177, R195). -/
def State.catchVector (s : State) (p : Nat) (got : List (Nat × Nat)) (v : CatVec) : State :=
  let pg := pgCat p
  if !s.running pg then
    (s.bump pg CAT_VEC_LOST.COUNT 1).setCat p { s.cat p with lost := true }
  else
    let fails := vecChans got true
    let s := fails.foldl (fun s n => s.wrPair pg (CAT_FCNTn_LO.COUNT.nth n) (CAT_FCNTn_HI.COUNT.nth n)
      (satAdd 48 (s.rdPair pg (CAT_FCNTn_LO.COUNT.nth n) (CAT_FCNTn_HI.COUNT.nth n)) 1)) s
    let touched := (vecChans got false).filter fun n => s.on pg (CAT_CHMAPn.EN.nth n)
    let sites := (List.range 64).filter fun i =>
      touched.any fun n => s.rd pg (CAT_CHMAPn.SITE.nth n) == i
    let s := if v.tag.suspect then s.ev pg 16 else s
    sites.foldl (fun s i =>
      let s := if v.tag.suspect then s.siteSet p CAT_S_STAT.SUSPECT i else s
      let lanes := s.siteLanes p i fails
      if lanes = 0 then s else s.siteFails p i lanes v) s

/-- A bank's part of a vector arrives; the unit processes the vector once every member of the gang
has delivered its part (R175). -/
def State.catchPart (s : State) (p b fails : Nat) (members : List Nat) (v : CatVec) : State :=
  let x := s.cat p
  let l := members.headD b
  let own (g : GangVec) : Bool := g.leader == l && g.run == v.run && g.n == v.n
  let g := (x.gang.find? own).getD ⟨l, v.run, v.n, []⟩
  let rest := x.gang.filter fun g => !own g
  let got := g.got ++ [(b, fails)]
  if members.length ≤ got.length then (s.setCat p { x with gang := rest }).catchVector p got v
  else s.setCat p { x with gang := rest ++ [{ g with got := got }] }

/-! ### Write-back and merges (R185–R188) -/

/-- The number of a budget period. -/
def State.period (s : State) : Nat := s.now / 16384

/-- The lines that a flush or a fence wants merged. -/
def State.wantedLines (s : State) (p : Nat) : List Nat :=
  let fl := match (s.cat p).op with
    | some (.flush ls) => ls.map (·.1)
    | _ => []
  fl ++ (List.range 16).flatMap fun r => ((s.lin r).catOut.filter fun e => e.1 == p).flatMap fun e => e.2.map (·.1)

/-- The line that is written back next: the least recently updated one that may go (R185). A line
whose merge was answered LINE_EXHAUSTED goes again in a later period (R188). -/
def State.nextMerge (s : State) (p : Nat) : Option (Nat × CatLine) :=
  let x := s.cat p
  let full := decide (s.rd (pgCat p) CAT_CACHE_CFG.WB * 256 < x.lines.length)
  let want := s.wantedLines p
  let may := x.lines.filter fun e => !e.2.out && e.2.bits != 0 && e.2.retry != some s.period
    && (full || e.2.retry.isSome || want.contains e.1)
  may.foldl (fun b e => match b with
    | none => some e
    | some c => if e.2.used < c.2.used then some e else some c) none

/-- A line of the cache is freed or changed. -/
def State.setLine (s : State) (p a : Nat) (l : Option CatLine) : State :=
  let x := s.cat p
  (s.setCat p (match l with
    | none => { x with lines := x.lines.del a }
    | some l => x.putLine a l)).cacheSync p

/-- A flush ends: DONE, and the unit is idle (R189). -/
def State.catEnd (s : State) (p : Nat) : State :=
  let pg := pgCat p
  let s := (s.setCat p { s.cat p with op := none }).wr pg PAGE_LEVEL.BUSY 0
  s.wr pg PAGE_LEVEL.BLOCK (maskSet (s.rd pg PAGE_LEVEL.BLOCK) 1 false)

/-- Bits of a line that fences wait for are no longer held back by them (R299). -/
def State.fenceMerged (s : State) (p a bits : Nat) : State :=
  (List.range 16).foldl (fun s r =>
    let x := s.lin r
    s.setLin r { x with catOut := x.catOut.map fun e =>
      if e.1 = p then (p, (e.2.map fun l => if l.1 = a then (a, l.2 &&& (2 ^ 512 - 1 - bits)) else l).filter
        fun l => l.2 != 0) else e }) s

/-- The bits of a line's merge are in DRAM or dropped: flushes and fences forget them. -/
def State.flushed (s : State) (p a bits : Nat) (all : Bool) : State :=
  let s := s.fenceMerged p a (if all then 2 ^ 512 - 1 else bits)
  match (s.cat p).op with
  | some (.flush ls) =>
    let ls := (ls.map fun e => if e.1 == a then (a, if all then 0 else e.2 &&& (2 ^ 512 - 1 - bits))
      else e).filter fun e => e.2 != 0
    let s := (s.setCat p { s.cat p with op := some (.flush ls) }).wr (pgCat p) CAT_CMD_STAT.LEFT ls.length
    if ls.isEmpty then (s.catEnd p).evDone (pgCat p) else s
  | _ => s

/-- A merge failed: the line's bits are dropped and the site that last updated it is marked
(R188). -/
def State.mergeFails (s : State) (p a site : Nat) : State :=
  let s := (s.setLine p a none).siteSet p CAT_S_STAT.MAP_ERR site
  ((s.bump (pgCat p) (CAT_S_STAT.MAP_ERRS.nth site) 1).ev (pgCat p) 11).flushed p a 0 true

/-- CACHE_WRITEBACK: the unit issues a merge under its budget (R185, R186). -/
def State.writeback (s : State) (p : Nat) : State :=
  let s := if s.running (pgCat p) then s.catLogs p (s.cat p).logq.length else s
  if !s.running (pgCat p) then s
  else match s.nextMerge p with
    | none => s
    | some (a, l) =>
      match s.memSend ⟨catInit p, 0, false, a, false⟩ (.merge l.bits) 64 with
      | (.go, s) =>
        let s := s.setLine p a (some { l with out := true, sent := l.bits, bits := 0 })
        s.setCat p { s.cat p with flight := (s.cat p).flight ++ [(a, l.bits, false)] }
      | (.wait, s) => s
      | (.noBudget, s) => s.mergeFails p a l.site

def execCacheWriteback (p : Nat) (s : State) : Host.Outcome State Fault Refusal :=
  .next (if panelOk p then s.writeback p else s)

/-- What the unit does with a merge's response (R185, R188). DEDUCED from the worked example of R299: a line
that it holds after LINE_EXHAUSTED holds up no fence, whose end alone lets the line be merged. -/
def State.mergeAcked (s : State) (p a : Nat) (st : BusStatus) : State :=
  match (s.cat p).lines.find a with
  | none => s
  | some l =>
    if !l.out then s
    else if st = .ok then
      (s.setLine p a (if l.bits = 0 then none else
        some { l with out := false, sent := 0, retry := none })).flushed p a l.sent false
    else if st = .lineExhausted then
      (s.setLine p a (some { l with out := false, bits := l.bits ||| l.sent, sent := 0,
                                    retry := some s.period })).fenceMerged p a (2 ^ 512 - 1)
    else s.mergeFails p a l.site

/-- The clock of a page's block may run again: a catch unit takes the answers that waited for it, and
reports that it lost vectors (R56, R196). -/
def State.catWake (s : State) (pg : Nat) : State :=
  let p := pg / 512
  if pageKind pg == some .cat && s.running pg then
    let x := s.cat p
    let s := x.acks.foldl (fun s a => s.mergeAcked p a.1 a.2) (s.setCat p { x with acks := [] })
    if x.lost then (s.ev pg 15).setCat p { s.cat p with lost := false } else s
  else s

/-- MERGE_ACK: the oldest merge that is out reaches DRAM and is answered; the answer waits while the
unit's clock stands (R56). -/
def State.mergeAck (s : State) (p : Nat) : State :=
  match (s.cat p).flight with
  | [] => s
  | (a, bits, gone) :: rest =>
    let q : MemReq := ⟨catInit p, 0, false, a, false⟩
    match s.memWaits q with
    | some w => s.bankHolds w q.init
    | none =>
      let s := s.setCat p { s.cat p with flight := rest }
      let (r, s) := s.memGo q (.merge bits)
      let s := s.memBack q (.merge bits) 64 r
      if gone then s
      else if s.running (pgCat p) then s.mergeAcked p a r.1
      else s.setCat p { s.cat p with acks := (s.cat p).acks ++ [(a, r.1)] }

def execMergeAck (p : Nat) (e : Noise) (s : State) : Host.Outcome State Fault Refusal :=
  .next (if panelOk p then (s.disturb e).mergeAck p else s)

/-! ### Commands (R189, R194) -/

/-- A sequencer of the panel is busy. -/
def State.panelBusy (s : State) (p : Nat) : Bool :=
  (List.range 4).any fun i => s.seqBusy (4 * (p - 1) + i)

/-- A command starts unless one runs, or unless it needs idle sequencers. -/
def State.catStart (s : State) (p : Nat) (quiet : Bool) (op : State → CatOp) : State :=
  let pg := pgCat p
  if (s.cat p).op.isSome then s.ev pg 14
  else if quiet && s.panelBusy p then (s.wr pg CAT_CMD_STAT.STATUS 1).ev pg 14
  else ((s.setCat p { s.cat p with op := some (op s) }).wr pg CAT_CMD_STAT.STATUS 0).wr pg
    PAGE_LEVEL.BUSY 1

/-- FLUSH: every line allocated at the command's acceptance; with none the command is done. -/
def State.catFlush (s : State) (p : Nat) : State :=
  let pg := pgCat p
  let busy := (s.cat p).op.isSome
  let ls := (s.cat p).lines.map fun e => (e.1, e.2.bits ||| e.2.sent)
  let s := s.catStart p false fun _ => .flush ls
  if busy then s
  else
    let s := (s.wr pg CAT_CMD_STAT.LEFT ls.length).wr pg PAGE_LEVEL.BLOCK
      (maskSet (s.rd pg PAGE_LEVEL.BLOCK) 1 true)
    if ls.isEmpty then (s.catEnd p).evDone pg else s

def execFlush (p : Nat) (s : State) : Host.Outcome State Fault Refusal :=
  .next (if panelOk p then s.guarded (pgCat p) 0x40 (·.catFlush p) else s.answer .decode)

def State.catClearSites (s : State) (p : Nat) : State :=
  s.catStart p true fun s =>
    .clearSites (s.rdPair (pgCat p) CAT_CMD_SITES_LO.SITES CAT_CMD_SITES_HI.SITES)

def execClearSites (p : Nat) (s : State) : Host.Outcome State Fault Refusal :=
  .next (if panelOk p then s.guarded (pgCat p) 0x40 (·.catClearSites p) else s.answer .decode)

def State.catClearTally (s : State) (p : Nat) : State :=
  let b := s.rd (pgCat p) CAT_TCLR_BASE.VALUE % 2 ^ 20
  let e := min (b + s.rd (pgCat p) CAT_TCLR_LEN.VALUE) (2 ^ 20)
  let idle := (s.cat p).op.isNone && !s.panelBusy p
  let s := s.catStart p true fun _ => .clearTally b e
  if idle then (s.setCat p { s.cat p with paceAt := s.now }).wr (pgCat p) CAT_CMD_STAT.LEFT b else s

def execClearTally (p : Nat) (s : State) : Host.Outcome State Fault Refusal :=
  .next (if panelOk p then s.guarded (pgCat p) 0x40 (·.catClearTally p) else s.answer .decode)

def State.catClearCounters (s : State) (p : Nat) : State := s.catStart p true fun _ => .clearCounters

def execClearCounters (p : Nat) (s : State) : Host.Outcome State Fault Refusal :=
  .next (if panelOk p then s.guarded (pgCat p) 0x40 (·.catClearCounters p) else s.answer .decode)

/-- A site's status, counts, records, mask and log-only bit return to 0 (R194). -/
def State.clearSite (s : State) (p i : Nat) : State :=
  let pg := pgCat p
  let s := (List.range 14).foldl (fun s k =>
    s.setReg pg (0x3000 + 0x40 * i + 4 * (if k < 2 then k else k + 2)) 0) s
  let s := s.unmaskSite p i
  let s := s.pairBit pg CAT_LOGONLY_LO.SITES CAT_LOGONLY_HI.SITES i false
  s.setCat p { s.cat p with logged := (s.cat p).logged.del i }

/-- What a command that took time has done at its final state. -/
def State.catFinish (s : State) (p : Nat) (op : CatOp) : State :=
  let pg := pgCat p
  let s : State := match op with
    | .flush _ => s
    | .clearSites m => ((List.range 64).filter (maskBit m ·)).foldl (fun s i => s.clearSite p i) s
    | .clearTally b e => (s.zeroTally p b e).wr pg CAT_CMD_STAT.LEFT e
    | .clearCounters =>
      let s := (List.range 64).foldl (fun s n =>
        s.wrPair pg (CAT_FCNTn_LO.COUNT.nth n) (CAT_FCNTn_HI.COUNT.nth n) 0) s
      s.wr pg CAT_CACHE_PEAK.LINES 0
  (s.catEnd p).evDone pg

/-- A CLEAR_TALLY takes the time that its counters need. -/
def State.catTime (s : State) (p : Nat) (op : CatOp) : State :=
  match op with
  | .clearTally b e => { s with now := max s.now ((s.cat p).paceAt / 8 * 8 + ceilTo 8 (e - b)) }
  | _ => s

/-- CAT_CMD_DONE: a clear command reaches its final state; a FLUSH reaches its own with the
acknowledgement of its last merge. -/
def State.catCmdDone (s : State) (p : Nat) : State :=
  match (s.cat p).op with
  | none => s
  | some (.flush _) => s
  | some op => if s.running (pgCat p) then (s.catTime p op).catFinish p op else s

def execCatCmdDone (p : Nat) (s : State) : Host.Outcome State Fault Refusal :=
  .next (if panelOk p then s.catCmdDone p else s)

/-- An abort (R189, R194): a FLUSH leaves its unwritten lines allocated, a CLEAR_TALLY has zeroed the
counters before its next one, the two short commands reach their final state first. -/
def State.catAbort (s : State) (p : Nat) : State :=
  let pg := pgCat p
  match (s.cat p).op with
  | none => s
  | some (.flush _) => ((s.catEnd p).wr pg CAT_CMD_STAT.STATUS 2).evAborted pg
  | some (.clearTally b e) =>
    let k := s.tallyNext p b e
    (((s.zeroTally p b k).wr pg CAT_CMD_STAT.LEFT k).catEnd p |>.wr pg CAT_CMD_STAT.STATUS 2).evAborted pg
  | some op => s.catFinish p op

end Sys2Proof.Machine
end

