-- ==== Sys2Proof/Machine/Prbs.lean ====
section
/-! DEFINITION. The bits of a serial lane: shifting, polarity, and the test patterns that a lane can send and check
(R374, R375, R379). -/

namespace Sys2Proof.Machine

/-! ### Bits of a serial stream, oldest first -/

/-- A pattern generator's history with the newest bit lowest, and its order and taps: PRBS7 is
x^7 + x^6 + 1, PRBS31 x^31 + x^28 + 1 (R379). -/
def prbsOrder (pat : Nat) : Nat := if pat = 1 then 7 else 31
def prbsBit (pat h : Nat) : Bool :=
  if pat = 1 then maskBit h 6 != maskBit h 5 else maskBit h 30 != maskBit h 27

def shiftIn (w h : Nat) (b : Bool) : Nat := (h * 2 + bit b) % 2 ^ w

/-- `n` bits of a pattern, and the history after them. -/
def prbsWord (pat : Nat) : Nat → Nat → Nat × Nat
  | 0, h => (0, h)
  | n + 1, h =>
    let b := prbsBit pat h
    let (w, h) := prbsWord pat n (shiftIn (prbsOrder pat) h b)
    (bit b + 2 * w, h)

/-- The wrong bits among `n` received bits. DESIGN CHOICE: once locked the checker runs on by itself, so
each wrong bit counts once. -/
def chkWord (pat : Nat) : Nat → Nat → ChkX → Nat × ChkX
  | 0, _, x => (0, x)
  | n + 1, w, x =>
    let b := w % 2 == 1
    if x.got < prbsOrder pat then
      chkWord pat n (w / 2) ⟨x.got + 1, shiftIn (prbsOrder pat) x.h b⟩
    else
      let p := prbsBit pat x.h
      let (e, x) := chkWord pat n (w / 2) ⟨x.got, shiftIn (prbsOrder pat) x.h p⟩
      (e + bit (p != b), x)

/-- The word inverted where a lane's polarity is. -/
def polarity (inv : Nat) (n w : Nat) : Nat := if inv = 1 then 2 ^ n - 1 - w % 2 ^ n else w % 2 ^ n

end Sys2Proof.Machine
end

