-- ==== Sys2Proof/Machine/KlfRoute.lean ====
section
/-! DEFINITION. What every block needs of Kelef (chapters 14 and 15): the state of a port's
training, the routing of a packet that this device originates or forwards, what is done with an
undeliverable one, and the egress tags. -/

namespace Sys2Proof.Machine

def State.port (s : State) (p : Nat) : PortX := s.ports.getD p {}
def State.setPort (s : State) (p : Nat) (x : PortX) : State := { s with ports := s.ports.setD p {} x }
def State.modPort (s : State) (p : Nat) (f : PortX → PortX) : State := s.setPort p (f (s.port p))

def State.quad (s : State) (q : Nat) : QuadX := s.quads.getD q {}
def State.setQuad (s : State) (q : Nat) (x : QuadX) : State := { s with quads := s.quads.setD q {} x }
def State.modQuad (s : State) (q : Nat) (f : QuadX → QuadX) : State := s.setQuad q (f (s.quad q))

/-- The state that a quad is really in: DEEP while its domain is not on (R380). -/
def State.quadState (s : State) (q : Nat) : Nat :=
  if s.pageDomain (pgLane q) ≠ 0 then 2 else s.rd (pgLane q) LANE_PWR.STATE

/-- The quad is ACTIVE, and on its way to no other state (R380). -/
def State.quadActive (s : State) (q : Nat) : Bool := s.quadState q == 0 && (s.quad q).move.isNone

/-- The lanes of a quad run: their block runs, and of a Kelef quad before the first judgement, which starts
that block, the receivers are powered (R56, R62, R382, R427). -/
def State.laneRuns (s : State) (q : Nat) : Bool :=
  if q < 16 ∧ !s.tu.everJudged then s.tu.porDone && s.pageDomain (pgLane q) == 0 else s.running (pgLane q)

def State.laneRd (s : State) (q l : Nat) (f : Fld) : Nat := s.rd (pgLane q) (f.nth l)
def State.laneWr (s : State) (q l : Nat) (f : Fld) (v : Nat) : State := s.wr (pgLane q) (f.nth l) v

/-- A port that this device has (R16, R328). -/
def State.portOk (s : State) (p : Nat) : Bool := decide (p < 16) && s.implemented (pgKlf p)

/-- The port is in UP (R333). -/
def State.klfUp (s : State) (p : Nat) : Bool := s.rd (pgKlf p) KLF_STAT.STATE == 5

/-- The link layer of a port runs: its lanes do, and once a first judgement has started its block, that block does
(R56, R63, R333). -/
def State.portRuns (s : State) (p : Nat) : Bool :=
  s.portOk p && s.laneRuns p && (!s.tu.everJudged || s.running (pgKlf p))

/-- This device's Kelef ID; 0xFFF is unassigned (R350, R351). -/
def State.ownDev (s : State) : Nat := s.rd pgKlfRt KLF_DEVID.ID
def State.hasDev (s : State) : Bool := s.ownDev != 0xFFF

/-! ### Packets on a link (R335, R338–R340) -/

/-- The columns of each channel's receive buffer (R335). -/
def vcAlloc (vc : Nat) : Nat := [192, 192, 96, 32].getD vc 0

/-- The virtual channel of a packet (R340). -/
def Packet.vc (p : Packet) : Nat :=
  if p.typ ≤ 5 then 0 else if p.typ = 6 then (if p.ctl then 3 else 1)
  else if p.typ = 7 then 2 else 3

/-- The data columns of a payload of `len + 1` bytes (R338). -/
def colsOf (len : Nat) : Nat := len / 32 + 1
def Packet.cols (p : Packet) : Nat := p.ncol + 1

/-- Types 0–5 and 8 are answered by a response (R340). -/
def Packet.request (p : Packet) : Bool := decide (p.typ ≤ 5) || p.typ == 8

/-- Nibble `k` of a source route (R339), and the route with it replaced. -/
def routeAt (r k : Nat) : Nat := bitsOf r (4 * k + 3) (4 * k)
def routePut (r k v : Nat) : Nat := if k < 24 then putBits r (4 * k + 3) (4 * k) v else r

/-- The first `n` nibbles of a route in reverse order (R342). -/
def routeRev (r n : Nat) : Nat :=
  (List.range n).foldl (fun a j => routePut a j (routeAt r (n - 1 - j))) 0

/-- The credit field of a channel. -/
def creditFld (vc : Nat) : Fld :=
  if vc = 0 then KLF_CREDIT.VC0 else if vc = 1 then KLF_CREDIT.VC1
  else if vc = 2 then KLF_CREDIT.VC2 else KLF_CREDIT.VC3

/-- The receiver of a port has columns of a channel to return (R335). -/
def State.owe (s : State) (p vc n : Nat) : State :=
  s.modPort p fun x => { x with owe := x.owe.modify vc (· + n) }

/-! ### The training of a port (R333) -/

/-- KLF_STAT.SD and LOCK follow the port's lanes. -/
def State.klfLanes (s : State) (p : Nat) : State :=
  let g (f : Fld) := (List.range 4).foldl (fun n l => n + s.rd (pgLane p) (f.nth l) * 2 ^ l) 0
  (s.wr (pgKlf p) KLF_STAT.SD (g LANE_STATl.SD)).wr (pgKlf p) KLF_STAT.LOCK (g LANE_STATl.BLOCK_LOCK)

/-- A port enters a training state. -/
def State.klfEnter (s : State) (p st : Nat) : State :=
  (s.wr (pgKlf p) KLF_STAT.STATE st).modPort p fun x => { x with enter := s.now, trn := 0 }

/-- A status bit holds on all four lanes of a port. -/
def State.lanesAll (s : State) (p : Nat) (f : Fld) : Bool := (List.range 4).all fun l => s.on (pgLane p) (f.nth l)

/-- The training states that the lanes alone decide: DETECT is left with signal on four lanes,
LOCK with data and block lock on four lanes, once JUDGED is 1. The pages that show the lanes follow them at once; a
port whose block stands does not move. -/
def State.klfTrain (s : State) (p : Nat) : State :=
  let s := s.klfLanes p
  if !s.portRuns p then s
  else
    let s := if s.rd (pgKlf p) KLF_STAT.STATE = 1 ∧ s.lanesAll p LANE_STATl.SD then s.klfEnter p 2 else s
    if s.rd (pgKlf p) KLF_STAT.STATE = 2 ∧ s.lanesAll p LANE_STATl.LOCK ∧ s.lanesAll p LANE_STATl.BLOCK_LOCK
        ∧ s.on pgClk CLK_ROOT_STAT.JUDGED then s.klfEnter p 3 else s

/-- A port that is DOWN, enabled, past its silence and whose quad is ACTIVE enters DETECT, once the receivers are
powered (R334, R381, R427). -/
def State.klfToDetect (s : State) (p : Nat) : State :=
  if s.tu.porDone && s.portOk p && s.on (pgKlf p) KLF_CTL.EN && s.rd (pgKlf p) KLF_STAT.STATE == 0
      && (s.port p).quiet.isNone && s.quadActive p then
    (s.klfEnter p 1).klfTrain p
  else s

/-! ### The line of a port (R329–R331, R374, R375, R379) -/

/-- A column as the polarity of a port's transmitters, or of its receivers, makes it. -/
def State.colTx (s : State) (p : Nat) (c : Column) : Column := c.turned fun l => s.laneRd p l LANE_TXl.INV == 1
def State.colRx (s : State) (p : Nat) (c : Column) : Column := c.turned fun l => s.laneRd p l LANE_RXl.INV == 1

/-- Columns leave on a port, as soon as those sent before have left. An IDL column goes first where 4,096 columns
would otherwise carry none; a slot with nothing else to send carries one by itself (R331). -/
def PortX.transmit (x : PortX) (now : Nat) (cs : List Column) : PortX :=
  let free := x.wireAt + 33 * x.wire.length
  let run := if free + 33 ≤ now then 0 else x.run
  if run + cs.length < 4096 then
    { x with wire := cs, wireAt := max now free, run := if cs = [idlColumn] then 0 else run + cs.length }
  else { x with wire := idlColumn :: cs, wireAt := max now free, run := cs.length }

def State.transmit (s : State) (p : Nat) (cs : List Column) : State := s.modPort p (·.transmit s.now cs)

/-- The transmitters of a port are enabled (R333, R380, R382): its clocks run, JUDGED is 1, its quad is ACTIVE and the
port is not DOWN, which stops transmitting (R334). -/
def State.transmits (s : State) (p : Nat) : Bool :=
  s.portRuns p && s.on pgClk CLK_ROOT_STAT.JUDGED && s.quadActive p && s.rd (pgKlf p) KLF_STAT.STATE != 0

/-- The training column of a port: this device's ID, the port's number and the lane numbers. -/
def State.trnColumn (s : State) (p : Nat) : Column := ctlColumn .trn (Config.trnPayload s.ownDev p)

/-- The column that a port's transmitters put on the line in the slot of a time; none while they are idle. An UP port
with nothing else to send sends IDL; one in training sends its training columns (DESIGN CHOICE: from DETECT on). -/
def State.lineColumn (s : State) (p t : Nat) : Option Column :=
  let x := s.port p
  if !s.transmits p then none
  else if !s.klfUp p then some (s.colTx p (s.trnColumn p))
  else if x.wireAt ≤ t ∧ t < x.wireAt + 33 * x.wire.length then (x.wire[(t - x.wireAt) / 33]?).map (s.colTx p)
  else some (s.colTx p idlColumn)

/-- Received bits meet the pattern that a locked lane checks. -/
def State.laneChk (s : State) (q l n v : Nat) : State :=
  let chk := s.laneRd q l LANE_RXl.CHK
  if (chk = 1 ∨ chk = 2) ∧ s.laneRd q l LANE_STATl.LOCK = 1 then
    let x := s.quad q
    let (e, c) := chkWord chk n v (x.chk.getD l {})
    let s := s.setQuad q { x with chk := x.chk.put l c }
    s.laneWr q l LANE_PRBSl.COUNT (satAdd 32 (s.laneRd q l LANE_PRBSl.COUNT) e)
  else s

/-- The 66 bits of a block, in the order of the line. -/
def blockBits (b : Block) : Nat := b.sync.toNat + 4 * b.bits.toNat

/-- A column from the line reaches a port: while EN is 0 its lanes may check a pattern in it, and it is discarded (R379);
an UP port whose link layer runs takes it, in the polarity of its receivers. DESIGN CHOICE: while EN is 1 the PAT and
CHK that a Kelef quad holds are ignored, whenever they were set. -/
def State.klfHears (s : State) (p : Nat) (cs : List Column) (f : State → List Column → State) : State :=
  let cs := cs.map (s.colRx p)
  if !s.portRuns p || !s.quadActive p then s
  else if !s.on (pgKlf p) KLF_CTL.EN then
    cs.foldl (fun s c => (List.range 4).foldl (fun s l => s.laneChk p l 66 (blockBits (c.blocks.getD l c.b0))) s) s
  else if s.klfUp p then f s cs else s

/-! ### Undeliverable packets (R344, R345, R354) -/

/-- An UNREACHABLE response is synthesised here. -/
def State.countUnreach (s : State) : State := (s.bump pgKlfCom KLF_UNREACH.COUNT 1).ev pgKlfCom 8

/-- A stream packet is discarded. -/
def State.strLost (s : State) : State := (s.bump pgKlfCom KLF_STR_LOST.COUNT 1).ev pgKlfCom 11

/-- An undeliverable packet that no one answers is discarded and counted; of the events, KLF_EVT_LOST counts
those of links (R354). -/
def State.dropPacket (s : State) (p : Packet) : State :=
  if p.typ = 6 then s.bump pgKlfCom KLF_RSP_DROP.COUNT 1
  else if p.typ = 7 then s.strLost
  else if p.typ = 10 ∧ (bitsOf p.addr 7 4 = 1 ∨ bitsOf p.addr 7 4 = 2) then s.bump pgKlfRt KLF_EVT_LOST.COUNT 1
  else s

/-- The response to a request that is not source-routed. -/
def Packet.reply (p : Packet) (own status : Nat) : Packet :=
  { typ := 6, status := status, tag := p.tag, addr := p.addr, dst := p.src, src := own,
    orig := p.orig, itime := p.itime, ctl := p.typ == 8 }

/-- The response of the device at place `k` of a source route; it leaves on the port recorded at
`k` (R342). -/
def Packet.replySr (p : Packet) (k status : Nat) : Packet :=
  { typ := 6, sr := true, status := status, tag := p.tag, addr := p.addr, hops := k + 1,
    idx := 0, route := routeRev p.route k, ctl := p.typ == 8 }

/-! ### The choice of an output port (R356, R359) -/

def rtKey (bank id : Nat) : Nat := bank * 2 ^ 12 + id
def State.rtBank (s : State) : Nat := s.rd pgKlfRt KLF_RT_SEL.ACTIVE
def State.rtEntry (s : State) (bank id : Nat) : Nat := s.rt.getD (rtKey bank id) 0

def rtPri (e : Nat) : Nat := bitsOf e 3 0
def rtPriV (e : Nat) : Bool := maskBit e 4
def rtAlt (e : Nat) : Nat := bitsOf e 11 8
def rtAltV (e : Nat) : Bool := maskBit e 12

/-- A port that an entry may choose. -/
def State.usable (s : State) (p : Nat) : Bool :=
  s.klfUp p && !maskBit (s.rd pgKlfRt KLF_FAILED.PORTS) p

/-- The output port that an entry gives. -/
def State.portOf (s : State) (e : Nat) : Option Nat :=
  if rtPriV e && s.usable (rtPri e) then some (rtPri e)
  else if rtAltV e && s.usable (rtAlt e) then some (rtAlt e) else none

/-- A frame that arrived on a marked port leaves on a marked port only; the host's own link is
exempt (R359). -/
def State.turnOk (s : State) (inp out : Nat) : Bool :=
  !maskBit (s.rd pgKlfRt KLF_PORT_DL.DL) inp || maskBit (s.rd pgKlfRt KLF_PORT_DL.DL) out
    || s.on (pgKlf inp) KLF_STAT.HOST

/-- A frame that the dateline rule stops is counted (R359). -/
def State.turnStop (s : State) : State := (s.bump pgKlfRt KLF_TURN_ERR.COUNT 1).ev pgKlfRt 12

/-- A verdict of check bits as the table of damaged entries holds it. -/
def eccGrade : Ecc → Nat
  | .clean => 0
  | .corrected => 1
  | .fatal => 2

/-- What a read of a routing entry finds: the damage that the entry has carried since it was written, or a further one. -/
def State.rtFinds (s : State) (bank id : Nat) (e : Ecc) : Ecc :=
  match s.rtHit.getD (rtKey bank id) 0, e with
  | 0, e => e
  | 1, .clean => .corrected
  | 1, e => e
  | _, _ => .fatal

/-- A packet joins those that wait to leave on a port. -/
def State.txPush (s : State) (out : Nat) (p : Packet) (src : Option Nat) (share : Nat) : State :=
  s.modPort out fun x => { x with txq := x.txq ++ [⟨p, src, share⟩] }

/-- The routing of one packet to a port, with the verdict of the entry's check bits and, for a
frame that arrived here, its ingress port. The answer is false where the packet is undeliverable. -/
def State.routePacket (s : State) (p : Packet) (inp : Option Nat) (e : Ecc) : Bool × State :=
  if p.dst = 0xFFF then (false, s)
  else
    let e := s.rtFinds s.rtBank p.dst e
    let s := match e with
      | .clean => s
      | .corrected => s.bump pgKlfRt KLF_RT_ECC.CORR 1
      | .fatal => (s.wr pgKlfRt KLF_RT_ECC.FATAL 1).ev pgKlfRt 15
    let ent := if e = .fatal then 0 else s.rtEntry s.rtBank p.dst
    match s.portOf ent with
    | none => (false, if rtPriV ent then s.ev pgKlfRt 14 else s)
    | some out =>
      match inp with
      | none => (true, s.txPush out p none 0)
      | some i =>
        if s.turnOk i out then (true, s.txPush out p inp 0)
        else (false, s.turnStop)

/-! ### The egress (R345) -/

/-- KLF_EGR_TAGS follows the tags held. -/
def State.egrSync (s : State) : State :=
  let n := s.egr.length
  (s.wr pgKlfCom KLF_EGR_TAGS.USED n).wr pgKlfCom KLF_EGR_TAGS.PEAK
    (max n (s.rd pgKlfCom KLF_EGR_TAGS.PEAK))

/-- The lowest free tag. -/
def freeTag : Tbl EgrX → Nat → Nat
  | [], n => n
  | e :: r, n => if e.1 = n then freeTag r (n + 1) else n

/-- A held tag returns and its initiator gets an answer. -/
def State.egrAnswer (s : State) (t : Nat) (st : Nat) (unsure : Bool) (spst spf data : Nat) : State :=
  match s.egr.find t with
  | none => s
  | some x =>
    let s := { s with egr := s.egr.del t }
    let a : EgrAns := ⟨x.init, x.num, st, unsure, spst, spf, data⟩
    let s : State := { s with answers := s.answers ++ [a] }
    s.egrSync

/-- A response arrives at the egress: it matches a held tag and its generation, or is late. -/
def State.egrResponse (s : State) (p : Packet) : State :=
  let t := p.tag % 2 ^ 12
  if (s.egr.find t).isSome && s.egrGen.getD t 0 == p.tag / 2 ^ 12 % 16 then
    s.egrAnswer t p.status p.unsure p.spst p.spf (if p.status = 0 then p.data else 0)
  else s.bump pgKlfCom KLF_LATE.COUNT 1

/-- Every request that is out is answered UNREACHABLE and UNSURE (R337). -/
def State.egrUnsure (s : State) : State :=
  s.egr.foldl (fun s e => (s.egrAnswer e.1 BusStatus.unreachable.code true 0 0 0).countUnreach) s

/-! ### Packets of this device -/

/-- This device sends a packet. A request goes through the egress; of the others an undeliverable
one is discarded. -/
def State.post (s : State) (p : Packet) : State :=
  if p.typ = 6 ∧ p.dst = s.ownDev then s.egrResponse p
  else
    let (ok, s) := s.routePacket p none .clean
    if ok then s else s.dropPacket p

/-- An EVENT packet to the host (R353, R354); an unassigned device sends none. -/
def State.postEvent (s : State) (addr time : Nat) : State :=
  if s.hasDev then
    s.post { typ := 10, len := 7, ncol := 1, addr := addr, dst := 0, src := s.ownDev,
             itime := s.now % 2 ^ 32, data := time % 2 ^ 64 }
  else s

/-- A request leaves for another device: `none` while the tag pool is empty, `some true` when it
is sent, `some false` when it is answered UNREACHABLE at once (R344, R345, R352). -/
def State.egress (s : State) (num : Nat) (p : Packet) : Option Bool × State :=
  if !s.hasDev then (some false, s.countUnreach)
  else if 4096 ≤ s.egr.length then (none, s)
  else
    let t := freeTag s.egr 0
    let gen := (s.egrGen.getD t 0 + 1) % 16
    let q := { p with tag := gen * 2 ^ 12 + t, src := s.ownDev, itime := s.now % 2 ^ 32 }
    let (ok, s) := s.routePacket q none .clean
    if ok then
      let s := { s with egr := s.egr.put t ⟨p.orig, num, s.now⟩ }
      let s : State := { s with egrGen := s.egrGen.setD t 0 gen }
      (some true, s.egrSync)
    else (some false, s.countUnreach)

end Sys2Proof.Machine
end

