-- ==== Sys2Proof/Machine/SeqOps.lean ====
section
/-! DEFINITION. The shared operations of the warp sequencers (chapter 5): the application of a
pending set, records and the warp buffer, the walker, the end of a run and suspect cycles. -/

namespace Sys2Proof.Machine

/-! ### The application of a pending set (R41, R45, R46) -/

/-- The pending set of a page applies in one step, or is discarded for a parity error. -/
def State.applyCore (s : State) (pg kind : Nat) (parity : Bool) : State :=
  if !s.on pg PAGE_PEND.PENDING then s
  else if parity || (s.page pg).upset then ((s.crcSpoil pg).dropPending pg).ev pg 4
  else
    let s := ((s.crcSpoil pg).moveShadows pg).dropPending pg
    let s := s.wr pg PAGE_PEND.LAST_KIND kind
    (s.wr pg PAGE_PEND.SEQ (s.rd pg PAGE_PEND.SEQ + 1)).ev pg 5

/-- A pending set of kind 0 waits on a running page. -/
def State.nativeWaits (s : State) (pg : Nat) : Bool :=
  s.on pg PAGE_PEND.PENDING && s.rd pg PAGE_PEND.KIND == 0 && s.running pg

/-- A page's native boundary comes; `bad` lists the pages whose shadows hold a parity error. -/
def State.applyNative (s : State) (bad : List Nat) (pg : Nat) : State :=
  if s.nativeWaits pg then (s.applyCore pg 0 (bad.contains pg)).crcSee s pg else s

/-- The EDG, SEQ and WFT pages of a bank apply what waits for the pattern-cycle boundary (R100,
R152, R173). -/
def State.applyBank (s : State) (bad : List Nat) (b : Nat) : State :=
  ((s.applyNative bad (pgSeq b)).applyNative bad (pgWft b)).applyNative bad (pgEdg b)

/-! ### Sequencers -/

def State.seq (s : State) (b : Nat) : SeqX := s.seqs.getD b {}
def State.setSeq (s : State) (b : Nat) (x : SeqX) : State := { s with seqs := s.seqs.setD b {} x }
def State.modSeq (s : State) (b : Nat) (f : SeqX → SeqX) : State := s.setSeq b (f (s.seq b))

/-- The sequencer's pages run: SEQ, EDG and WFT (R432). -/
def State.bankRuns (s : State) (b : Nat) : Bool :=
  s.running (pgSeq b) && s.running (pgEdg b) && s.running (pgWft b)

/-- The pages of every member of the sequencer's gang run. -/
def State.gangRuns (s : State) (b : Nat) : Bool := (s.members (s.leader b)).all s.bankRuns

/-- The governor initiator of a sequencer (R123). -/
def seqInit (l : Nat) : Nat := 0x10 + l

/-- The other members of a gang report STATE 4 with the leader's cause and flags (R145). -/
def State.seqMirror (s : State) (l : Nat) : State :=
  ((s.members l).filter (· != l)).foldl (fun s m =>
    let s := (s.setReg (pgSeq m) SEQ_RUN.STATE.off (s.reg (pgSeq l) SEQ_RUN.STATE.off)).wr (pgSeq m)
      SEQ_RUN.STATE 4
    s.setReg (pgSeq m) SEQ_RUN_FLAGS.EDGE_FAULT.off (s.reg (pgSeq l) SEQ_RUN_FLAGS.EDGE_FAULT.off)) s

/-- A run flag sets. -/
def State.seqFlag (s : State) (l : Nat) (f : Fld) : State := (s.wr (pgSeq l) f 1).seqMirror l

/-- A SEQ_ADDR report. -/
def State.seqAddr (s : State) (l off j : Nat) : State :=
  (s.wr (pgSeq l) SEQ_ADDR.OFFSET off).wr (pgSeq l) SEQ_ADDR.INDEX j

/-- SEQ_STACK follows the stacks. -/
def State.stackSync (s : State) (l : Nat) : State :=
  (s.wr (pgSeq l) SEQ_STACK.LOOP_DEPTH (s.seq l).loops.length).wr (pgSeq l) SEQ_STACK.CALL_DEPTH
    (s.seq l).calls.length

/-- The period of a timing set of a bank, in VS (R98). -/
def State.periodOf (s : State) (b t : Nat) : Nat :=
  s.rd (pgEdg b) (EDG_PERIODt.PERIOD.nth t) + 1

/-! ### Records (R126–R129) -/

/-- The size of a record in bytes, from its control word. -/
def recSize (m w : Nat) : Nat := if maskBit w 5 then 8 + 32 * m else 8 + 8 * m

/-- A record from its bytes, as a little-endian number. -/
def recOf (m off w : Nat) : Rec :=
  let ext := bitsOf w 62 48
  let packed := maskBit w 5
  let sym (j i : Nat) := bitsOf w (64 * (m * j + i) + 127) (64 * (m * j + i) + 64)
  { off := off, size := recSize m w, op := bitsOf w 11 8
    tsets := bitsOf w 4 0 :: if packed then [bitsOf ext 4 0, bitsOf ext 9 5, bitsOf ext 14 10] else []
    nocmp := maskBit w 6, clrf := maskBit w 7, wop := bitsOf w 23 12, arg := bitsOf w 47 24
    ext := ext, hold0 := maskBit w 63
    syms := (List.range (if packed then 4 else 1)).map fun j => (List.range m).map (sym j) }

/-- The record is packed. -/
def Rec.packed (r : Rec) : Bool := r.tsets.length == 4

/-- The offset of the record that follows in address order. DESIGN CHOICE: offsets have 24 bits, and after
the last the walk goes on at 0. -/
def Rec.next (r : Rec) : Nat := (r.off + r.size / 8) % 2 ^ 24

/-- The cycles of a record that has a fixed number of them; the first cycle of the others (R128). -/
def Rec.total (r : Rec) : Nat :=
  if r.op = 0 then (r.arg + 1) * r.tsets.length else r.tsets.length

/-- What follows the record is decided only after its cycle (R132–R134). -/
def Rec.holds (r : Rec) : Bool := decide (6 ≤ r.op ∧ r.op ≤ 9)

/-- The time of the first `k` cycles of a record, in VS. -/
def Rec.timeOf (per : Nat → Nat) (r : Rec) (k : Nat) : Nat :=
  let ps := r.tsets.map per
  k / ps.length * ps.sum + (ps.take (k % ps.length)).sum

/-- The time of a WAIT, in VS after the run's start (R134). -/
def Rec.waitFor (r : Rec) : Nat := r.arg * 2 ^ (r.ext % 16) * 8 * 256

/-- A record as the walk keeps it. -/
def Rec.asPassed (per : Nat → Nat) (r : Rec) : Passed :=
  ⟨r.off, r.size, r.timeOf per r.total, per (r.tsets.headD 0), r.op, r.waitFor⟩

/-- The boundary, of hold cycles of period `p` after a cycle that ends at `t`, that is first at or after
a time. -/
def holdUntil (p t u : Nat) : Nat := t + ceilTo p (u - t)

/-- The time from D(n), less its 128 G after the cycle's end, to the end of a branch (R113, R132). -/
def branchHold : Nat := (128 + 72) * 256

/-- The end of a record that a run started at `t0` begins at `t`: a WAIT ends with its time. DESIGN
CHOICE: a branch counts as one whose strobes do not spill, and a MATCH as one that its first iteration
decides, since what they will take is not known. -/
def Passed.until (e : Passed) (t0 t : Nat) : Nat :=
  let t := t + e.dur
  if e.op = 9 then holdUntil e.per t (t0 + e.wait)
  else if 6 ≤ e.op ∧ e.op ≤ 8 then holdUntil e.per t (t + branchHold)
  else t

/-- A field that must be zero is not, or a code is reserved (R127, R129, R163). -/
def Rec.malformed (r : Rec) : Bool :=
  decide (10 < r.op) || (r.packed && r.op != 0 && r.op != 10)
    || bitsOf r.wop 11 10 == 3
    || (r.hold0 && !r.holds)
    || (r.arg != 0 && (r.op == 2 || r.op == 4 || r.op == 10))
    || (!r.packed && r.ext != 0 && r.op != 8 && !(r.op == 9 && decide (r.ext < 16)))

/-- The stack faults of R129. -/
def Rec.stackBad (r : Rec) (x : SeqX) : Bool :=
  (r.op == 1 && decide (8 ≤ x.loops.length)) || (r.op == 2 && x.loops.isEmpty)
    || (r.op == 3 && decide (16 ≤ x.calls.length)) || (r.op == 4 && x.calls.isEmpty)

/-- Where control goes after a record whose way is fixed, with the stacks (tops first) it leaves; a
record that decides later, or HALT, leaves no way (R128). -/
def Rec.follow (r : Rec) (loops : List (Nat × Nat)) (calls : List Nat) :
    Option Nat × List (Nat × Nat) × List Nat :=
  if r.op = 0 ∨ r.op = 9 then (some r.next, loops, calls)
  else if r.op = 1 then (some r.next, (r.arg, r.next) :: loops, calls)
  else if r.op = 2 then
    match loops with
    | [] => (none, loops, calls)
    | (0, _) :: t => (some r.next, t, calls)
    | (c + 1, o) :: t => (some o, (c, o) :: t, calls)
  else if r.op = 3 then (some r.arg, loops, r.next :: calls)
  else if r.op = 4 then (calls.head?, loops, calls.tail)
  else if r.op = 5 then (some r.arg, loops, calls)
  else (none, loops, calls)

/-! ### The warp buffer (R137–R140) -/

/-- What the buffer holds of some bytes. -/
inductive Held where
  | missing | poisoned | data (v : Nat)
  deriving DecidableEq, Repr

/-- The segments that `n` bytes at an address lie in. -/
def segsOf (a n : Nat) : List Nat :=
  if (a + n - 1) / 2048 = a / 2048 then [a / 2048] else [a / 2048, a / 2048 + 1]

/-- `n` bytes of the buffer at an address. -/
def SeqX.bytes (x : SeqX) (a n : Nat) : Held :=
  let ss := (segsOf a n).map x.segs.find
  if ss.any (·.isNone) then .missing
  else
    let gs := ss.filterMap id
    if gs.any (·.poisoned) then .poisoned
    else
      let whole := gs.foldr (fun g v => g.data + 2 ^ 16384 * v) 0
      .data (whole / 2 ^ (8 * (a % 2048)) % 2 ^ (8 * n))

/-- What place `k` of a sequencer's warp buffer holds. -/
def SeqX.placeData (x : SeqX) (b k : Nat) : Nat :=
  (x.store.find k).getD (Config.restCell 2 b x.life k % 2 ^ 16384)

/-- The address of a record. -/
def SeqX.addrOf (x : SeqX) (off : Nat) : Nat := x.base + 8 * off

/-- The record at an offset, if the buffer holds it whole (R138, R140). -/
def SeqX.fetch (x : SeqX) (m off : Nat) : Held :=
  match x.bytes (x.addrOf off) 8 with
  | .data w => x.bytes (x.addrOf off) (recSize m w)
  | h => h

/-- The segments of some bytes have been used. -/
def SeqX.touch (x : SeqX) (ss : List Nat) : SeqX :=
  { x with walk := { x.walk with tick := x.walk.tick + 1 },
           segs := x.segs.map fun e => if ss.contains e.1 then
             (e.1, { e.2 with used := x.walk.tick }) else e }

/-! ### The walker (R137) -/

/-- The capacity in bytes of the buffers of `m` members. -/
def leadCap (m : Nat) : Nat := 524288 * m

/-- The walker's lead in bytes. -/
def WalkX.lead (w : WalkX) : Nat := w.passed.foldl (fun n e => n + e.size) 0

/-- A segment is to be requested unless it is held, on its way or listed. -/
def SeqX.want (x : SeqX) (ss : List Nat) : SeqX :=
  let new := ss.filter fun g => (x.segs.find g).isNone && !x.walk.wanted.contains g
    && !x.walk.reqs.any fun q => !q.sink && q.seg == g
  { x with walk := { x.walk with wanted := x.walk.wanted ++ new } }

/-- The walk reaches some segments. -/
def SeqX.reach (x : SeqX) (ss : List Nat) : SeqX :=
  let x := x.want ss
  let w := x.walk
  if 64 ≤ w.reached.length then x
  else { x with walk := { w with reached := w.reached ++ ss.filter fun g => !w.reached.contains g } }

/-- The walk passes a record that it holds whole. At a HALT, and at a record that would fault, it
stops (DEDUCED for the latter); at a branch it goes on to the next record and pins the target's
first segments. -/
def SeqX.pass (x : SeqX) (per : Nat → Nat) (r : Rec) : SeqX :=
  let w := x.walk
  let ss := segsOf (x.addrOf r.off) r.size
  let w := { w with passed := r.asPassed per :: w.passed
                    kept := if ss.all (w.kept.contains ·) then w.kept else [] }
  let x := x.touch ss
  let bad := r.malformed || r.stackBad { x with loops := w.loops, calls := w.calls }
  let (o, lo, ca) := r.follow w.loops w.calls
  let x := { x with walk := { w with tick := x.walk.tick, loops := lo, calls := ca } }
  if bad || r.op = 10 then { x with walk := { x.walk with atEnd := true } }
  else if r.holds && r.op != 9 then
    let ss := (List.range x.tgt).map ((x.addrOf r.arg) / 2048 + ·)
    ({ x with walk := { x.walk with off := r.next, pins := x.walk.pins ++ [(r.off, ss)] } }).want ss
  else { x with walk := { x.walk with off := o.getD r.next } }

/-- The walk goes on while it may, for at most `fuel` records. -/
def SeqX.walkOn (m : Nat) (per : Nat → Nat) : Nat → SeqX → SeqX
  | 0, x => x
  | fuel + 1, x =>
    let w := x.walk
    if !w.active || w.atEnd || decide (leadCap m ≤ w.lead) then x
    else
      let a := x.addrOf w.off
      match x.bytes a 8 with
      | .poisoned => { x with walk := { w with atEnd := true } }
      | .missing => x.reach (segsOf a 8)
      | .data cw =>
        let ss := segsOf a (recSize m cw)
        match x.bytes a (recSize m cw) with
        | .poisoned => { x with walk := { w with atEnd := true } }
        | .missing => x.reach ss
        | .data v => SeqX.walkOn m per fuel ((x.reach ss).pass per (recOf m w.off v))

/-- The walker of a leader goes on. -/
def State.walkOn (s : State) (l : Nat) : State :=
  let m := (s.members l).length
  s.modSeq l fun x => x.walkOn m (s.periodOf l) (65536 * m)

/-- The segments that may not be replaced: those between execution and the walk, and the pinned. -/
def SeqX.guardedSegs (x : SeqX) (m : Nat) : List Nat :=
  let of (e : Passed) := segsOf (x.addrOf e.off) e.size
  (x.walk.exec.toList ++ x.walk.passed).flatMap of ++ x.walk.pins.flatMap (·.2)
    ++ segsOf (x.addrOf x.walk.off) (8 + 8 * m) ++ x.walk.kept

/-- The least recently used segment that may be replaced; a poisoned one stays so until ARM (R140). -/
def SeqX.victim (x : SeqX) (m : Nat) : Option Nat :=
  let keep := x.guardedSegs m
  ((x.segs.filter fun e => !keep.contains e.1 && !e.2.poisoned).foldl (fun b e => match b with
    | none => some (e.1, e.2.used)
    | some c => if e.2.used < c.2 then some (e.1, e.2.used) else some c) none).map (·.1)

/-- A slot of the buffer for one more segment, if there is one (R137). -/
def SeqX.room (x : SeqX) (m : Nat) : Option SeqX :=
  if x.segs.length + (x.walk.reqs.filter (!·.sink)).length < 256 * m then some x
  else (x.victim m).map fun g => { x with segs := x.segs.del g }

/-- The walker is paused (R137). -/
def SeqX.paused (x : SeqX) (m : Nat) : Bool :=
  x.walk.atEnd || decide (leadCap m ≤ x.walk.lead)
    || (!x.walk.wanted.isEmpty && (x.room m).isNone)

/-- SEQ_BUF.SEGS follows the buffer. -/
def State.bufSync (s : State) (l : Nat) : State :=
  s.wr (pgSeq l) SEQ_BUF.SEGS (min (s.seq l).segs.length 1024)

/-- The start of a leader's run, in VS. -/
def State.runStart (s : State) (l : Nat) : Nat :=
  s.rdPair (pgSeq l) SEQ_RUN_T_LO.TIME SEQ_RUN_T_HI.TIME * 256

/-- The end of the record in execution, as it is known now: of one whose own cycle is issued, the wait's
time, or the time of its vector, known so far, and of its resolution. -/
def State.curEnd (s : State) (l : Nat) : Nat :=
  let x := s.seq l
  match x.cur with
  | none => x.sNext
  | some r =>
    let per := s.periodOf l
    if !r.holds then x.sNext + (r.timeOf per r.total - r.timeOf per x.issued)
    else if x.resolved then x.sNext
    else
      let p := per (r.tsets.headD 0)
      if r.op = 9 then holdUntil p x.sNext (s.runStart l + r.waitFor)
      else
        let d := (s.members l).foldl (fun m b => (s.bank b).vecs.foldl (fun m v =>
          if v.run = x.run ∧ x.brN = some v.n then max m (v.strobes.foldl (fun m p => max m p.stop) v.stop)
          else m) m) 0
        holdUntil p x.sNext (d + branchHold)

/-- MIN_LEAD keeps the least time from the execution point, at `t`, to the end of the present walk that
a run has seen: it is taken at the start of each cycle, before each extension of the walk, and at an
underrun (R143). -/
def State.leadSync (s : State) (l t : Nat) : State :=
  let lead := (s.seq l).walk.passed.foldr (fun e u => e.until (s.runStart l) u) (s.curEnd l) - t
  if s.hasRun l then
    s.wr (pgSeq l) SEQ_BUF.MIN_LEAD (min (s.rd (pgSeq l) SEQ_BUF.MIN_LEAD) (min (lead / 32768) 0xFFFF))
  else s

/-- Execution reaches a record: the walker's lead falls, and the walk may go on. -/
def State.executed (s : State) (l off : Nat) : State :=
  let x := s.seq l
  let old := x.walk.passed.reverse.dropWhile fun e => e.off != off
  let w := match old with
    | [] => x.walk
    | e :: rest => { x.walk with exec := some e, passed := rest.reverse }
  (s.setSeq l { x with walk := w }).walkOn l

/-- A branch resolves: the walk drops its pins, and when the branch is taken it discards what lies
beyond the branch and restarts at the target with the sequencer's stacks. The pinned segments stay
requested and held until the walk has left them, and the walk goes on at the first segment after
them. -/
def State.walkResolved (s : State) (l off : Nat) (target : Option Nat) : State :=
  let s := s.modSeq l fun x =>
    let w := x.walk
    match target with
    | none =>
      { x with walk := { w with pins := (w.pins.takeWhile fun e => e.1 != off)
                                  ++ (w.pins.dropWhile fun e => e.1 != off).tail } }
    | some t =>
      let first := x.addrOf t / 2048
      let ss := ((w.pins.find? fun e => e.1 == off).map (·.2)).getD []
      { x with walk := { w with off := t, atEnd := false, loops := x.loops, calls := x.calls,
                                passed := [], pins := [], kept := ss,
                                wanted := w.wanted.filter (ss.contains ·) } }.want
        (ss ++ [first + ss.length])
  s.walkOn l

/-! ### Suspect cycles (R149) -/

/-- A time in VS lies in the suspect window that is open or was the last one (R78). -/
def State.inWindow (s : State) (t : Nat) : Bool :=
  let a := s.rdPair pgTime TIME_SUSP_START_LO.TIME TIME_SUSP_START_HI.TIME
  let e := s.rdPair pgTime TIME_SUSP_END_LO.TIME TIME_SUSP_END_HI.TIME
  decide (a ≤ t / 256) && (s.on pgTime TIME_STAT.SUSPECT || decide (t / 256 ≤ e))
    && (s.on pgTime TIME_STAT.SUSPECT || e != 0)

/-- `k` cycles of a run, the first of them number `n`, are flagged TIME_SUSPECT. -/
def State.flagCycles (s : State) (l n k : Nat) : State :=
  let pg := pgSeq l
  let first := s.rd pg SEQ_SUSP_COUNT.COUNT = 0
  let s := if first then s.ev pg 17 else s
  let low := if first then n
    else min n (s.rdPair pg SEQ_SUSP_FIRST_LO.CYCLE SEQ_SUSP_FIRST_HI.CYCLE)
  let s := s.wrPair pg SEQ_SUSP_FIRST_LO.CYCLE SEQ_SUSP_FIRST_HI.CYCLE low
  (s.bump pg SEQ_SUSP_COUNT.COUNT k).seqFlag l SEQ_RUN_FLAGS.TIME_SUSPECT

/-- The cycles of a stretch before a time, and the number and count of those from it on. -/
def Starts.cut (e : Starts) (t : Nat) : Starts × Nat × Nat :=
  let keep := if t ≤ e.s then 0 else min e.count ((t - e.s + e.p - 1) / e.p)
  ({ e with count := keep }, e.n + keep, e.count - keep)

/-- A vector of a cycle that starts at or after a time is flagged TIME_SUSPECT. -/
def Vec.suspectFrom (v : Vec) (t : Nat) : Vec :=
  if t ≤ v.start then { v with tag := { v.tag with suspect := true } } else v

/-- A suspect window opens with a start, in G, that may lie back: the cycles of every run that lie
in it are flagged, with the vectors that have not reached the catch unit (R149). -/
def State.seqSuspect (s : State) (start : Nat) : State :=
  let s := (List.range 16).foldl (fun s b =>
    (s.modBank b fun k => { k with vecs := k.vecs.map (·.suspectFrom (start * 256)) }).modSeq b fun x =>
      { x with results := x.results.map fun r => { r with v := r.v.suspectFrom (start * 256) } }) s
  (List.range 16).foldl (fun s l =>
    let cuts := (s.seq l).starts.map (·.cut (start * 256))
    let s := s.modSeq l fun x => { x with starts := (cuts.map (·.1)).filter (·.count != 0) }
    cuts.foldl (fun s c => if c.2.2 = 0 then s else s.flagCycles l c.2.1 c.2.2) s) s

/-- A cycle that carries no flag joins the stretch before it or starts one; stretches that no
window can reach back to are forgotten. -/
def addStart (es : List Starts) (n t p : Nat) : List Starts :=
  let es := es.filter fun e => decide (t ≤ e.s + e.p * e.count + 130000 * 256)
  match es.getLast? with
  | some e =>
    if e.p = p ∧ e.s + e.p * e.count = t ∧ e.n + e.count = n then
      es.dropLast ++ [{ e with count := e.count + 1 }]
    else es ++ [⟨n, t, p, 1⟩]
  | none => [⟨n, t, p, 1⟩]

/-! ### Partners (R151) -/

/-- The run of a leader loses a partner. -/
def State.partnerLost (s : State) (l : Nat) : State :=
  if s.hasRun l then (s.seqFlag l SEQ_RUN_FLAGS.PARTNER_LOST).ev (pgSeq l) 13 else s

/-- A run of device `dev`'s sequencer `q` ended badly: every local run that names it loses a
partner (R346). -/
def State.partnerEnded (s : State) (dev q : Nat) : State :=
  (List.range 16).foldl (fun s l =>
    if (s.seq l).partners.any fun p => p.dev == dev && p.seq == q then s.partnerLost l else s) s

/-- The run-end notices of a run that did not end by HALT. -/
def State.notify (s : State) (l : Nat) : State :=
  let ps := (s.seq l).partners
  let s := s.modSeq l fun x => { x with partners := [] }
  ps.foldl (fun s p =>
    if p.dev = s.ownDev then s.partnerEnded p.dev l
    else s.post { typ := 9, len := 7, ncol := 1, addr := l, dst := p.dev, src := s.ownDev,
                  itime := s.now % 2 ^ 32, data := (s.reg (pgSeq l) SEQ_RUN.STATE.off).toNat }) s

/-! ### Interrupt sources of the shuttle engines (R229) -/

/-- The page of an engine's cluster. -/
def pgEng (e : Nat) : Nat := pgShu (e / 16)

/-- A field of an engine's registers in the SHU page. -/
def State.eRd (s : State) (e : Nat) (f : Fld) : Nat := s.rd (pgEng e) (f.nth (e % 16))
def State.eWr (s : State) (e : Nat) (f : Fld) (v : Nat) : State := s.wr (pgEng e) (f.nth (e % 16)) v

/-- An edge source pends in an engine. -/
def State.engPend (s : State) (e k : Nat) : State :=
  if s.running (pgEng e) then s.eWr e SHU_En_INT_PEND.PEND (maskSet (s.eRd e SHU_En_INT_PEND.PEND) k true) else s

/-- A sequencer's run end pends RUN_END in every engine of its panel. -/
def State.runEndIrq (s : State) (l : Nat) : State :=
  (List.range 64).foldl (fun s i => s.engPend (l / 4 * 64 + i) 6) s

/-! ### The end of a run (R95, R147) -/

/-- The causes in the order of R147. -/
def causeOf (cs : List Nat) : Nat :=
  ([8, 7, 9, 6, 5, 4, 3, 2].find? (cs.contains ·)).getD 1

/-- The lines of a segment that were admitted, by their places in it. -/
def SegReq.sent (q : SegReq) : List Nat := (List.range 32).filter fun i => !q.missed.contains i

/-- A request whose run has ended: the lines that are out still return, the others are not issued (R140). -/
def SegReq.sunk (q : SegReq) : Option SegReq :=
  let q := { q with lines := 32, missed := q.missed ++ (List.range 32).filter (q.lines ≤ ·), sink := true }
  if q.sent.isEmpty then none else some q

/-- The run's machinery stops; what the run left in registers stays. -/
def SeqX.stopped (x : SeqX) : SeqX :=
  { x with nextOff := none, ahead := [], stop := none, cur := none, issued := 0, resolved := false,
           causes := [], brN := none, brD := [], results := [], weft := none, pendStart := none,
           halted := false, haltReq := false, resumeAt := none, oneStep := false,
           walk := { x.walk with active := false, wanted := [], reqs := x.walk.reqs.filterMap SegReq.sunk } }

/-- The debugger's view of a sequencer and of its gang follows its halt. -/
def State.haltSync (s : State) (l : Nat) : State :=
  let h := (s.seq l).halted
  (s.members l).foldl (fun s b =>
    s.wr pgDbg DBG_SEQ_STAT.HALTED (maskSet (s.rd pgDbg DBG_SEQ_STAT.HALTED) b h)) s

/-- The members' banks that were to be held at the end of the cycle in progress are HELD (R96). -/
def State.holdMembers (s : State) (l : Nat) : State :=
  (s.members l).foldl (fun s b =>
    if (s.bank b).holdDue then (s.modBank b fun k => { k with held := true, holdDue := false }).settleBank b
    else s) s

/-- The run of a leader ends with the causes gathered, at the end of its last cycle. DESIGN CHOICE: DONE or
ABORTED sets in the leader's page alone. -/
def State.endRun (s : State) (l : Nat) : State :=
  let x := s.seq l
  let pg := pgSeq l
  let cause := causeOf x.causes
  let halt := cause = 1
  let (s, bad) := (s.members l).foldl (fun (acc : State × Bool) b =>
    if x.n = 0 ∨ x.halted then acc
    else
      let (s, f) := acc.1.endBank b (x.n - 1) x.pCur x.sNext halt
      (s.modBank b fun k => k.modVec (x.n - 1) fun v =>
        if v.run = x.run then { v with final := true } else v, acc.2 || f)) (s, false)
  let s := match x.weft with
    | none => s
    | some w => s.weftTake l w
  let s := if bad then s.wr pg SEQ_RUN_FLAGS.EDGE_FAULT 1 else s
  let s := if cause = 6 then s.wr pg SEQ_RUN_FLAGS.EDGE_FAULT 1 else s
  let s := if cause = 8 then (s.wr pg SEQ_RUN_FLAGS.TIME_LOST 1).wr pg SEQ_RUN_FLAGS.TIME_SUSPECT 1
    else s
  let s := match x.stop with
    | some (c, off) => if c = cause then s.seqAddr l off 0 else s
    | none => s
  let s := ((s.wr pg SEQ_RUN.STATE 0).wr pg SEQ_RUN.CAUSE cause).wr pg SEQ_RUN.INVALID (bit !halt)
  let s := if x.n = 0 then (s.members l).foldl State.settleBank s else s
  let s := s.wr pg PAGE_LEVEL.BUSY 0
  let s := if x.causes.contains 2 then s.evAborted pg else s.evDone pg
  let s := ((s.modSeq l fun x => { x.stopped with
    pendStart := if x.causes.contains 2 then none else x.pendStart }).haltSync l).seqMirror l
  let s := s.holdMembers l
  let s := if halt then s.modSeq l fun x => { x with partners := [] } else s.notify l
  let s := s.runEndIrq l
  { s with now := max s.now (x.sNext / 256) }

/-- A cause makes the cycle in progress the final one, unless the final cycle has started; with no
cycle in progress the run ends at once. -/
def State.endCause (s : State) (l c : Nat) : State :=
  let s := s.modSeq l fun x => { x with causes := x.causes ++ [c] }
  if (s.seq l).n = 0 ∨ (s.seq l).halted then s.endRun l else s

/-- Every run ends with the loss of time, at the end of its cycle in progress (R83). -/
def State.endAllRuns (s : State) (c : Nat) : State :=
  (List.range 16).foldl (fun s l =>
    if s.leader l == l && s.hasRun l then
      (s.modSeq l fun x => { x with causes := x.causes ++ [c] }).endRun l
    else s) s

end Sys2Proof.Machine
end

