-- ==== Sys2Proof/Machine/Time.lean ====
section
/-! DEFINITION. The root clock and fabric time (chapter 3): lock judgement, beacons, alignment,
steering, holdover and the choice of the time parent. -/

namespace Sys2Proof.Machine

/-! ### Helpers -/

def State.beacon (s : State) (p : Nat) : BeaconX := s.beacons.getD p {}
def State.setBeacon (s : State) (p : Nat) (x : BeaconX) : State :=
  { s with beacons := s.beacons.setD p {} x }

/-- Lane 0 of the port has signal detect and data lock (R62). -/
def State.refQualifies (s : State) (p : Nat) : Bool :=
  s.implemented (pgKlf p) && s.on (pgLane p) (LANE_STATl.SD.nth 0)
    && s.on (pgLane p) (LANE_STATl.LOCK.nth 0)

/-- The first port after `p`, in ascending order with wrap-around, that qualifies; the scan looks
at `n` ports (R64). -/
def State.nextRef (s : State) : Nat → Nat → Option Nat
  | 0, _ => none
  | n + 1, p =>
    let q := (p + 1) % 16
    if s.refQualifies q then some q else s.nextRef n q

/-- A quotient of integers as the registers hold it: exact where it is whole, otherwise one of
the two neighbouring integers (the spec states no rounding). -/
def State.quot (s : State) (n : Int) (d : Nat) : Int × State :=
  if n % (d : Int) = 0 then (n / (d : Int), s)
  else let (b, s) := s.draw 1; (n / (d : Int) + b, s)

/-- A signed value cut to `w` bits, saturating. -/
def satSigned (w : Nat) (i : Int) : Nat :=
  let m : Int := 2 ^ (w - 1)
  unsign w (if i < -m then -m else if m - 1 < i then m - 1 else i)

/-! ### User clock generators (R67) -/

def State.uclk (s : State) (i : Nat) : UclkX := s.uclks.getD i {}
def State.setUclk (s : State) (i : Nat) (x : UclkX) : State := { s with uclks := s.uclks.setD i {} x }

/-- The divider that a generator runs with at a time; 0 while it is low for good or holds low before its
first new rising edge. -/
def UclkX.running (x : UclkX) (t : Nat) : Nat := if t < x.till then x.was else if t < x.since then 0 else x.n

/-- The generator's output: high for floor(n/2) G from each aligned rising edge. -/
def UclkX.high (x : UclkX) (t : Nat) : Bool := x.running t != 0 && decide (t % x.running t < x.running t / 2)

/-- The first multiple of `n` at or after a time. -/
def alignUp (t n : Nat) : Nat := (t + n - 1) / n * n

/-- A new divider, or 0 for a generator that is disabled, applies at a boundary: the current period is
completed, and the output holds low until the first aligned instant of the new divider. -/
def UclkX.turn (x : UclkX) (t n : Nat) : UclkX :=
  if n = x.n then x
  else
    let r := x.running t
    let e := if r = 0 then t else alignUp t r
    ⟨r, e, n, if n = 0 then e else alignUp e n⟩

/-- The divider that CLK_UCLKn of a panel asks for. -/
def State.uclkAsked (s : State) (p n : Nat) : Nat :=
  if s.on (pgClkPnl p) (CLK_UCLKn.EN.nth n) then s.rd (pgClkPnl p) (CLK_UCLKn.DIV.nth n) else 0

/-- The settings of a panel's generators have applied. -/
def State.uclkApplied (s : State) (p : Nat) : State :=
  (List.range 8).foldl (fun s n =>
    let i := 8 * (p - 1) + n
    s.setUclk i ((s.uclk i).turn s.now (s.uclkAsked p n))) s

/-! ### Suspect windows (R78) -/

/-- A cause of suspicion arises, with the start that the rule gives the window. DESIGN CHOICE: where one
exchange brings both causes of R78 (θ above OPEN and a reply that is SUSPECT), the first one named opens
the window and sets its start; R78 says of a further cause only that it keeps the window open. -/
def State.suspectOpen (s : State) (start : Nat) : State :=
  if s.on pgTime TIME_STAT.SUSPECT then s
  else
    let s := (s.wr pgTime TIME_STAT.SUSPECT 1).ev pgTime 10
    let s := s.wrPair pgTime TIME_SUSP_START_LO.TIME TIME_SUSP_START_HI.TIME start
    let s := s.wrPair pgTime TIME_SUSP_END_LO.TIME TIME_SUSP_END_HI.TIME (2 ^ 64 - 1)
    s.seqSuspect start

/-- The window closes when its three conditions hold together. -/
def State.suspectClose (s : State) : State :=
  let r := (s.beacon (s.rd pgTime TIME_STAT.ACTIVE_PORT)).reply
  if s.on pgTime TIME_STAT.SUSPECT && !s.on pgTime TIME_STAT.HOLDOVER
      && (r.map (·.suspect)) == some false && decide (2 ≤ s.tu.confirm) then
    let s := (s.wr pgTime TIME_STAT.SUSPECT 0).ev pgTime 11
    s.wrPair pgTime TIME_SUSP_END_LO.TIME TIME_SUSP_END_HI.TIME s.time
  else s

/-! ### Parents -/

/-- The port can become the time parent: trained, and its last reply had VALID = 1 and a depth of
at most 31 (R76, R81). -/
def State.parentOk (s : State) (p : Nat) : Bool :=
  s.klfUp p && match (s.beacon p).reply with
    | none => false
    | some r => r.valid && decide (r.depth ≤ 31)

/-- The alternate of TIME_PARENT, where it is not the active port. -/
def State.alternate (s : State) : Option Nat :=
  let a := s.rd pgTime TIME_PARENT.ALTERNATE
  if a != s.rd pgTime TIME_STAT.ACTIVE_PORT then some a else none

/-- An alternate qualifies for a switch: ALT_EN is 1, and it can become the parent (R81). -/
def State.altFit (s : State) (a : Option Nat) : Option Nat :=
  a.filter fun p => s.on pgTime TIME_PARENT.ALT_EN && s.parentOk p

/-- The alternate in force at the loss, where it qualifies (R76, R81). DESIGN CHOICE: ALT_EN counts as it stands now,
while the port is the one that TIME_PARENT named at the loss, and a switch that runs is not stopped by ALT_EN. -/
def State.altOk (s : State) : Option Nat := s.altFit s.tu.alt

/-- A switch to a port starts: its drift is measured from now on (R76, R81). -/
def State.switchStart (s : State) (p : Nat) (k : SwitchKind) : State :=
  { s with tu := { s.tu with switch := some ⟨p, k, s.now⟩ } }

/-- In holdover with no switch in progress, the alternate is switched to once it qualifies; while none
qualifies, a primary whose signal has come back in this holdover is switched to (R81, R82). A holdover for a parent
that has become too deep has lost no signal, so it waits for an alternate only (R75). -/
def State.holdSwitch (s : State) : State :=
  if !s.on pgTime TIME_STAT.HOLDOVER || !s.clocksOnFor pgTime || s.tu.switch.isSome then s
  else match s.altOk with
    | some a => s.switchStart a .alternate
    | none =>
      let p := s.rd pgTime TIME_PARENT.PRIMARY
      if s.on pgClk CLK_ROOT_STAT.HOLDOVER && s.tu.back && s.on (pgLane p) (LANE_STATl.SD.nth 0) then
        s.switchStart p .back
      else s

/-- Holdover begins on the active port: the window opens 12,800 G back, and the alternate in force is
the one that TIME_PARENT names now (R76, R78, R80). -/
def State.holdBegin (s : State) : State :=
  let s := (s.wr pgTime TIME_STAT.HOLDOVER 1).ev pgTime 8
  let s := { s with tu := { s.tu with holdStart := s.now, alt := s.alternate, back := false, goal := 0 } }
  s.suspectOpen (s.now - 12800)

/-- The root PLL freezes its control word (R80). -/
def State.freezePll (s : State) : State :=
  if s.on pgClk CLK_ROOT_STAT.HOLDOVER then s
  else
    let (cw, s) := s.draw 24
    let s := (s.wr pgClk CLK_ROOT_STAT.HOLDOVER 1).wr pgClk CLK_ROOT_CW.CW cw
    { s with tu := { s.tu with holdStart := s.now } }

/-- Loss of signal: the PLL freezes, holdover begins, and a switch starts where one can (R80–R82). What a
switch was measuring against the lost port is void. -/
def State.enterHoldover (s : State) : State :=
  if s.on pgClk CLK_ROOT_STAT.HOLDOVER then s
  else
    let s := s.freezePll.holdBegin
    ({ s with tu := { s.tu with switch := none } } : State).holdSwitch

/-- The switch to the port that a rewritten PRIMARY asks for starts, where it qualifies and no other
switch runs (R76). -/
def State.wishStart (s : State) : State :=
  match s.tu.wish with
  | none => s
  | some p =>
    let s := { s with tu := { s.tu with triedAt := s.now } }
    if s.parentOk p && s.tu.switch.isNone then s.switchStart p .deliberate else s

/-- A newly applied TIME_PARENT: a PRIMARY that differs from the active port starts a deliberate
switch, one that names it clears ALT_ACTIVE (R76). An alignment that a former PRIMARY had begun starts
anew (DEDUCED from R74, whose steps all speak of the port that PRIMARY names). -/
def State.parentApplied (s : State) (old : Nat) : State :=
  let p := s.rd pgTime TIME_PARENT.PRIMARY
  let s := if (s.tu.switch.map (·.kind)) = some .deliberate then
      { s with tu := { s.tu with switch := none } } else s
  let s := if p ≠ old ∧ !s.on pgTime TIME_STAT.VALID then
      { s with tu := { s.tu with stepped := false, confirm := 0, thetas := [] } } else s
  let s := if p = s.rd pgTime TIME_STAT.ACTIVE_PORT then
      let s := s.wr pgTime TIME_STAT.ALT_ACTIVE 0
      { s with tu := { s.tu with wish := none } }
    else ({ s with tu := { s.tu with wish := some p } } : State).wishStart
  s.holdSwitch

/-- The reference and the active parent move to a port: steps 2, 3 and 5 of R81. The preset of the
rotator makes the change hitless, so the grid does not move. An exchange is forced on the new port, and
its beacons run at the short interval until two exchanges confirm it. -/
def State.switchTo (s : State) (p : Nat) (alt : Bool) : State :=
  let s := (s.wr pgTime TIME_STAT.ACTIVE_PORT p).wr pgTime TIME_STAT.ALT_ACTIVE (bit alt)
  let s := (s.wr pgClk CLK_ROOT_STAT.REF_PORT p).ev pgTime 9
  let s := (s.wr pgTime TIME_STAT.HOLDOVER 0).wr pgClk CLK_ROOT_STAT.HOLDOVER 0
  let s := s.setBeacon p { s.beacon p with last := none }
  { s with tu := { s.tu with
      switch := none, wish := s.tu.wish.filter (· != p), thetas := [], confirm := 0, goal := 0, fast := true } }

/-! ### Reference and judgement (R61–R65) -/

/-- The shell takes a reference port and starts to judge it. Until alignment it is the
provisional parent, which TIME_PARENT.PRIMARY reads after reset (R61, R62). -/
def State.takeRef (s : State) (p : Nat) : State :=
  let s := (s.wr pgClk CLK_ROOT_STAT.REF_PORT p).wr pgClk CLK_ROOT_STAT.WINDOWS 0
  let s := { s with tu := { s.tu with hasRef := true, tried := 0 } }
  if s.tu.everJudged then s
  else (s.wr pgTime TIME_STAT.ACTIVE_PORT p).wrCov pgTime TIME_PARENT.PRIMARY p

/-- The pages whose clock R428 starts at the first judgement. -/
def judgedPages (s : State) : List Nat :=
  [pgClk, pgTime, pgNoc 0, pgGov, pgKlfRt, pgKlfCom] ++ (List.range 16).map pgKlf
    ++ (List.range 16).map pgLane
    ++ ((List.range 4).map (· + 1)).filterMap fun p =>
        if maskBit (s.rd pgSeam SEAM_PKG.PRESENT) p then some (pgClkPnl p) else none

/-- The package reference starts at a present panel (R65). -/
def State.refStart (s : State) (p : Nat) : State :=
  if maskBit (s.rd pgSeam SEAM_PKG.PRESENT) p && (s.die p).refAt.isNone then
    (s.setDie p { s.die p with refAt := some s.now }).wr (pgClkPnl p) CLK_PNL_STAT.REF_OK 1
  else s

/-- Sixty-four windows have not judged the port: JUDGE_FAIL sets and the reference moves to the
next qualifying port (R64). -/
def State.judgeTimeout (s : State) : State :=
  if s.tu.hasRef && !s.on pgClk CLK_ROOT_STAT.JUDGED && decide (64 ≤ s.tu.tried) then
    let s := s.ev pgClk 8
    match s.nextRef 16 (s.rd pgClk CLK_ROOT_STAT.REF_PORT) with
    | none => { (s.wr pgClk CLK_ROOT_STAT.WINDOWS 0) with tu := { s.tu with hasRef := false, tried := 0 } }
    | some q => s.takeRef q
  else s

def execJudgeTimeout (s : State) : Host.Outcome State Fault Refusal := .next s.judgeTimeout

/-- A present panel's multiplier locks to the package reference (R65). -/
def State.multLock (s : State) (p : Nat) : State :=
  if decide (1 ≤ p ∧ p ≤ 4) && s.on (pgClkPnl p) CLK_PNL_STAT.REF_OK && !(s.die p).lost then
    s.wr (pgClkPnl p) CLK_PNL_STAT.MULT_LOCK 1
  else s

def execPanelMultLock (p : Nat) (s : State) : Host.Outcome State Fault Refusal :=
  .next (s.multLock p)

/-! ### Beacons (R70–R76) -/

/-- PRIMARY names a port that VALID = 0 aligns to: its last reply had VALID = 1 and a depth of at most
31 (R74). -/
def State.aligning (s : State) (p : Nat) : Bool :=
  !s.on pgTime TIME_STAT.VALID && p == s.rd pgTime TIME_PARENT.PRIMARY
    && match (s.beacon p).reply with
      | none => false
      | some r => r.valid && decide (r.depth ≤ 31)

/-- A control column leaves on a port. -/
def State.sendCtl (s : State) (p : Nat) (k : CtlKind) (w : Nat) : State := s.transmit p [ctlColumn k w]

/-- A control column that arrives on a port: one that R332 discards is counted, and in PARAM it breaks the
row of training columns; one of the kind that a command expects acts by its payload. DESIGN CHOICE: four
blocks whose sync headers are not all 10 are no control column, and nothing is said of them: they do
nothing here. -/
def State.ctlReceive (s : State) (p : Nat) (c : Column) (k : CtlKind) (f : Nat → State) : State :=
  if !c.isCtl then s
  else match ctlKind c with
    | none => (s.bump (pgKlf p) KLF_CTL_ERR.COUNT 1).modPort p fun x => { x with trn := 0 }
    | some j => if j = k then f c.payload else s

/-- The interval of a port’s beacons: 12,800 G while the device aligns to it or confirms a switch to it,
128,000 G otherwise (R70, R74, R76, R81). -/
def State.beaconGap (s : State) (p : Nat) : Nat :=
  if s.aligning p || (s.tu.fast && p == s.rd pgTime TIME_STAT.ACTIVE_PORT) then 12800 else 128000

/-- When a port’s next beacon exchange starts. -/
def State.beaconDue (s : State) (p : Nat) : Nat :=
  match (s.beacon p).last with
  | none => s.now
  | some t => max s.now (t + s.beaconGap p)

/-- The next beacon exchange starts on a trained port, when its interval has passed: t1 is the device's
own time in VS. An exchange still in flight is abandoned by then. -/
def State.beaconStart (s : State) (p : Nat) : State :=
  if s.klfUp p && s.portRuns p then
    let t := s.beaconDue p
    let (q, s) := s.draw 16
    let s := { s with now := t }
    (s.setBeacon p { s.beacon p with last := some t, t1 := some (t * 256), seq := q }).sendCtl p .bcn q
  else s

def execBeaconStart (p : Nat) (s : State) : Host.Outcome State Fault Refusal :=
  .next (s.beaconStart p)

/-- A beacon is answered within 64 columns, with its exchange number, T2 and T3 and with this device's
depth, VALID and SUSPECT (R343). T2 is fabric time with its fraction in VS: time has come to it, and to T3 as the reply
leaves, which computes it beforehand. -/
def State.bcnReceive (s : State) (p w t2 t3 : Nat) : State :=
  if decide (s.now ≤ t2 / 256 ∧ t2 ≤ t3 ∧ t3 ≤ t2 + 64 * 33 * 256) then
    let s := { s with now := t3 / 256 }
    let v := s.on pgTime TIME_STAT.VALID
    s.sendCtl p .brp (brpPayload w t2 t3 (if v then s.rd pgTime TIME_STAT.DEPTH else 63) v
      (s.on pgTime TIME_STAT.SUSPECT))
  else s

/-- A control column reaches an UP port. -/
def State.ctlHears (s : State) (p : Nat) (c : Column) (k : CtlKind) (f : State → Nat → State) : State :=
  s.klfHears p [c] fun s cs => s.ctlReceive p (cs.headD c) k (f s)

def execBcnReceive (p : Nat) (c : Column) (t2 t3 : Nat) (s : State) : Host.Outcome State Fault Refusal :=
  .next (s.ctlHears p c .bcn fun s w => s.bcnReceive p w t2 t3)

/-! ### Steering (R73) -/

/-- The mean of offsets in VS as rotator steps, four to a VS, to the nearest step (R77). -/
def meanSteps (ts : List Int) : Int :=
  if ts.isEmpty then 0 else (8 * ts.sum + ts.length) / (2 * (ts.length : Int))

/-- TIME_SLEW.RATE in ppm: 0 is taken as 1, and 17 or more as 16. -/
def State.slewRate (s : State) : Nat := min 16 (max 1 (s.rd pgTime TIME_SLEW.RATE))

/-- The most rotator steps that the steering makes in an interval: RATE ppm of its grid units. -/
def slewMax (rate dt : Nat) : Int := (rate * dt * 1024 / 1000000 : Nat)

/-- The rotator has moved, since it was last looked at, towards the offset it steers to, at no more than
RATE. A holdover holds it still. -/
def State.slew (s : State) : State :=
  let m := slewMax s.slewRate (s.now - s.tu.slewAt)
  let d := if s.on pgTime TIME_STAT.VALID && !s.on pgTime TIME_STAT.HOLDOVER then max (-m) (min m s.tu.goal) else 0
  { s with tu := { s.tu with
      rot := (((s.tu.rot : Int) + d) % 1024).toNat, goal := s.tu.goal - d, slewAt := s.now } }

/-- The count and the rotator move by θ vernier steps in one step (R74). -/
def State.stepGrid (s : State) (theta : Int) : State :=
  let ph : Int := (s.now : Int) * 1024 + s.tu.rot + theta * 4
  let t := (ph / 1024).toNat
  { s with now := t, tu := { s.tu with
      rot := (ph % 1024).toNat, stepped := true, jumped := s.tu.jumped + t - s.now } }

/-- The absolute value of θ is at most a limit. -/
def within (theta : Int) (lim : Nat) : Bool := decide (theta.natAbs ≤ lim)

/-- The initial alignment on PRIMARY (R74): the first exchange steps the grid, two consecutive
exchanges within CLOSE set VALID, and the parent is then the primary. A suspect window whose conditions
hold closes. DESIGN CHOICE: the exchange whose reply first shows VALID = 1 and a depth of at most 31 is
itself the first exchange, and steps the grid. -/
def State.align (s : State) (p : Nat) (theta : Int) (depth : Nat) : State :=
  if !s.tu.stepped then
    { (s.stepGrid theta) with tu := { (s.stepGrid theta).tu with confirm := 0, thetas := [] } }
  else if decide (2 ≤ s.tu.confirm) then
    let s := (s.wr pgTime TIME_STAT.VALID 1).wr pgTime TIME_STAT.DEPTH (depth + 1)
    let s := (s.wr pgTime TIME_STAT.ACTIVE_PORT p).wr pgClk CLK_ROOT_STAT.REF_PORT p
    let s := s.wr pgTime TIME_STAT.ALT_ACTIVE 0
    let s := { s with tu := { s.tu with
        switch := s.tu.switch.filter (·.port != p), wish := s.tu.wish.filter (· != p), slewAt := s.now } }
    s.suspectClose
  else s

/-- A completed exchange on the active parent while VALID is 1 (R73, R74, R78); a reply of depth 32 or more changes
no DEPTH. DESIGN CHOICE: a holdover that began because the parent had become too deep ends when that parent, whose
signal was never lost, is acceptable again. -/
def State.steer (s : State) (theta : Int) (r : BeaconReply) : State :=
  let s := s.slew
  let s := if r.depth ≤ 31 then s.wr pgTime TIME_STAT.DEPTH (r.depth + 1) else s
  let s := if s.on pgTime TIME_STAT.HOLDOVER && !s.on pgClk CLK_ROOT_STAT.HOLDOVER && r.valid && decide (r.depth ≤ 31)
    then s.wr pgTime TIME_STAT.HOLDOVER 0 else s
  let s := { s with tu := { s.tu with goal := meanSteps s.tu.thetas, fast := s.tu.fast && decide (s.tu.confirm < 2) } }
  let s := if !within theta (s.rd pgTime TIME_SLEW.OPEN) then s.suspectOpen s.now else s
  let s := if r.suspect then s.suspectOpen (s.now - 128000) else s
  s.suspectClose

/-- A reply too deep refuses its port as parent (R75). The active parent of a valid device is lost in this
way: where the alternate is acceptable the device switches to it, tracking its reference port meanwhile;
where none is, holdover begins with the frequency still that of the reference port. DESIGN CHOICE:
TOO_DEEP stays 1 until the package resets, since nothing is said to clear it. -/
def State.tooDeep (s : State) (p : Nat) : State :=
  let s := (s.wr pgTime TIME_STAT.TOO_DEEP 1).ev pgTime 13
  if s.on pgTime TIME_STAT.VALID && p == s.rd pgTime TIME_STAT.ACTIVE_PORT
      && !s.on pgTime TIME_STAT.HOLDOVER && s.tu.switch.isNone then
    match s.altFit s.alternate with
    | some a => s.switchStart a .alternate
    | none => s.holdBegin
  else s

/-- While VALID is 0, a reply of PRIMARY that the device cannot align to begins the alignment anew (DEDUCED from
R74, whose steps hold only while the last reply is acceptable). -/
def State.alignBreak (s : State) (p : Nat) : State :=
  if !s.on pgTime TIME_STAT.VALID && p == s.rd pgTime TIME_PARENT.PRIMARY && !s.aligning p then
    { s with tu := { s.tu with stepped := false, confirm := 0, thetas := [] } }
  else s

/-- What a completed exchange does beyond its delay and its offset (R71–R78). Only exchanges on the port
that the device aligns to, or steers by, confirm anything. -/
def State.exchange (s : State) (p : Nat) (theta : Int) (r : BeaconReply) : State :=
  let s := s.alignBreak p
  let active := p == s.rd pgTime TIME_STAT.ACTIVE_PORT
  let steers := active && s.on pgTime TIME_STAT.VALID
  let counts := s.aligning p || steers
  let s := if active then
      (s.wr pgTime TIME_OFFSET.THETA (satSigned 16 theta)).wr pgTime TIME_OFFSET.COUNT
        (s.rd pgTime TIME_OFFSET.COUNT + 1) else s
  let c := if within theta (s.rd pgTime TIME_SLEW.CLOSE) then s.tu.confirm + 1 else 0
  let ts := (s.tu.thetas ++ [theta]).drop (s.tu.thetas.length + 1 - 16)
  let s := if counts then
      { s with tu := { s.tu with confirm := c, thetas := ts } } else s
  let s := if 32 ≤ r.depth then s.slew.tooDeep p else s
  let s :=
    if s.aligning p then s.align p theta r.depth
    else if steers then s.steer theta r
    else s
  s.holdSwitch

/-- BRP_RECEIVE: a reply with the number of the exchange in flight completes it (R71, R343). Timestamps
are in VS; t4 is the device's own, and comes within 12,800 G of t1. -/
def State.brpReceive (s : State) (p w t4 : Nat) : State :=
  let t2 := bitsOf w 87 16
  let t3 := bitsOf w 159 88
  let r : BeaconReply := ⟨maskBit w 166, maskBit w 167, bitsOf w 165 160⟩
  match (s.beacon p).t1 with
  | none => s
  | some t1 =>
    if bitsOf w 15 0 != (s.beacon p).seq || decide (t1 + 12800 * 256 < t4) then s
    else
      let s := { s with now := max s.now (t4 / 256) }
      let a := signed 16 (s.rd pgTime (TIME_TRIMp.ASYM.nth p))
      let (d, s) := s.quot (((t4 : Int) - t1) - ((t3 : Int) - t2) + a) 2
      let (theta, s) := s.quot (((t2 : Int) - t1) - ((t4 : Int) - t3) + a) 2
      let s := (s.wr pgTime (TIME_DELAYp.DFWD.nth p) (unsign 24 d)).wr pgTime
        (TIME_DELAYp.VALID.nth p) 1
      let s := s.setBeacon p { s.beacon p with t1 := none, reply := some r }
      s.exchange p theta r

def execBrpReceive (p : Nat) (c : Column) (t4 : Nat) (s : State) : Host.Outcome State Fault Refusal :=
  .next (s.ctlHears p c .brp fun s w => s.brpReceive p w t4)

/-- The exchange in flight is abandoned 12,800 G after its start (R343). -/
def State.beaconTimeout (s : State) (p : Nat) : State :=
  match (s.beacon p).t1 with
  | none => s
  | some t1 =>
    if s.clocksOnFor (pgKlf p) then
      ({ s with now := max s.now (t1 / 256 + 12800) } : State).setBeacon p { s.beacon p with t1 := none }
    else s

def execBeaconTimeout (p : Nat) (s : State) : Host.Outcome State Fault Refusal :=
  .next (s.beaconTimeout p)

/-! ### Loss, switch and return of the parent (R76, R80–R82) -/

/-- The drift of the new parent's phase over 25,600 G has been measured, in VS: at most 16 VS
switches; more refuses the port (R76, R81, R82). -/
def State.driftMeasured (s : State) (drift : Nat) : State :=
  match s.tu.switch with
  | none => s
  | some w =>
    let s := { s with now := max s.now (w.since + 25600) }
    if drift ≤ 16 then s.switchTo w.port (w.kind == .alternate)
    else
      let s := { s with tu := { s.tu with switch := none } }
      match w.kind with
      | .deliberate => { s with tu := { s.tu with triedAt := s.now } }
      | .back => s
      | .alternate =>
        let s := if s.on pgTime TIME_STAT.HOLDOVER then s else s.holdBegin
        ({ s with tu := { s.tu with alt := none } } : State).holdSwitch

def execParentDriftMeasured (drift : Nat) (s : State) : Host.Outcome State Fault Refusal :=
  .next (if s.clocksOnFor pgTime then s.driftMeasured drift else s)

/-- A failed deliberate switch is tried again 128,000 G after it was last tried (R76). -/
def State.switchRetry (s : State) : State :=
  if s.tu.wish.isNone || s.tu.switch.isSome || !s.clocksOnFor pgTime then s
  else ({ s with now := max s.now (s.tu.triedAt + 128000) } : State).wishStart

def execSwitchRetry (s : State) : Host.Outcome State Fault Refusal := .next s.switchRetry

end Sys2Proof.Machine
end

