-- ==== Sys2Proof/Machine/Klf.lean ====
section
/-! DEFINITION. The Kelef link layer (chapter 14): training, the loss of a port, credits, retry,
frames and the packet header; and the reception of a frame. -/

namespace Sys2Proof.Machine

/-! ### The packet header (R339) -/

/-- The header of a packet as a 192-bit number. -/
def Packet.header (p : Packet) : Nat :=
  let lo := p.typ % 16 + bit p.sr * 2 ^ 4 + bit p.unsure * 2 ^ 5 + bit p.bcast * 2 ^ 6
    + bit p.part * 2 ^ 7 + p.status % 2 ^ 4 * 2 ^ 8 + p.len % 2 ^ 8 * 2 ^ 12
    + p.tag % 2 ^ 16 * 2 ^ 20 + p.addr % 2 ^ 48 * 2 ^ 36
  if p.sr then
    lo + p.hops % 2 ^ 5 * 2 ^ 84 + p.idx % 2 ^ 5 * 2 ^ 89 + p.route % 2 ^ 96 * 2 ^ 94
  else
    lo + p.dst % 2 ^ 12 * 2 ^ 84 + p.src % 2 ^ 12 * 2 ^ 96 + p.orig % 2 ^ 8 * 2 ^ 108
      + p.ttl % 2 ^ 8 * 2 ^ 116 + p.spf % 2 ^ 3 * 2 ^ 124 + p.spst % 2 ^ 3 * 2 ^ 127
      + bit p.opn * 2 ^ 130 + p.itime % 2 ^ 32 * 2 ^ 131

/-- The link fields of a frame, lane 1 lowest: SEQ, VC and NCOL (R338). -/
def Packet.linkFields (p : Packet) (seq : Nat) : Nat :=
  seq % 2 ^ 12 + p.vc * 2 ^ 12 + p.ncol % 2 ^ 4 * 2 ^ 16

/-- The packet of a frame that arrives: link fields, header and data columns (R338, R339). -/
def Packet.ofFrame (link hdr data : Nat) : Packet :=
  let sr := maskBit hdr 4
  let p : Packet :=
    { typ := bitsOf hdr 3 0, sr := sr, unsure := maskBit hdr 5, bcast := maskBit hdr 6,
      part := maskBit hdr 7, status := bitsOf hdr 11 8, len := bitsOf hdr 19 12,
      tag := bitsOf hdr 35 20, addr := bitsOf hdr 83 36, ttl := 255,
      ncol := bitsOf link 19 16, ctl := bitsOf hdr 3 0 == 6 && bitsOf link 13 12 == 3,
      data := if bitsOf link 19 16 = 0 then 0 else data % 2 ^ (8 * (bitsOf hdr 19 12 + 1)) }
  if sr then
    { p with hops := bitsOf hdr 88 84, idx := bitsOf hdr 93 89, route := bitsOf hdr 189 94 }
  else
    { p with dst := bitsOf hdr 95 84, src := bitsOf hdr 107 96, orig := bitsOf hdr 115 108,
             ttl := bitsOf hdr 123 116, spf := bitsOf hdr 126 124, spst := bitsOf hdr 129 127,
             opn := maskBit hdr 130, itime := bitsOf hdr 162 131 }

/-! ### The loss of a port (R334, R337, R361) -/

/-- KLF_DOWN and KLF_DOWN_T record a loss, and the port's silence begins. -/
def State.klfDownRecord (s : State) (p cause : Nat) : State :=
  let pg := pgKlf p
  let s := (s.wr pg KLF_STAT.STATE 0).wr pg KLF_DOWN.CAUSE cause
  let s := s.wrPair pg KLF_DOWN_T_LO.TIME KLF_DOWN_T_HI.TIME s.time
  let s := s.wr pg PAGE_LEVEL.BLOCK (maskSet (s.rd pg PAGE_LEVEL.BLOCK) 0 false)
  let s := s.modPort p fun x =>
    { x with quiet := some (s.now + 12800), enter := s.now, trn := 0, wire := [], run := 0 }
  s.ev pg 9

/-- The receive-buffer columns that the packets waiting for a port's output occupy are freed; the
columns of a broadcast when its last copy is gone (R335, R364). -/
def State.freeTx (s : State) (e : TxEnt) : State :=
  match e.src with
  | none => s
  | some i =>
    if e.share ≠ 0 ∧ (List.range 16).any fun q => (s.port q).txq.any fun f => f.share == e.share
    then s else s.owe i e.pkt.vc e.pkt.cols

/-- What a port holds is discarded: its replay buffer, its receive buffer with the packets of it that wait to leave
on other ports, and the packets that wait to leave on it (R337). -/
def State.portFlush (s : State) (p : Nat) : State :=
  let q := (s.port p).txq
  let s := s.modPort p fun x =>
    { x with txq := [], replay := [], rx := [], ing := none, owe := [0, 0, 0, 0], naked := false,
             nakDue := false, ackDue := false, stuck := 0, mark := none }
  let s := (List.range 16).foldl (fun s i =>
    s.modPort i fun x => { x with txq := x.txq.filter fun e => e.src != some p }) s
  (q.filter fun e => e.src != some p).foldl State.freeTx s

/-- A port goes DOWN. One that was UP falls over: its FAILED bit sets in the same step, local
requests are answered UNSURE, and LINK_DOWN goes to the host. -/
def State.klfDown (s : State) (p cause : Nat) : State :=
  let up := s.klfUp p
  let s := s.klfDownRecord p cause
  if up then
    let s := s.bump (pgKlf p) KLF_DOWN.COUNT 1
    let s := s.wr pgKlfRt KLF_FAILED.PORTS (maskSet (s.rd pgKlfRt KLF_FAILED.PORTS) p true)
    let s := (s.bump pgKlfRt KLF_FALLOVERS.COUNT 1).ev pgKlfRt 11
    let s := s.setBeacon p { s.beacon p with t1 := none }
    let s := ((s.portFlush p).egrUnsure).modPort p fun x => { x with fell := some s.now }
    if s.on pgKlfRt KLF_EVT_CFG.LINK_EV then
      s.postEvent (2 * 2 ^ 4 + p * 2 ^ 8 + s.rd (pgKlf p) KLF_STAT.PARTNER_DEV * 2 ^ 12
        + s.rd (pgKlf p) KLF_STAT.PARTNER_PORT * 2 ^ 24 + cause * 2 ^ 28) s.time
    else s
  else s

/-- The LINK_UP event of a port, with the time at which the port reached UP (R353, R354). -/
def State.linkUp (s : State) (p : Nat) : State :=
  if s.on pgKlfRt KLF_EVT_CFG.LINK_EV then
    s.postEvent (2 ^ 4 + p * 2 ^ 8 + s.rd (pgKlf p) KLF_STAT.PARTNER_DEV * 2 ^ 12
      + s.rd (pgKlf p) KLF_STAT.PARTNER_PORT * 2 ^ 24) ((s.port p).enter % 2 ^ 64)
  else s

/-! ### Training (R333, R334) -/

/-- KLF_CTL.EN: 1 starts a port that is DOWN, 0 takes it down. -/
def State.klfEnable (s : State) (p : Nat) (en : Bool) : State :=
  let s := s.wrCov (pgKlf p) KLF_CTL.EN (bit en)
  if en then s.klfToDetect p
  else if s.rd (pgKlf p) KLF_STAT.STATE = 0 then s else s.klfDown p 6

def execKlfPortEnable (p : Nat) (en : Bool) (s : State) : Host.Outcome State Fault Refusal :=
  .next (if decide (p < 16) then s.guarded (pgKlf p) 0x40 fun s => (s.disarm (pgKlf p)).klfEnable p en
    else s.answer .decode)

/-- KLF_CTL.RETRAIN takes an UP port DOWN and retrains it at once. -/
def State.klfRetrain (s : State) (p : Nat) : State :=
  if s.klfUp p then
    ((s.klfDown p 6).modPort p fun x => { x with quiet := none }).klfToDetect p
  else s

def execRetrain (p : Nat) (s : State) : Host.Outcome State Fault Refusal :=
  .next (if decide (p < 16) then s.guarded (pgKlf p) 0x40 fun s => (s.disarm (pgKlf p)).klfRetrain p else s.answer .decode)

/-- KLF_ALIGN_DONE: the lanes are deskewed, with the skew measured. -/
def State.alignDone (s : State) (p skew : Nat) : State :=
  if s.portRuns p && s.rd (pgKlf p) KLF_STAT.STATE == 3 then
    let s := s.wr (pgKlf p) KLF_SKEW.UI skew
    if 256 < skew then s.klfDown p 4 else s.klfEnter p 4
  else s

def execKlfAlignDone (p skew : Nat) (s : State) : Host.Outcome State Fault Refusal :=
  .next (s.alignDone p (min skew 511))

/-- TRN_RECEIVE: a training column with its sender's device, port and lane order. -/
def State.trnReceive (s : State) (p dev port : Nat) (order : Bool) : State :=
  if s.portRuns p && s.rd (pgKlf p) KLF_STAT.STATE == 4 then
    if order then
      s.modPort p fun x =>
        { x with trn := if x.trn = 0 ∨ (x.pdev = dev % 2 ^ 12 ∧ x.pport = port % 16) then x.trn + 1
                        else 1,
                 pdev := dev % 2 ^ 12, pport := port % 16 }
    else s.klfDown p 5
  else s

def execTrnReceive (p dev port : Nat) (order : Bool) (s : State) : Host.Outcome State Fault Refusal :=
  .next (s.trnReceive p dev port order)

/-- KLF_PARAM_DONE: eight training columns have come and as many have been sent, one in each slot since PARAM was
entered; the port enters UP with its partner, fresh sequence numbers and full credits. -/
def State.paramDone (s : State) (p : Nat) : State :=
  if s.portRuns p && s.rd (pgKlf p) KLF_STAT.STATE == 4 && decide (8 ≤ (s.port p).trn) then
    let pg := pgKlf p
    let x := s.port p
    let s := { s with now := max s.now (x.enter + 8 * 33) }
    let s := s.klfEnter p 5
    let s := (s.wr pg KLF_STAT.PARTNER_DEV x.pdev).wr pg KLF_STAT.PARTNER_PORT x.pport
    let s := s.wr pg KLF_STAT.HOST (bit (x.pdev == 0))
    let s := (List.range 4).foldl (fun s v => s.wr pg (creditFld v) (vcAlloc v)) s
    let s := s.modPort p fun x =>
      { x with nextSeq := 0, replay := [], acked := 0, mark := none, stuck := 0, expect := 0,
               naked := false, nakDue := false, ackDue := false, owe := [0, 0, 0, 0], rx := [],
               lnkT := s.now, wire := [], wireAt := s.now, run := 0 }
    let s := s.wr pg PAGE_LEVEL.BLOCK (maskSet (s.rd pg PAGE_LEVEL.BLOCK) 0 true)
    (s.ev pg 8).linkUp p
  else s

def execKlfParamDone (p : Nat) (s : State) : Host.Outcome State Fault Refusal :=
  .next (s.paramDone p)

/-- KLF_TRAIN_TIMEOUT: LOCK, ALIGN and PARAM have a limit of 1,280,000 G from their entry. -/
def State.trainTimeout (s : State) (p : Nat) : State :=
  let st := s.rd (pgKlf p) KLF_STAT.STATE
  if s.portRuns p && s.running (pgKlf p) && decide (2 ≤ st ∧ st ≤ 4) then
    let s := { s with now := max s.now ((s.port p).enter + 1280000) }
    s.klfDown p 7
  else s

def execKlfTrainTimeout (p : Nat) (s : State) : Host.Outcome State Fault Refusal :=
  .next (s.trainTimeout p)

/-- KLF_DOWN_QUIET_END: the silence ends, and an enabled port returns to DETECT. -/
def State.quietEnd (s : State) (p : Nat) : State :=
  match (s.port p).quiet with
  | none => s
  | some t =>
    let s := { s with now := max s.now t }
    (s.modPort p fun x => { x with quiet := none }).klfToDetect p

def execKlfDownQuietEnd (p : Nat) (s : State) : Host.Outcome State Fault Refusal :=
  .next (if s.running (pgKlf p) && s.portRuns p then s.quietEnd p else s)

/-- KLF_SKEW_EXCEEDED: the skew of an UP port grows beyond 256 UI. -/
def execKlfSkewExceeded (p skew : Nat) (s : State) : Host.Outcome State Fault Refusal :=
  .next (if s.portRuns p && s.klfUp p && decide (256 < skew) then
    (s.wr (pgKlf p) KLF_SKEW.UI (min skew 511)).klfDown p 4 else s)

/-- CTL_COLUMN_DISCARD: a control column is discarded and counted; in PARAM it breaks the row of
training columns (R332). On a port whose EN is 0 it is bits for the pattern checkers. -/
def execCtlColumnDiscard (p : Nat) (c : Column) (s : State) : Host.Outcome State Fault Refusal :=
  .next (if !s.on (pgKlf p) KLF_CTL.EN then s.klfHears p [c] fun s _ => s
    else if s.portRuns p && decide (3 ≤ s.rd (pgKlf p) KLF_STAT.STATE) && ctlBad (s.colRx p c) then
      s.ctlReceive p (s.colRx p c) .idl fun _ => s
    else s)

/-- What the lanes of a port with EN 0 send: on each the pattern of its PAT, otherwise nothing. -/
def State.patColumn (s : State) (p : Nat) : Column × State :=
  let x := s.quad p
  let w (l : Nat) : Nat × Nat :=
    let pat := s.laneRd p l LANE_TXl.PAT
    if pat = 1 ∨ pat = 2 then prbsWord pat 66 (x.gen.getD l (2 ^ 31 - 1)) else (0, x.gen.getD l (2 ^ 31 - 1))
  let b (l : Nat) : Block := ⟨.ofNat 2 (w l).1, .ofNat 64 ((w l).1 / 4)⟩
  (⟨b 0, b 1, b 2, b 3⟩,
    s.setQuad p { x with gen := (List.range 4).foldl (fun g l => g.put l (w l).2) x.gen })

/-- IDL_INSERT: a port that transmits sends an IDL column (R331); one whose EN is 0 sends 66 bits of the patterns that
its lanes are set to (R379). -/
def execIdlInsert (p : Nat) (s : State) : Host.Outcome State Fault Refusal :=
  .next (if s.portRuns p && s.klfUp p then s.sendCtl p .idl 0
    else if s.portRuns p && s.quadActive p && s.on pgClk CLK_ROOT_STAT.JUDGED && !s.on (pgKlf p) KLF_CTL.EN then
      let (c, s) := s.patColumn p
      s.modPort p fun x => { x with wire := [c], wireAt := max s.now (x.wireAt + 33), run := 0 }
    else s)

/-! ### Credits and retry (R335–R337) -/

/-- A replay starts: the frames that pass the test are due again. LIMIT replays without progress
take the port DOWN with RETRY. -/
def State.replay (s : State) (p : Nat) (due : KFrame → Bool) : State :=
  let x := s.port p
  let s := (s.bump (pgKlf p) KLF_REPLAY.COUNT 1).ev (pgKlf p) 11
  let stuck := if x.mark = some x.acked then x.stuck + 1 else 0
  let s := s.setPort p { x with stuck := stuck, mark := some x.acked, replay := x.replay.map fun (f : KFrame) => if due f then { f with due := true } else f }
  if max 1 (s.rd (pgKlf p) KLF_RETRY_CFG.LIMIT) ≤ stuck then s.klfDown p 3 else s

/-- The sequence numbers of a replay buffer up to and with `n` are acknowledged. -/
def PortX.ack (x : PortX) (n : Nat) : PortX :=
  match x.replay.findIdx? fun f => f.seq == n with
  | none => x
  | some i => { x with replay := x.replay.drop (i + 1), acked := x.acked + i + 1 }

/-- The position of a frame in a replay buffer. -/
def PortX.place (x : PortX) (seq : Nat) : Option Nat := x.replay.findIdx? fun f => f.seq == seq

/-- LNK_RECEIVE: acknowledgement, credits and a replay request, from the column's payload. -/
def State.lnkReceive (s : State) (p w : Nat) : State :=
  let s := if maskBit w 12 then s.modPort p fun x => x.ack (bitsOf w 11 0) else s
  let s := (List.range 4).foldl (fun s v =>
    s.wr (pgKlf p) (creditFld v)
      (min (vcAlloc v) (s.rd (pgKlf p) (creditFld v) + bitsOf w (33 + 8 * v) (26 + 8 * v)))) s
  if maskBit w 13 then
    match (s.port p).place (bitsOf w 25 14) with
    | none => s
    | some i =>
      let from' := ((s.port p).replay.drop i).map (·.seq)
      s.replay p fun f => from'.contains f.seq
  else s

def execLnkReceive (p : Nat) (c : Column) (s : State) : Host.Outcome State Fault Refusal :=
  .next (s.ctlHears p c .lnk fun s => s.lnkReceive p)

/-- The payload of the LNK column that a receiver would send now (R336). -/
def PortX.lnkWord (x : PortX) : Nat :=
  let cr (v : Nat) := min 255 (x.owe.getD v 0)
  (x.expect + 4095) % 4096 + bit x.ackDue * 2 ^ 12 + bit x.nakDue * 2 ^ 13
    + (if x.nakDue then x.expect * 2 ^ 14 else 0)
    + cr 0 * 2 ^ 26 + cr 1 * 2 ^ 34 + cr 2 * 2 ^ 42 + cr 3 * 2 ^ 50

/-- LNK_SEND: due with 16 columns of credit to return, at once for a NAK, and for an acknowledgement
64 columns after the last one. -/
def State.lnkSend (s : State) (p : Nat) : State :=
  let x := s.port p
  let sum := x.owe.foldl (· + ·) 0
  if s.portRuns p && s.klfUp p && (decide (16 ≤ sum) || x.ackDue || x.nakDue) then
    let s := if 16 ≤ sum ∨ x.nakDue then s else { s with now := max s.now (x.lnkT + 64 * 33) }
    (s.setPort p { x with lnkT := s.now, ackDue := false, nakDue := false, owe := x.owe.map (· - 255) }).sendCtl p .lnk x.lnkWord
  else s

def execLnkSend (p : Nat) (s : State) : Host.Outcome State Fault Refusal := .next (s.lnkSend p)

/-- The columns that a replay buffer holds. -/
def PortX.held (x : PortX) : Nat := x.replay.foldl (fun n f => n + f.pkt.cols) 0

/-- A 48-bit count of a _LO and _HI pair advances. -/
def State.count48 (s : State) (pg : Nat) (lo hi : Fld) : State :=
  s.wrPair pg lo hi ((s.rdPair pg lo hi + 1) % 2 ^ 48)

/-- The columns of a frame leave the credits of its channel. -/
def State.spend (s : State) (p : Nat) (k : Packet) : State :=
  s.wr (pgKlf p) (creditFld k.vc) (s.rd (pgKlf p) (creditFld k.vc) - k.cols)

/-- The channel holds credits for a packet's frame. -/
def State.credited (s : State) (p : Nat) (k : Packet) : Bool :=
  decide (k.cols ≤ s.rd (pgKlf p) (creditFld k.vc))

/-- What is on the wire for a frame. -/
def Packet.onWire (k : Packet) (seq : Nat) : List Column :=
  frameColumns (k.linkFields seq) k.header k.data

/-- FRAME_SEND: frames due for replay go first, in order; then the oldest packet of the channel,
while the replay buffer has room for it. -/
def State.frameSend (s : State) (p vc : Nat) : State :=
  let x := s.port p
  match x.replay.find? (·.due) with
  | some f =>
    if s.credited p f.pkt then
      let y := { x with replay := x.replay.map fun (g : KFrame) => if g.seq = f.seq then { g with due := false, sentAt := s.now } else g }
      ((s.setPort p y).transmit p (f.pkt.onWire f.seq)).spend p f.pkt
    else s
  | none =>
    match x.txq.find? fun e => e.pkt.vc == vc with
    | none => s
    | some e =>
      if s.credited p e.pkt && decide (x.held + e.pkt.cols ≤ 512) && decide (x.replay.length < 256) then
        let f : KFrame := ⟨x.nextSeq, e.pkt, s.now, false⟩
        let s := s.setPort p { x with txq := x.txq.erase e, replay := x.replay ++ [f], nextSeq := (x.nextSeq + 1) % 4096 }
        let s := ((s.transmit p (e.pkt.onWire x.nextSeq)).spend p e.pkt).count48 (pgKlf p) KLF_FRM_TX_LO.COUNT KLF_FRM_TX_HI.COUNT
        s.freeTx e
      else s

def execFrameSend (p vc : Nat) (s : State) : Host.Outcome State Fault Refusal :=
  .next (if s.portRuns p && s.klfUp p && decide (vc < 4) then s.frameSend p vc else s)

/-- REPLAY_TIMEOUT: the oldest unacknowledged frame has gone ACK_TO × 128 G. -/
def State.replayTimeout (s : State) (p : Nat) : State :=
  match (s.port p).replay.head? with
  | none => s
  | some f =>
    let s := { s with now := max s.now (f.sentAt + 128 * max 1 (s.rd (pgKlf p) KLF_RETRY_CFG.ACK_TO)) }
    s.replay p fun _ => true

def execReplayTimeout (p : Nat) (s : State) : Host.Outcome State Fault Refusal :=
  .next (if s.portRuns p && s.klfUp p then s.replayTimeout p else s)

/-! ### The reception of a frame (R337, R341, R344, R352) -/

/-- The response of an intermediate device to an undeliverable request. -/
def State.answerUnreach (s : State) (p : Packet) (inp : Nat) : State :=
  let s := s.countUnreach
  if p.sr then s.txPush inp (p.replySr (min p.idx 23) BusStatus.unreachable.code) none 0
  else s.post (p.reply s.ownDev BusStatus.unreachable.code)

/-- A packet that cannot go further from this device. -/
def State.undeliverable (s : State) (p : Packet) (inp : Nat) : State :=
  if p.request then s.answerUnreach p inp else s.dropPacket p

/-- A frame addressed to another device goes on by the routing table, with one hop less. -/
def State.forward (s : State) (p : Packet) (inp : Nat) (e : Ecc) : State :=
  let q := { p with ttl := p.ttl - 1 }
  if q.ttl = 0 then (s.undeliverable q inp).owe inp p.vc p.cols
  else
    let (ok, s) := s.routePacket q (some inp) e
    if ok then s else (s.undeliverable q inp).owe inp p.vc p.cols

/-- The packet waits in the receive buffer for the block that consumes it. -/
def State.rxPush (s : State) (inp : Nat) (p : Packet) : State :=
  s.modPort inp fun x => { x with rx := x.rx ++ [p] }

/-- An accepted frame's packet. A frame of the plain kind that names a device without an ID by its 0xFFF is undeliverable
there, the last case of R344; every other that is not source-routed such a device discards (R342, R352). DESIGN CHOICE:
R344's row goes before the general words of R342 and R352, and its answer goes by the routing table. -/
def State.accept (s : State) (p : Packet) (inp : Nat) (e : Ecc) : State :=
  if 11 ≤ p.typ then (s.bump (pgKlf inp) KLF_CTL_ERR.COUNT 1).owe inp p.vc p.cols
  else if p.sr then s.rxPush inp p
  else if !s.hasDev then
    (if p.bcast || p.dst != s.ownDev then s else s.undeliverable p inp).owe inp p.vc p.cols
  else if p.bcast then s.rxPush inp p
  else if p.dst = s.ownDev then
    if p.typ = 10 then s.owe inp p.vc p.cols else s.rxPush inp p
  else s.forward p inp e

/-- A frame's CRC and sequence check, then its acceptance. `link` holds the link fields. -/
def State.frameReceive (s : State) (p link hdr data : Nat) (ok : Bool) (e : Ecc) : State :=
  let x := s.port p
  let seq := bitsOf link 11 0
  let vc := bitsOf link 13 12
  let cols := bitsOf link 19 16 + 1
  if !ok then
    let s := (s.bump (pgKlf p) KLF_CRC_ERR.COUNT 1).ev (pgKlf p) 10
    (s.modPort p fun x => { x with naked := true, nakDue := x.nakDue || !x.naked }).owe p vc cols
  else if seq = x.expect then
    let s := s.modPort p fun x =>
      { x with expect := (seq + 1) % 4096, naked := false, nakDue := false, ackDue := true }
    let s := s.count48 (pgKlf p) KLF_FRM_RX_LO.COUNT KLF_FRM_RX_HI.COUNT
    s.accept (Packet.ofFrame link hdr data) p e
  else if (x.expect + 4096 - seq) % 4096 ≤ 2048 then
    (s.modPort p fun x => { x with ackDue := true }).owe p vc cols
  else
    (s.modPort p fun x => { x with naked := true, nakDue := x.nakDue || !x.naked }).owe p vc cols

/-- FRAME_RECEIVE: an HDR column with the data columns behind it. -/
def State.frameArrives (s : State) (p : Nat) (h : Column) (ds : List Column) (e : Ecc) : State :=
  s.ctlReceive p h .hdr fun _ => s.frameReceive p (hdrLink h) (hdrHeader h) (dataOf ds) (frameGood h ds) e

def execFrameReceive (p : Nat) (h : Column) (ds : List Column) (e : Ecc) (s : State) :
    Host.Outcome State Fault Refusal :=
  .next (s.klfHears p (h :: ds) fun s cs => s.frameArrives p (cs.headD h) cs.tail e)

/-! ### Packets consumed here -/

/-- What consumes a packet of a receive buffer. -/
inductive RxKind where
  | route | bcast | request | resp | stream | probe | runend
  deriving DecidableEq, Repr

def Packet.kind (p : Packet) : RxKind :=
  if p.sr then .route else if p.bcast then .bcast else if p.typ ≤ 5 then .request
  else if p.typ = 6 then .resp else if p.typ = 7 then .stream else if p.typ = 8 then .probe
  else .runend

/-- The first packet of a receive buffer that is of a kind, where no earlier one of its channel is
before it. -/
def State.rxFirst (s : State) (p : Nat) (k : RxKind) : Option Packet :=
  if s.portRuns p && s.klfUp p then
    match (s.port p).rx.findIdx? fun q => q.kind == k with
    | none => none
    | some i =>
      match (s.port p).rx[i]? with
      | none => none
      | some q => if ((s.port p).rx.take i).any fun r => r.vc == q.vc then none else some q
  else none

/-- The packet is consumed, and its columns are freed. -/
def State.rxDone (s : State) (p : Nat) (q : Packet) : State :=
  (s.modPort p fun x => { x with rx := x.rx.erase q }).owe p q.vc q.cols

/-- KLF_RESP_RECEIVE (R345). -/
def execKlfRespReceive (p : Nat) (s : State) : Host.Outcome State Fault Refusal :=
  .next (match s.rxFirst p .resp with
    | none => s
    | some q => (s.egrResponse q).rxDone p q)

/-- KLF_RSP_TIMEOUT: no response to a held tag within KLF_RSP_TO × 12,800 G (R345). -/
def State.rspTimeout (s : State) (t : Nat) : State :=
  match s.egr.find t with
  | none => s
  | some x =>
    let s := { s with now := max s.now (x.issued + 12800 * max 1 (s.rd pgKlfCom KLF_RSP_TO.UNITS)) }
    let s := (s.egrAnswer t BusStatus.unreachable.code true 0 0 0).countUnreach
    (s.bump pgKlfCom KLF_TIMEOUT.COUNT 1).ev pgKlfCom 9

def execKlfRspTimeout (t : Nat) (s : State) : Host.Outcome State Fault Refusal :=
  .next (s.rspTimeout t)

/-- A stream packet reaches a sink: the configuration port always sinks, and discards what comes before the first
release (R431); a fabric port has 64 places, and no other sink exists (R346). -/
def State.sinkPush (s : State) (p : Packet) : State :=
  let k := p.addr % 256
  let q := s.sinks.getD k []
  if k = 0 ∧ !s.hub.first then s
  else if k = 0 ∨ (0x40 ≤ k ∧ k < 0x80 ∧ q.length < 64) then
    { s with sinks := s.sinks.setD k [] (q ++ [p]) }
  else s.strLost

/-- The configuration port's block buffers are full, of what it has taken and what waits at it: it withholds the
stream channel's credits (R390). -/
def State.cfgFull (s : State) : Bool :=
  let held := ((s.cfg.stream.map (·.len)).getD 0) + ((s.sinks.getD 0 []).map fun q => q.len + 1).sum
  decide (262144 ≤ held)

/-- A packet for the configuration port has to wait. -/
def State.sinkWaits (s : State) (q : Packet) : Bool := q.addr % 256 == 0 && s.cfgFull

def execKlfStreamReceive (p : Nat) (s : State) : Host.Outcome State Fault Refusal :=
  .next (match s.rxFirst p .stream with
    | none => s
    | some q => if s.sinkWaits q then s else (s.sinkPush q).rxDone p q)

/-- PROBE: answered on the control channel with SEQ_RUN and SEQ_RUN_FLAGS (R346), or with DIE_DOWN where the
sequencer's die is lost (R23, R151). -/
def execProbe (p : Nat) (s : State) : Host.Outcome State Fault Refusal :=
  .next (match s.rxFirst p .probe with
    | none => s
    | some q =>
      let n := q.addr % 16
      let w := (s.reg (pgSeq n) SEQ_RUN.STATE.off).toNat
        + 2 ^ 32 * (s.reg (pgSeq n) SEQ_RUN_FLAGS.EDGE_FAULT.off).toNat
      let r := if (s.die (n / 4 + 1)).lost then q.reply s.ownDev BusStatus.dieDown.code
        else { q.reply s.ownDev 0 with len := 7, ncol := 1, data := w }
      (s.rxDone p q).post r)

/-- RUNEND: every local run that names the sequencer loses a partner (R346). -/
def execRunend (p : Nat) (s : State) : Host.Outcome State Fault Refusal :=
  .next (match s.rxFirst p .runend with
    | none => s
    | some q => (s.rxDone p q).partnerEnded q.src (q.addr % 16))

/-! ### Broadcast (R363, R364) -/

/-- A copy goes out on every UP port of the forwarding mask; the buffer is freed with the last. -/
def State.bcastForward (s : State) (p : Nat) (q : Packet) : State :=
  let outs := (List.range 16).filter fun o =>
    maskBit (s.rd pgKlfRt KLF_BCAST_FWD.FWD) o && s.klfUp o
  let s := s.modPort p fun x => { x with rx := x.rx.erase q }
  if outs.isEmpty then s.owe p q.vc q.cols
  else
    let s := { s with fresh := s.fresh + 1 }
    outs.foldl (fun s o => s.txPush o q (some p) s.fresh) s

/-- A broadcast frame is from the tree's parent port, and a stream. -/
def State.bcastTaken (s : State) (p : Nat) (q : Packet) : Bool :=
  s.on pgKlfRt KLF_BCAST.UP_V && s.rd pgKlfRt KLF_BCAST.UP_PORT == p && q.typ == 7

/-- A broadcast frame of this group is delivered here. -/
def State.bcastMine (s : State) (q : Packet) : Bool := maskBit (s.rd pgKlfRt KLF_BCAST.GROUPS) (bitsOf q.addr 10 8)

/-- A broadcast frame from the tree's parent port is delivered by group and forwarded. -/
def State.bcastReceive (s : State) (p : Nat) (q : Packet) : State :=
  if !s.bcastTaken p q then
    let s := ((s.bump pgKlfRt KLF_BCAST_DROP.COUNT 1).ev pgKlfRt 13).rxDone p q
    if q.request then s.answerUnreach q p else s
  else (if s.bcastMine q then s.sinkPush q else s).bcastForward p q

/-- It waits only where it is to be delivered to a sink that takes no more. -/
def execBcastReceive (p : Nat) (s : State) : Host.Outcome State Fault Refusal :=
  .next (match s.rxFirst p .bcast with
    | none => s
    | some q => if s.bcastTaken p q && s.bcastMine q && s.sinkWaits q then s else s.bcastReceive p q)

/-! ### The routing page (R351, R357, R361) -/

/-- PAGE_LEVEL.BLOCK of the routing page shows an assigned device. -/
def State.devSync (s : State) : State :=
  (s.wr pgKlfRt KLF_DEVID.ASSIGNED (bit s.hasDev)).wr pgKlfRt PAGE_LEVEL.BLOCK (bit s.hasDev)

/-- DEVID_WRITE (R351); a write that is ignored does not disarm the page (R50). -/
def State.devidWrite (s : State) (v : Nat) : State :=
  let v := v % 2 ^ 12
  if v = 0 ∨ (s.hasDev ∧ v ≠ 0xFFF) then s.ev pgKlfRt 9
  else if v = 0xFFF then ((s.disarm pgKlfRt).wrCov pgKlfRt KLF_DEVID.ID v).devSync
  else
    let s := (((s.disarm pgKlfRt).wrCov pgKlfRt KLF_DEVID.ID v).devSync).ev pgKlfRt 8
    ((List.range 16).filter fun p => s.portOk p && s.klfUp p).foldl State.linkUp s

def execDevidWrite (v : Nat) (s : State) : Host.Outcome State Fault Refusal :=
  .next (s.guarded pgKlfRt 0x40 (·.devidWrite v))

/-- KLF_RT_ADDR.ID advances after an access to KLF_RT_DATA. -/
def State.rtAdvance (s : State) : State :=
  if s.on pgKlfRt KLF_RT_ADDR.AUTOINC then
    s.wr pgKlfRt KLF_RT_ADDR.ID (s.rd pgKlfRt KLF_RT_ADDR.ID + 1) else s

/-- A write to the entry is accepted (R357). -/
def State.rtOpen (s : State) (bank id : Nat) : Bool :=
  if bank = s.rtBank then
    let e := s.rtEntry bank id
    !s.hasDev || (!rtPriV e && !rtAltV e)
  else s.rdStaged pgKlfRt KLF_RT_SEL.ACTIVE == s.rtBank

/-- RT_WRITE: an entry is stored, or the write is refused with TBL_REFUSED. `hit` is the damage that the stored entry
takes, which stays until it is written again. -/
def State.rtWrite (s : State) (v : Nat) (hit : Ecc) : State :=
  let b := s.rd pgKlfRt KLF_RT_ADDR.BANK
  let i := s.rd pgKlfRt KLF_RT_ADDR.ID
  let s :=
    if s.rtOpen b i then
      { s with rt := s.rt.setD (rtKey b i) 0 (bitsOf v 4 0 + bitsOf v 12 8 * 2 ^ 8),
               rtHit := s.rtHit.setD (rtKey b i) 0 (eccGrade hit) }
    else s.ev pgKlfRt 10
  s.rtAdvance

def execRtWrite (v : Nat) (hit : Ecc) (s : State) : Host.Outcome State Fault Refusal :=
  .next (s.guarded pgKlfRt 0x54 (·.rtWrite v hit))

/-- The entry that KLF_RT_DATA reads. -/
def State.rtPeek (s : State) : Nat :=
  s.rtEntry (s.rd pgKlfRt KLF_RT_ADDR.BANK) (s.rd pgKlfRt KLF_RT_ADDR.ID)

/-- RT_READ: a normal read returns the entry and advances ID. -/
def execRtRead (s : State) : Host.Outcome State Fault Refusal :=
  .next (if !s.tu.porDone then s else match s.pageCheck pgKlfRt 0x54 with
    | some e => s.answer e
    | none => s.rtAdvance.answer .ok s.rtPeek)

/-- FAILED_CLEAR: the entries of the ports return to their primaries; the bit of a port that has left UP in this very
clock stays (R361). -/
def State.failedClear (s : State) (m : Nat) : State :=
  (List.range 16).foldl (fun s p =>
    if maskBit m p && !((s.port p).fell == some s.now && !s.klfUp p && s.clocksOnFor pgKlfRt) then
      s.wr pgKlfRt KLF_FAILED.PORTS (maskSet (s.rd pgKlfRt KLF_FAILED.PORTS) p false)
    else s) s

def execFailedClear (m : Nat) (s : State) : Host.Outcome State Fault Refusal :=
  .next (s.guarded pgKlfRt 0x60 (·.failedClear m))

end Sys2Proof.Machine
end

