-- ==== Sys2Proof/Machine/Seq.lean ====
section
/-! DEFINITION. The commands and events of the warp sequencers (chapter 5): arming, starting, the
walker's requests, decode, cycles, fail vectors, branches, partners and the end of a run. Cycle
times are in VS. -/

namespace Sys2Proof.Machine

/-! ### Arming and starting (R144–R146) -/

/-- The settings that ARM latches, and the walker at its start. -/
def State.armed (s : State) (l : Nat) : SeqX :=
  let x := s.seq l
  let pg := pgSeq l
  let off := s.rd pg SEQ_START.OFFSET
  { x.stopped with
    base := s.rdPair pg SEQ_PROG_BASE_LO.BASE SEQ_PROG_BASE_HI.BASE
    tgt := min 8 (s.rd pg SEQ_CFG.TGT_SEGS)
    loops := [], calls := [], f := false, nextOff := some off, starts := [], segs := [],
    walk := { active := true, off := off, reqs := x.stopped.walk.reqs } }

/-- SEQ_CTL.ARM (R144), refused while the sequencer is busy and in a member's page. -/
def State.seqArm (s : State) (b : Nat) : State :=
  let pg := pgSeq b
  if s.isMember b || s.seqBusy b then s.ev pg 10
  else
    let s := s.setSeq b (s.armed b)
    let s := ((s.wr pg SEQ_RUN.STATE 1).wr pg SEQ_RUN.CAUSE 0).setReg pg SEQ_RUN_FLAGS.EDGE_FAULT.off 0
    let s := (s.setReg pg SEQ_MATCH.ITER.off 0).setReg pg SEQ_SUSP_COUNT.COUNT.off 0
    let s := s.wrPair pg SEQ_SUSP_FIRST_LO.CYCLE SEQ_SUSP_FIRST_HI.CYCLE 0
    let s := (s.wr pg SEQ_BUF.SEGS 0).wr pg SEQ_BUF.MIN_LEAD 0xFFFF
    let s := (s.members b).foldl (fun s m =>
      s.wr pgDbg DBG_SEQ_STAT.TOUCHED (maskSet (s.rd pgDbg DBG_SEQ_STAT.TOUCHED) m false)) s
    let s := (s.weftLoad b).wr pg PAGE_LEVEL.BUSY 1
    ((s.stackSync b).seqMirror b).walkOn b

def execSeqArm (b : Nat) (s : State) : Host.Outcome State Fault Refusal :=
  .next (if bankOk b then s.guarded (pgSeq b) 0x40 (·.seqArm b) else s.answer .decode)

/-- Segments of the walk that are present. -/
def SeqX.reachedNow (x : SeqX) : Nat := (x.walk.reached.filter fun g => (x.segs.find g).isSome).length

/-- SEQ_READY: 64 segments of the walk are present, or the walker has paused with nothing
outstanding (R144). -/
def State.seqReady (s : State) (l : Nat) : State :=
  let x := s.seq l
  if bankOk l && s.rd (pgSeq l) SEQ_RUN.STATE == 1 && s.running (pgSeq l)
      && (decide (64 ≤ x.reachedNow)
        || (x.paused (s.members l).length && x.walk.reqs.all (·.sink)
          && (x.walk.wanted.isEmpty || (x.room (s.members l).length).isNone))) then
    (s.wr (pgSeq l) SEQ_RUN.STATE 2).seqMirror l
  else s

def execSeqReady (l : Nat) (s : State) : Host.Outcome State Fault Refusal := .next (s.seqReady l)

/-- The partners that a page names, each to be probed first 128,000 G after the run's start (R151). -/
def State.partnersOf (s : State) (l t : Nat) : List Partner :=
  ((List.range 4).filter fun k => s.on (pgSeq l) (SEQ_PARTNERk.VALID.nth k)).map fun k =>
    ⟨s.rd (pgSeq l) (SEQ_PARTNERk.DEV.nth k), s.rd (pgSeq l) (SEQ_PARTNERk.SEQ.nth k), none, t + 128000, false⟩

/-- A ready sequencer or gang begins its first cycle at a fabric time (R145). With a bank held the
run ends at once (R432). -/
def State.startRun (s : State) (l t : Nat) : State :=
  let pg := pgSeq l
  let s := s.modSeq l fun x => { x with
    run := x.run + 1, n := 0, sNext := t * 256, sCur := t * 256, pCur := 0, f := false,
    partners := s.partnersOf l t, starts := [] }
  let s := (s.wr pg SEQ_RUN.STATE 3).wrPair pg SEQ_RUN_T_LO.TIME SEQ_RUN_T_HI.TIME t
  let s := (s.wrPair pg SEQ_CYCLE_LO.COUNT SEQ_CYCLE_HI.COUNT 0).ev pg 8
  let s := s.seqMirror l
  let s := { s with now := max s.now t }
  if (s.members l).any fun b => (s.bank b).held then s.endCause l 7 else s

/-- SEQ_CTL.START_NOW (R146). -/
def State.startNow (s : State) (b : Nat) : State :=
  let l := s.leader b
  if s.rd (pgSeq l) SEQ_RUN.STATE = 2 ∧ (s.seq l).pendStart = none then
    s.modSeq l fun x => { x with pendStart := some (ceilTo 8 (s.now + 2048), b) }
  else s.ev (pgSeq b) 9

def execStartNow (b : Nat) (s : State) : Host.Outcome State Fault Refusal :=
  .next (if bankOk b then s.guarded (pgSeq b) 0x40 (·.startNow b) else s.answer .decode)

/-- A START_SEQ launch entry that names a member of the gang is to fire at a time (R88, R145). -/
def State.launchStarts (s : State) (l t : Nat) : Bool :=
  s.on pgTime TIME_STAT.VALID && s.running pgTime && s.launch.any fun e => match e.2.ent with
    | some x => x.t == t && x.action == 1 && s.gangRuns l && (s.members l).any (maskBit x.arg ·)
    | none => false

/-- SEQ_PENDING_START: the start time of a START_NOW is reached. A sequencer that began earlier refuses
it; one that a launch entry started at the same time does not, be its run over at once, and that entry
goes first (R146). -/
def State.pendingStart (s : State) (l : Nat) : State :=
  match (s.seq l).pendStart with
  | none => s
  | some (t, b) =>
    if !s.running (pgSeq l) || s.launchStarts l t then s
    else
      let s := (s.modSeq l fun x => { x with pendStart := none })
      let s := { s with now := max s.now t }
      if s.rd (pgSeq l) SEQ_RUN.STATE = 2 then s.startRun l t
      else if s.rdPair (pgSeq l) SEQ_RUN_T_LO.TIME SEQ_RUN_T_HI.TIME = t then s
      else s.ev (pgSeq b) 9

def execSeqPendingStart (l : Nat) (s : State) : Host.Outcome State Fault Refusal :=
  .next (if bankOk l then s.pendingStart l else s)

/-! ### The walker's requests (R137, R140) -/

/-- The request for the line of DRAM at a local address. -/
def dramAt (init a : Nat) : MemReq :=
  let raw := decide (2 ^ 42 ≤ a ∧ a < 2 ^ 43)
  ⟨init, 0, raw, if raw then a - 2 ^ 42 else a, false⟩

/-- The lines of a segment request are issued while the governor admits them. -/
def State.segIssue (s : State) (l : Nat) : Nat → SegReq → SegReq × State
  | 0, q => (q, s)
  | n + 1, q =>
    if 32 ≤ q.lines then (q, s)
    else
      let a := q.seg * 2048 + 64 * q.lines
      match s.memSend (dramAt (seqInit l) a) .read 64 with
      | (.wait, s) => (q, s)
      | (.go, s) => s.segIssue l n { q with lines := q.lines + 1, went := q.went + 1 }
      | (.noBudget, s) => s.segIssue l n { q with lines := q.lines + 1, missed := q.missed ++ [q.lines] }

/-- The request to issue next: one that is not wholly issued, else the first segment wanted, for
which a slot must be free. -/
def SeqX.nextReq (x : SeqX) (m : Nat) : Option (SegReq × SeqX) :=
  match x.walk.reqs.find? fun q => decide (q.lines < 32) with
  | some q => some (q, x)
  | none =>
    match x.walk.wanted with
    | [] => none
    | g :: rest =>
      match x.room m with
      | none => none
      | some x => some ({ seg := g, lines := 0, went := 0 }, { x with walk := { x.walk with wanted := rest } })

/-- WALKER_SEGMENT_REQUEST. -/
def State.segRequest (s : State) (l : Nat) : State :=
  if !bankOk l || !s.running (pgSeq l) || !(s.seq l).walk.active then s
  else match (s.seq l).nextReq (s.members l).length with
    | none => s
    | some (q, x) =>
      let s := s.setSeq l x
      let (q, s) := s.segIssue l 32 q
      (s.modSeq l fun x => { x with walk := { x.walk with
        reqs := (x.walk.reqs.filter fun r => r.sink || r.seg != q.seg) ++ [q] } }).bufSync l

def execWalkerSegmentRequest (l : Nat) (s : State) : Host.Outcome State Fault Refusal :=
  .next (s.segRequest l)

/-- A line of the segment is read; any error poisons the segment (R140). -/
def State.segLine (s : State) (l seg i : Nat) (acc : Nat × Bool) : (Nat × Bool) × State :=
  let q := dramAt (seqInit l) (seg * 2048 + 64 * i)
  let ((st, d), s) := s.memGo q .read
  let s := s.memBack q .read 64 (st, d)
  if st = .ok then ((acc.1 + d * 2 ^ (512 * i), acc.2), s) else ((acc.1, true), s)

/-- The bank that holds up a line of a segment. -/
def State.segWaits (s : State) (l : Nat) (q : SegReq) : Option BankWait :=
  s.linesWait (seqInit l) (q.sent.flatMap fun i => s.memLines (dramAt (seqInit l) (q.seg * 2048 + 64 * i)))

/-- No line that was issued before those of a segment, to an endpoint of theirs, is still in flight (R308). -/
def State.segFirst (s : State) (l seg : Nat) : Bool :=
  s.inTurn (seqInit l) fun k => k.hdr.op == 0 && k.hdr.addr / 2048 == seg % 2 ^ 37

/-- A segment goes into a free place of the buffers of the run's members; which one is open. -/
def State.segPlace (s : State) (l seg data : Nat) (bad : Bool) : State :=
  let (r, s) := s.draw 10
  let ms := s.members l
  let k := pickFree (256 * ms.length) r ((s.seq l).segs.map (·.2.slot))
  let s := s.modSeq (ms.getD (k / 256) l) fun x => { x with store := x.store.put (k % 256) data }
  (s.modSeq l fun x => { x with segs := x.segs.put seg ⟨data, bad, x.walk.tick, k⟩ }).bufSync l

/-- SEGMENT_FETCH_RETURN: a segment whose lines are all issued returns. After the end of the run
its data is ignored. -/
def State.segReturn (s : State) (l seg : Nat) : State :=
  match (s.seq l).walk.reqs.find? fun q => q.seg == seg && q.lines == 32 with
  | none => s
  | some q =>
    if !s.segFirst l seg then s
    else match s.segWaits l q with
    | some w => s.bankHolds w (seqInit l)
    | none =>
      let ((data, bad), s) := q.sent.foldl
        (fun (acc : (Nat × Bool) × State) i => acc.2.segLine l seg i acc.1) ((0, !q.missed.isEmpty), s)
      let s := s.modSeq l fun x => { x with walk := { x.walk with
        reqs := x.walk.reqs.erase q } }
      if !q.sink && (s.seq l).walk.active then
        ((s.leadSync l (s.now * 256)).segPlace l seg data bad).walkOn l
      else s

def execSegmentFetchReturn (l seg : Nat) (e : Noise) (s : State) : Host.Outcome State Fault Refusal :=
  .next (if bankOk l then (s.disturb e).segReturn l seg else s)

/-! ### Decode (R129, R138, R140) -/

/-- The record in execution has issued its cycles, or decided what follows. -/
def SeqX.curDone (x : SeqX) : Bool :=
  match x.cur with
  | none => true
  | some r => if r.holds then x.resolved else decide (r.total ≤ x.issued)

/-- The causes that make the present cycle final: those gathered, or that of the next record when
nothing stands before it. -/
def SeqX.finals (x : SeqX) : List Nat :=
  if !x.causes.isEmpty then x.causes
  else match x.stop with
    | some (c, _) => if x.ahead.isEmpty && x.curDone then [c] else []
    | none => []

/-- The time of a WAIT record (R134). -/
def State.waitTime (s : State) (l : Nat) (r : Rec) : Nat := s.runStart l + r.waitFor

/-- The boundary at which a WAIT whose own cycle ends at `t` lets the next record start (R134); a time
`t` of any other record stands. -/
def State.waitEnd (s : State) (l : Nat) (r : Rec) (t : Nat) : Nat :=
  if r.op = 9 then holdUntil (s.periodOf l (r.tsets.headD 0)) t (s.waitTime l r) else t

/-- The time at which the record that follows those decoded starts, as it is known now. -/
def State.nextStart (s : State) (l : Nat) : Nat :=
  let x := s.seq l
  let per := s.periodOf l
  let t := match x.cur with
    | none => x.sNext
    | some r =>
      if r.holds then (if x.resolved then x.sNext else s.waitEnd l r x.sNext)
      else x.sNext + (r.timeOf per r.total - r.timeOf per x.issued)
  x.ahead.foldl (fun t r => s.waitEnd l r (t + r.timeOf per r.total)) t

/-- The next record is to be decoded before the next cycle boundary: 64 G before its first cycle,
whose start is known. -/
def State.decodeDue (s : State) (l : Nat) : Bool :=
  let x := s.seq l
  x.causes.isEmpty && x.stop.isNone && x.nextOff.isSome && decide (s.nextStart l < x.sNext + 64 * 256)

/-- A timing set of the record is disabled in a member's bank (R101). -/
def State.tsetOff (s : State) (l : Nat) (r : Rec) : Bool :=
  (s.members l).any fun b => r.tsets.any fun t => !maskBit (s.rd (pgEdg b) EDG_TS_EN.EN) t

/-- The next record stops the run; with no cycle before it the run ends at once. -/
def State.stopAt (s : State) (l c off : Nat) : State :=
  let s := s.modSeq l fun x => { x with stop := some (c, off), nextOff := none }
  if c = 3 then s.endCause l 3
  else if (s.seq l).n = 0 && !(s.seq l).finals.isEmpty then s.endCause l c else s

/-- The next record is decoded. -/
def State.decodeNext (s : State) (l : Nat) : State :=
  let x := s.seq l
  match x.nextOff with
  | none => s
  | some off =>
    let m := (s.members l).length
    match x.fetch m off with
    | .missing => ((s.leadSync l (s.nextStart l - 64 * 256)).ev (pgSeq l) 11).stopAt l 3 off
    | .poisoned => s.stopAt l 5 off
    | .data v =>
      let r := recOf m off v
      if r.malformed || r.stackBad x || s.tsetOff l r then (s.ev (pgSeq l) 12).stopAt l 4 off
      else
        let (o, lo, ca) := r.follow x.loops x.calls
        (s.setSeq l { x.touch (segsOf (x.addrOf off) r.size) with
          ahead := x.ahead ++ [r], nextOff := o, loops := lo, calls := ca }).stackSync l

/-- Every record due before the next boundary is decoded. -/
def State.decodeAll (s : State) (l : Nat) : Nat → State
  | 0 => s
  | n + 1 =>
    if s.hasRun l && s.decodeDue l then (s.decodeNext l).decodeAll l n else s

/-- RECORD_DECODE. -/
def State.recordDecode (s : State) (l : Nat) : State :=
  if bankOk l && s.leader l == l && s.hasRun l && s.running (pgSeq l) then s.decodeAll l 1 else s

def execRecordDecode (l : Nat) (s : State) : Host.Outcome State Fault Refusal :=
  .next (s.recordDecode l)

/-! ### Branches, waits and matches (R132–R134) -/

/-- The operation of the record in execution, once its own cycle is issued and while what follows
is open. -/
def SeqX.openOp (x : SeqX) : Option Rec :=
  match x.cur with
  | some r => if r.holds && !x.resolved && x.issued != 0 then some r else none
  | none => none

/-- What follows the record is decided; what follows a WAIT stands since its decode. -/
def State.resolveTo (s : State) (l : Nat) (r : Rec) (taken : Bool) : State :=
  let s := s.modSeq l fun x => { x with
    resolved := true, results := [],
    nextOff := if r.op = 9 then x.nextOff else some (if taken then r.arg else r.next) }
  if r.op = 9 then s else s.walkResolved l r.off (if taken then some r.arg else none)

/-- The resolution time of a branch, once every member has delivered its cycle (R132). -/
def State.branchTime (s : State) (l : Nat) : Option Nat :=
  let x := s.seq l
  if (s.members l).all fun b => x.brD.any fun e => e.1 == b then
    some (x.brD.foldl (fun m e => max m e.2) 0 + 72 * 256)
  else none

/-- BRANCH_RESOLVE: F is read at R. -/
def State.branchResolve (s : State) (l : Nat) : State :=
  match (s.seq l).openOp, s.branchTime l with
  | some r, some t =>
    if (r.op = 6 ∨ r.op = 7) ∧ t ≤ (s.seq l).sNext ∧ s.hasRun l then
      let s := s.resolveTo l r ((s.seq l).f == (r.op == 6))
      { s with now := max s.now (t / 256) }
    else s
  | _, _ => s

def execBranchResolve (l : Nat) (s : State) : Host.Outcome State Fault Refusal :=
  .next (if bankOk l then s.branchResolve l else s)

/-- WAIT_EXPIRE: the wait time is reached before the next boundary. -/
def State.waitExpire (s : State) (l : Nat) : State :=
  match (s.seq l).openOp with
  | some r =>
    if r.op = 9 ∧ s.waitTime l r ≤ (s.seq l).sNext ∧ s.hasRun l then
      let t := s.waitTime l r
      let s := s.resolveTo l r false
      { s with now := max s.now (t / 256) }
    else s
  | none => s

def execWaitExpire (l : Nat) (s : State) : Host.Outcome State Fault Refusal :=
  .next (if bankOk l then s.waitExpire l else s)

/-- An iteration's result is known at a time: every member has delivered it, 72 G before. -/
def iterKnown (rs : List MatchRes) (ms : List Nat) (t i : Nat) : Bool :=
  ms.all fun b => rs.any fun r => r.bank == b && r.iter == i && decide (r.d + 72 * 256 ≤ t)

/-- An iteration matched in every member's bank. -/
def iterHit (rs : List MatchRes) (i : Nat) : Bool := (rs.filter fun r => r.iter == i).all fun r => !r.cond

/-- The lowest of some iterations. -/
def lowest (is : List Nat) : Option Nat :=
  is.foldl (fun m i => match m with | none => some i | some k => some (min k i)) none

/-- F takes a compared vector (R131). -/
def State.setF (s : State) (l run : Nat) (cond : Bool) : State :=
  s.modSeq l fun x => if x.run = run then { x with f := x.f || cond } else x

/-- What the catch unit and F receive of a vector (R130, R131, R150). -/
def State.vecOn (s : State) (b fails : Nat) (v : Vec) (d : Nat) (cond : Bool) : State :=
  (s.setF (v.gang.headD b) v.run cond).catchPart (b / 4 + 1) b fails v.gang ⟨v.n, v.tag, v.gang.headD b % 4, d / 256, v.run⟩

/-- A MATCH decides at the boundary that comes (R133). -/
def State.matchDecide (s : State) (l : Nat) : State :=
  let x := s.seq l
  match x.openOp with
  | some r =>
    if r.op ≠ 8 then s
    else
      let ms := s.members l
      let known := (x.results.map (·.iter)).filter (iterKnown x.results ms x.sNext)
      match lowest (known.filter (iterHit x.results)) with
      | some i =>
        ((s.wr (pgSeq l) SEQ_MATCH.ITER i).wr (pgSeq l) SEQ_MATCH.TIMEOUT 0).resolveTo l r false
      | none =>
        if known.contains (r.ext + 1) then
          let last := x.results.filter fun e => e.iter == r.ext + 1
          let s := if r.nocmp then s
            else last.foldl (fun s e => s.vecOn e.bank e.fails e.v e.d e.cond) s
          let s := (s.wr (pgSeq l) SEQ_MATCH.ITER 0).wr (pgSeq l) SEQ_MATCH.TIMEOUT 1
          ((s.seqFlag l SEQ_RUN_FLAGS.MATCH_TIMEOUT).ev (pgSeq l) 14).resolveTo l r true
        else s.modSeq l fun x => { x with
          results := x.results.filter fun e => !known.contains e.iter || e.iter == r.ext + 1 }
  | none => s

/-- A vector that the open decision waits for is still to be delivered before the boundary. -/
def State.awaits (s : State) (l : Nat) : Bool :=
  let x := s.seq l
  match x.openOp with
  | none => false
  | some r =>
    r.op != 9 && (s.members l).any fun b =>
      let k := s.bank b
      (k.vecs.foldl (fun (acc : Nat × Bool) v =>
        let d := max acc.1 (v.lastEnd + 128 * 256)
        let mine := v.run == x.run && (if r.op = 8 then v.iter != 0 else x.brN == some v.n)
        (d, acc.2 || (mine && decide (d + 72 * 256 ≤ x.sNext)))) (k.lastD, false)).2

/-! ### Cycles (R99, R124, R130, R136) -/

/-- The kinds of R130. -/
inductive Cycle where
  | normal | hold | iter
  deriving DecidableEq, Repr

/-- The cycle to issue: its record, its kind, its index in a packed group, and whether it is the
record's first. -/
def SeqX.pick (x : SeqX) : Option (Rec × Cycle × Nat × Bool) :=
  match x.cur with
  | some r =>
    if x.curDone then x.ahead.head?.map fun r => (r, if r.op = 8 then .iter else .normal, 0, true)
    else if !r.holds then some (r, .normal, x.issued % r.tsets.length, false)
    else if r.op = 8 ∧ x.issued ≤ r.ext then some (r, .iter, 0, false)
    else some (r, .hold, 0, false)
  | none => x.ahead.head?.map fun r => (r, if r.op = 8 then .iter else .normal, 0, true)

/-- The previous cycle's weft operation takes effect at its end (R155). -/
def State.weftEnd (s : State) (l : Nat) : State :=
  match (s.seq l).weft with
  | none => s
  | some w => (s.weftTake l w).modSeq l fun x => { x with weft := none }

/-- What happens in a bank at a cycle boundary before the cycle's period and waveforms are read:
the changes placed before it, pending sets, site masks, changes of MODE, and what a waveform write
has reached (R97, R100, R115, R502). -/
def State.bankBoundary (s : State) (bad : List Nat) (b start : Nat) : State :=
  let s := s.modBank b (·.upTo (start - 1))
  ((((s.applyBank bad b).maskStep b).modeStep b start).settleBank b).waveProgress b

/-- The causes for which no bank executes the cycle (R101, R117, R124, R169), with their events:
`tab` gives the ECC verdict of the entry of each weft table that the outputs need, `wave` a verdict
for each word of waveform memory that a bank reads and that is not clean. -/
def State.cycleFaults (s : State) (l tset : Nat) (tab : List Ecc) (wave : List (Nat × Ecc)) :
    List Nat × State :=
  let ms := s.members l
  if ms.any fun b => s.periodOf b tset != s.periodOf l tset then ([9], s)
  else
    let off := ms.filter fun b => !maskBit (s.rd (pgEdg b) EDG_TS_EN.EN) tset
    if !off.isEmpty then ([6], off.foldl (fun s b => s.ev (pgEdg b) 12) s)
    else
      let s := (wave.filter fun e => ms.contains e.1).foldl (fun s e => s.waveEcc e.1 e.2) s
      let vs := s.weftVerdicts l tab
      let s := vs.foldl (fun s e => s.weftEcc l e) s
      if vs.contains .fatal || wave.any fun e => ms.contains e.1 && e.2 == .fatal then ([6], s) else ([], s)

/-- The values that the cycle passes to the catch unit (R150, R172). -/
def State.vecTag (s : State) (l : Nat) (r : Rec) (j : Nat) (o : WeftOut) : VecTag :=
  let pg := pgWft l
  if s.on pg WFT_CFG.CATCH_SRC then ⟨r.off * 4 + j, o.x, o.y, o.z, false⟩
  else ⟨r.off * 4 + j, s.rd pg WFT_X.VALUE, s.rd pg WFT_Y.VALUE, s.rd pg WFT_Z.VALUE, false⟩

/-- A member's bank places the events and strobes of the cycle; the outputs then take, in the order of
their times, the changes that are due, those that a trim puts before the start among them. -/
def State.bankIssue (s : State) (b : Nat) (v : Vec) (period tset : Nat) (o : WeftOut) : State × Bool :=
  let s := s.modBank b fun k => { k with vecs := k.vecs ++ [v] }
  let (s, bad) := (List.range 16).foldl (fun (acc : State × Bool) c =>
    if acc.1.chanState b c = 3 then
      let (s, f) := acc.1.placeChannel b c v.n v.start period tset (bitsOf v.syms (4 * c + 3) (4 * c)) o
        (maskBit v.masked c)
      (s, acc.2 || f)
    else acc) (s, false)
  (s.modBank b (·.upTo v.start), bad)

/-- Every member's bank executes the cycle. The result says whether an edge fault arose. -/
def State.placeCycle (s : State) (l : Nat) (r : Rec) (kind : Cycle) (j period : Nat) : State × Bool :=
  let x := s.seq l
  let o := s.weftOut l
  let tag := s.vecTag l r j o
  let ms := s.members l
  (ms.zipIdx).foldl (fun (acc : State × Bool) e =>
    let b := e.1
    let (s, f0) := if x.n = 0 then (acc.1, false) else acc.1.judgeSpills b (x.n - 1) (x.pCur + period)
    let sym := if kind = .hold && r.hold0 then 0 else (r.syms.getD j []).getD e.2 0
    let v : Vec := { n := x.n, start := x.sNext, stop := x.sNext + period,
                     compared := !r.nocmp && kind != .hold,
                     iter := if kind = .iter then (if x.curDone then 1 else x.issued + 1) else 0,
                     strobes := [], dropped := 0, masked := s.maskedChans b, gang := ms,
                     tag := { tag with suspect := s.inWindow x.sNext },
                     run := x.run, syms := sym, hold := kind == .hold, final := false }
    let (s, f) := s.bankIssue b v period (r.tsets.getD j 0) o
    (s, acc.2 || f0 || f)) (s, false)

/-- The sequencer's own state after it has issued a cycle. -/
def SeqX.advance (x : SeqX) (r : Rec) (kind : Cycle) (first : Bool) (period : Nat)
    (w : Option WeftNext) : SeqX :=
  let x := if first then { x with cur := some r, ahead := x.ahead.tail, issued := 0, resolved := false,
                                  f := x.f && !r.clrf, results := [], brD := [],
                                  brN := if r.holds then some x.n else none } else x
  let x := { x with issued := if kind = .hold then x.issued else x.issued + 1,
                    n := x.n + 1, sCur := x.sNext, pCur := period, sNext := x.sNext + period,
                    weft := w, oneStep := false }
  if r.op = 10 ∧ r.total ≤ x.issued then { x with causes := x.causes ++ [1] } else x

/-- A cycle is flagged TIME_SUSPECT, or remembered for a window that starts before it opens. -/
def State.suspectCycle (s : State) (l n start period : Nat) : State :=
  if s.inWindow start then s.flagCycles l n 1
  else s.modSeq l fun x => { x with starts := addStart x.starts n start period }

/-- A WAIT whose time lies before the end of its cycle is late (R134). -/
def State.waitLate (s : State) (l : Nat) (r : Rec) (first : Bool) : State :=
  if first && r.op == 9 && decide (s.waitTime l r < (s.seq l).sNext) then
    (s.seqFlag l SEQ_RUN_FLAGS.WAIT_LATE).ev (pgSeq l) 15
  else s

/-- One cycle is issued on every member's bank. -/
def State.issueCycle (s : State) (l : Nat) (bad : List Nat) (tab : List Ecc) (wave : List (Nat × Ecc))
    (r : Rec) (kind : Cycle) (j : Nat) (first : Bool) : State :=
  let start := (s.seq l).sNext
  let s := s.weftEnd l
  let s := (s.members l).foldl (fun s b => s.bankBoundary bad b start) s
  let tset := r.tsets.getD j 0
  match s.cycleFaults l tset tab wave with
  | (c :: _, s) => (s.modSeq l fun x => { x with causes := [c] }).endRun l
  | ([], s) =>
    let n := (s.seq l).n
    let period := s.periodOf l tset
    let s := ({ s with now := max s.now (start / 256) } : State).leadSync l start
    let s := if first then s.executed l r.off else s
    let (s, f) := s.placeCycle l r kind j period
    let w := if kind = .normal || (kind == .iter && first) then some (s.weftOp l r.wop) else none
    let s := s.modSeq l fun x => x.advance r kind first period w
    let s := if f then s.seqFlag l SEQ_RUN_FLAGS.EDGE_FAULT else s
    let s := s.wrPair (pgSeq l) SEQ_CYCLE_LO.COUNT SEQ_CYCLE_HI.COUNT ((n + 1) % 2 ^ 48)
    ((s.seqAddr l r.off j).suspectCycle l n start period).waitLate l r first

/-- A halt that the debugger asked for is taken: the channels park and the run stands (R470). -/
def State.seqPark (s : State) (l : Nat) : State :=
  let x := s.seq l
  let s := (s.weftEnd l)
  let s := (s.members l).foldl (fun s b =>
    if x.n = 0 then s else (s.endBank b (x.n - 1) x.pCur x.sNext false).1) s
  let s := s.modSeq l fun x => { x with halted := true, haltReq := false }
  let s := s.haltSync l
  let s := (s.members l).foldl (fun s b =>
    s.wr pgDbg DBG_SEQ_STAT.TOUCHED (maskSet (s.rd pgDbg DBG_SEQ_STAT.TOUCHED) b true)) s
  { s with now := max s.now (x.sNext / 256) }

/-- What the boundary before the next cycle decides: the branch, wait or match, the records due,
the end of the run, a halt, or the cycle. -/
def State.boundary (s : State) (l : Nat) (bad : List Nat) (tab : List Ecc) (wave : List (Nat × Ecc)) :
    State :=
  let s := ((s.branchResolve l).waitExpire l).matchDecide l
  let s := s.decodeAll l 16
  let x := s.seq l
  if !s.hasRun l then s
  else if !x.finals.isEmpty then (s.modSeq l fun x => { x with causes := x.finals }).endRun l
  else match x.pick with
    | none => s
    | some (r, kind, j, first) =>
      if x.haltReq && !x.oneStep && kind == .normal then s.seqPark l
      else s.issueCycle l bad tab wave r kind j first

/-- CYCLE_ISSUE: the boundary of a running, unhalted leader. DESIGN CHOICE: the SEQ page's clock alone
counts; while the WFT page is gated, the run's weft operations and outputs go on. -/
def State.cycleIssue (s : State) (l : Nat) (bad : List Nat) (tab : List Ecc) (wave : List (Nat × Ecc)) :
    State :=
  let x := s.seq l
  if bankOk l && s.leader l == l && s.hasRun l && s.running (pgSeq l) && !x.halted
      && !s.awaits l then
    s.boundary l bad tab wave
  else s

def execCycleIssue (l : Nat) (bad : List Nat) (tab : List Ecc) (wave : List (Nat × Ecc)) (s : State) :
    Host.Outcome State Fault Refusal := .next (s.cycleIssue l bad tab wave)

/-! ### Fail vectors (R113, R131, R150, R320) -/

/-- The word that a guest's stream carries for a cycle (R320). -/
def streamWord (b fails : Nat) (v : Vec) (d : Nat) : Nat :=
  v.n % 2 ^ 48 + (if v.compared then fails else 0) * 2 ^ 48 + v.syms % 2 ^ 64 * 2 ^ 64
    + v.tag.x % 2 ^ 24 * 2 ^ 128 + v.tag.y % 2 ^ 24 * 2 ^ 152 + v.tag.z % 2 ^ 8 * 2 ^ 176
    + bit v.tag.suspect * 2 ^ 184 + bit (!v.compared) * 2 ^ 185 + bit v.hold * 2 ^ 186
    + bit v.final * 2 ^ 187 + b * 2 ^ 188 + d / 256 % 2 ^ 32 * 2 ^ 192

/-- A stream enable of a patch site takes effect: its panel group is not already in use by the
other enable of the site (R320), and the groups that it needs carry streams: group 2 + g of the site's join
and, of the sequencer's panel, group 2 for site 5 and 3 for site 6 are in stream mode (R8, R16). -/
def State.streamOn (s : State) (site g : Nat) : Bool :=
  let pg := pgPat site
  let q := s.rd pg (PAT_STRMg.SRC.nth g) / 4
  s.on pg (PAT_STRMg.EN.nth g) && s.fitted site && !(s.die site).lost
    && !s.on pg PAT_VIOL.ISOLATED && s.cap 8
    && !maskBit (s.rd pgSeam SEAM_ROLE_SEL.SITE) (4 * (site - 5) + 2 + g)
    && !maskBit (s.rd pgSeam SEAM_ROLE_SEL.PANEL) (4 * q + site - 3)

/-- The streams of the patch sites take the word of a delivered cycle. -/
def State.streamOut (s : State) (b w : Nat) : State :=
  [(5, 0), (5, 1), (6, 0), (6, 1)].foldl (fun s e =>
    if s.streamOn e.1 e.2 && s.rd (pgPat e.1) (PAT_STRMg.SRC.nth e.2) == b then
      let x := s.pats.getD (e.1 - 5) {}
      let k := (x.sent.getD e.2 (0, 0)).1 + 1
      let x := { x with sent := x.sent.setD e.2 (0, 0) (k, w) }
      { s with pats := s.pats.setD (e.1 - 5) {} x }
    else s) s

/-- A delivered vector reaches its sequencer and, when it is compared, the catch unit. DESIGN CHOICE: in a
gang the SEQ_COND_MASK of the leader's page counts for every member's bank. -/
def State.vecIn (s : State) (b fails : Nat) (v : Vec) (d : Nat) : State :=
  let l := v.gang.headD b
  let cond := fails &&& s.rd (pgSeq l) SEQ_COND_MASK.MASK != 0
  let s := s.modSeq l fun x =>
    if x.run = v.run ∧ x.brN = some v.n then { x with brD := x.brD ++ [(b, d)] } else x
  if v.iter != 0 then
    s.modSeq l fun x =>
      if x.run == v.run && !x.resolved && decide (x.brN.getD (v.n + 1) ≤ v.n) then
        { x with results := x.results ++ [⟨v.iter, b, d, fails, cond, v⟩] }
      else x
  else if v.compared then s.vecOn b fails v d cond
  else s

/-- The delivery time of a bank's oldest vector, as far as its placed strobes tell (R113). -/
def State.vecDue (s : State) (b : Nat) : Option Nat :=
  (s.bank b).vecs.head?.map (s.bank b).delivery

/-- A delivery of bank `b` at `d` comes before those of the other banks of its panel: vectors are
delivered in the order of their times, and in ascending bank order at one instant (R176). -/
def State.vecTurn (s : State) (b d : Nat) : Bool :=
  ((List.range 4).map (b / 4 * 4 + ·)).all fun c =>
    c == b || !s.running (pgEdg c) || ((s.vecDue c).map fun e =>
      decide (d < e) || (d == e && decide (b < c))).getD true

/-- FAIL_VECTOR_DELIVER: the bank delivers its oldest vector in its turn, once the spills of its
cycle have been judged; the comparator levels seen since the last delivery come with it. -/
def State.failVector (s : State) (b : Nat) (ls : List CmpLevel) : State :=
  match (s.bank b).vecs with
  | [] => s
  | v :: rest =>
    let x := s.seq (v.gang.headD b)
    let d := (s.bank b).delivery v
    if (x.run = v.run ∧ v.n + 1 = x.n ∧ (s.bank b).spills ≠ []) ∨ !s.vecTurn b d then s
    else
      let s := s.modBank b fun k => k.see ls
      let fails := (s.bank b).failBits v
      let s := s.tsRecords b v
      let s := s.modBank b fun k => { k with
        vecs := rest, lastD := d,
        chans := k.chans.map fun c => (c.1, c.2.forget (v.start - 2 ^ 15)) }
      let s := { s with now := max s.now (d / 256) }
      (s.vecIn b fails v d).streamOut b (streamWord b fails v d)

def execFailVectorDeliver (b : Nat) (ls : List CmpLevel) (s : State) :
    Host.Outcome State Fault Refusal :=
  .next (if bankOk b && s.running (pgEdg b) then s.failVector b ls else s)

/-! ### Abort, holds and partners (R96, R148, R151) -/

/-- PAGE_CTL.ABORT in a page of the gang (R148). DESIGN CHOICE: ABORTED, and DONE at the end of a run, set
in the leader's page alone, whichever member's page took the abort. -/
def State.seqAbort (s : State) (b : Nat) : State :=
  let l := s.leader b
  let st := s.rd (pgSeq l) SEQ_RUN.STATE
  if st = 1 ∨ st = 2 then
    let s := (s.modSeq l SeqX.stopped).wr (pgSeq l) SEQ_RUN.STATE 0
    ((s.wr (pgSeq l) PAGE_LEVEL.BUSY 0).seqMirror l).evAborted (pgSeq l)
  else if s.hasRun l && (s.seq l).finals.isEmpty then s.endCause l 2
  else s

/-- A configuration load starts to hold the bank's region: the bank is HELD at the end of the cycle
in progress and the run ends (R96). -/
def State.bankHold (s : State) (b : Nat) : State :=
  if s.hasRun b then (s.modBank b fun k => { k with holdDue := true }).endCause (s.leader b) 7
  else (s.modBank b fun k => { k with held := true }).settleBank b

/-- The bank's region is released: it takes the state that MODE selects (R96). -/
def State.bankRelease (s : State) (b : Nat) : State :=
  (s.modBank b fun k => { k with held := false, holdDue := false }).settleBank b

/-- SEQ_CTL.PARTNER_LOST in a page of the gang. -/
def execPartnerLostDeclare (b : Nat) (s : State) : Host.Outcome State Fault Refusal :=
  .next (if bankOk b then s.guarded (pgSeq b) 0x40 fun s => s.partnerLost (s.leader b)
    else s.answer .decode)

/-- What a probe of a sequencer reports: its SEQ_RUN and its flags (R346). -/
def State.probeWord (s : State) (q : Nat) : Nat :=
  (s.reg (pgSeq q) SEQ_RUN.STATE.off).toNat
    + 2 ^ 32 * (s.reg (pgSeq q) SEQ_RUN_FLAGS.EDGE_FAULT.off).toNat

/-- A probe's answer: an error, or a run that ended with a cause other than HALT, loses the
partner. -/
def State.probeAnswer (s : State) (l : Nat) (st : Nat) (w : Nat) : State :=
  let cause := bitsOf w 7 4
  if st ≠ 0 ∨ (cause ≠ 0 ∧ cause ≠ 1) then s.partnerLost l else s

/-- The probe of partner `k` is out, or answered. -/
def State.setProbe (s : State) (l k : Nat) (t : Option Nat) : State :=
  s.modSeq l fun x => { x with partners := x.partners.zipIdx.map fun e =>
    if e.2 = k then { e.1 with probe := t } else e.1 }

/-- The next probe of partner `k` is due at a time, or the one due stalls at its issue. -/
def State.setProbeDue (s : State) (l k t : Nat) (stalls : Bool) : State :=
  s.modSeq l fun x => { x with partners := x.partners.zipIdx.map fun e =>
    if e.2 = k then { e.1 with due := t, stalls := stalls } else e.1 }

/-- The probe due to partner `k` goes out with a tag, or stalls while the pool has none (R345). DESIGN
CHOICE: the 128,000 G of a probe that stalled count from when it was due, so one that stalls as long
has had no response. -/
def State.probeSend (s : State) (l k : Nat) (p : Partner) : State :=
  let s := if p.stalls && decide (p.due + 128000 ≤ s.now) then s.partnerLost l else s
  match s.egress (l * 16 + k) { typ := 8, len := 7, addr := p.seq, dst := p.dev } with
  | (none, s) => s.setProbeDue l k p.due true
  | (some true, s) => s.setProbe l k (some (if p.stalls then p.due else s.now))
  | (some false, s) => s.probeAnswer l BusStatus.unreachable.code 0

/-- PARTNER_PROBE: every 128,000 G the selvage die probes partner `k` of a run; a partner on this
device is probed internally, and a lost die answers DIE_DOWN. A probe that is still out then has had
no response within its time. -/
def State.partnerProbe (s : State) (l k : Nat) : State :=
  match (s.seq l).partners[k]? with
  | none => s
  | some p =>
    if !s.hasRun l then s
    else
      let s := { s with now := max s.now p.due }
      let s := s.setProbeDue l k (s.now + 128000) false
      let s := if p.probe.isSome then (s.setProbe l k none).partnerLost l else s
      if p.dev = s.ownDev then
        s.probeAnswer l (if (s.die (p.seq / 4 + 1)).lost then BusStatus.dieDown.code else 0)
          (s.probeWord p.seq)
      else s.probeSend l k p

def execPartnerProbe (l k : Nat) (s : State) : Host.Outcome State Fault Refusal :=
  .next (if bankOk l then s.partnerProbe l k else s)

/-- PROBE_RESPONSE: the egress has the answer to a probe sent over Kelef; one that comes after its
time is dropped. -/
def State.probeResponse (s : State) (l k : Nat) : State :=
  match s.answers.find? fun a => a.init == 0 && a.num == l * 16 + k with
  | none => s
  | some a =>
    let s : State := { s with answers := s.answers.erase a }
    if ((s.seq l).partners[k]?.bind (·.probe)).isSome then
      (s.setProbe l k none).probeAnswer l a.status a.data
    else s

def execProbeResponse (l k : Nat) (s : State) : Host.Outcome State Fault Refusal :=
  .next (if bankOk l then s.probeResponse l k else s)

/-- PROBE_TIMEOUT: no response within 128,000 G. -/
def State.probeTimeout (s : State) (l k : Nat) : State :=
  match (s.seq l).partners[k]?.bind (·.probe) with
  | none => s
  | some t =>
    let s := { s with now := max s.now (t + 128000) }
    (s.setProbe l k none).partnerLost l

def execProbeTimeout (l k : Nat) (s : State) : Host.Outcome State Fault Refusal :=
  .next (if bankOk l then s.probeTimeout l k else s)

/-! ### The boundary of an idle sequencer (R100, R152, R173) -/

/-- IDLE_8G_BOUNDARY: the pages of a sequencer without a run apply at the next multiple of 8 G. -/
def State.idleBoundary (s : State) (b : Nat) (bad : List Nat) : State :=
  if bankOk b && !s.hasRun b && [pgSeq b, pgWft b, pgEdg b].any s.nativeWaits then
    let s := { s with now := ceilTo 8 s.now }
    ((s.applyBank bad b).maskStep b).settleBank b
  else s

def execIdle8GBoundary (b : Nat) (bad : List Nat) (s : State) : Host.Outcome State Fault Refusal :=
  .next (s.idleBoundary b bad)

/-! ### Debug operations (R470) -/

/-- HALT: accepted only during a run. -/
def State.seqHalt (s : State) (b : Nat) : State :=
  let l := s.leader b
  if s.hasRun l && !(s.seq l).halted then s.modSeq l fun x => { x with haltReq := true } else s

/-- STEP: one cycle, with its hold cycles or iterations through resolution, then the halt again.
When the cycle starts is not stated; the model takes the next multiple of 8 G. -/
def State.seqStep (s : State) (b : Nat) : State :=
  let l := s.leader b
  if (s.seq l).halted && (s.seq l).resumeAt.isNone then
    (s.modSeq l fun x => { x with halted := false, haltReq := true, oneStep := true,
                                  sNext := ceilTo 8 (max s.now (x.sNext / 256 + 1)) * 256 }).haltSync l
  else s

/-- RESUME: the next cycle starts at the first multiple of 8 G at least 2,048 G later. -/
def State.seqResume (s : State) (b : Nat) : State :=
  let l := s.leader b
  if (s.seq l).halted && (s.seq l).resumeAt.isNone then
    s.modSeq l fun x => { x with resumeAt := some (ceilTo 8 (s.now + 2048)) }
  else s

/-- The resume time is reached. -/
def State.seqResumeStart (s : State) (l : Nat) : State :=
  match (s.seq l).resumeAt with
  | none => s
  | some t =>
    if !s.running (pgSeq l) then s
    else
      let s := s.modSeq l fun x => { x with
        halted := false, haltReq := false, resumeAt := none, sNext := t * 256 }
      { s.haltSync l with now := max s.now t }

end Sys2Proof.Machine
end

