-- ==== Sys2Proof/Machine/Cfg.lean ====
section
/-! DEFINITION. Configuration streams, regions, release and the darner (chapter 17). -/

namespace Sys2Proof.Machine

def State.darn (s : State) (p : Nat) : DarnX := s.darns.getD p {}
def State.setDarn (s : State) (p : Nat) (x : DarnX) : State := { s with darns := s.darns.setD p {} x }

/-! ### Regions and bases (R387–R389, R400) -/

/-- A region's tiles on a panel, bit 8r + c for tile (r, c). -/
def State.regionTiles (s : State) (r p : Nat) : Nat := s.cfg.tiles.getD (r * 4 + p - 1) 0

/-- The partial region that a tile belongs to. -/
def State.tileRegion (s : State) (p tile : Nat) : Option Nat :=
  (List.range 32).find? fun r => maskBit (s.regionTiles r p) tile

def baseFld (p : Nat) : Fld := ⟨CFG_BASE.STATE.off, 0, 3 * p - 1, 3 * p - 3, .ro, 0⟩
def State.baseState (s : State) (p : Nat) : Nat := s.rd pgCfg (baseFld p)
def State.regionState (s : State) (r : Nat) : Nat := s.rd pgCfg (CFG_Rr_STAT.STATE.nth r)

/-- What a tile drives is held: by its region, until stage O of a release, or by its base. -/
def State.tileHeld (s : State) (p tile : Nat) : Bool :=
  match s.tileRegion p tile with
  | none => s.baseState p != 3
  | some r => s.regionState r != 3 || !maskBit (s.cfg.passed.getD r 0) 0

/-- The owning tiles of the resources (R388). -/
def bankTile (b : Nat) : Nat := 56 + 2 * (b % 4)
def quadTile (q : Nat) : Nat := q
def serialTile (k : Nat) : Nat := 24 + 2 * k
def fabTile (f : Nat) : Nat := 8 * (1 + f / 4) + 7

/-- A tile's flip-flops and tacks are in reset: until stage R of a release, or while its base is held
(R400, R402, R414). DESIGN CHOICE: the contents of LUT memories move with them. -/
def State.tileReset (s : State) (p tile : Nat) : Bool :=
  match s.tileRegion p tile with
  | none => s.baseState p != 3
  | some r => s.regionState r != 3 || !maskBit (s.cfg.passed.getD r 0) 2

/-- User writes of a tile's bolt memories are enabled: from stage W on (R400, R402). -/
def State.boltOpen (s : State) (p tile : Nat) : Bool :=
  match s.tileRegion p tile with
  | none => s.baseState p == 3
  | some r => s.regionState r == 3 && maskBit (s.cfg.passed.getD r 0) 1

/-- Since when tiles are free of a hold, given which are held now. -/
def sinceFree (held : Nat → Bool) (now : Nat) (m : Tbl Nat) : Tbl Nat :=
  (List.range 64).foldl (fun m t => if held t then m.del t else if (m.find t).isSome then m else m.put t now) m

/-- Flip-flops and tacks in reset lose what they held; a panel with no frame written has none that move. -/
def State.resetLogic (s : State) (p : Nat) : State :=
  let x := s.logics.getD p {}
  let y := { x with ffs := x.ffs.filter fun e => !s.tileReset p (e.1 / 100000),
                    tacks := x.tacks.filter fun e => !s.tileReset p (Config.segTile e.1) }
  let y := if (s.darn p).frames.isEmpty then y
    else { y with freeAt := sinceFree (s.tileReset p) s.now y.freeAt,
                  openAt := sinceFree (fun t => !s.boltOpen p t) s.now y.openAt }
  { s with logics := s.logics.setD p {} y }

/-- A held fabric port discards the responses that wait for the fabric (R400). -/
def State.resetPort (s : State) (i : Nat) : State :=
  let x := s.fabs.getD i {}
  if x.wait.isEmpty || !s.tileHeld (i / 16 + 1) (fabTile (i % 16)) then s
  else
    let s : State := { s with fabs := s.fabs.setD i {} { x with wait := [] } }
    let d := i / 16 + 1
    let n := s.noc d
    ((s.setNoc d { n with held := n.held.setD (0x40 + i) 0 x.queue.length }).tagSync d).wr (pgFab d) (FAB_PORTf_STAT.TAGS.nth (i % 16)) x.queue.length

/-- The edge banks follow the holds of their tiles (R96, R400), and the logic its resets. -/
def State.holdSync (s : State) : State :=
  let s := (List.range 64).foldl State.resetPort ([1, 2, 3, 4].foldl State.resetLogic s)
  (List.range 16).foldl (fun s b =>
    let h := s.tileHeld (b / 4 + 1) (bankTile b)
    let k := s.bank b
    if h && !k.held && !k.holdDue then s.bankHold b
    else if !h && (k.held || k.holdDue) then s.bankRelease b else s) s

/-- CONF_DONE: the base of every released panel is RUNNING (R401). -/
def State.doneSync (s : State) : State :=
  let ps := [1, 2, 3, 4].filter s.released
  let d := !ps.isEmpty && ps.all fun p => s.baseState p == 3
  { s with pins := { s.pins with confDone := s.pins.confDone.map fun _ => d } }

/-- CFG_Rr_STAT.PANELS follows the region's tiles. -/
def State.panelsSync (s : State) (r : Nat) : State :=
  s.wr pgCfg (CFG_Rr_STAT.PANELS.nth r)
    ((List.range 4).foldl (fun n i => if s.regionTiles r (i + 1) = 0 then n else n + 2 ^ i) 0)

def State.setRegion (s : State) (r st : Nat) : State :=
  let s : State := { s with cfg := { s.cfg with stages := s.cfg.stages.del r } }
  let s := if st = 3 then s else { s with cfg := { s.cfg with passed := s.cfg.passed.del r } }
  s.wr pgCfg (CFG_Rr_STAT.STATE.nth r) st

def State.setBase (s : State) (p st : Nat) : State := s.wr pgCfg (baseFld p) st

/-- The state with a region's tiles replaced. -/
def State.setTiles (s : State) (r : Nat) (m : List Nat) : State :=
  let t := (List.range 4).foldl (fun t i => t.setD (r * 4 + i) 0 (m.getD i 0)) s.cfg.tiles
  let s : State := { s with cfg := { s.cfg with tiles := t } }
  s.panelsSync r

/-- CONF_ERR_N and CFG_STAT.ERR. -/
def State.confErr (s : State) (e : Bool) : State :=
  let s := (s.wr pgCfg CFG_STAT.ERR (bit e)).wr pgCfg PAGE_LEVEL.BLOCK
    (maskSet (s.rd pgCfg PAGE_LEVEL.BLOCK) 1 e)
  { s with pins := { s.pins with confErrN := s.pins.confErrN.map fun _ => e } }

/-- CFG_STAT.STATE, BUSY and LOADING follow the stream. -/
def State.cfgStage (s : State) (st : Nat) : State :=
  ((s.wr pgCfg CFG_STAT.STATE st).wr pgCfg PAGE_LEVEL.BUSY (bit (st != 0))).wr pgCfg PAGE_LEVEL.BLOCK
    (maskSet (s.rd pgCfg PAGE_LEVEL.BLOCK) 0 (st != 0))

/-- A configuration event for the host (R409). -/
def State.cfgEvent (s : State) (region kind : Nat) (panel : Option Nat) (cause : Nat) : State :=
  if s.on pgCfg CFG_CTL.HOST_EV then
    s.postEvent (3 * 2 ^ 4 + region * 2 ^ 8 + (if panel.isSome then 2 ^ 13 else 0) + kind * 2 ^ 14
      + panel.getD 0 * 2 ^ 16 + cause * 2 ^ 20) s.time
  else s

/-! ### The end of a stream (R397–R399) -/

/-- The stream fails with a cause; what it made LOADING becomes FAILED. -/
def State.cfgFail (s : State) (cause : Nat) : State :=
  match s.cfg.stream with
  | none => s
  | some x =>
    let acc := s.rd pgCfg CFG_STAT.STATE = 2
    let s := (s.wr pgCfg CFG_STAT.CAUSE cause).ev pgCfg 9
    let s := s.confErr true
    let s :=
      if acc then
        if x.full then x.panels.foldl (fun s p => s.setBase p 4) s else s.setRegion x.region 4
      else s
    let s : State := { s with cfg := { s.cfg with stream := none } }
    let s := s.cfgStage 0
    let s := if cause = 13 then s.evAborted pgCfg else s.evDone pgCfg
    s.cfgEvent x.region 1 none cause

/-- The stream has verified: what it wrote is LOADED. -/
def State.cfgVerified (s : State) (x : StreamX) : State :=
  let s := (s.wr pgCfg CFG_STAT.CAUSE 0).ev pgCfg 8
  let s := s.confErr false
  let s := if x.full then x.panels.foldl (fun s p => s.setBase p 2) s else s.setRegion x.region 2
  let s : State := { s with cfg := { s.cfg with stream := none, lastFull := if x.full then x.head else s.cfg.lastFull } }
  (((s.cfgStage 0).evDone pgCfg)).cfgEvent x.region 0 none 0

/-- PAGE_CTL.ABORT of the CFG page, or STREAM_EN written 0 (R390, R399). -/
def State.cfgAbort (s : State) : State := s.cfgFail 13

/-- A stream starts. -/
def State.cfgStart (s : State) (x : StreamX) : State :=
  let s : State := { s with cfg := { s.cfg with stream := some x } }
  let s := (s.wr pgCfg CFG_BLK.DONE 0).wr pgCfg CFG_BLK.NBLK 0
  s.cfgStage 1

/-! ### Transport (R390) -/

/-- One packet reaches the configuration port, which discards it while STREAM_EN is 0 and before the
first release (R431). DEDUCED: a TAG that wraps to 0 as the stream's next goes on with the stream, since a stream has
more than 65,536 packets. -/
def State.cfgPacket (s : State) (k : Packet) : State :=
  let bytes := k.len + 1
  let add (x : StreamX) : StreamX :=
    { x with tag := (k.tag + 1) % 2 ^ 16, buf := x.buf + k.data % 2 ^ (8 * bytes) * 2 ^ (8 * x.len), len := x.len + bytes, last := s.now }
  if !s.on pgCfg CFG_CTL.STREAM_EN || !s.hub.first then s.cfgFail 13
  else match s.cfg.stream with
    | some x =>
      if k.tag = x.tag then { s with cfg := { s.cfg with stream := some (add x) } }
      else if k.tag = 0 then (s.cfgFail 13).cfgStart (add { tag := 0 })
      else s.cfgFail 11
    | none => if k.tag = 0 then s.cfgStart (add { tag := 0 }) else s

/-- CFG_STREAM_PACKET: the configuration port takes the next packet of its sink; while the block
buffers are full it takes none. -/
def State.cfgTake (s : State) : State :=
  match s.sinks.getD 0 [] with
  | [] => s
  | k :: rest =>
    if s.cfgFull || !s.running pgCfg then s
    else
      let s := { s with sinks := s.sinks.setD 0 [] rest }
      s.cfgPacket k

def execCfgStreamPacket (s : State) : Host.Outcome State Fault Refusal := .next s.cfgTake

/-- CFG_STREAM_TIMEOUT: no packet for CFG_CTL.TIMEOUT × 1,280,000 G. -/
def State.cfgTimeout (s : State) : State :=
  match s.cfg.stream with
  | none => s
  | some x =>
    if !s.running pgCfg then s
    else ({ s with now := max s.now (x.last + 1280000 * max 1 (s.rd pgCfg CFG_CTL.TIMEOUT)) } : State).cfgFail 12

def execCfgStreamTimeout (s : State) : Host.Outcome State Fault Refusal := .next s.cfgTimeout

/-! ### The header (R391, R394, R395) -/

/-- Bytes `off` to `off + n − 1` of a header, as a little-endian number. -/
def hdrAt (h off n : Nat) : Nat := h / 2 ^ (8 * off) % 2 ^ (8 * n)

/-- Check 1: the fixed fields. -/
def headerBad (h : Nat) : Bool :=
  let flags := hdrAt h 6 2
  let full := maskBit flags 0
  let enc := maskBit flags 1
  let nblk := hdrAt h 8 4
  hdrAt h 0 4 != 0x7440C0F1 || hdrAt h 4 2 != 1 || decide (4 ≤ flags)
    || nblk == 0 || decide (8192 < nblk) || hdrAt h 0xF 1 != 0 || hdrAt h 0x24 12 != 0
    || hdrAt h 0xE0 192 != 0 || decide (31 < hdrAt h 0xE 1)
    || (!enc && (hdrAt h 0xD 1 != 0 || hdrAt h 0x18 12 != 0))
    || (full && (hdrAt h 0xE 1 != 0 || hdrAt h 0x30 32 != 0))

/-- The tiles that a header names on panels 1 to 4. -/
def headerMask (h : Nat) : List Nat := (List.range 4).map fun i => hdrAt h (0x30 + 8 * i) 8

/-- Check 4: the signing key and, for an encrypted stream, the stream key. -/
def State.headerKeyBad (s : State) (h : Nat) : Bool :=
  let k := hdrAt h 0xC 1
  !(decide (k < 4) && maskBit (s.rd pgCfg CFG_PK_STAT.VALID) k
      && !maskBit (s.rd pgCfg CFG_PK_STAT.REVOKED) k
      && sha384 96 (hdrAt h 0x80 96) == s.store.digests.getD k 0)
    || (maskBit (hdrAt h 6 2) 1 && (s.slots.getD (hdrAt h 0xD 1) {}).state != 3)

/-- Check 5: the tiles of a partial stream. -/
def State.headerRegionBad (s : State) (h : Nat) : Bool :=
  let m := headerMask h
  let r := hdrAt h 0xE 1
  !maskBit (hdrAt h 6 2) 0 &&
    (m.all (· == 0) || (List.range 4).any fun i =>
      m.getD i 0 != 0 && (s.baseState (i + 1) != 3 || (List.range 32).any fun q =>
        q != r && (s.regionTiles q (i + 1) &&& m.getD i 0) != 0))

/-- The first check that a header fails. -/
def State.headerCause (s : State) (h : Nat) : Option Nat :=
  if headerBad h then some 1
  else if (hdrAt h 0x10 4 &&& (2 ^ 32 - 1 - s.rd pgSeam SEAM_CAP_EFF.CAP % 2 ^ 32)) != 0 then some 2
  else if hdrAt h 0x14 4 < s.rd pgCfg CFG_SVN_MIN.SVN then some 3
  else if s.headerKeyBad h then some 4
  else if s.headerRegionBad h then some 5
  else if !ecdsaOk (hdrAt h 0x80 96) 0x1A0 (hdrAt h 0 0x1A0) (hdrAt h 0x1A0 96) then some 6
  else none

/-- A mask class is a table write of the loader: the sum that the darner checks follows (R408). -/
def maskSum (m : Nat) : Nat :=
  (List.range 128).foldl (fun n i => n + bitsOf m (32 * i + 31) (32 * i)) 0

def State.sumAdd (s : State) (p : Nat) (old new : Nat) : State :=
  s.wr (pgDarn p) DARN_TBL_SUM_REF.SUM
    (s.rd (pgDarn p) DARN_TBL_SUM_REF.SUM + 2 ^ 32 * (old / 2 ^ 32 + 1) - old + new)

def State.setMask (s : State) (p cls pat : Nat) : State :=
  let x := s.darn p
  let s := s.sumAdd p (maskSum (x.masks.getD cls 0)) (maskSum pat)
  s.setDarn p { x with masks := x.masks.setD cls 0 pat, written := true }

/-- The panels that a full load writes: the released ones that are not lost, whose frames alone are written (R396). -/
def State.loadPanels (s : State) : List Nat := [1, 2, 3, 4].filter fun p => s.released p && !(s.die p).lost

/-- A full load is accepted: every region is EMPTY, the bases of the released panels are LOADING. HELD sets where one
of them was RUNNING. -/
def State.acceptFull (s : State) : State :=
  let ran := (List.range 32).any fun r => s.regionState r == 3
  let s := (List.range 32).foldl (fun s r => (s.setRegion r 0).setTiles r []) s
  let ps := s.loadPanels
  let was := ps.any fun p => s.baseState p == 3
  let s := ps.foldl (fun s p => s.setBase p 1) s
  let s := [1, 2, 3, 4].foldl (fun s p => (s.darn p).masks.foldl (fun s e => s.setMask p e.1 0) s) s
  if was || ran then s.ev pgCfg 12 else s

/-- A partial load is accepted: the region takes its tiles and is LOADING. -/
def State.acceptPartial (s : State) (r : Nat) (m : List Nat) : State :=
  let s := (s.setTiles r m).setRegion r 1
  s.ev pgCfg 12

/-- CFG_HEADER_VERIFIED. -/
def State.cfgHeader (s : State) : State :=
  match s.cfg.stream with
  | none => s
  | some x =>
    if !s.running pgCfg ∨ s.rd pgCfg CFG_STAT.STATE ≠ 1 ∨ x.len < 512 then s
    else
      let h := x.buf % 2 ^ 4096
      let full := maskBit (hdrAt h 6 2) 0
      let s := (s.wr pgCfg CFG_STAT.REGION (hdrAt h 0xE 1)).wr pgCfg CFG_STAT.FULL (bit full)
      let s := s.wr pgCfg CFG_BLK.NBLK (hdrAt h 8 4)
      let x := { x with buf := x.buf / 2 ^ 4096, len := x.len - 512, full := full, enc := maskBit (hdrAt h 6 2) 1, ekey := hdrAt h 0xD 1, region := hdrAt h 0xE 1 % 32, mask := headerMask h, iv := hdrAt h 0x18 12, aad := hdrAt h 0 0x1A0, hash := hdrAt h 0x50 48, panels := s.loadPanels, head := sha384 512 h }
      let s : State := { s with cfg := { s.cfg with stream := some x } }
      match s.headerCause h with
      | some c => s.cfgFail c
      | none =>
        let s := (s.wr pgCfg CFG_BLK.DONE 0).cfgStage 2
        let s := if full then s.acceptFull else s.acceptPartial x.region x.mask
        s.holdSync.doneSync

def execCfgHeaderVerified (s : State) : Host.Outcome State Fault Refusal := .next s.cfgHeader

/-! ### Blocks (R392, R393, R396, R397) -/

/-- What a record asks the loader to write. -/
inductive CfgWrite where
  | frame (die idx cls data : Nat)
  | mask (die cls pat : Nat)
  deriving DecidableEq, Repr

/-- The frames of a FRAMES record. -/
def framesOf (pl off die idx cls n : Nat) : List CfgWrite :=
  (List.range n).map fun i => .frame die (idx + i) cls (hdrAt pl (off + 8 + 512 * i) 512)

/-- The records of a payload area from an offset on, or the cause that ends the stream. -/
def records (part : Bool) (mask : List Nat) (pl : Nat) : Nat → Nat → Except Nat (List CfgWrite)
  | 0, _ => .error 8
  | n + 1, off =>
    if off = 65488 then .ok []
    else
      let w := hdrAt pl off 8
      let cls := bitsOf w 7 4
      let cnt := bitsOf w 14 8
      let die := bitsOf w 35 33
      let idx := bitsOf w 32 16
      if maskBit w 15 || bitsOf w 63 36 != 0 then .error 8
      else if w % 16 = 0 then
        if hdrAt pl (off + 8) (65480 - off) = 0 then .ok [] else .error 8
      else if w % 16 = 1 then
        if cnt = 0 ∨ die = 0 ∨ 4 < die ∨ 2048 < idx % 2048 + cnt ∨ 65488 < off + 8 + 512 * cnt then
          .error 8
        else if part && !maskBit (mask.getD (die - 1) 0) (idx / 2048) then .error 9
        else (records part mask pl n (off + 8 + 512 * cnt)).map (framesOf pl off die idx cls cnt ++ ·)
      else if w % 16 = 2 then
        if part || cnt != 1 || cls == 0 || die == 0 || decide (4 < die) || idx != 0
            || decide (65488 < off + 520) then .error 8
        else (records part mask pl n (off + 520)).map (.mask die cls (hdrAt pl (off + 8) 512) :: ·)
      else .error 8

/-- The bits of a frame that the darner judges: masked bits taken as 0 (R404). -/
def State.unmasked (s : State) (p cls data : Nat) : Nat :=
  if cls = 0 then data
  else let m := (s.darn p).masks.getD cls 0
       data - (data &&& m)

/-- The loader writes a frame or a mask, or discards a frame of a die that is not there. -/
def State.cfgWrite (s : State) (w : CfgWrite) : State :=
  match w with
  | .frame p i cls d =>
    if !s.released p || (s.die p).lost then s.bump pgCfg CFG_SKIPPED.COUNT 1
    else
      let x := s.darn p
      let old := x.frames.getD i {}
      let f : CfgFrame := ⟨d, d, 0, cls, crc32 512 (s.unmasked p cls d)⟩
      let s := s.sumAdd p (old.gold + old.cls) (f.gold + f.cls)
      s.setDarn p { x with frames := x.frames.setD i {} f, written := true, newly := i :: x.newly }
  | .mask p c pat => if !s.released p || (s.die p).lost then s else s.setMask p c pat

/-- The closing record of the last block: NBLK and CLOSE match, and for an encrypted stream the tag. R397 names no
check of the bytes that R392 gives as zero. -/
def State.closeOk (s : State) (x : StreamX) (trailer : Nat) : Bool :=
  hdrAt trailer 0 4 == s.rd pgCfg CFG_BLK.NBLK && hdrAt trailer 4 4 == 0x0C105EDB
    && (!x.enc || hdrAt trailer 16 16 == gcmTag (s.slots.getD x.ekey {}).cipher x.iv 26 x.aad 4093 x.areas)

/-- CFG_BLOCK_PROCESS: the next whole block is hashed, decrypted, checked and written. -/
def State.cfgBlock (s : State) : State :=
  match s.cfg.stream with
  | none => s
  | some x =>
    if !s.running pgCfg ∨ s.rd pgCfg CFG_STAT.STATE ≠ 2 ∨ x.len < 65536 then s
    else
      let b := x.buf % 2 ^ 524288
      let area := hdrAt b 0 65488
      let trailer := hdrAt b 65488 48
      let j := s.rd pgCfg CFG_BLK.DONE
      if sha384 65536 b ≠ x.hash then s.cfgFail 7
      else
        let pl := if x.enc then gcmOpen (s.slots.getD x.ekey {}).cipher x.iv (4093 * j) 4093 area else area
        match records (!x.full) x.mask pl 8187 0 with
        | .error c => s.cfgFail c
        | .ok ws =>
          let s := ws.foldl State.cfgWrite s
          let x := { x with buf := x.buf / 2 ^ 524288, len := x.len - 65536, hash := trailer, areas := x.areas ++ [area] }
          let s : State := { s with cfg := { s.cfg with stream := some x } }
          let s := s.wr pgCfg CFG_BLK.DONE (j + 1)
          if j + 1 < s.rd pgCfg CFG_BLK.NBLK then s
          else if s.closeOk x trailer then s.cfgVerified x else s.cfgFail 10

def execCfgBlockProcess (s : State) : Host.Outcome State Fault Refusal := .next s.cfgBlock

/-- CLR_ERR: CONF_ERR_N deasserts. -/
def execClrErr (s : State) : Host.Outcome State Fault Refusal :=
  .next (s.guarded pgCfg 0x40 fun s => (s.disarm pgCfg).confErr false)

/-! ### Release (R401, R402) -/

/-- The stages of an order: 0 O, 1 W, 2 R. -/
def relOrder (o : Nat) : List Nat :=
  [[0, 1, 2], [0, 2, 1], [1, 0, 2], [1, 2, 0], [2, 0, 1], [2, 1, 0]].getD o [0, 1, 2]

/-- A region passes a stage. -/
def State.passStage (s : State) (r k : Nat) : State :=
  { s with cfg := { s.cfg with passed := s.cfg.passed.setD r 0 (maskSet (s.cfg.passed.getD r 0) k true) } }

/-- A LOADED region starts its release at a fabric time. -/
def State.releaseRegion (s : State) (r t : Nat) (staged : Bool) : State :=
  let s := s.setRegion r 3
  let gap := if staged then 64 * s.rd pgCfg CFG_REL_CFG.GAP else 0
  let o := relOrder (s.rd pgCfg CFG_REL_CFG.ORDER)
  if gap = 0 then o.foldl (fun s k => s.passStage r k) s
  else
    let s := s.passStage r (o.headD 0)
    let rest := (o.drop 1).zipIdx.map fun e => (t + gap * (e.2 + 1), e.1)
    { s with cfg := { s.cfg with stages := s.cfg.stages.put r rest } }

/-- A RELEASE entry acts at its time (R401). -/
def State.cfgRelease (s : State) (full : Bool) (arg t : Nat) : State :=
  let rs := (List.range 32).filter fun r =>
    s.regionState r == 2 && (full || maskBit arg r)
  let bs := if full then [1, 2, 3, 4].filter fun p => s.baseState p == 2 else []
  let skip :=
    if full then [1, 2, 3, 4].any fun p => s.released p && s.baseState p != 2
    else (List.range 32).any fun r => maskBit arg r && s.regionState r != 2
  let s := bs.foldl (fun s p => s.setBase p 3) s
  let s := rs.foldl (fun s r => s.releaseRegion r t (!full)) s
  let s := if rs.isEmpty && bs.isEmpty then s else s.ev pgCfg 10
  let s := if skip then s.ev pgCfg 11 else s
  s.holdSync.doneSync

/-- RELEASE_STAGE: the next stage of a region's release. -/
def State.releaseStage (s : State) (r : Nat) : State :=
  match s.cfg.stages.find r with
  | none => s
  | some [] => { s with cfg := { s.cfg with stages := s.cfg.stages.del r } }
  | some ((t, k) :: rest) =>
    let s := { s with now := max s.now t }
    let s := s.passStage r k
    let st := if rest.isEmpty then s.cfg.stages.del r else s.cfg.stages.put r rest
    let s : State := { s with cfg := { s.cfg with stages := st } }
    s.holdSync

def execReleaseStage (r : Nat) (s : State) : Host.Outcome State Fault Refusal :=
  .next (if s.running pgCfg then s.releaseStage r else s)

/-! ### The darner (R403–R408) -/

/-- The policy of a frame that cannot be repaired (R407). -/
def State.darnPolicy (s : State) (p tile : Nat) : State :=
  match s.tileRegion p tile with
  | some r =>
    if maskBit (s.rd pgCfg CFG_POLICY.REGION) r then
      let s := ((s.setRegion r 5).ev pgCfg 14).ev pgCfg 12
      s.holdSync.cfgEvent r 3 none 0
    else (s.ev pgCfg 13).cfgEvent r 2 none 0
  | none =>
    if maskBit (s.rd pgCfg CFG_BASE_POLICY.BASE) (p - 1) then
      let s := ((s.setBase p 5).ev pgCfg 14).ev pgCfg 12
      s.holdSync.doneSync.cfgEvent 0 3 (some p) 0
    else (s.ev pgCfg 13).cfgEvent 0 2 (some p) 0

/-- DARN_LAST records an outcome. -/
def State.darnLast (s : State) (p i kind b : Nat) : State :=
  let pg := pgDarn p
  let s := ((s.wr pg DARN_LAST.FRAME i).wr pg DARN_LAST.KIND kind).wr pg DARN_LAST.BIT b
  s.wrPair pg DARN_LAST_T_LO.TIME DARN_LAST_T_HI.TIME s.time

/-- MULTI: counted, alarmed whatever PAGE_ALARM_EN holds, and the policy applies. -/
def State.darnMulti (s : State) (p i kind b : Nat) : State :=
  let pg := pgDarn p
  let s := ((s.darnLast p i kind b).bump pg DARN_MULTI.COUNT 1).ev pg 9
  (s.raise pg 6 (some 9) p).darnPolicy p (i / 2048)

/-- The number of ones of a 4,096-bit difference, counted up to `n` bits. -/
def onesOf : Nat → Nat → Nat
  | 0, _ => 0
  | n + 1, x => x % 2 + onesOf n (x / 2)

/-- The syndrome of a frame: zero, one bit (a bit of the frame, or a check bit), or uncorrectable. The check bits detect
every error of two bits (R386); with more changed the code, which is not stated, leaves the verdict open. -/
inductive Syn where
  | zero | one (k : Option Nat) | bad
  deriving DecidableEq, Repr

def State.syndrome (s : State) (f : CfgFrame) : Syn × State :=
  let d := f.data ^^^ f.orig
  let n := onesOf 4096 d + f.chk
  if n = 0 then (.zero, s)
  else if n = 1 then (.one (if f.chk = 1 then none else some (Nat.log2 d)), s)
  else if n = 2 then (.bad, s)
  else
    let (v, s) := s.draw 2
    let (k, s) := s.draw 12
    (if v = 0 then .zero else if v = 1 then .one (some k) else .bad, s)

/-- The frame in visit is judged as the darner has read it, `f` (R405). It writes back to the frame as it stands now, and
only if the word of 64 bits that holds the bit has not changed since; otherwise it does nothing, and comes to the frame
again in its next pass (R406). DESIGN CHOICE: words of 64 bits, and a repair that is not made is no outcome. -/
def State.darnJudge (s : State) (p i : Nat) (f : CfgFrame) : State :=
  let pg := pgDarn p
  let x := s.darn p
  let g := x.frames.getD i {}
  let good (d : Nat) : Bool := crc32 512 (s.unmasked p f.cls d) == f.gold
  let put (s : State) (g : CfgFrame) : State := s.setDarn p { x with frames := x.frames.setD i {} g }
  let fixed (s : State) (k : Nat) : State := ((s.darnLast p i 0 k).bump pg DARN_CORR.COUNT 1).ev pg 8
  match s.syndrome f with
  | (.zero, s) => if good f.data then s else s.darnMulti p i 1 0
  | (.bad, s) => s.darnMulti p i 1 0
  | (.one (some k), s) =>
    if !s.cap 7 then s.darnMulti p i 3 k
    else if good (f.data ^^^ 2 ^ k) then
      if g.data / 2 ^ (64 * (k / 64)) % 2 ^ 64 = f.data / 2 ^ (64 * (k / 64)) % 2 ^ 64 then
        fixed (put s { g with data := g.data ^^^ 2 ^ k }) k
      else s
    else s.darnMulti p i 2 k
  | (.one none, s) =>
    let (k, s) := s.draw 12
    if !s.cap 7 then s.darnMulti p i 3 k
    else if good f.data then (if g.orig = f.orig then fixed (put s { g with chk := 0 }) k else s)
    else s.darnMulti p i 2 k

/-- The sum over a panel's tables as the darner recomputes it. -/
def State.darnSum (s : State) (p : Nat) : Nat :=
  let x := s.darn p
  x.frames.foldl (fun n e => n + e.2.gold + e.2.cls) 0
    + x.masks.foldl (fun n e => n + maskSum e.2) 0

/-- The end of a pass (R408): `upset` is what upsets of the tables add to the sum. -/
def State.darnPass (s : State) (p upset : Nat) : State :=
  let pg := pgDarn p
  let s := s.wr pg DARN_PASS.COUNT (s.rd pg DARN_PASS.COUNT + 1)
  let s := s.wr pg DARN_TBL_SUM_NOW.SUM (s.darnSum p + upset)
  let s :=
    if s.rd pg DARN_TBL_SUM_NOW.SUM ≠ s.rd pg DARN_TBL_SUM_REF.SUM ∧ !(s.darn p).written then
      (s.ev pg 12).raise pg 6 (some 12) p
    else s
  s.setDarn p { s.darn p with written := false, newly := [] }

/-- The darner reads the frame that its visit has come to. -/
def State.darnRead (s : State) (p : Nat) : State :=
  let x := s.darn p
  s.setDarn p { x with read := some (x.frames.getD (s.rd (pgDarn p) DARN_POS.FRAME) {}) }

/-- The region or base of a tile is scrubbed: LOADED or RUNNING (R389). -/
def State.scrubbed (s : State) (p tile : Nat) : Bool :=
  let st := match s.tileRegion p tile with
    | none => s.baseState p
    | some r => s.regionState r
  st == 2 || st == 3

/-- DARN_FRAME_VISIT: the visit of a frame address ends, and the next one begins with the read of its frame. `flips` are
the bits of the frame, `chk` the check bits, that upsets had changed when the darner read it; `e` the verdict on the
frame's table entries. A frame that the loader has
written in this pass is scrubbed from the next pass on (R406). -/
def State.darnVisit (s : State) (p flips chk : Nat) (e : Ecc) (upset : Nat) : State :=
  let pg := pgDarn p
  if !(panelOk p && s.running pg && s.on pg DARN_CFG.EN && !(s.die p).lost) then s
  else
    let i := s.rd pg DARN_POS.FRAME
    let x := s.darn p
    let s := { s with now := max s.now (x.visit + 64 * max 24 (s.rd pg DARN_CFG.PACE)) }
    let hit (f : CfgFrame) : CfgFrame := { f with data := f.data ^^^ flips % 2 ^ 4096, chk := f.chk + chk }
    let f := hit (x.read.getD (x.frames.getD i {}))
    let s := s.setDarn p { x with visit := s.now, frames := x.frames.setD i {} (hit (x.frames.getD i {})) }
    let s :=
      if !s.scrubbed p (i / 2048) || x.newly.contains i then s
      else match e with
        | .clean => s.darnJudge p i f
        | .corrected => ((s.bump pg DARN_TBL_ECC.CORR 1).ev pg 11).darnJudge p i f
        | .fatal => ((s.wr pg DARN_TBL_ECC.FATAL 1).ev pg 11).raise pg 6 (some 11) p
    let s := s.wr pg DARN_POS.FRAME (i + 1)
    (if i = 131071 then s.darnPass p upset else s).darnRead p

def execDarnFrameVisit (p flips chk : Nat) (e : Ecc) (upset : Nat) (s : State) :
    Host.Outcome State Fault Refusal := .next (s.darnVisit p flips chk e upset)

/-- DARN_HEARTBEAT: every 128,000 G while EN is 1; the hub's bit of a missed one clears (R479). -/
def State.darnBeat (s : State) (p : Nat) : State :=
  let pg := pgDarn p
  if panelOk p && s.running pg && s.on pg DARN_CFG.EN && !(s.die p).lost then
    let s := { s with now := max s.now ((s.darn p).beat + 128000) }
    let s := s.wr pg DARN_HB.COUNT (s.rd pg DARN_HB.COUNT + 1)
    let s := s.setDarn p { s.darn p with beat := s.now }
    s.wr pgAlm HUB_ALM_HB.MISSED (maskSet (s.rd pgAlm HUB_ALM_HB.MISSED) (p - 1) false)
  else s

def execDarnHeartbeat (p : Nat) (s : State) : Host.Outcome State Fault Refusal :=
  .next (s.darnBeat p)

/-- DARN_HEARTBEAT_MISS: none for 12,800,000 G from a panel whose EN is 1 and which is neither lost,
unreleased nor browned out in its core; the alarm is raised once for the gap (R479). -/
def State.darnMiss (s : State) (p : Nat) : State :=
  let m := s.rd pgAlm HUB_ALM_HB.MISSED
  if panelOk p && s.on (pgDarn p) DARN_CFG.EN && s.released p && !(s.die p).lost
      && s.domState (32 * (p - 1)) != 3 && !maskBit m (p - 1) then
    let s := if s.clocksOnFor pgTime then { s with now := max s.now ((s.darn p).beat + 12800000) } else s
    (s.wr pgAlm HUB_ALM_HB.MISSED (maskSet m (p - 1) true)).raise (pgDarn p) 6 none p
  else s

def execDarnHeartbeatMiss (p : Nat) (s : State) : Host.Outcome State Fault Refusal :=
  .next (s.darnMiss p)

/-- TMR_FIX: a voted copy is rewritten (R408). -/
def execTmrFix (p : Nat) (s : State) : Host.Outcome State Fault Refusal :=
  .next (if panelOk p && s.running (pgDarn p) then
    (s.bump (pgDarn p) DARN_TMR.FIX 1).ev (pgDarn p) 10 else s)

end Sys2Proof.Machine
end

