-- ==== Sys2Proof/Machine/FabOps.lean ====
section
/-! DEFINITION. The hard interfaces of the logic fabric (chapter 18): streams between fabric ports,
time-stamp taps, serial ports, and the settings of the FAB page. Requests of fabric ports stand in
FabPort.lean. -/

namespace Sys2Proof.Machine

def State.fab (s : State) (i : Nat) : FabX := s.fabs.getD i {}
def State.setFab (s : State) (i : Nat) (x : FabX) : State := { s with fabs := s.fabs.setD i {} x }
def State.modFab (s : State) (i : Nat) (f : FabX → FabX) : State := s.setFab i (f (s.fab i))
def State.ser (s : State) (i : Nat) : SerX := s.sers.getD i {}
def State.setSer (s : State) (i : Nat) (x : SerX) : State := { s with sers := s.sers.setD i {} x }

/-- The page of fabric port `i`, counted 16(p − 1) + f, and its registers. -/
def pgFabOf (i : Nat) : Nat := pgFab (i / 16 + 1)
def State.fabRd (s : State) (i : Nat) (f : Fld) : Nat := s.rd (pgFabOf i) (f.nth (i % 16))
def State.fabWr (s : State) (i : Nat) (f : Fld) (v : Nat) : State := s.wr (pgFabOf i) (f.nth (i % 16)) v

/-- The clock net of a panel runs: TCLK with the panel's clocks, UCk while its generator runs
(R67, R416). -/
def State.netRuns (s : State) (p c : Nat) : Bool :=
  s.clocksOnFor (pgFab p) && s.on (pgClkPnl p) CLK_PNL_STAT.MULT_LOCK && s.domState (32 * (p - 1)) == 0
    && (c == 8 || (decide (c < 8) && (s.uclk (8 * (p - 1) + c)).running s.now != 0))

/-- A fabric port is held with its tile (R388, R400). -/
def State.fabHeld (s : State) (i : Nat) : Bool := s.tileHeld (i / 16 + 1) (fabTile (i % 16))

/-- The fabric side of a port works: its page runs, its clock runs, and it is not held. -/
def State.fabLive (s : State) (i : Nat) : Bool :=
  decide (i < 64) && s.running (pgFabOf i) && s.netRuns (i / 16 + 1) (s.fabRd i FAB_PORTf_CFG.CLK)
    && !s.fabHeld i && !(s.die (i / 16 + 1)).lost

/-! ### Streams (R317, R421) -/

/-- The fabric port that a port's streams go to; each router has one fabric port. -/
def State.fabDst (s : State) (i : Nat) : Option Nat :=
  let (p, l) := panelAt (s.fabRd i FAB_PORTf_CFG.DST_RTR)
  if s.fabRd i FAB_PORTf_CFG.DST_PORT = l then some (16 * (p - 1) + l) else none

/-- The tags that a port holds: those of its requests, and of the responses that the fabric has not taken. -/
def FabX.tags (x : FabX) : Nat := x.queue.length + x.wait.length

/-- FAB_PORTf_STAT follows the packets at SR and the tags held. -/
def State.fabSync (s : State) (i : Nat) : State :=
  (s.fabWr i FAB_PORTf_STAT.RXBUF (s.fab i).sr.length).fabWr i FAB_PORTf_STAT.TAGS (s.fab i).tags

/-- The credits that the senders to a port hold, and the packets it has or has coming. -/
def State.fabClaims (s : State) (d : Nat) : Nat :=
  (List.range 64).foldl (fun n i =>
    if s.fabRd i FAB_PORTf_CFG.STREAM = 1 ∧ s.fabDst i = some d then
      n + s.fabRd i FAB_PORTf_STAT.CREDITS else n)
    ((s.fab d).air.length + (s.fab d).sr.length)

/-- The credits of a port whose stream settings have changed: the receiver grants what it has free,
up to 64 packets. -/
def State.fabGrant (s : State) (i : Nat) : State :=
  let s := s.fabWr i FAB_PORTf_STAT.CREDITS 0
  if s.fabRd i FAB_PORTf_CFG.STREAM = 0 then s
  else match s.fabDst i with
    | none => s
    | some d => s.fabWr i FAB_PORTf_STAT.CREDITS (64 - s.fabClaims d)

/-- A credit returns to a sender. -/
def State.fabCredit (s : State) (src : Option Nat) : State :=
  match src with
  | none => s
  | some i => s.fabWr i FAB_PORTf_STAT.CREDITS (min 64 (s.fabRd i FAB_PORTf_STAT.CREDITS + 1))

/-- The header of a stream packet of port `i` to port `d` (R309). -/
def State.streamHdr (s : State) (i d : Nat) : Hdr :=
  { vc := 2, tv := s.tableVersion (0x40 + i), op := 8, drtr := rowCol (d / 16 + 1) (d % 16),
    dep := Config.endpoint (d / 16 + 1) (d % 16) (2 ^ 12) % 8, sel := false, init := 0x40 + i, tag := 0, addr := 0, len := 63,
    itime := s.now % 2 ^ 32 }

/-- FABRIC_STREAM_SEND: an ST transfer of 64 B; the packet counts among the bytes that the port's initiator
moved (R313). -/
def State.fabSend (s : State) (i data : Nat) : State :=
  if s.fabLive i && s.fabRd i FAB_PORTf_CFG.STREAM == 1 && s.fabRd i FAB_PORTf_STAT.CREDITS != 0
      && !(s.noc (i / 16 + 1)).paused.contains (0x40 + i) then
    match s.fabDst i with
    | none => s
    | some d =>
      let h := s.streamHdr i d
      let s := s.fabWr i FAB_PORTf_STAT.CREDITS (s.fabRd i FAB_PORTf_STAT.CREDITS - 1)
      let s := s.modStat (0x40 + i) fun t => { t with bytes := satAdd 48 t.bytes 64 }
      s.modFab d fun x => { x with air := x.air ++ [⟨some i, 63, data % 2 ^ 512, some h⟩] }
  else s

def execFabricStreamSend (i data : Nat) (s : State) : Host.Outcome State Fault Refusal :=
  .next (s.fabSend i data)

/-- A packet goes to SR, or is discarded with its credit returned while the port is held (R400). -/
def State.fabArrive (s : State) (i : Nat) (k : FabPkt) : State :=
  if s.fabHeld i then s.fabCredit k.src
  else (s.modFab i fun x => { x with sr := x.sr ++ [k] }).fabSync i

/-- Where a stream packet's way ends, on the tables of its own version (R315). -/
def State.streamWay (s : State) (k : FabPkt) : Option Way := k.hdr.map s.route

/-- STREAM_PACKET_RECEIVE: the next packet for a fabric port, from another port or from its Kelef
sink, reaches its receive buffer. A router on its way that drains or is off, or a lost die, has it discarded
and its credit returned (R316). -/
def State.fabReceive (s : State) (i : Nat) (kelef : Bool) : State :=
  if !decide (i < 64) || decide (64 ≤ (s.fab i).sr.length) then s
  else if kelef then
    match s.sinks.getD (0x40 + i) [] with
    | [] => s
    | q :: rest =>
      let s := { s with sinks := s.sinks.setD (0x40 + i) [] rest }
      s.fabArrive i ⟨none, q.len, q.data, none⟩
  else
    match (s.fab i).air with
    | [] => s
    | k :: rest =>
      let t := (s.modFab i fun x => { x with air := rest }).tagSync 0
      match s.streamWay k with
      | some .circles => s
      | some (.stops _) => t.fabCredit k.src
      | some (.arrives h) => t.fabArrive i { k with hdr := some h }
      | none => t.fabArrive i k

def execStreamPacketReceive (i : Nat) (kelef : Bool) (s : State) : Host.Outcome State Fault Refusal :=
  .next (s.fabReceive i kelef)

/-- FABRIC_STREAM_TAKE: the fabric takes a packet through SR and its sender gets a credit back. -/
def State.fabTake (s : State) (i : Nat) : State :=
  match (s.fab i).sr with
  | [] => s
  | k :: rest =>
    if s.fabLive i then
      ((s.modFab i fun x => { x with sr := rest, got := some k }).fabSync i).fabCredit k.src
    else s

def execFabricStreamTake (i : Nat) (s : State) : Host.Outcome State Fault Refusal :=
  .next (s.fabTake i)

/-! ### The signals of a port (R419, R420) -/

/-- The initiator of fabric port `i` (R317). -/
def fabInit (i : Nat) : Nat := 0x40 + i

/-- The lowest of the 1,024 tags that the port does not hold. -/
def FabX.freeTag (x : FabX) : Nat :=
  ((List.range 1024).find? fun t => (x.queue.all fun r => r.tag != t) && x.wait.all fun r => r.tag != t).getD 0

/-- The port's requests hold their tags from their acceptance until the fabric takes the response, within R312. -/
def State.fabTags (s : State) (i : Nat) : State :=
  let d := initDie (fabInit i)
  let x := s.noc d
  (s.setNoc d { x with held := x.held.setD (fabInit i) 0 (s.fab i).tags }).tagSync d

/-- The 16-entry queue has room, and the port's own 1,024 tags have (R420): a request that has been issued has left
the queue. -/
def FabX.ready (x : FabX) : Bool :=
  decide (x.tags < 1024) && decide ((x.queue.filter (!·.gone)).length < 16)

/-- An RQ transfer while RQ_READY is 1: the request gets a tag of the port and of its die's pool (R312, R317). -/
def State.fabAccept (s : State) (i op addr len be data spf : Nat) (opn : Bool) : State :=
  let x := s.fab i
  if !(s.fabLive i && x.ready) then s
  else if !s.tagsFree (fabInit i) 1 then s.ev (pgNoc (initDie (fabInit i))) 11
  else
    let r : FabReq := { tag := x.freeTag, op := op % 16, addr := addr % 2 ^ 64, len := len % 64, be := be % 2 ^ 64,
                        data := data % 2 ^ 512, spf := spf % 4, opn := opn }
    ((s.setFab i { x with queue := x.queue ++ [r] }).fabSync i).fabTags i

/-- A response arrives: it takes the space that its tag reserves; a held port discards it, and the tag returns
(R400, R420). -/
def State.fabRespond (s : State) (i : Nat) (r : FabReq) (st spst spf data : Nat) : State :=
  let held := s.fabHeld i
  ((s.modFab i fun x =>
    { x with queue := x.queue.filter fun y => y.tag != r.tag,
             wait := if held then x.wait else x.wait ++ [⟨r.tag, st, spst, spf, data⟩] }).fabSync i).fabTags i

/-- An RS transfer: the fabric takes the oldest response on an edge of the port's clock, and its tag returns. -/
def State.fabRsTake (s : State) (i : Nat) : State :=
  match (s.fab i).wait with
  | [] => s
  | r :: rest =>
    if s.fabLive i then ((s.modFab i fun x => { x with wait := rest, rs := some r }).fabSync i).fabTags i else s

/-! ### Hard serial ports (R424) -/

def State.serRd (s : State) (i : Nat) (f : Fld) : Nat := s.rd (pgFab (i / 4 + 1)) (f.nth (i % 4))
def State.serWr (s : State) (i : Nat) (f : Fld) (v : Nat) : State := s.wr (pgFab (i / 4 + 1)) (f.nth (i % 4)) v

/-- FAB_SPk_STAT follows the queues. -/
def State.serSync (s : State) (i : Nat) : State :=
  (s.serWr i FAB_SPk_STAT.TXQ (s.ser i).tx.length).serWr i FAB_SPk_STAT.RXQ (s.ser i).rx.length

/-- The port runs: MODE is not 0, its page runs, and its tile is not held. -/
def State.serLive (s : State) (i : Nat) : Bool :=
  decide (i < 16) && s.running (pgFab (i / 4 + 1)) && s.serRd i FAB_SPk_CFG.MODE != 0
    && !s.tileHeld (i / 4 + 1) (serialTile (i % 4)) && !(s.die (i / 4 + 1)).lost

/-- The fabric side of a serial port takes part in an edge of its clock net (R416, R424). -/
def State.serFab (s : State) (i : Nat) : Bool := s.serLive i && s.netRuns (i / 4 + 1) (s.serRd i FAB_SPk_CFG.CLK)

/-- The bits of a byte, lowest first. -/
def byteBits (v : Nat) : List SerSym := (List.range 8).map fun k => .bit (maskBit v k)

/-- What an entry becomes on the balls (R424). UART: a start bit, eight data bits, the parity bit if PARITY is 1, one or
two stop bits; SPI: eight bits; I2C: the byte and its acknowledge, after a START or before a STOP as a controller's
bits [9:8] say. PRESUMED: a UART sends its lowest data bit first, SPI and I2C the highest, as those buses do. -/
def serSyms (mode : Nat) (parity odd stop2 : Bool) (v : Nat) : List SerSym :=
  if mode = 1 then
    let ones := ((List.range 8).filter (maskBit v ·)).length % 2 == 1
    .bit false :: byteBits v ++ (if parity then [.bit (ones != odd)] else []) ++ .bit true :: if stop2 then [.bit true] else []
  else if mode = 2 then (byteBits v).reverse
  else
    let c := if mode = 3 then v / 2 ^ 8 % 4 else 0
    (if c = 1 then [.start] else []) ++ (byteBits v).reverse ++ [.ack] ++ if c = 2 then [.stop] else []

/-- The time of one bit in G: F0/8 divided by DIV + 1, of which UART takes one period, SPI two and an I2C controller
four; an I2C target follows the bus (R424). -/
def serBit (mode div : Nat) : Nat :=
  if mode = 1 then 8 * (div + 1) else if mode = 2 then 16 * (div + 1) else if mode = 3 then 32 * (div + 1) else 0

/-- The symbols of the oldest entry of a port. -/
def State.serWord (s : State) (i v : Nat) : List SerSym :=
  serSyms (s.serRd i FAB_SPk_CFG.MODE) (s.serRd i FAB_SPk_CFG.PARITY == 1) (s.serRd i FAB_SPk_CFG.ODD == 1)
    (s.serRd i FAB_SPk_CFG.STOP2 == 1) v

/-- SERIAL_RX_BYTE: a received entry is queued, or dropped when the queue is full; bit 8, a NACK, is an I2C
controller's. What a UART does with a byte whose parity bit is wrong the spec leaves open: such a byte, `bad`, is
queued or dropped by a free value. -/
def State.serRx (s : State) (i v : Nat) (bad : Bool) : State :=
  if !s.serLive i then s
  else
    let checks := s.serRd i FAB_SPk_CFG.MODE = 1 ∧ s.serRd i FAB_SPk_CFG.PARITY = 1
    let (r, s) := if bad ∧ checks then s.draw 1 else (1, s)
    if r = 0 then s
    else if 16 ≤ (s.ser i).rx.length then
      (s.wr (pgFab (i / 4 + 1)) (FAB_SPk_STAT.RX_LOST.nth (i % 4))
        (satAdd 16 (s.serRd i FAB_SPk_STAT.RX_LOST) 1)).ev (pgFab (i / 4 + 1)) 10
    else
      let w := if s.serRd i FAB_SPk_CFG.MODE = 3 then v % 2 ^ 9 else v % 2 ^ 8
      (s.setSer i { s.ser i with rx := (s.ser i).rx ++ [w] }).serSync i

def execSerialRxByte (i v : Nat) (bad : Bool) (s : State) : Host.Outcome State Fault Refusal := .next (s.serRx i v bad)

/-- SERIAL_TX_BYTE: the oldest transmit entry has been sent, in the bit times of its symbols since it began. -/
def State.serTx (s : State) (i : Nat) : State :=
  match (s.ser i).tx with
  | [] => s
  | v :: rest =>
    if s.serLive i then
      let w := s.serWord i v
      let t := max s.now ((s.ser i).began + w.length * serBit (s.serRd i FAB_SPk_CFG.MODE) (s.serRd i FAB_SPk_CFG.DIV))
      let s : State := { s with now := t }
      (s.setSer i { s.ser i with tx := rest, sent := some v, line := w, began := t }).serSync i
    else s

def execSerialTxByte (i : Nat) (s : State) : Host.Outcome State Fault Refusal := .next (s.serTx i)

/-- The fabric puts an entry into a transmit queue that has room; the first one begins to be sent. -/
def State.serPut (s : State) (i v : Nat) : State :=
  if s.serFab i && decide ((s.ser i).tx.length < 16) then
    let x := s.ser i
    (s.setSer i { x with tx := x.tx ++ [v % 2 ^ 10], began := if x.tx.isEmpty then s.now else x.began }).serSync i
  else s

/-- The fabric takes an entry from a receive queue. -/
def State.serGet (s : State) (i : Nat) : State :=
  match (s.ser i).rx with
  | [] => s
  | v :: rest =>
    if s.serFab i then (s.setSer i { s.ser i with rx := rest, got := some v }).serSync i else s

/-! ### TCLK (R422, R423) -/

/-- The record that a time-stamp strobe gives a stream tap (R422). -/
def BankX.tapRec (x : BankX) (p : PStrobe) : TapRec :=
  let hit := firstChange (x.chan p.ch).cmp p
  ⟨p.stop + 128 * 256, p.ch, hit.isNone, (hit.getD p.stop) % 2 ^ 22⟩

/-- The records of a bank in the window of 32 G that ends at an edge: of vectors delivered and not yet delivered. -/
def BankX.window (x : BankX) (t : Nat) : List TapRec :=
  (x.tapq ++ x.vecs.flatMap fun v => (v.strobes.filter (·.kind == 2)).map x.tapRec).filter fun r =>
    decide ((t - 32) * 256 ≤ r.due ∧ r.due < t * 256)

/-- The tap of a bank delivers the window that ends at this edge while `on`; it has no buffer, so what falls due
otherwise is not delivered. -/
def State.tapWindow (s : State) (b t : Nat) (on : Bool) : State :=
  s.modBank b fun x =>
    { x with tapq := x.tapq.filter fun r => decide (t * 256 ≤ r.due), tap := if on then some (t - 32, x.window t) else none }

/-- The word of a tap (R422): TIME, then 16 slots of 32 bits for each channel, filled in order of strobe end. -/
def tapWord (time : Nat) (rs : List TapRec) : Nat :=
  let slot (r : TapRec) : Nat := 1 + bit r.empty * 6 + r.t % 2 ^ 22 * 2 ^ 3
  let lane (c : Nat) : Nat :=
    let q := (rs.filter fun r => r.ch == c).foldl (fun q r => q.filter (·.due ≤ r.due) ++ r :: q.filter (r.due < ·.due)) []
    (q.take 16).zipIdx.foldl (fun n e => n + slot e.1 * 2 ^ (32 * e.2)) 0
  time % 2 ^ 64 + (List.range 16).foldl (fun n c => n + lane c * 2 ^ (64 + 512 * c)) 0

/-! ### Settings (R424, R425) -/

/-- A write that a FAB page refuses for its value alone (R425, R498). -/
def fabStatic (off new : Nat) : Bool :=
  (decide (0x100 ≤ off ∧ off < 0x180) && off % 8 == 0 && decide (9 ≤ bitsOf new 3 0))
    || (decide (0x200 ≤ off ∧ off < 0x220) && off % 8 == 0 && decide (9 ≤ bitsOf new 9 6))

/-- The pending set of a FAB page has applied over the port settings `old`: a change of CLK or STREAM
at a port that holds a tag is undone and refused; new stream settings get their credits. -/
def State.fabApplied (s : State) (p : Nat) (old : List Nat) : State :=
  (List.range 16).foldl (fun s f =>
    let i := 16 * (p - 1) + f
    let o := old.getD f 0
    let n := (s.reg (pgFab p) (0x100 + 8 * f)).toNat
    if o = n then s
    else
      let s :=
        if s.fabRd i FAB_PORTf_STAT.TAGS ≠ 0 ∧ bitsOf o 4 0 ≠ bitsOf n 4 0 then
          (s.setReg (pgFab p) (0x100 + 8 * f) (BitVec.ofNat 32 (putBits n 4 0 (bitsOf o 4 0)))).ev (pgFab p) 8
        else s
      s.fabGrant i) s

end Sys2Proof.Machine
end

