-- ==== Sys2Proof/Machine/Lanes.lean ====
section
/-! DEFINITION. The serial lanes (chapter 16): signal, lock and block lock, rates, power states,
and eye scans. Quads 0–15 are the Kelef quads, quads 16–47 the general ones. -/

namespace Sys2Proof.Machine

/-- A quad that this device has, on a die that is not lost, and a lane of it. -/
def State.quadOk (s : State) (q : Nat) : Bool :=
  if q < 16 then s.portOk q
  else decide (q < 48) && !(s.die ((q - 16) / 8 + 1)).lost
def State.laneOk (s : State) (q l : Nat) : Bool := s.quadOk q && decide (l < 4)

/-- The divider of a quad's bit rate; a unit interval lasts n × 0.5 G (R371). -/
def State.laneDiv (s : State) (q : Nat) : Nat :=
  if q < 16 then 1 else 2 ^ s.rd (pgLane q) LANE_CFG.RATE

/-! ### Eye scans (R383, R384) -/

/-- PAGE_LEVEL.BUSY of a LANE page: a scan of the page runs. -/
def State.scanSync (s : State) (q : Nat) : State :=
  s.wr (pgLane q) PAGE_LEVEL.BUSY (bit !(s.quad q).scans.isEmpty)

/-- The scan of a lane ends with a status. -/
def State.scanEnd (s : State) (q l st err : Nat) : State :=
  let s := (s.laneWr q l LANE_SCAN_STATl.STATUS st).laneWr q l LANE_SCAN_STATl.ERR err
  let s := (s.modQuad q fun x => { x with scans := x.scans.del l }).scanSync q
  if st = 5 then s.evAborted (pgLane q) else s.evDone (pgLane q)

/-- The points of a sweep that are complete at this time. -/
def State.scanPoints (s : State) (x : ScanX) : Nat :=
  if x.op = 2 then min 64 ((s.now - x.start) / max 1 x.point) else 0

/-- A scan ends before its final state: a POINT keeps the count so far, which is an observation that
the spec leaves open. -/
def State.scanCut (s : State) (q l st : Nat) : State :=
  match (s.quad q).scans.find l with
  | none => s
  | some x =>
    let s := s.laneWr q l LANE_SCAN_STATl.POINT (s.scanPoints x)
    let s := if x.op = 1 then let (v, s) := s.draw 32; s.laneWr q l LANE_SCAN_ERRl.COUNT v else s
    s.scanEnd q l st 0

/-- The scan of a lane that lost lock, changed rate or left ACTIVE is INTERRUPTED. -/
def State.scanLost (s : State) (q l : Nat) : State := s.scanCut q l 3

/-- PAGE_CTL.ABORT ends every scan of the page. -/
def State.laneAbort (s : State) (q : Nat) : State :=
  (List.range 4).foldl (fun s l => s.scanCut q l 5) s

/-- LANE_SCAN_DSTl. -/
def State.scanDst (s : State) (q l : Nat) : Nat :=
  s.laneRd q l LANE_SCAN_DSTl_LO.ADDR + 2 ^ 32 * (s.laneRd q l LANE_SCAN_DSTl_HI.ADDR % 2 ^ 16)

/-- LANE_SCAN_CTLl.OP = 1 or 2 starts a scan, or is refused. -/
def State.scanStart (s : State) (q l op : Nat) : State :=
  if ((s.quad q).scans.find l).isSome ∨ s.laneRd q l LANE_STATl.LOCK = 0 ∨ s.quadState q ≠ 0
      ∨ (op = 2 ∧ s.laneRd q l LANE_SCAN_DSTl_LO.ADDR % 64 ≠ 0) then s.ev (pgLane q) 12
  else
    let len := 2 ^ (15 + 2 * s.laneRd q l LANE_SCAN_CTLl.DWELL) * s.laneDiv q
    let x : ScanX := ⟨op, s.now, len, s.scanDst q l, [], 0⟩
    let s := s.modQuad q fun y => { y with scans := y.scans.put l x }
    let s := (s.laneWr q l LANE_SCAN_STATl.STATUS 1).laneWr q l LANE_SCAN_STATl.ERR 0
    (s.laneWr q l LANE_SCAN_STATl.POINT 0).scanSync q

/-- The RW fields of LANE_SCAN_CTLl, then the command. -/
def State.scanCmd (s : State) (q l op phase volt dwell : Nat) : State :=
  let s := (s.laneWr q l LANE_SCAN_CTLl.PHASE phase).laneWr q l LANE_SCAN_CTLl.VOLT volt
  (s.laneWr q l LANE_SCAN_CTLl.DWELL dwell).scanStart q l op

def execScanPoint (q l phase volt dwell : Nat) (s : State) : Host.Outcome State Fault Refusal :=
  .next (if decide (q < 48 ∧ l < 4) then
    s.guarded (pgLane q) 0x110 (·.scanCmd q l 1 phase volt dwell) else s.answer .decode)

def execScanSweep (q l phase volt dwell : Nat) (s : State) : Host.Outcome State Fault Refusal :=
  .next (if decide (q < 48 ∧ l < 4) then
    s.guarded (pgLane q) 0x110 (·.scanCmd q l 2 phase volt dwell) else s.answer .decode)

/-! ### Signal and lock (R377, R378) -/

/-- What a port makes of a change on its lanes; a port whose block stands sees it when it runs again. -/
def State.laneGain (s : State) (q : Nat) : State := if q < 16 then s.klfTrain q else s
def State.laneDrop (s : State) (q cause : Nat) : State :=
  if q < 16 then
    let s := s.klfLanes q
    if s.klfUp q && s.portRuns q then s.klfDown q cause else s
  else s

/-- A port whose link layer runs again looks at its lanes: one that is UP without its signal or its lock goes DOWN, one
that is DOWN may train. -/
def State.klfWake (s : State) (p : Nat) : State :=
  let s := s.klfLanes p
  if s.klfUp p && s.portRuns p && !s.lanesAll p LANE_STATl.SD then s.klfDown p 1
  else if s.klfUp p && s.portRuns p && !s.lanesAll p LANE_STATl.BLOCK_LOCK then s.klfDown p 2
  else (s.klfToDetect p).klfTrain p

/-- Signal detect asserts. The detector is clockless and runs in ACTIVE and STANDBY, once the receivers are powered
(R378, R427); a primary whose signal comes back in a holdover may be switched to (R82). -/
def State.laneSd (s : State) (q l : Nat) : State :=
  if s.tu.porDone && decide (s.quadState q < 2) && (s.quad q).move != some 2 && s.laneRd q l LANE_STATl.SD == 0 then
    let prim := l == 0 && q == s.rd pgTime TIME_PARENT.PRIMARY && s.on pgClk CLK_ROOT_STAT.HOLDOVER
    let s := s.laneWr q l LANE_STATl.SD 1
    (({ s with tu := { s.tu with back := s.tu.back || prim } } : State).laneGain q).holdSwitch
  else s

def execLaneSignalDetect (q l : Nat) (s : State) : Host.Outcome State Fault Refusal :=
  .next (if s.laneOk q l then s.laneSd q l else s)

/-- A lane's data lock is gone, and with it its block lock and its scan. -/
def State.lockGone (s : State) (q l : Nat) : State :=
  if s.laneRd q l LANE_STATl.LOCK = 0 then s
  else
    let s := (s.laneWr q l LANE_STATl.LOCK 0).laneWr q l LANE_STATl.BLOCK_LOCK 0
    (s.ev (pgLane q) 8).scanLost q l

/-- A lane's signal detect is gone. -/
def State.signalGone (s : State) (q l : Nat) : State :=
  if s.laneRd q l LANE_STATl.SD = 0 then s else (s.laneWr q l LANE_STATl.SD 0).ev (pgLane q) 9

def execLaneSignalLoss (q l : Nat) (s : State) : Host.Outcome State Fault Refusal :=
  .next (if s.laneOk q l && s.laneRd q l LANE_STATl.SD == 1 then
    s.atOnce (fun s => (s.signalGone q l).laneDrop q 1) else s)

/-- The peaking of the widest eye of the sixteen that the search measures, the lowest setting on a tie (R376). -/
def widestEye (eyes : List Nat) : Nat :=
  (List.range 16).foldl (fun b k => if eyes.getD b 0 < eyes.getD k 0 then k else b) 0

/-- A lane with signal and no lock acquires data lock in ACTIVE (R372, R377): the peaking in force is LANE_RXl.PEAK, or
with ADAPT the one that the search keeps; `eyes` are the widths that it measures. -/
def State.laneLocks (s : State) (q l : Nat) (eyes : List Nat) : State :=
  if s.quadActive q && !(s.quad q).relock && s.laneRd q l LANE_STATl.SD == 1 && s.laneRd q l LANE_STATl.LOCK == 0 then
    let pk := if s.laneRd q l LANE_RXl.ADAPT = 1 then widestEye eyes else s.laneRd q l LANE_RXl.PEAK
    let s := s.modQuad q fun x => { x with chk := x.chk.del l, dscr := x.dscr.del l }
    ((s.laneWr q l LANE_STATl.LOCK 1).laneWr q l LANE_STATl.PEAK_USED pk).laneGain q
  else s

def execLaneLock (q l : Nat) (eyes : List Nat) (s : State) : Host.Outcome State Fault Refusal :=
  .next (if s.laneOk q l && s.laneRuns q then s.laneLocks q l eyes else s)

def execLaneLockLoss (q l : Nat) (s : State) : Host.Outcome State Fault Refusal :=
  .next (if s.laneOk q l && s.laneRd q l LANE_STATl.LOCK == 1 then
    s.atOnce (fun s => (s.lockGone q l).laneDrop q 2) else s)

/-- The lane carries 64b/66b blocks (R328, R373). -/
def State.laneBlocks (s : State) (q : Nat) : Bool := decide (q < 16) || s.on (pgLane q) LANE_CFG.CODING

def execBlockLockAcquire (q l : Nat) (s : State) : Host.Outcome State Fault Refusal :=
  .next (if s.laneOk q l && s.laneRuns q && s.laneBlocks q && s.laneRd q l LANE_STATl.LOCK == 1 then
    (s.laneWr q l LANE_STATl.BLOCK_LOCK 1).laneGain q else s)

def execBlockLockLost (q l : Nat) (s : State) : Host.Outcome State Fault Refusal :=
  .next (if s.laneOk q l && s.laneRd q l LANE_STATl.BLOCK_LOCK == 1 then
    (s.laneWr q l LANE_STATl.BLOCK_LOCK 0).laneDrop q 2 else s)

/-! ### Rates and power states (R372, R380, R381) -/

def execLanePllRelock (q : Nat) (s : State) : Host.Outcome State Fault Refusal :=
  .next (if s.quadOk q && s.laneRuns q then s.modQuad q fun x => { x with relock := false } else s)

/-- The lanes of a quad that leaves ACTIVE lose lock; those of one in DEEP lose signal detect. -/
def State.quadQuiet (s : State) (q : Nat) (deep : Bool) : State :=
  (List.range 4).foldl (fun s l =>
    let s := s.lockGone q l
    if deep then s.signalGone q l else s) s

/-- A Kelef port whose quad leaves ACTIVE goes DOWN with DISABLED. -/
def State.quadPortOff (s : State) (q : Nat) : State :=
  if q < 16 ∧ s.rd (pgKlf q) KLF_STAT.STATE ≠ 0 then (s.klfLanes q).klfDown q 6 else s

/-- An applied request that the quad has not reached starts a transition when none is in
progress. -/
def State.quadMove (s : State) (q : Nat) : State :=
  let r := s.rd (pgLane q) LANE_PWR.REQ
  if (s.quad q).move.isSome ∨ r = s.rd (pgLane q) LANE_PWR.STATE ∨ r = 3 then s
  else
    let s := (s.wr (pgLane q) LANE_PWR.MOVING 1).wr (pgLane q) PAGE_LEVEL.BLOCK 1
    let s := s.modQuad q fun x => { x with move := some r }
    if r = 0 then s
    else
      let s := s.quadQuiet q (r == 2)
      s.quadPortOff q

/-- LANE_POWER_MOVE_DONE: the transition completes, then the applied request is looked at again. -/
def State.moveDone (s : State) (q : Nat) : State :=
  match (s.quad q).move with
  | none => s
  | some r =>
    let s := s.modQuad q fun x => { x with move := none }
    let s := ((s.wr (pgLane q) LANE_PWR.STATE r).wr (pgLane q) LANE_PWR.MOVING 0).wr (pgLane q) PAGE_LEVEL.BLOCK 0
    let s := if r = 0 ∧ q < 16 then s.klfToDetect q else s
    s.quadMove q

def execLanePowerMoveDone (q : Nat) (s : State) : Host.Outcome State Fault Refusal :=
  .next (if s.quadOk q && s.laneRuns q then s.moveDone q else s)

/-- The POST in force: PRE + POST stops at 16 steps (R374). -/
def State.laneClip (s : State) (q l : Nat) : State :=
  let pre := s.laneRd q l LANE_TXl.PRE
  let post := s.laneRd q l LANE_TXl.POST
  if 16 < pre + post then (s.laneWr q l LANE_STATl.POST_USED (16 - pre)).ev (pgLane q) 11
  else s.laneWr q l LANE_STATl.POST_USED post

/-- A field of an applied LANE register that the state of the quad refuses keeps what it was
(R379, R380, R498). -/
def State.laneUndo (s : State) (s0 : State) (q : Nat) (f : Fld) : State :=
  (s.wr (pgLane q) f (s0.rd (pgLane q) f)).ev (pgLane q) 10

/-- The refusals decided when a set of a Kelef quad's page applies: a REQ other than ACTIVE on the
reference port, and a PAT or CHK other than 0 while the port is enabled. -/
def State.laneJudge (s : State) (s0 : State) (q : Nat) : State :=
  if 16 ≤ q then s
  else
    let pg := pgLane q
    let s := if s0.inSet pg 0x40 && s.on pg LANE_PWR.REQ && s.tu.hasRef && s.rd pgClk CLK_ROOT_STAT.REF_PORT == q then
      s.laneUndo s0 q LANE_PWR.REQ else s
    if !s.on (pgKlf q) KLF_CTL.EN then s
    else (List.range 4).foldl (fun s l =>
      let s := if s0.inSet pg (0x100 + 0x40 * l) && s.on pg (LANE_TXl.PAT.nth l)
        then s.laneUndo s0 q (LANE_TXl.PAT.nth l) else s
      if s0.inSet pg (0x104 + 0x40 * l) && s.on pg (LANE_RXl.CHK.nth l)
        then s.laneUndo s0 q (LANE_RXl.CHK.nth l) else s) s

/-- The pending set of a LANE page has applied; `s0` is the state before. -/
def State.laneApplied (s : State) (s0 : State) (q : Nat) : State :=
  let s := s.laneJudge s0 q
  let s := (List.range 4).foldl (fun s l =>
    let s := if s.laneRd q l LANE_RXl.CHK ≠ s0.laneRd q l LANE_RXl.CHK then
        s.modQuad q fun x => { x with chk := x.chk.del l } else s
    if s0.inSet (pgLane q) (0x100 + 0x40 * l) then s.laneClip q l else s) s
  let s :=
    if s.rd (pgLane q) LANE_CFG.RATE ≠ s0.rd (pgLane q) LANE_CFG.RATE
        ∨ s.rd (pgLane q) LANE_CFG.CODING ≠ s0.rd (pgLane q) LANE_CFG.CODING then
      (((List.range 4).foldl (fun s l => s.lockGone q l) s).modQuad q fun x => { x with relock := true })
    else s
  s.quadMove q

/-- A write that a LANE page refuses for its value alone (R371, R379, R380, R498). -/
def laneStatic (q off new : Nat) : Bool :=
  (off == 0x40 && bitsOf new 1 0 == 3)
    || (off == 0x44 && decide (16 ≤ q ∧ 5 ≤ bitsOf new 2 0))
    || (decide (0x100 ≤ off) && off % 0x40 == 0 && bitsOf new 14 13 == 3)

end Sys2Proof.Machine
end

