-- ==== Sys2Proof/Machine/LaneTap.lean ====
section
/-! DEFINITION. The stream taps of the general lanes (R373, R379, R382, R423): the words that a lane sends
and delivers on a TCLK edge, the 64b/66b scrambler, and the test patterns. -/

namespace Sys2Proof.Machine

/-- The self-synchronous scrambler x^58 + x^39 + 1 over `n` bits (R373): the line's bits feed it back. -/
def scrambled (un : Bool) : Nat → Nat → Nat → Nat × Nat
  | 0, _, h => (0, h)
  | n + 1, w, h =>
    let i := w % 2 == 1
    let o := i != (maskBit h 57 != maskBit h 38)
    let (v, h) := scrambled un n (w / 2) (shiftIn 58 h (if un then i else o))
    (bit o + 2 * v, h)

/-! ### The lanes of a panel -/

/-- The quad of general lane `l` of a panel. -/
def laneQuad (p l : Nat) : Nat := 16 + 8 * (p - 1) + l / 4

/-- The quad is ACTIVE with its PLL locked, and its tile is not held (R372, R380, R382). -/
def State.laneLive (s : State) (p l : Nat) : Bool :=
  let q := laneQuad p l
  decide (l < 32) && s.laneRuns q && s.quadActive q && !(s.quad q).relock && !s.tileHeld p (quadTile (l / 4))

def State.laneField (s : State) (p l : Nat) (f : Fld) : Nat := s.laneRd (laneQuad p l) (l % 4) f

/-- The bits of a lane in a TCLK period, 64/n in raw mode, and of a block. -/
def State.rawBits (s : State) (p l : Nat) : Nat := 64 / s.laneDiv (laneQuad p l)

/-- A block slot of a lane begins in the 32 G before an edge: blocks take 33n G (R329, R423). DESIGN
CHOICE: slots begin at the multiples of 33n G. -/
def State.blockSlot (s : State) (p l t : Nat) : Bool :=
  let n := 33 * s.laneDiv (laneQuad p l)
  t / n != (t - 32) / n

/-- What a lane sends on an edge: `w` is the fabric's word, if it supplies one. A raw lane without a word
sends zeros, and the miss counts; a lane of blocks without one sends a control block of payload zero; PAT
replaces what is sent. -/
def State.laneSend (s : State) (p l t : Nat) (w : Option Nat) : State :=
  let q := laneQuad p l
  if !s.laneLive p l then s
  else
    let coded := s.laneBlocks q
    let n := if coded then 66 else s.rawBits p l
    let x := s.quad q
    if coded && !s.blockSlot p l t then s
    else
      let s := if !coded && w.isNone then (s.bump (pgFab p) FAB_TX_UNDER.COUNT 1).ev (pgFab p) 9 else s
      let pat := s.laneField p l LANE_TXl.PAT
      let (v, x) :=
        if pat = 1 ∨ pat = 2 then
          let (v, h) := prbsWord pat n (x.gen.getD (l % 4) (2 ^ 31 - 1))
          (v, { x with gen := x.gen.put (l % 4) h })
        else if coded then
          let b := w.getD 2
          let (v, h) := scrambled false 64 (b / 4) (x.scr.getD (l % 4) (2 ^ 58 - 1))
          (b % 4 + 4 * v, { x with scr := x.scr.put (l % 4) h })
        else (w.getD 0, x)
      s.setQuad q { x with sent := x.sent.put (l % 4) (polarity (s.laneField p l LANE_TXl.INV) n v) }

/-- A word that a lane receives on an edge, from the line: 64/n bits, or a block of 66. While CHK is not 0 the fabric
gets none, and a pattern that CHK names is checked; otherwise the tap delivers it, a block descrambled and with VALID
at bit 66. -/
def State.laneTake (s : State) (p l w : Nat) : State :=
  let q := laneQuad p l
  let coded := s.laneBlocks q
  let chk := s.laneField p l LANE_RXl.CHK
  if !s.laneLive p l || s.laneField p l LANE_STATl.LOCK == 0
      || (chk == 0 && coded && s.laneField p l LANE_STATl.BLOCK_LOCK == 0) then s
  else
    let n := if coded then 66 else s.rawBits p l
    let v := polarity (s.laneField p l LANE_RXl.INV) n w
    let x := s.quad q
    let give (s : State) (v : Nat) : State :=
      let y := s.logics.getD p {}
      { s with logics := s.logics.setD p {} { y with lanes := y.lanes.setD l 0 v } }
    if chk ≠ 0 then s.laneChk q (l % 4) n v
    else if coded then
      let (d, h) := scrambled true 64 (v / 4) (x.dscr.getD (l % 4) (2 ^ 58 - 1))
      give (s.setQuad q { x with dscr := x.dscr.put (l % 4) h }) (v % 4 + 4 * d + 2 ^ 66)
    else give s v

/-- The lane words of an edge: what the fabric supplies in `tx`, and what came from the lines in `rx`. -/
def State.laneEdge (s : State) (p t : Nat) (tx rx : List (Nat × Nat)) : State :=
  let s := (List.range 32).foldl (fun s l => s.laneSend p l t ((tx.find? fun e => e.1 == l).map (·.2))) s
  let y := s.logics.getD p {}
  let s := { s with logics := s.logics.setD p {} { y with lanes := [] } }
  rx.foldl (fun s e => s.laneTake p e.1 e.2) s

end Sys2Proof.Machine
end

