-- ==== Sys2Proof/Machine/Logic.lean ====
section
/-! DEFINITION. The logic fabric itself (R411–R418, R421): cells, memory swatches, multiplexers, tacks and
bolt memories as a panel's frames configure them, the clock edges on which they move, and TCLK_EDGE.
Which parts a panel's wires join, and where in the frames each setting lies, the spec leaves to the die. -/

namespace Sys2Proof.Machine

open Sys2Proof.Config (FabItem FabPin FabIface FabIn FabWire FabSrc)

/-! ### The configuration as the frames hold it (R386, R413) -/

/-- The frame and the bit of a place, tile · 2^23 + frame · 2^12 + bit. -/
def placeOf (k : Nat) : Nat × Nat := (k / 2 ^ 12 % 2 ^ 17, k % 2 ^ 12)

/-- The place of bit `i` of a tile's 2^23 bits, in the order in which its frames hold them: an odd stride reaches
each place once. -/
def tilePlace (tile i : Nat) : Nat := tile % 64 * 2 ^ 23 + ((2 * Config.frameStride + 1) * i + Config.frameStart) % 2 ^ 23

def cellTile (c : Nat) : Nat := c / 50000

/-- The places that contents take among a tile's bits: 73,728 bits of each of its 28 bolt memories (R386, R417), then the
64 bits of each of its LUTs; the settings lie above them. -/
def boltBits : Nat := 28 * 73728
def contentBits : Nat := boltBits + 50000 * 64

/-- The owning tiles of hard interfaces' outputs and inputs (R388). -/
def ifaceTile : FabIface → Nat → Nat
  | .ureg, u => Config.uregTile u
  | .tap, u => bankTile u
  | .lane, u => quadTile (u / 4)
  | .laneReady, u => quadTile (u / 4)
  | .seamValid, u => Config.seamTile u
  | .seamData, u => Config.seamTile u
  | .serReady, u => serialTile u
  | .serValid, u => serialTile u
  | .serData, u => serialTile u
  | _, u => fabTile u

def inTile : FabIn → Nat → Nat → Nat
  | .laneValid, u, _ => quadTile (u / 4)
  | .lane, u, _ => quadTile (u / 4)
  | .seamValid, u, _ => Config.seamTile u
  | .seam, u, _ => Config.seamTile u
  | .serValid, u, _ => serialTile u
  | .ser, u, _ => serialTile u
  | .serReady, u, _ => serialTile u
  | .ustat, u, i => Config.ustatTile u i
  | _, u, _ => fabTile u

def wireTile : FabWire → Nat
  | .seg w => Config.segTile w
  | .pin c _ => cellTile c
  | .bolt m _ _ _ => m / 28
  | .input f u i => inTile f u i

/-- The tile whose frames hold a setting. -/
def itemTile : FabItem → Nat
  | .select w => wireTile w
  | .lutMode c => cellTile c
  | .shiftLen c => cellTile c
  | .ff c _ => cellTile c
  | .halfClk h => cellTile (8 * h)
  | .tack w => Config.segTile w
  | .tackClk t => t
  | .boltClk m _ => m / 28
  | .boltShape m _ => m / 28
  | .boltNew m _ => m / 28

/-- The place of bit `i` of a setting. -/
def itemPlace (x : FabItem) (i : Nat) : Nat :=
  tilePlace (itemTile x) (contentBits + Config.fabPlace x i % (2 ^ 23 - contentBits))

/-- A bit of a panel's frames. -/
def State.frameVal (s : State) (p k : Nat) : Bool :=
  let (f, b) := placeOf k
  maskBit ((s.darn p).frames.getD f {}).data b

/-- Bit `i` of a setting. -/
def State.fabBit (s : State) (p : Nat) (x : FabItem) (i : Nat) : Bool := s.frameVal p (itemPlace x i)

/-- A setting of `n` bits. -/
def State.fabNum (s : State) (p : Nat) (x : FabItem) (n : Nat) : Nat :=
  (List.range n).foldl (fun v i => v + bit (s.fabBit p x i) * 2 ^ i) 0

/-- A bit of a frame changes in operation. DEDUCED: the check bits stay current with every such write, as R404 says of
masked bits; of an unmasked one the signature tells, so that the darner reports MULTI, as R412 says. -/
def State.frameBit (s : State) (p f k : Nat) (v : Bool) : State :=
  let x := s.darn p
  let g := x.frames.getD f {}
  s.setDarn p { x with frames := x.frames.setD f {} { g with data := maskSet g.data k v, orig := maskSet g.orig k v } }

/-- Bit `i` of the contents of cell `c`'s LUT. -/
def lutPlace (c i : Nat) : Nat := tilePlace (cellTile c) (boltBits + c % 50000 * 64 + i % 64)
def State.lutBit (s : State) (p c i : Nat) : Bool := s.frameVal p (lutPlace c i)

/-- The design changes a bit of a LUT. -/
def State.putLut (s : State) (p c i : Nat) (v : Bool) : State :=
  let (f, k) := placeOf (lutPlace c i)
  s.frameBit p f k v

/-- The frame and the bit that hold bit `i` of word `w` of bolt memory `b`, in its tile (R386, R418). -/
def boltBit (b w i : Nat) : Nat × Nat := placeOf (tilePlace (b / 28) (b % 28 * 73728 + w * 36 + i))

/-- A word of a bolt memory as its frames hold it. -/
def State.boltWord (s : State) (p b w : Nat) : Nat :=
  (List.range 36).foldl (fun n i =>
    let (f, k) := boltBit b w i
    n + bit (maskBit ((s.darn p).frames.getD f {}).data k) * 2 ^ i) 0

def State.putBolt (s : State) (p b w v : Nat) : State :=
  (List.range 36).foldl (fun s i => let (f, k) := boltBit b w i; s.frameBit p f k (maskBit v i)) s

/-- The width of a select: the smallest that names every input and one value more (R413). -/
def selectWidth (inputs : Nat) : Nat := if inputs = 0 then 0 else Nat.log2 inputs + 1

/-- What a binary select code selects: none, which is the constant 0, for code 0 and for a code above the
input count. -/
def selected {α : Type} (ins : List α) (code : Nat) : Option α := if code = 0 then none else ins[code - 1]?

/-- Routing segments carry values on; the other wires end at what they feed. -/
def isSource : FabSrc → Bool
  | .wire (.seg w) => decide (w < Config.segCount)
  | .wire _ => false
  | _ => true

/-- The input that a wire's multiplexer selects. -/
def State.driver (s : State) (p : Nat) (w : FabWire) : Option FabSrc :=
  let ins := (Config.wireInputs w).filter isSource
  selected ins (s.fabNum p (.select w) (selectWidth ins.length))

/-- A design uses port B of a bolt memory: a wire drives one of its inputs, or a multiplexer selects one of its outputs
(R418). DESIGN CHOICE: that is what it is to use a port. -/
def State.portBUsed (s : State) (p m : Nat) : Bool :=
  !(s.darn p).frames.isEmpty &&
    (([(0, 13), (1, 36), (2, 1)].any fun e => (List.range e.2).any fun i => (s.driver p (.bolt m true e.1 i)).isSome)
      || (List.range Config.segCount).any fun w => match s.driver p (.seg w) with
        | some (.bolt n b _) => n == m && b
        | _ => false)

/-! ### Holds (R400, R402, R414) -/

/-- The tile of what a multiplexer takes as input. -/
def srcTile : FabSrc → Nat
  | .wire w => wireTile w
  | .lut c => cellTile c
  | .ff c _ => cellTile c
  | .carry c => cellTile c
  | .bolt m _ _ => m / 28
  | .iface f u _ => ifaceTile f u

/-- Routing into another region is driven to 0 at the boundary of a held one. -/
def State.cutOff (s : State) (p : Nat) (w : FabWire) (x : FabSrc) : Bool :=
  s.tileHeld p (srcTile x) && s.tileRegion p (srcTile x) != s.tileRegion p (wireTile w)

/-- A tile's flip-flops and tacks move at a time, and its bolt memories take user writes: out of the hold since that
time or before (R400–R402). -/
def State.tileMoves (s : State) (p tile g : Nat) : Bool :=
  !s.tileReset p tile && decide ((s.logics.getD p {}).freeAt.getD tile 0 ≤ g)
def State.tileWrites (s : State) (p tile g : Nat) : Bool :=
  s.boltOpen p tile && decide ((s.logics.getD p {}).openAt.getD tile 0 ≤ g)

/-! ### Flip-flops, tacks and bolt outputs -/

def State.logic (s : State) (p : Nat) : LogicX := s.logics.getD p {}
def State.setLogic (s : State) (p : Nat) (x : LogicX) : State := { s with logics := s.logics.setD p {} x }
def State.modLogic (s : State) (p : Nat) (f : LogicX → LogicX) : State := s.setLogic p (f (s.logic p))

/-- Bits of a flip-flop's settings: D is the bypass input, the initial value, clock enable from routing,
reset from routing. -/
def ffBypass : Nat := 0
def ffInit : Nat := 1
def ffUsesCe : Nat := 2
def ffUsesSr : Nat := 3

/-- The number of a flip-flop: FA (false) and FB (true) of a cell. -/
def ffNo (c : Nat) (b : Bool) : Nat := 2 * c + bit b

/-- A flip-flop's output. In reset, and until its first edge out of it, that is its initial value. -/
def State.ffValue (s : State) (p c : Nat) (b : Bool) : Bool :=
  match (s.logic p).ffs.find (ffNo c b) with
  | some v => v == 1
  | none => s.fabBit p (.ff c b) ffInit

/-! ### What the hard interfaces show the fabric (R419, R422–R425) -/

/-- A bit that a hard interface drives into the fabric. -/
def State.ifaceBit (s : State) (p : Nat) (f : FabIface) (u i : Nat) : Bool :=
  let port := s.fab (16 * (p - 1) + u)
  let rs (g : FabRsp → Nat) : Bool := match port.wait with
    | r :: _ => maskBit (g r) i
    | [] => false
  let ser := s.ser (4 * (p - 1) + u)
  match f with
  | .ureg => maskBit (s.rd (pgFab p) (FAB_UREGk.VALUE.nth u)) i
  | .rqReady => port.ready && s.tagsFree (fabInit (16 * (p - 1) + u)) 1
  | .rqTag => match port.queue.getLast? with
    | some r => maskBit r.tag i
    | none => false
  | .rsValid => !port.wait.isEmpty
  | .rsTag => rs (·.tag)
  | .rsStatus => rs (·.status)
  | .rsSpst => rs (·.spst)
  | .rsSpf => rs (·.spf)
  | .rsData => rs (·.data)
  | .stReady => s.fabRd (16 * (p - 1) + u) FAB_PORTf_STAT.CREDITS != 0
  | .srValid => !port.sr.isEmpty
  | .srData => match port.sr with
    | k :: _ => maskBit k.data i
    | [] => false
  | .tap => match (s.bank (4 * (p - 1) + u)).tap with
    | some w => maskBit (tapWord w.1 w.2) i
    | none => false
  | .lane => maskBit ((s.logic p).lanes.getD u 0) i
  | .laneReady => s.laneLive p u && (!s.laneBlocks (laneQuad p u) || s.blockSlot p u (boundaryAt 32 s.now (s.die p).tclkAt))
  | .seamValid => ((s.logic p).seam.find u).isSome
  | .seamData => maskBit ((s.logic p).seam.getD u 0) i
  | .serReady => decide (ser.tx.length < 16)
  | .serValid => !ser.rx.isEmpty
  | .serData => match ser.rx with
    | v :: _ => maskBit v i
    | [] => false

/-! ### The value of a wire (R411–R414) -/

/-- One swatch of each four is a memory swatch, 50,000 of a panel (R412). -/
def memSwatch (w : Nat) : Bool := w % 4 == Config.memPhase (w / 4) % 4

/-- The modes of a LUT: logic, and in a memory swatch a RAM or a shift register. -/
inductive LutMode where
  | logic | ram | shift
  deriving DecidableEq, Repr

def State.lutMode (s : State) (p c : Nat) : LutMode :=
  if !memSwatch (c / 16) then .logic
  else if s.fabBit p (.lutMode c) 0 then .ram
  else if s.fabBit p (.lutMode c) 1 then .shift else .logic

/-- The number of bits of a LUT shift register, 1 to 64. -/
def State.shiftLen (s : State) (p c : Nat) : Nat := s.fabNum p (.shiftLen c) 6 + 1

/-- The swatches of a column of a tile: 3,125 swatches in equal columns. -/
def columnRows : Nat := 5 ^ (Config.columnExp % 6)

/-- The swatch below another: in its column, or the top one of that column in the tile below, row r + 1 of the same tile
column (R411). DESIGN CHOICE: swatches are numbered upwards column by column, and the bottom row of tiles is row 7. -/
def swatchBelow (w : Nat) : Option Nat :=
  let i := w % 3125
  if i % columnRows ≠ 0 then some (w - 1)
  else if w / 3125 / 8 = 7 then none
  else some ((w / 3125 + 8) * 3125 + i + columnRows - 1)

/-- The carry into a cell comes from the cell below: in its swatch, or the top one of the swatch below in
the tile column. -/
def carryFrom (c : Nat) : Option Nat :=
  if c % 16 ≠ 0 then some (c - 1) else (swatchBelow (c / 16)).map (16 * · + 15)

/-- The cells of a panel, and its bolt memories. -/
def cellsPerPanel : Nat := 3200000
def boltsPerPanel : Nat := 1792

/-- The value of an output of the fabric, looked up through at most `n` parts. A loop without a register
has no stated value: that value is free. A tack stands in a routing segment. -/
def State.netValue (s : State) (p : Nat) : Nat → FabSrc → Bool
  | 0, x => Config.loopValue s.fresh x
  | n + 1, .wire w =>
    let tacked : Option Nat := match w with
      | .seg k => if s.fabBit p (.tack k) 0 then some k else none
      | _ => none
    match tacked with
    | some k => (s.logic p).tacks.getD k 0 == 1
    | none => match s.driver p w with
      | none => false
      | some x => !s.cutOff p w x && s.netValue p n x
  | n + 1, .lut c =>
    let a := (List.range 6).foldl (fun v k => v + bit (s.netValue p n (.wire (.pin c (.i k)))) * 2 ^ k) 0
    if s.lutMode p c = .shift then s.lutBit p c (s.shiftLen p c - 1) else s.lutBit p c a
  | n + 1, .carry c =>
    Config.carryOut (s.netValue p n (.lut c)) (s.netValue p n (.wire (.pin c .ax)))
      (s.netValue p n (.wire (.pin c .bx)))
      (match carryFrom c with
        | some d => s.netValue p n (.carry d)
        | none => false)
  | _ + 1, .ff c b => s.ffValue p c b
  | _ + 1, .bolt m b i => maskBit ((s.logic p).bolts.getD (2 * m + bit b) 0) i
  | _ + 1, .iface f u i => s.ifaceBit p f u i

/-- The parts that a path without a register can pass: the routing segments, and of each cell its LUT, its carry and a
pin before each; with the wire where it ends and the output where it starts. -/
def netParts : Nat := Config.segCount + 4 * cellsPerPanel + 2

/-- A value at the present moment. -/
def State.fabValue (s : State) (p : Nat) (x : FabSrc) : Bool := s.netValue p netParts x

/-- The value of a cell's input pin. -/
def State.pin (s : State) (p c : Nat) (k : FabPin) : Bool := s.fabValue p (.wire (.pin c k))

/-- A number on input wires of a bolt memory's port: `k` 0 the address, 1 the data, 2 the write enable. -/
def State.boltIn (s : State) (p m : Nat) (b : Bool) (k n : Nat) : Nat :=
  (List.range n).foldl (fun v i => v + bit (s.fabValue p (.wire (.bolt m b k i))) * 2 ^ i) 0

/-- What the fabric drives into a hard interface. -/
def State.inNum (s : State) (p : Nat) (f : FabIn) (u n : Nat) : Nat :=
  (List.range n).foldl (fun v i => v + bit (s.fabValue p (.wire (.input f u i))) * 2 ^ i) 0
def State.inBit (s : State) (p : Nat) (f : FabIn) (u : Nat) : Bool := s.fabValue p (.wire (.input f u 0))

/-! ### A clock edge (R411, R412, R414, R417) -/

/-- The nets of a panel that rise at a time: TCLK at the multiples of 32 G, a user clock at those of its
divider (R66, R416). -/
def State.rising (s : State) (p g : Nat) : List Nat :=
  (List.range 9).filter fun c =>
    if c = 8 then g % 32 == 0
    else let n := (s.uclk (8 * (p - 1) + c)).running g
         n != 0 && g % n == 0

/-- The clock of a cell is its half-swatch's. -/
def State.cellClocked (s : State) (p c : Nat) (nets : List Nat) (g : Nat) : Bool :=
  nets.contains (s.fabNum p (.halfClk (c / 8)) 4) && s.tileMoves p (cellTile c) g

/-- What a flip-flop takes on an edge of its clock. DESIGN CHOICE: the synchronous reset comes before the
clock enable. -/
def State.ffNext (s : State) (p c : Nat) (b : Bool) : Bool :=
  let x : FabItem := .ff c b
  if s.fabBit p x ffUsesSr && s.pin p c (.sr b) then s.fabBit p x ffInit
  else if s.fabBit p x ffUsesCe && !s.pin p c (.ce b) then s.ffValue p c b
  else if s.fabBit p x ffBypass then s.pin p c (if b then .bx else .ax)
  else s.fabValue p (.lut c)

/-- The flip-flops that an edge clocks, with their new values, by number. -/
def State.ffMoves (s : State) (p : Nat) (nets : List Nat) (g : Nat) : List (Nat × Bool) :=
  ((List.range cellsPerPanel).filter fun c => s.cellClocked p c nets g).flatMap fun c =>
    [false, true].map fun b => (ffNo c b, s.ffNext p c b)

/-- The tacks that an edge clocks. -/
def State.tackMoves (s : State) (p : Nat) (nets : List Nat) (g : Nat) : List (Nat × Bool) :=
  ((List.range Config.segCount).filter fun w =>
    let t := Config.segTile w
    s.fabBit p (.tack w) 0 && nets.contains (s.fabNum p (.tackClk t) 4) && s.tileMoves p t g).map fun w =>
      (w, match s.driver p (.seg w) with
        | none => false
        | some x => !s.cutOff p (.seg w) x && s.fabValue p x)

/-- The bits of LUT memories that an edge changes: one cell of a RAM, every bit of a shift register. -/
def State.lutMoves (s : State) (p : Nat) (nets : List Nat) (g : Nat) : List (Nat × Nat × Bool) :=
  ((List.range cellsPerPanel).filter fun c =>
    s.lutMode p c != .logic && s.cellClocked p c nets g && s.pin p c .we).flatMap fun c =>
      if s.lutMode p c = .ram then
        let a := (List.range 6).foldl (fun v k => v + bit (s.pin p c (.wa k)) * 2 ^ k) 0
        [(c, a, s.pin p c .wd)]
      else (List.range (s.shiftLen p c)).map fun i =>
        (c, i, if i = 0 then s.pin p c .wd else s.lutBit p c (i - 1))

/-- The width of a bolt port's words: 36, 18 or 9 bits. -/
def boltWidth (shape : Nat) : Nat := if shape = 1 then 18 else if shape = 2 then 9 else 36

/-- A port of a bolt memory on an edge: its clock net, the lowest of the memory's bits that its word takes,
the width, the write and the data, and whether a read of its own write returns the new value. -/
structure BoltUse where
  clk : Nat
  lo : Nat
  width : Nat
  write : Bool
  data : Nat
  newFirst : Bool
  deriving DecidableEq, Repr

def State.boltUse (s : State) (p m : Nat) (b : Bool) (g : Nat) : BoltUse :=
  let w := boltWidth (s.fabNum p (.boltShape m b) 2)
  let a := s.boltIn p m b 0 (if w = 36 then 11 else if w = 18 then 12 else 13)
  ⟨s.fabNum p (.boltClk m b) 4, a * w, w, s.boltIn p m b 2 1 == 1 && s.tileWrites p (m / 28) g, s.boltIn p m b 1 w,
    s.fabBit p (.boltNew m b) 0⟩

/-- The value of a port's word. -/
def State.boltField (s : State) (p m lo width : Nat) : Nat :=
  bitsOf (s.boltWord p m (lo / 36)) (lo % 36 + width - 1) (lo % 36)

def State.boltStore (s : State) (p m : Nat) (u : BoltUse) : State :=
  s.putBolt p m (u.lo / 36) (putBits (s.boltWord p m (u.lo / 36)) (u.lo % 36 + u.width - 1) (u.lo % 36) u.data)

/-- Two ports touch one word. -/
def BoltUse.meets (a b : BoltUse) : Bool := decide (a.lo < b.lo + b.width ∧ b.lo < a.lo + a.width)

/-- One bolt memory on an edge (R417): words written, outputs read. Where both ports write one word, port
B's value is stored on one clock, and either value on two; a read of a word that the other port writes
returns the old or the new value. -/
def State.boltEdge (s : State) (p m : Nat) (nets : List Nat) (g : Nat) : State :=
  let a := s.boltUse p m false g
  let b := s.boltUse p m true g
  let onA := nets.contains a.clk
  let onB := nets.contains b.clk
  if !onA && !onB then s
  else
    let both := onA && onB && a.meets b
    let (pick, s) := if both then s.draw 3 else (0, s)
    let old := s
    let aw := onA && a.write
    let bw := onB && b.write
    let aLast := both && aw && bw && decide (a.clk ≠ b.clk) && maskBit pick 0
    let s := if aw && !aLast then s.boltStore p m a else s
    let s := if bw then s.boltStore p m b else s
    let s := if aLast then s.boltStore p m a else s
    let out (own : BoltUse) (writes other : Bool) (k : Nat) : Nat :=
      if (writes && own.newFirst) || (both && other && maskBit pick k) then s.boltField p m own.lo own.width
      else old.boltField p m own.lo own.width
    let put (s : State) (port v : Nat) : State :=
      s.modLogic p fun x => { x with bolts := x.bolts.setD (2 * m + port) 0 v }
    let s' := if onA then put s 0 (out a aw bw 1) else s
    if onB then put s' 1 (out b bw aw 2) else s'

/-- A fabric port on an edge of its clock: the transfers whose VALID and READY are both 1, by the values before the
edge, `s` (R419, R421). A request that is accepted leaves the queue with the port's next FABRIC_PORT_REQUEST or
FABRIC_PORT_RESPONSE. -/
def State.portEdge (s : State) (p f : Nat) (t : State) : State :=
  let i := 16 * (p - 1) + f
  let t := if s.inBit p .rqValid f then
      t.fabAccept i (s.inNum p .rqOp f 4) (s.inNum p .rqAddr f 64) (s.inNum p .rqLen f 6) (s.inNum p .rqBe f 64)
        (s.inNum p .rqData f 512) (s.inNum p .rqSpf f 2) (s.inBit p .rqOpen f)
    else t
  let t := if s.inBit p .stValid f then t.fabSend i (s.inNum p .stData f 512) else t
  let t := if s.inBit p .rsReady f && !(s.fab i).wait.isEmpty then t.fabRsTake i else t
  if s.inBit p .srReady f && !(s.fab i).sr.isEmpty then t.fabTake i else t

/-- A hard serial port's queues on an edge of its clock (R424). -/
def State.serEdge (s : State) (p k : Nat) (t : State) : State :=
  let i := 4 * (p - 1) + k
  let t := if s.inBit p .serValid k && decide ((s.ser i).tx.length < 16) then t.serPut i (s.inNum p .ser k 10) else t
  if s.inBit p .serReady k && !(s.ser i).rx.isEmpty then t.serGet i else t

/-- The hard interfaces on an edge: each takes part on its own net (R416). -/
def State.ifaceEdge (s : State) (p : Nat) (nets : List Nat) (t : State) : State :=
  let t := ((List.range 16).filter fun f => nets.contains (s.fabRd (16 * (p - 1) + f) FAB_PORTf_CFG.CLK)).foldl
    (fun t f => s.portEdge p f t) t
  ((List.range 4).filter fun k => nets.contains (s.serRd (4 * (p - 1) + k) FAB_SPk_CFG.CLK)).foldl
    (fun t k => s.serEdge p k t) t

/-- An edge at a time: everything that a rising net clocks moves at once. -/
def State.fabEdge (s : State) (p g : Nat) : State :=
  let nets := s.rising p g
  if nets.isEmpty then s
  else
    let ffs := s.ffMoves p nets g
    let tacks := s.tackMoves p nets g
    let luts := s.lutMoves p nets g
    let t := (List.range boltsPerPanel).foldl (fun s m => s.boltEdge p m nets g) s
    let t := luts.foldl (fun s e => s.putLut p e.1 e.2.1 e.2.2) t
    let t := t.modLogic p fun x =>
      { x with ffs := ffs.foldl (fun t e => t.put e.1 (bit e.2)) x.ffs,
               tacks := tacks.foldl (fun t e => t.setD e.1 0 (bit e.2)) x.tacks }
    let t := s.ifaceEdge p nets t
    { t with fresh := t.fresh + 1 }

/-- FAB_USTATk shows what the fabric drives; a held region drives 0 (R425). -/
def State.ustatSync (s : State) (p : Nat) : State :=
  (List.range 16).foldl (fun s k =>
    s.wr (pgFab p) (FAB_USTATk.VALUE.nth k)
      ((List.range 32).foldl (fun v i =>
        v + bit (!s.tileHeld p (Config.ustatTile k i) && s.fabValue p (.wire (.input .ustat k i))) * 2 ^ i) 0)) s

/-- The edges after one time up to another. A panel with no frame written holds zeros throughout, every
wire of it is 0, and no edge changes anything. -/
def State.fabRun (s : State) (p t n : Nat) : State :=
  if (s.darn p).frames.isEmpty then s else (List.range n).foldl (fun s i => s.fabEdge p (t + 1 + i)) s

/-! ### TCLK (R416, R421–R423) -/

/-- The panel at the other end of a join, the join's groups in stream mode, and the direction bits of a
panel's side: groups 0–11 horizontal, 12–23 vertical (R7, R19, R421). -/
def seamPeer (p g : Nat) : Nat :=
  if g < 12 then (if p % 2 = 1 then p + 1 else p - 1) else (if p ≤ 2 then p + 2 else p - 2)

def State.seamStream (s : State) (p g : Nat) : Bool :=
  let net :=
    if g < 12 then (if p ≤ 2 then s.rd pgSeam SEAM_ROLE_E12.NET else s.rd pgSeam SEAM_ROLE_E34.NET)
    else (if p % 2 = 1 then s.rd pgSeam SEAM_ROLE_E13.NET else s.rd pgSeam SEAM_ROLE_E24.NET)
  s.cap 8 && (decide (8 ≤ g % 12) || !maskBit net (g % 12))

def State.seamSends (s : State) (p g : Nat) : Bool :=
  maskBit (if g < 12 then s.rd (pgFab p) FAB_SEAM_DIR.HORIZ else s.rd (pgFab p) FAB_SEAM_DIR.VERT) (g % 12)

/-- A word of 1,024 bits that the fabric drives with its valid bit set crosses a group in stream mode whose
two sides are set to send and to receive, between panels that are there. -/
def State.seamWord (s : State) (p g v : Nat) : State :=
  let q := seamPeer p g
  if decide (g < 24) && s.seamStream p g && s.seamSends p g && !s.seamSends q g
      && s.released q && !(s.die q).lost then
    s.modLogic q fun x => { x with coming := x.coming.put g (v % 2 ^ 1024) }
  else s

/-- The words that arrive on this edge stand before the fabric for it; the receiver has no ready. -/
def State.seamTake (s : State) (p : Nat) : State :=
  s.modLogic p fun x => { x with seam := x.coming, coming := [] }

/-- The words that the design itself drives on an edge into general lanes and stream groups (R421, R423). -/
def State.laneWords (s : State) (p : Nat) : List (Nat × Nat) :=
  ((List.range 32).filter (s.inBit p .laneValid ·)).map fun l => (l, s.inNum p .lane l 66)
def State.seamWords (s : State) (p : Nat) : List (Nat × Nat) :=
  ((List.range 24).filter (s.inBit p .seamValid ·)).map fun g => (g, s.inNum p .seam g 1024)

/-- The edges of a net in the 32 G up to a TCLK edge. -/
def State.edgesOf (s : State) (p c t : Nat) : Nat :=
  ((List.range 32).filter fun i => (s.rising p (t - 31 + i)).contains c).length

/-- The entries of a list that serial port `k` can exchange: one for each edge of its clock net (R419, R424). -/
def State.serTurns {α : Type} (s : State) (p t k : Nat) (l : List α) : List α :=
  l.take (s.edgesOf p (s.serRd (4 * (p - 1) + k) FAB_SPk_CFG.CLK) t)

/-- TCLK_EDGE on a panel: user clocks have risen since the last edge; the taps, lanes and seam groups deliver
their words, and the logic moves on the edge. The design's own words and transfers are those of its wires; `put` and
`get` are further entries that the fabric exchanges with the serial queues,
`seam` and `tx` words that it drives into stream groups and general lanes, and `rx` the words that the
lanes received; `seen` are the comparator levels of each bank up to this edge. -/
def State.tclk (s : State) (p : Nat) (put : List (Nat × Nat)) (get : List Nat)
    (seam tx rx : List (Nat × Nat)) (seen : List (Nat × List CmpLevel)) : State :=
  if !(panelOk p && s.netRuns p 8 && !(s.die p).lost) then s
  else
    let t := boundaryAt 32 s.now (s.die p).tclkAt
    let s := ({ s with now := t } : State).setDie p { s.die p with tclkAt := t }
    let s := s.fabRun p (t - 32) 31
    let s := (List.range 4).foldl (fun s i =>
      let b := 4 * (p - 1) + i
      let s := (seen.filter fun e => e.1 % 4 == i).foldl (fun s e => s.modBank b (·.see e.2)) s
      s.tapWindow b t (s.on (pgEdg b) EDG_BANK_CFG.TS_TAP && !s.tileHeld p (bankTile b))) s
    let s := s.seamTake p
    let idle := (s.darn p).frames.isEmpty
    let s := s.laneEdge p t (tx ++ if idle then [] else s.laneWords p) rx
    let seam := seam ++ if idle then [] else s.seamWords p
    let s := s.fabRun p (t - 1) 1
    let s := seam.foldl (fun s e => s.seamWord p e.1 e.2) s
    let s := (List.range 4).foldl (fun s k =>
      (s.serTurns p t k (put.filter fun e => e.1 % 4 == k)).foldl (fun s e => s.serPut (4 * (p - 1) + k) e.2) s) s
    let s := (List.range 4).foldl (fun s k =>
      (s.serTurns p t k (get.filter fun e => e % 4 == k)).foldl (fun s _ => s.serGet (4 * (p - 1) + k)) s) s
    if idle then s else s.ustatSync p

def execTclkEdge (p : Nat) (put : List (Nat × Nat)) (get : List Nat)
    (seam tx rx : List (Nat × Nat)) (seen : List (Nat × List CmpLevel)) (s : State) : Host.Outcome State Fault Refusal :=
  .next (s.tclk p put get seam tx rx seen)

end Sys2Proof.Machine
end

