-- ==== Sys2Proof/Machine/Flags.lean ====
section
/-! DEFINITION. The status register of a shuttle engine and the flags of its 56-bit arithmetic
(R213, R214, R243, R245). -/

namespace Sys2Proof.Machine

/-- Flags of SR by bit number (R214). -/
def fC : Nat := 0
def fV : Nat := 1
def fZ : Nat := 2
def fN : Nat := 3
def fG : Nat := 4
def fS : Nat := 5
def fLK : Nat := 12

/-- What a write of SR leaves: LK keeps its value, an IM of 9–15 is taken as 8 (R214). -/
def srWrite (old v : Nat) : Nat :=
  bitsOf v 5 0 + min 8 (bitsOf v 11 8) * 2 ^ 8 + bitsOf old 12 12 * 2 ^ 12

/-- The 56-bit image of an exact result, and whether it wraps (R213). -/
def wrap56 (r : Int) : Nat × Bool :=
  (unsign 56 r, decide (r < -(2 ^ 55 : Nat) ∨ (2 ^ 55 : Nat) ≤ r))

/-- Bits [55:47] are not all equal. -/
def reachesGuard (a : Nat) : Bool := bitsOf a 55 47 != 0 && bitsOf a 55 47 != 2 ^ 9 - 1

/-- Z, N and G follow a 56-bit result. -/
def setZNG (sr a : Nat) : Nat :=
  maskSet (maskSet (maskSet sr fZ (a == 0)) fN (maskBit a 55)) fG (reachesGuard a)

/-- The flags of an operation: C, V, then Z N G of the result. V also sets S where `sticky`. -/
def setFlags (sr : Nat) (c v : Bool) (a : Nat) (sticky : Bool) : Nat :=
  let sr := setZNG (maskSet (maskSet sr fC c) fV v) a
  if v && sticky then maskSet sr fS true else sr

/-- The result of an operation on the accumulator: its new value, if any, and SR. -/
structure AccRes where
  acc : Option Nat
  sr : Nat
  deriving DecidableEq, Repr

/-- An addition to the accumulator: C is the carry out of bit 55. -/
def accAdd (sr d x : Nat) : AccRes :=
  let (a, v) := wrap56 (signed 56 d + signed 56 x)
  ⟨some a, setFlags sr (decide (2 ^ 56 ≤ d % 2 ^ 56 + x % 2 ^ 56)) v a true⟩

/-- A subtraction: C is the borrow. -/
def accSub (sr d x : Nat) : AccRes :=
  let (a, v) := wrap56 (signed 56 d - signed 56 x)
  ⟨some a, setFlags sr (decide (d % 2 ^ 56 < x % 2 ^ 56)) v a true⟩

/-- The flags of d − x; d stays, and V leaves S alone. -/
def accCmp (sr d x : Nat) : AccRes :=
  let (a, v) := wrap56 (signed 56 d - signed 56 x)
  ⟨none, setFlags sr (decide (d % 2 ^ 56 < x % 2 ^ 56)) v a false⟩

/-- A product loaded: C := 0. -/
def accMul (sr : Nat) (r : Int) : AccRes :=
  let (a, v) := wrap56 r
  ⟨some a, setFlags sr false v a true⟩

def accZero (sr : Nat) : AccRes := ⟨some 0, setFlags sr false false 0 true⟩

def accCopy (sr x : Nat) : AccRes := ⟨some (x % 2 ^ 56), setFlags sr false false (x % 2 ^ 56) true⟩

/-- −d as 0 − d: C is the borrow. -/
def accNeg (sr d : Nat) : AccRes := accSub sr 0 d

def accAbs (sr d : Nat) : AccRes :=
  let (a, v) := wrap56 (signed 56 d).natAbs
  ⟨some a, setFlags sr false v a true⟩

def accShl (sr d : Nat) : AccRes :=
  let (a, v) := wrap56 (2 * signed 56 d)
  ⟨some a, setFlags sr (maskBit d 55) v a true⟩

def accShr (sr d : Nat) : AccRes :=
  let a := unsign 56 (signed 56 d / 2)
  ⟨some a, setFlags sr (maskBit d 0) false a true⟩

def accMax (sr d x : Nat) : AccRes :=
  let more := decide (signed 56 d < signed 56 x)
  let a := if more then x % 2 ^ 56 else d
  ⟨some a, setFlags sr more false a true⟩

/-- 2xy of two 24-bit words (R213). -/
def twice (x y : Nat) : Int := 2 * signed 24 x * signed 24 y

/-- A condition code against SR (R243). -/
def condHolds (c sr : Nat) : Bool :=
  let f (b : Nat) := maskBit sr b
  if c = 0 then true else if c = 1 then f fZ else if c = 2 then !f fZ else if c = 3 then f fN
  else if c = 4 then !f fN else if c = 5 then !f fZ && !f fN else if c = 6 then f fZ || f fN
  else if c = 7 then f fC else if c = 8 then !f fC else if c = 9 then f fV else if c = 10 then f fS
  else if c = 11 then f fG else !f fG

end Sys2Proof.Machine
end

