-- ==== Sys2Proof/Machine/Operands.lean ====
section
/-! DEFINITION. The operands of shuttle instructions: registers by their 6-bit codes, conversions
between widths, rounding of accumulators, and circular addressing (R213, R215, R219, R240–R242). -/

namespace Sys2Proof.Machine

/-! ### Registers (R212, R240) -/

def cW (k : Nat) : Nat := k
def cA (k : Nat) : Nat := 8 + k
def cP (k : Nat) : Nat := 0x18 + k
def cI (k : Nat) : Nat := 0x20 + k
def cB (k : Nat) : Nat := 0x28 + k
def cL (k : Nat) : Nat := 0x30 + k
def cSR : Nat := 0x38
def cMR : Nat := 0x39
def cCP : Nat := 0x3A
def cLCNT : Nat := 0x3B

/-- A 6-bit code that names a register (R240). -/
def regOk (c : Nat) : Bool := decide (c ≤ 0x3B)

/-- A register's own contents: an accumulator's 56 bits under its whole code. -/
def EngX.get (x : EngX) (c : Nat) : Nat := x.r.getD c 0
def EngX.set (x : EngX) (c v : Nat) : EngX := { x with r := x.r.setD c 0 v }

def EngX.sr (x : EngX) : Nat := x.get cSR
def EngX.setSr (x : EngX) (v : Nat) : EngX := x.set cSR v
def EngX.locked (x : EngX) : Bool := maskBit x.sr fLK

/-- MR.SHIFT as a signed number, from −3 to +3. -/
def EngX.shift (x : EngX) : Int := signed 3 (x.get cMR)

/-! ### Accumulators (R213, R215) -/

/-- A word into a whole accumulator: AnM, sign-extended through AnG, AnF cleared. -/
def accOfWord (w : Nat) : Nat := unsign 56 (signed 24 w * 2 ^ 24)

/-- A move of an accumulator to a word: shifted, rounded to even, saturated. The second part says
whether it saturated. -/
def wordOfAcc (a : Nat) (sh : Int) : Nat × Bool :=
  -- q = a × 2^sh / 2^24, as a quotient of integers by 2^27
  let n : Int := signed 56 a * 2 ^ (sh + 3).toNat
  let d : Int := 2 ^ 27
  let r := n / d
  let f := n % d
  let r := if 2 * f > d ∨ (2 * f = d ∧ r % 2 = 1) then r + 1 else r
  if 0x7FFFFF < r then (0x7FFFFF, true)
  else if r < -0x800000 then (0x800000, true)
  else (unsign 24 r, false)

/-! ### Words (R241) -/

/-- A register's value as a 24-bit word, and whether the move saturated. -/
def EngX.word (x : EngX) (c : Nat) : Nat × Bool :=
  if c < 8 then (x.get c, false)
  else if c < 0x0C then wordOfAcc (x.get c) x.shift
  else if c < 0x10 then (bitsOf (x.get (c - 4)) 55 48, false)
  else if c < 0x14 then (bitsOf (x.get (c - 8)) 47 24, false)
  else if c < 0x18 then (bitsOf (x.get (c - 12)) 23 0, false)
  else if 0x20 ≤ c ∧ c < 0x28 then (unsign 24 (signed 16 (x.get c)), false)
  else if c = cLCNT then ((x.loops.head?.map (·.2.2)).getD 0, false)
  else (x.get c, false)

/-- The value as a word, with SR.S set on saturation. -/
def EngX.take (x : EngX) (c : Nat) : Nat × EngX :=
  let (w, s) := x.word c
  (w, if s then x.setSr (maskSet x.sr fS true) else x)

/-- A word written to a register: the low bits of it, or R213's load of a whole accumulator. -/
def EngX.put (x : EngX) (c w : Nat) : EngX :=
  if c < 8 then x.set c (w % 2 ^ 24)
  else if c < 0x0C then x.set c (accOfWord w)
  else if c < 0x10 then x.set (c - 4) (putBits (x.get (c - 4)) 55 48 w)
  else if c < 0x14 then x.set (c - 8) (putBits (x.get (c - 8)) 47 24 w)
  else if c < 0x18 then x.set (c - 12) (putBits (x.get (c - 12)) 23 0 w)
  else if c < 0x38 then x.set c (w % 2 ^ 16)
  else if c = cSR then x.setSr (srWrite x.sr w)
  else if c = cMR then x.set c (if w % 8 = 4 then 5 else w % 8)
  else if c = cCP then x.set c (w % 8)
  else x

/-- A register that addresses: its new value is seen one instruction late (R254). -/
def lateReg (c : Nat) : Bool := decide (0x18 ≤ c ∧ c < 0x38) || c == cCP

/-- A write by MOVE, MOVI, ADDA, LDC, PIO or SPOP (R254). -/
def EngX.write (x : EngX) (c w : Nat) : EngX :=
  if lateReg c then { x with late := x.late ++ [(c, w, false)] } else x.put c w

/-- A write of loaded data, at the end of the next instruction. -/
def EngX.writeLate (x : EngX) (c w : Nat) : EngX := { x with late := x.late ++ [(c, w, true)] }

/-! ### Addressing (R219, R220, R242) -/

/-- The post-step of a step code for pointer `k`. -/
def EngX.step (x : EngX) (code k : Nat) : Int :=
  if code = 1 then 1 else if code = 2 then -1 else if code = 3 then 2 else if code = 4 then -2
  else if code = 5 then signed 16 (x.get (cI k)) else 0

/-- A pointer after a step, within its circular buffer. -/
def EngX.stepped (x : EngX) (k p : Nat) (s : Int) : Nat :=
  let l := x.get (cL k)
  let len : Nat := if l = 0 then 65536 else l
  let b := x.get (cB k)
  let o := (p + 65536 - b) % 65536
  (b + (((o : Int) + s) % len).toNat) % 65536

/-- Pointer `k` steps by a step code. -/
def EngX.post (x : EngX) (k code : Nat) : EngX :=
  x.set (cP k) (x.stepped k (x.get (cP k)) (x.step code k))

/-- The cluster word that CP and a pointer address. -/
def EngX.cluAddr (x : EngX) (k : Nat) : Nat := x.get cCP * 65536 + x.get (cP k)

/-- A count or a handle of some bits (R250, R252). -/
def EngX.immReg (x : EngX) (w : Nat) : ImmReg → Nat × EngX
  | .imm n => (n, x)
  | .reg c => let (v, x) := x.take c; (v % 2 ^ w, x)

end Sys2Proof.Machine
end

