-- ==== Sys2Proof/Machine/ShuDecode.lean ====
section
/-! DEFINITION. The decoding of shuttle instruction words (chapter 10). -/

namespace Sys2Proof.Machine

/-- A 4-bit register code of the P format that is not reserved (R240). -/
def reg4Ok (c : Nat) : Bool := decide (c < 12)

/-- A step code that is not reserved (R242). -/
def stepOk (c : Nat) : Bool := decide (c < 6)

/-- A 12-bit move of the P format: `none` is a reserved or non-zero unused field (R244). -/
def parMove (f : Nat) : Option (Option ParMove) :=
  if maskBit f 11 then
    if stepOk (bitsOf f 6 4) && reg4Ok (bitsOf f 3 0) then
      some (some ⟨maskBit f 10, bitsOf f 9 7, bitsOf f 6 4, bitsOf f 3 0⟩)
    else none
  else if f = 0 then some none else none

/-- The fields that a P-format operation uses: D, S1, S2 (R245). -/
def parUses (op : Nat) : Bool × Bool × Bool :=
  if op = 0 then (false, false, false)
  else if op ≤ 4 then (true, true, true)
  else if op = 5 ∨ op = 6 ∨ op = 8 ∨ op = 9 ∨ op = 0xE then (true, true, false)
  else (true, false, false)

/-- A field that is used or zero. -/
def fieldOk (used : Bool) (v : Nat) : Bool := used || v == 0

/-- The P format. -/
def decodePar (w : Nat) : Option ShuInstr :=
  let op := bitsOf w 47 42
  let d := bitsOf w 41 40
  let s1 := bitsOf w 39 36
  let s2 := bitsOf w 35 33
  let (ud, u1, u2) := parUses op
  if fieldOk ud d && fieldOk u1 s1 && fieldOk u2 s2 && reg4Ok s1 && bitsOf w 8 0 == 0 then
    match parMove (bitsOf w 32 21), parMove (bitsOf w 20 9) with
    | some m0, some m1 => some (.par op d s1 s2 m0 m1)
    | _, _ => none
  else none

/-- A count of RPTN or LOOP, R in bit 22 (R250). -/
def immRegOf (w hi : Nat) : Option ImmReg :=
  if maskBit w 22 then
    if bitsOf w hi 0 = 0 ∧ regOk (bitsOf w 21 16) then some (.reg (bitsOf w 21 16)) else none
  else if bitsOf w 21 16 = 0 then some (.imm (bitsOf w hi 0)) else none

/-- The R format (R247). -/
def decodeReg (w : Nat) : Option ShuInstr :=
  let op := bitsOf w 47 42
  let r := bitsOf w 41 36
  if !regOk r then none
  else if op = 0x10 then
    if regOk (bitsOf w 35 30) ∧ bitsOf w 29 0 = 0 then some (.move r (bitsOf w 35 30)) else none
  else if op = 0x11 then if bitsOf w 35 24 = 0 then some (.movi r (bitsOf w 23 0)) else none
  else if op = 0x12 then
    if bitsOf w 35 17 = 0 then some (.adda r (maskBit w 16) (bitsOf w 15 0)) else none
  else if op = 0x13 then
    if stepOk (bitsOf w 32 30) ∧ bitsOf w 28 0 = 0 then
      some (.mem (maskBit w 29) r (bitsOf w 35 33) (bitsOf w 32 30)) else none
  else if op = 0x14 then
    if stepOk (bitsOf w 32 30) ∧ bitsOf w 28 27 ≠ 3 ∧ bitsOf w 26 0 = 0 then
      some (.clu (maskBit w 29) r (bitsOf w 35 33) (bitsOf w 32 30) (bitsOf w 28 27)) else none
  else if bitsOf w 28 0 = 0 then some (.pio (maskBit w 29) r (bitsOf w 35 30)) else none

/-- The B format (R250). -/
def decodeBr (w : Nat) : Option ShuInstr :=
  let op := bitsOf w 47 42
  let c := bitsOf w 41 38
  if op = 0x20 ∨ op = 0x21 then
    if c < 13 ∧ bitsOf w 23 0 = 0 then
      some (if op = 0x20 then .bra c (bitsOf w 37 24) else .call c (bitsOf w 37 24)) else none
  else if op = 0x22 then if c < 13 ∧ bitsOf w 37 0 = 0 then some (.ret c) else none
  else if op = 0x23 then if bitsOf w 41 0 = 0 then some .rti else none
  else if op = 0x24 then
    if bitsOf w 41 23 = 0 then (immRegOf w 15).map .rptn else none
  else if op = 0x25 then
    if bitsOf w 41 38 = 0 ∧ bitsOf w 23 23 = 0 then
      (immRegOf w 15).map (.loop (bitsOf w 37 24)) else none
  else if bitsOf w 41 0 = 0 then some .lpop else none

/-- The S format (R252). -/
def decodeSys (w : Nat) : Option ShuInstr :=
  let op := bitsOf w 47 42
  let plain (i : ShuInstr) := if bitsOf w 41 0 = 0 then some i else none
  let h := if bitsOf w 15 13 = 0 then immRegOf w 12 else none
  if op = 0x30 then plain .halt
  else if op = 0x31 then plain .kick
  else if op = 0x32 then if bitsOf w 41 4 = 0 then some (.signal (bitsOf w 3 0)) else none
  else if op = 0x33 then plain .lock
  else if op = 0x34 then plain .unlock
  else if op = 0x35 then plain .waiti
  else if op = 0x36 then
    if stepOk (bitsOf w 38 36) ∧ bitsOf w 33 23 = 0 then
      h.map (.spush (bitsOf w 41 39) (bitsOf w 38 36) (maskBit w 35) (maskBit w 34)) else none
  else if op = 0x37 then
    if stepOk (bitsOf w 38 36) ∧ regOk (bitsOf w 35 30) ∧ bitsOf w 29 23 = 0 then
      h.map (.spop (bitsOf w 41 39) (bitsOf w 38 36) (bitsOf w 35 30)) else none
  else if bitsOf w 41 23 = 0 then h.map .spflush else none

/-- The instruction of a program word; an undefined opcode, a non-zero unused field or a reserved
code decodes to none (R239). -/
def decodeShu (w : Nat) : Option ShuInstr :=
  let op := bitsOf w 47 42
  if op ≤ 0xE then decodePar w
  else if 0x10 ≤ op ∧ op ≤ 0x15 then decodeReg w
  else if 0x20 ≤ op ∧ op ≤ 0x26 then decodeBr w
  else if 0x30 ≤ op ∧ op ≤ 0x38 then decodeSys w
  else none

/-! ### The words of the instructions (R239, R244, R247, R250, R252)

The encoding read the other way: the word of an instruction that the formats admit. -/

/-- The 12-bit field of a parallel move. -/
def ParMove.field (m : Option ParMove) : Nat :=
  match m with
  | none => 0
  | some m => 2 ^ 11 + (if m.store then 2 ^ 10 else 0) + m.ptr * 2 ^ 7 + m.step * 2 ^ 4 + m.reg

/-- The field of a count or handle: the number, or R and the register. -/
def ImmReg.field : ImmReg → Nat
  | .imm n => n
  | .reg c => 2 ^ 22 + c * 2 ^ 16

/-- The word of an instruction. -/
def encodeShu : ShuInstr → Nat
  | .par op d s1 s2 m0 m1 =>
    op * 2 ^ 42 + d * 2 ^ 40 + s1 * 2 ^ 36 + s2 * 2 ^ 33 + ParMove.field m0 * 2 ^ 21 + ParMove.field m1 * 2 ^ 9
  | .move d c => 0x10 * 2 ^ 42 + d * 2 ^ 36 + c * 2 ^ 30
  | .movi d n => 0x11 * 2 ^ 42 + d * 2 ^ 36 + n
  | .adda d c n => 0x12 * 2 ^ 42 + d * 2 ^ 36 + (if c then 2 ^ 16 else 0) + n
  | .mem st r p c => 0x13 * 2 ^ 42 + r * 2 ^ 36 + p * 2 ^ 33 + c * 2 ^ 30 + (if st then 2 ^ 29 else 0)
  | .clu st r p c z =>
    0x14 * 2 ^ 42 + r * 2 ^ 36 + p * 2 ^ 33 + c * 2 ^ 30 + (if st then 2 ^ 29 else 0) + z * 2 ^ 27
  | .pio wr r p => 0x15 * 2 ^ 42 + r * 2 ^ 36 + p * 2 ^ 30 + (if wr then 2 ^ 29 else 0)
  | .bra c t => 0x20 * 2 ^ 42 + c * 2 ^ 38 + t * 2 ^ 24
  | .call c t => 0x21 * 2 ^ 42 + c * 2 ^ 38 + t * 2 ^ 24
  | .ret c => 0x22 * 2 ^ 42 + c * 2 ^ 38
  | .rti => 0x23 * 2 ^ 42
  | .rptn c => 0x24 * 2 ^ 42 + c.field
  | .loop t c => 0x25 * 2 ^ 42 + t * 2 ^ 24 + c.field
  | .lpop => 0x26 * 2 ^ 42
  | .halt => 0x30 * 2 ^ 42
  | .kick => 0x31 * 2 ^ 42
  | .signal j => 0x32 * 2 ^ 42 + j
  | .lock => 0x33 * 2 ^ 42
  | .unlock => 0x34 * 2 ^ 42
  | .waiti => 0x35 * 2 ^ 42
  | .spush p c f l h =>
    0x36 * 2 ^ 42 + p * 2 ^ 39 + c * 2 ^ 36 + (if f then 2 ^ 35 else 0) + (if l then 2 ^ 34 else 0) + h.field
  | .spop p c d h => 0x37 * 2 ^ 42 + p * 2 ^ 39 + c * 2 ^ 36 + d * 2 ^ 30 + h.field
  | .spflush h => 0x38 * 2 ^ 42 + h.field

/-- A parallel move with the codes that R244 admits. -/
def ParMove.wf : Option ParMove → Bool
  | none => true
  | some m => decide (m.ptr < 8) && stepOk m.step && reg4Ok m.reg

/-- A count or handle of `w` bits, or a register that exists. -/
def ImmReg.wf (w : Nat) : ImmReg → Bool
  | .imm n => decide (n < 2 ^ w)
  | .reg c => regOk c

/-- An instruction with the operands that its format admits. -/
def ShuInstr.wf : ShuInstr → Bool
  | .par op d s1 s2 m0 m1 =>
    decide (op ≤ 0xE) && decide (d < 4) && reg4Ok s1 && decide (s2 < 8)
      && fieldOk (parUses op).1 d && fieldOk (parUses op).2.1 s1 && fieldOk (parUses op).2.2 s2
      && ParMove.wf m0 && ParMove.wf m1
  | .move d c => regOk d && regOk c
  | .movi d n => regOk d && decide (n < 2 ^ 24)
  | .adda d _ n => regOk d && decide (n < 2 ^ 16)
  | .mem _ r p c => regOk r && decide (p < 8) && stepOk c
  | .clu _ r p c z => regOk r && decide (p < 8) && stepOk c && decide (z < 3)
  | .pio _ r p => regOk r && decide (p < 64)
  | .bra c t => decide (c < 13) && decide (t < 2 ^ 14)
  | .call c t => decide (c < 13) && decide (t < 2 ^ 14)
  | .ret c => decide (c < 13)
  | .rptn c => c.wf 16
  | .loop t c => decide (t < 2 ^ 14) && c.wf 16
  | .signal j => decide (j < 16)
  | .spush p c _ _ h => decide (p < 8) && stepOk c && h.wf 13
  | .spop p c d h => decide (p < 8) && stepOk c && regOk d && h.wf 13
  | .spflush h => h.wf 13
  | .rti | .lpop | .halt | .kick | .lock | .unlock | .waiti => true

end Sys2Proof.Machine
end

