-- ==== Sys2Proof/Machine/ShuOps.lean ====
section
/-! DEFINITION. The shared operations of the shuttle engines (chapter 9): cluster and engine
state, the end of a run, interrupts, the lock, and the frame in which every instruction runs. An
engine is named by its device-wide number 64(p − 1) + e, a cluster by 4(p − 1) + c. -/

namespace Sys2Proof.Machine

def State.eng (s : State) (e : Nat) : EngX := s.engs.getD e {}
def State.setEng (s : State) (e : Nat) (x : EngX) : State := { s with engs := s.engs.setD e {} x }
def State.modEng (s : State) (e : Nat) (f : EngX → EngX) : State := s.setEng e (f (s.eng e))
def State.clu (s : State) (c : Nat) : CluX := s.clus.getD c {}
def State.setClu (s : State) (c : Nat) (x : CluX) : State := { s with clus := s.clus.setD c {} x }

/-- The engine number is one of the device's (R211). -/
def engOk (e : Nat) : Bool := decide (e < 256)
/-- The initiator of a cluster (R211). -/
def cluInit (c : Nat) : Nat := 0x30 + c

def State.engState (s : State) (e : Nat) : Nat := s.eRd e SHU_En_STAT.STATE

/-- PAGE_LEVEL.BUSY, SHU_CL_RUN and SHU_CL_LOCK follow the engines, channels and lock of a cluster
(R225, R236). -/
def State.cluSync (s : State) (c : Nat) : State :=
  let pg := pgShu c
  let es := List.range 16
  let run := es.foldl (fun m i => if s.engState (16 * c + i) = 1 then m + 2 ^ i else m) 0
  let fet := es.foldl (fun m i => if (s.eng (16 * c + i)).fet.isSome then m + 2 ^ i else m) 0
  let busy := fet != 0 || es.any fun i => s.engState (16 * c + i) % 2 == 1
  let s := ((s.wr pg SHU_CL_RUN.ENGINES run).wr pg SHU_CL_RUN.FETCH fet).wr pg PAGE_LEVEL.BUSY (bit busy)
  let held := (s.clu c).owner.isSome
  (s.wr pg SHU_CL_LOCK.HELD (bit held)).wr pg PAGE_LEVEL.BLOCK
    (maskSet (s.rd pg PAGE_LEVEL.BLOCK) 0 held)

/-! ### Interrupt sources (R229, R230) -/

/-- The SPOOL source: the watched queue of the engine's own panel holds a complete item. -/
def State.spoolIrq (s : State) (e : Nat) : Bool :=
  let h := s.eRd e SHU_En_SPWATCH.HANDLE
  s.eRd e SHU_En_SPWATCH.EN == 1 && handlePanel h == e / 64 + 1
    && !((s.spl (handlePanel h)).queue (handleQueue h)).items.isEmpty

/-- SHU_En_INT_PEND as it reads. -/
def State.engPends (s : State) (e : Nat) : Nat :=
  maskSet (s.eRd e SHU_En_INT_PEND.PEND) 3 (s.spoolIrq e)

/-- A boundary at which R231 lets an interrupt be taken. -/
def EngX.free (x : EngX) : Bool :=
  x.br.isNone && x.rpt.isNone && !x.locked && (x.wait.isNone || x.wait == some .irq)

/-- The interrupt that the engine would take at this boundary (R230). -/
def State.engIrq (s : State) (e : Nat) : Option Nat :=
  let x := s.eng e
  if x.free && decide (x.calls.length < 16) then
    (List.range 7).find? fun k => maskBit (s.engPends e) k && maskBit (s.eRd e SHU_En_INT_EN.EN) k
      && decide (k < bitsOf x.sr 11 8)
  else none

/-! ### Timer and watchdog (R232, R233) -/

/-- The timer has run out and its expiry has not come yet. -/
def EngX.timerDue (x : EngX) : Bool :=
  match x.tmr with
  | some t => decide (t ≤ x.cyc)
  | none => false

/-- The cycles that the watchdog has counted since its reload: those with PERIOD not 0 (R233). -/
def State.wdogCount (s : State) (e : Nat) : Nat :=
  let x := s.eng e
  if s.eRd e SHU_En_WDOG.PERIOD = 0 then x.wd else x.wd + (x.cyc - x.wdAt)

/-- The watchdog has run out. -/
def State.wdogDue (s : State) (e : Nat) : Bool :=
  let p := s.eRd e SHU_En_WDOG.PERIOD
  p != 0 && decide (p * 1024 ≤ s.wdogCount e)

/-- What the watchdog has counted is held fast before PERIOD changes. -/
def State.wdogSync (s : State) (e : Nat) : State :=
  s.modEng e fun x => { x with wd := s.wdogCount e, wdAt := x.cyc }

/-- The watchdog reloads. -/
def EngX.kicked (x : EngX) : EngX := { x with wd := 0, wdAt := x.cyc }

/-! ### The end of a run (R228, R235) -/

/-- Bits of a cluster word are stored. -/
def State.cluStore (s : State) (c a mask v : Nat) : State :=
  let k := s.clu c
  let a := a % 524288
  let w := (k.mem.getD a 0 &&& (2 ^ 32 - 1 - mask)) ||| (v &&& mask)
  s.setClu c { k with mem := k.mem.setD a 0 w }

/-- The cluster memory serves the engine: nobody else holds the lock (R225). -/
def State.cluOpen (s : State) (e : Nat) : Bool :=
  match (s.clu (e / 16)).owner with
  | none => true
  | some o => o == e % 16

/-- The lock is free: stores of ended runs that it held back are performed. -/
def State.lockFree (s : State) (c : Nat) : State :=
  let s := (s.clu c).owed.foldl (fun s w => s.cluStore c w.1 w.2.1 w.2.2) s
  s.setClu c { s.clu c with owner := none, owed := [] }

/-- The lock is given up and its buffer discarded (R228). -/
def State.breakLock (s : State) (e : Nat) : State :=
  let c := e / 16
  if (s.clu c).owner == some (e % 16) then
    let s := s.lockFree c
    let s := s.modEng e fun x => { (x.setSr (maskSet x.sr fLK false)) with lockBuf := [], lockCnt := 0 }
    (s.eWr e SHU_En_STAT.LOCK_BROKEN 1).ev (pgShu c) 10
  else s

/-- The mask and the value that STC stores. -/
def stcParts (size w : Nat) : Nat × Nat :=
  if size = 0 then (2 ^ 32 - 1, unsign 32 (signed 24 w))
  else if size = 1 then (2 ^ 16 - 1, w % 2 ^ 16)
  else ((2 ^ 16 - 1) * 2 ^ 16, w % 2 ^ 16 * 2 ^ 16)

/-- A cluster store that the engine has issued completes although its run ends; another engine's lock holds
it back, and inside the engine's own locked sequence it was still in the buffer (R228, R235). -/
def State.stcFlush (s : State) (e : Nat) : State :=
  let x := s.eng e
  match x.wait with
  | some (.mem (.clu true r p _ z)) =>
    let (m, v) := stcParts z (x.word r).1
    if x.locked then s
    else if s.cluOpen e then s.cluStore (e / 16) (x.cluAddr p) m v
    else s.setClu (e / 16) { s.clu (e / 16) with owed := (s.clu (e / 16)).owed ++ [(x.cluAddr p, m, v)] }
  | _ => s

/-- The answers of the operations that an engine has sent are sunk; a pop that was never issued is gone. -/
def CluX.sink (k : CluX) (i : Nat) : CluX :=
  { k with sps := (k.sps.filter fun r => !(r.eng == i && r.op == .pop && !r.out)).map fun r =>
      if r.eng = i then { r with sink := true } else r }

/-- Results other than loaded data that were still to be written are written (R235, R254). -/
def EngX.lateDone (x : EngX) : EngX :=
  { (x.late.foldl (fun x w => if w.2.2 then x else x.put w.1 w.2.1) x) with late := [] }

/-! ### Memories (R211, R218, R221, R226) -/

def EngX.load (x : EngX) (a : Nat) : Nat := x.data.getD (a % 65536) 0
def EngX.store (x : EngX) (a v : Nat) : EngX := { x with data := x.data.setD (a % 65536) 0 (v % 2 ^ 24) }

def State.cluWord (s : State) (c a : Nat) : Nat := (s.clu c).mem.getD (a % 524288) 0

/-- A cluster word as the engine sees it, through its lock buffer (R226). -/
def State.cluSeen (s : State) (e a : Nat) : Nat :=
  (s.eng e).lockBuf.foldl (fun w b => match b with
    | .store a' mask v => if a' = a then (w &&& (2 ^ 32 - 1 - mask)) ||| (v &&& mask) else w
    | .push _ _ _ _ => w) (s.cluWord (e / 16) a)

/-- A cluster store of an engine: held back inside a locked sequence. -/
def State.engStore (s : State) (e a mask v : Nat) : State :=
  if (s.eng e).locked then
    s.modEng e fun x => { x with lockBuf := x.lockBuf ++ [.store a mask v] }
  else s.cluStore (e / 16) a mask v

/-- The word addresses of a spool instruction's cell (R252). -/
def EngX.cellAddrs (x : EngX) (k : Nat) : List Nat :=
  (List.range 16).map fun j => x.get cCP * 65536 + (x.get (cP k) + j) % 65536

/-- The cell at some addresses. -/
def State.cellAt (s : State) (e : Nat) (as : List Nat) : Nat :=
  as.zipIdx.foldl (fun n a => n + s.cluSeen e a.1 * 2 ^ (32 * a.2)) 0

/-- A cell written at some addresses. -/
def State.putCell (s : State) (e : Nat) (as : List Nat) (cell : Nat) : State :=
  as.zipIdx.foldl (fun s a =>
    s.engStore e a.1 (2 ^ 32 - 1) (bitsOf cell (32 * a.2 + 31) (32 * a.2))) s

/-- The ECC verdicts on words of a cluster's memories that were read (R218). -/
def State.shuEcc (s : State) (c : Nat) (es : List Ecc) : State :=
  let pg := pgShu c
  es.foldl (fun s v => match v with
    | .clean => s
    | .corrected => (s.bump pg SHU_CL_ECC.CORR 1).ev pg 12
    | .fatal => (s.wr pg SHU_CL_ECC.FATAL 1).ev pg 13) s

/-! ### The spool operations of a cluster (R225, R226, R253) -/

/-- A request of a cluster may be issued: no other engine holds the lock. -/
def State.spMay (s : State) (c : Nat) (r : SpReq) : Bool :=
  match (s.clu c).owner with
  | none => true
  | some o => o == r.eng

/-- A request joins those of the cluster that have been issued. -/
def CluX.issued (k : CluX) (i : Nat) (r : SpReq) : CluX :=
  let rest := k.sps.eraseIdx i
  { k with sps := rest.filter (·.out) ++ { r with out := true } :: rest.filter (!·.out) }

/-- A spool operation of an engine as the network carries it. -/
def SpReq.net (r : SpReq) : NetReq :=
  match r.op with
  | .push f l cell => spPush r.h 0 cell f l
  | .pop => spPop r.h
  | .flush => spFlush r.h

/-- The first request that waits to be issued and may be: its place. -/
def State.spFirst (s : State) (c : Nat) : Option (Nat × SpReq) :=
  ((s.clu c).sps.zipIdx.map fun e => (e.2, e.1)).find? fun e => !e.2.out && s.spMay c e.2

/-- Requests are issued, in order, while tags are free (R312) and no table switch holds the cluster
(R315). -/
def State.spTry (s : State) (c : Nat) : Nat → State
  | 0 => s
  | n + 1 =>
    match s.spFirst c with
    | none => s
    | some (i, r) =>
      match s.spIssue (cluInit c) r.net with
      | (.go, s) => (s.setClu c ((s.clu c).issued i r)).spTry c n
      | (_, s) => s

/-- The first request of a cluster that passes a test, with those before and after it. -/
def spFind (p : SpReq → Bool) : List SpReq → List SpReq → Option (List SpReq × SpReq × List SpReq)
  | _, [] => none
  | pre, r :: rest => if p r then some (pre, r, rest) else spFind p (pre ++ [r]) rest

/-- An issued request is the first for its manager (R308). -/
def spTurn (pre : List SpReq) (r : SpReq) : Bool :=
  r.out && !pre.any fun b => b.out && handlePanel b.h == handlePanel r.h

/-- Issued flushes that nothing holds up are performed. -/
def State.spDrain (s : State) (c : Nat) : Nat → State
  | 0 => s
  | n + 1 =>
    match spFind (fun r => r.op == .flush) [] (s.clu c).sps with
    | none => s
    | some (pre, r, rest) =>
      if spTurn pre r && !s.spCircles (cluInit c) r.h then
        let s := s.setClu c { s.clu c with sps := pre ++ rest }
        let (x, s) := s.spoolFlush r.h (cluInit c)
        (s.spBack (cluInit c) r.net x).spDrain c n
      else s

/-- What the cluster's spool operations can do now, they do. -/
def State.spStep (s : State) (c : Nat) : State :=
  if s.running (pgShu c) then (s.spTry c (s.clu c).sps.length).spDrain c 16 else s

/-- An operation of an engine is handed to the cluster's interface. -/
def State.spSend (s : State) (e h : Nat) (op : SpOp) : State :=
  let k := s.clu (e / 16)
  s.setClu (e / 16) { k with sps := k.sps ++ [⟨e % 16, h, op, false, false⟩] }

def SpOp.isPush : SpOp → Bool
  | .push _ _ _ => true
  | _ => false

/-- The pushes of an engine that are outstanding. -/
def State.spOut (s : State) (e : Nat) : Nat :=
  ((s.clu (e / 16)).sps.filter fun r => r.eng == e % 16 && r.op.isPush && !r.sink).length

/-! ### The end of a run (R235, R236) -/

/-- A run ends with a cause (R235, R236). -/
def State.engEnd (s : State) (e cause : Nat) : State :=
  let c := e / 16
  let pg := pgShu c
  let s := (s.stcFlush e).breakLock e
  let s := s.setClu c ((s.clu c).sink (e % 16))
  let s := s.modEng e fun x => { x.lateDone with br := none, rpt := none, wait := none,
                                                 haltAt := none, stepping := false }
  let s := (s.eWr e SHU_En_STAT.STATE 2).eWr e SHU_En_STAT.CAUSE cause
  let s := if 3 ≤ cause then s.ev pg 8 else s
  let s := if cause = 3 then s.ev pg 9 else s
  ((if cause = 2 then s.evAborted pg else s.evDone pg).spStep c).cluSync c

/-! ### The frame of an instruction (R239, R254–R257) -/

/-- The instruction at PC; none is undefined. -/
def EngX.instr (x : EngX) : Option ShuInstr := decodeShu (x.prog.getD x.pc 0)

/-- Branches (R251). -/
def ShuInstr.branch : ShuInstr → Bool
  | .bra _ _ | .call _ _ | .ret _ | .rti => true
  | _ => false

/-- What RPTN may repeat: formats P and R, SPUSH and SPOP (R255). -/
def ShuInstr.repeatable : ShuInstr → Bool
  | .par _ _ _ _ _ _ | .move _ _ | .movi _ _ | .adda _ _ _ | .mem _ _ _ _ | .clu _ _ _ _ _
  | .pio _ _ _ | .spush _ _ _ _ _ | .spop _ _ _ _ => true
  | _ => false

def ShuInstr.looping : ShuInstr → Bool
  | .rptn _ | .loop _ _ | .lpop => true
  | _ => false

/-- PC lies in the last words of a loop body. -/
def EngX.inTail (x : EngX) (n : Nat) : Bool :=
  x.loops.any fun l => decide (l.1 ≤ x.pc ∧ x.pc ≤ l.2.1 ∧ l.2.1 < x.pc + n)

/-- The cause that ends the run in place of an instruction that is not allowed where it stands
(R227, R255). -/
def EngX.misplaced (x : EngX) (i : ShuInstr) : Option Nat :=
  if x.br.isSome && (i.branch || i.looping || i == .waiti) then some 4
  else if x.rpt.isSome && !i.repeatable then some 4
  else if x.inTail 3 && i.branch then some 4
  else if x.inTail 1 && i.looping then some 4
  else if x.locked then
    if i == .waiti then some 4
    else if 16 ≤ x.lockCnt then some 6
    else match i with
      | .lock | .rptn _ | .loop _ _ | .halt => some 6
      | _ => none
  else if i == .unlock then some 6
  else none

/-- The test at the END of loop bodies (R257): the next PC, and the stack. -/
def loopTest (pc : Nat) : List (Nat × Nat × Nat) → Nat × List (Nat × Nat × Nat)
  | [] => ((pc + 1) % 2 ^ 14, [])
  | (a, e, n) :: t =>
    if e ≠ pc then ((pc + 1) % 2 ^ 14, (a, e, n) :: t)
    else if 1 < n then (a, (a, e, n - 1) :: t)
    else loopTest pc t

/-- Where an instruction that is no branch, loop or repeat leaves PC. -/
def EngX.advancePc (x : EngX) : EngX :=
  match x.rpt with
  | some (n + 2) => { x with rpt := some (n + 1) }
  | _ =>
    let x := { x with rpt := none }
    match x.br with
    | some (k + 2, t) => { x with br := some (k + 1, t), pc := (x.pc + 1) % 2 ^ 14 }
    | some (_, t) => { x with br := none, pc := t }
    | none => let (pc, ls) := loopTest x.pc x.loops; { x with pc := pc, loops := ls }

/-- The writes held back for the end of this instruction happen, after its own results; `old` is
what was held when it began. -/
def EngX.settleLate (x : EngX) (old : List (Nat × Nat × Bool)) : EngX :=
  let new := x.late.drop old.length
  { (old.foldl (fun x w => x.put w.1 w.2.1) x) with late := new }

/-- Cycles pass for an engine: one, and those that it stalled. -/
def EngX.tick (x : EngX) (n : Nat) : EngX := { x with cyc := x.cyc + n }

/-- Stall cycles leave every slot of the engine's memories unused: two of data and one of program memory a
cycle (R217). -/
def EngX.idle (x : EngX) (n : Nat) : EngX :=
  if n = 0 then x
  else { x with dslot := ⟨x.dslot.waiting.drop (2 * n), 0⟩, pslot := ⟨x.pslot.waiting.drop n, 0⟩ }

/-- A halt that the debugger asked for is taken at a boundary (R467, R469). -/
def State.haltTake (s : State) (e : Nat) : State :=
  let x := s.eng e
  if (x.haltAt.isSome || x.stepping) && x.free && s.engState e == 1 then
    let s := s.setEng e { x with haltAt := none, stepping := false }
    (s.eWr e SHU_En_STAT.STATE 3).cluSync (e / 16)
  else s

/-- An instruction completes: `x` is the engine with its own results and flow, `old` the writes
held back when it began, `n` its cycles. -/
def State.engDone (s : State) (e : Nat) (x : EngX) (old : List (Nat × Nat × Bool)) (n : Nat) : State :=
  let x := ((x.settleLate old).tick n).idle (n - 1)
  let x := if x.locked then { x with lockCnt := x.lockCnt + 1 } else x
  (s.setEng e { x with wait := none, contend := false, crowd := false, got := [] }).haltTake e

/-- An instruction completes that goes on in address order. -/
def State.engNext (s : State) (e : Nat) (x : EngX) (old : List (Nat × Nat × Bool)) (n : Nat) : State :=
  s.engDone e x.advancePc old n

/-- A halt of a locked sequence that is forced before `n` more cycles have passed (R468). -/
def EngX.haltCut (x : EngX) (n : Nat) : Bool := x.locked && x.haltAt.any fun t => decide (t + 64 < x.cyc + n)

/-- The engine is at a point where its next instruction may execute: it runs, nothing stalls it,
no timer or watchdog expiry, no forced halt and no interrupt comes first. -/
def State.engGo (s : State) (e : Nat) : Bool :=
  let x := s.eng e
  engOk e && s.engState e == 1 && s.running (pgEng e) && x.wait.isNone && !x.timerDue
    && !s.wdogDue e && !x.haltCut 1 && ((s.engIrq e).isNone || (x.stepping && !s.on pgDbg DBG_SHU_CMD.STEP_INT))

/-- The words that an instruction reads besides itself in its own cycle (R216). -/
def ShuInstr.loads : ShuInstr → Nat
  | .par _ _ _ _ m0 m1 => ([m0, m1].filter fun m => m.any (!·.store)).length
  | .mem false _ _ _ => 1
  | _ => 0

/-- The slots of its data memory that an instruction takes (R216). -/
def ShuInstr.slots : ShuInstr → Nat
  | .par _ _ _ _ m0 m1 => ([m0, m1].filter (·.isSome)).length
  | .mem _ _ _ _ => 1
  | _ => 0

/-- The cycles for which accesses from elsewhere stall the engine, at `c` slots a cycle: those that have
waited 16 cycles take the next slots; of the others, which may have waited longer than the engine has seen
them, some may where no slot was unused in 16 cycles, and `stalls` says how many cycles that takes (R217). -/
def SlotX.stall (q : SlotX) (c stalls : Nat) : Nat :=
  let must := ((q.waiting.filter (16 ≤ ·)).length + c - 1) / c
  max must (min stalls (if 16 ≤ q.full then (q.waiting.length + c - 1) / c else must))

/-- The engine's own cycle leaves `k` slots unused, which waiting accesses take (R217). -/
def SlotX.cycle (q : SlotX) (k : Nat) : SlotX :=
  ⟨(q.waiting.drop k).map (· + 1), if k = 0 then q.full + 1 else 0⟩

/-- The cycles that the engine stalls before its next instruction for accesses to its memories. -/
def EngX.slotCycles (x : EngX) (stalls : Nat) : Nat := max (x.dslot.stall 2 stalls) (x.pslot.stall 1 stalls)

/-- The engine stalls before an instruction for accesses from elsewhere to its data memory, of two slots a
cycle, and its program memory; the instruction's own cycle then takes its slots. DESIGN CHOICES: program
memory has one slot a cycle, which instruction fetch takes; an access from elsewhere reads or writes at its
command, and its wait only delays the engine. -/
def State.slotStall (s : State) (e stalls : Nat) : State :=
  s.modEng e fun x =>
    let n := x.slotCycles stalls
    let used := (x.instr.map ShuInstr.slots).getD 0
    { (x.tick n) with
      dslot := ({ x.dslot with waiting := x.dslot.waiting.drop (2 * n) }).cycle (2 - used)
      pslot := ({ x.pslot with waiting := x.pslot.waiting.drop n }).cycle 0 }

/-- An access from elsewhere to an engine's memory waits for a slot; while the engine executes nothing every
slot is unused (R217, R467). -/
def State.slotWait (s : State) (e : Nat) (f : EngX → EngX) : State :=
  if s.engState e = 1 ∧ s.running (pgEng e) = true ∧ (s.eng e).wait = none then s.modEng e f else s

def EngX.dataWait (x : EngX) : EngX := { x with dslot := { x.dslot with waiting := x.dslot.waiting ++ [0] } }
def EngX.progWait (x : EngX) : EngX := { x with pslot := { x.pslot with waiting := x.pslot.waiting ++ [0] } }

/-- One instruction of a kind: the word at PC decodes to it, stands where it may, and executes by
`f`; otherwise the run ends with the cause that the rules give. `stalls` counts the cycles that it
stalled (R217), `ecc` holds the verdicts on the word that it fetches and the words that it reads (R218). -/
def State.engRun (s : State) (e stalls : Nat) (ecc : List Ecc) (kind : ShuInstr → Bool)
    (f : ShuInstr → State → State) : State :=
  match (s.eng e).instr with
  | none => s
  | some i =>
    if !s.engGo e || !kind i then s
    else
      let es := ecc.take (1 + i.loads)
      let s := (s.shuEcc (e / 16) es).slotStall e stalls
      if es.contains .fatal then s.engEnd e 7
      else match (s.eng e).misplaced i with
        | some c => s.engEnd e c
        | none => f i s

/-- UNDEFINED_INSTRUCTION: the word at PC is undefined, or has a non-zero unused field or a reserved
code (R239). -/
def State.engUndefined (s : State) (e stalls : Nat) (ecc : List Ecc) : State :=
  if s.engGo e && (s.eng e).instr.isNone then
    let es := ecc.take 1
    let s := (s.shuEcc (e / 16) es).slotStall e stalls
    s.engEnd e (if es.contains .fatal then 7 else 4)
  else s

def execUndefinedInstruction (e stalls : Nat) (ecc : List Ecc) (s : State) :
    Host.Outcome State Fault Refusal := .next (s.engUndefined e stalls ecc)

end Sys2Proof.Machine
end

