-- ==== Sys2Proof/Machine/ShuMove.lean ====
section
/-! DEFINITION. The R-format instructions of the shuttle engines (R247–R249), and the grant of a
cluster-memory access (R221). -/

namespace Sys2Proof.Machine

/-! ### MOVE, MOVI, ADDA, LDM, STM -/

/-- MOVE under R241: all 56 bits between accumulators, a word otherwise. -/
def State.engMove (s : State) (e dst src : Nat) : State :=
  let x := s.eng e
  let whole (c : Nat) := decide (8 ≤ c ∧ c < 0x0C)
  let y := if whole dst && whole src then x.set dst (x.get src)
    else let (w, x) := x.take src; x.write dst w
  s.engNext e y x.late 1

def execMove (e stalls : Nat) (ecc : List Ecc) (s : State) : Host.Outcome State Fault Refusal :=
  .next (s.engRun e stalls ecc (fun i => match i with | .move _ _ => true | _ => false) fun i s =>
    match i with
    | .move d c => s.engMove e d c
    | _ => s)

def execMovi (e stalls : Nat) (ecc : List Ecc) (s : State) : Host.Outcome State Fault Refusal :=
  .next (s.engRun e stalls ecc (fun i => match i with | .movi _ _ => true | _ => false) fun i s =>
    match i with
    | .movi d n => s.engNext e ((s.eng e).write d n) (s.eng e).late 1
    | _ => s)

/-- ADDA: Pk, Ik, Bk and Lk only; CIRC for Pk only. -/
def State.engAdda (s : State) (e dst : Nat) (circ : Bool) (imm : Nat) : State :=
  let x := s.eng e
  if dst < 0x18 ∨ 0x38 ≤ dst ∨ (circ ∧ 0x20 ≤ dst) then s.engEnd e 4
  else
    let v := if circ then x.stepped (dst - 0x18) (x.get dst) (signed 16 imm)
      else (x.get dst + imm) % 65536
    s.engNext e (x.write dst v) x.late 1

def execAdda (e stalls : Nat) (ecc : List Ecc) (s : State) : Host.Outcome State Fault Refusal :=
  .next (s.engRun e stalls ecc (fun i => match i with | .adda _ _ _ => true | _ => false) fun i s =>
    match i with
    | .adda d c n => s.engAdda e d c n
    | _ => s)

/-- LDM: the loaded word is seen one instruction late. -/
def State.engLdm (s : State) (e reg ptr step : Nat) : State :=
  let x := s.eng e
  let y := (x.post ptr step).writeLate reg (x.load (x.get (cP ptr)))
  s.engNext e y x.late 1

def execLdm (e stalls : Nat) (ecc : List Ecc) (s : State) : Host.Outcome State Fault Refusal :=
  .next (s.engRun e stalls ecc (fun i => match i with | .mem st _ _ _ => !st | _ => false) fun i s =>
    match i with
    | .mem _ r p c => s.engLdm e r p c
    | _ => s)

def State.engStm (s : State) (e reg ptr step : Nat) : State :=
  let x := s.eng e
  let (w, y) := x.take reg
  s.engNext e ((y.store (x.get (cP ptr)) w).post ptr step) x.late 1

def execStm (e stalls : Nat) (ecc : List Ecc) (s : State) : Host.Outcome State Fault Refusal :=
  .next (s.engRun e stalls ecc (fun i => match i with | .mem st _ _ _ => st | _ => false) fun i s =>
    match i with
    | .mem _ r p c => s.engStm e r p c
    | _ => s)

/-! ### LDC, STC and the grant of their access (R221, R248) -/

/-- The words of cluster memory that an engine's access waits for: of an SPUSH those of its cell that it has
not read yet, one in each bank. -/
def EngX.wordsWanted (x : EngX) : List Nat :=
  match x.wait with
  | some (.mem (.clu _ _ p _ _)) => [x.cluAddr p]
  | some (.mem (.spush p _ _ _ _)) => (x.cellAddrs p).filter fun a => !(x.got.any (·.1 == a))
  | _ => []

/-- An engine waits for a bank. -/
def State.bankWants (s : State) (e b : Nat) : Bool := (s.eng e).wordsWanted.any (· % 16 == b)

/-- The engine stalls until its bank serves it, or for what else it waits. -/
def State.engStall (s : State) (e : Nat) (w : EngWait) : State :=
  let c := !s.cluOpen e
  let x := { (s.eng e) with wait := some w, contend := c, got := [] }
  let crowd := (List.range 16).any fun i =>
    i != e % 16 && x.wordsWanted.any fun a => s.bankWants (e / 16 * 16 + i) (a % 16)
  s.setEng e { x with crowd := crowd }

def execLdc (e stalls : Nat) (ecc : List Ecc) (s : State) : Host.Outcome State Fault Refusal :=
  .next (s.engRun e stalls ecc (fun i => match i with | .clu st _ _ _ _ => !st | _ => false)
    fun i s => s.engStall e (.mem i))

def execStc (e stalls : Nat) (ecc : List Ecc) (s : State) : Host.Outcome State Fault Refusal :=
  .next (s.engRun e stalls ecc (fun i => match i with | .clu st _ _ _ _ => st | _ => false)
    fun i s => s.engStall e (.mem i))

/-- The part of a cluster word that SIZE selects, into a register. A half loaded into a whole
accumulator goes to AnM[15:0] with every other bit clear, as R213's load of a small word does. -/
def State.ldcDone (s : State) (e reg ptr step size n : Nat) : State :=
  let x := s.eng e
  let w := s.cluSeen e (x.cluAddr ptr)
  let v := if size = 0 then bitsOf w 23 0 else if size = 1 then bitsOf w 15 0 else bitsOf w 31 16
  s.engNext e ((x.post ptr step).write reg v) x.late n

def State.stcDone (s : State) (e reg ptr step size n : Nat) : State :=
  let x := s.eng e
  let (w, y) := x.take reg
  let (mask, v) := stcParts size w
  let s := s.engStore e (x.cluAddr ptr) mask v
  s.engNext e ({ (y.post ptr step) with lockBuf := (s.eng e).lockBuf }) x.late n

/-- SPUSH has read its cell: the push is sent, or goes to the lock buffer; a fifth outstanding push
stalls (R226, R253). -/
def State.spushDone (s : State) (e : Nat) (i : ShuInstr) (ptr step : Nat) (first last : Bool)
    (h : ImmReg) (cell n : Nat) : State :=
  let x := s.eng e
  let (hv, y) := x.immReg 13 h
  let y := y.post ptr step
  if x.locked then
    s.engNext e { y with lockBuf := y.lockBuf ++ [.push hv first last cell] } x.late n
  else if 4 ≤ s.spOut e then
    s.modEng e fun x => { (x.tick (n - 1)) with wait := some (.post i cell) }
  else ((s.spSend e hv (.push first last cell)).spStep (e / 16)).engNext e y x.late n

/-- The bank's turn among the engines that wait for it and requester `who`: the first after the requester that
it served last (R221). Requester 16 is the fetch unit, 17 the on-die view. -/
def State.bankTurn (s : State) (c who b : Nat) : Bool :=
  let last := (s.clu c).served.getD b 17
  (((List.range 18).map fun k => (last + 1 + k) % 18).find? fun i =>
    i == who || (decide (i < 16) && s.bankWants (16 * c + i) b && s.cluOpen (16 * c + i))) == some who

/-- Banks have served a requester; the engines that wait for one of them have met it. -/
def State.bankServe (s : State) (c who : Nat) (bs : List Nat) : State :=
  let s := s.setClu c { s.clu c with served := bs.foldl (fun t b => t.setD b 17 who) (s.clu c).served }
  (List.range 16).foldl (fun s i =>
    if i ≠ who ∧ bs.any (s.bankWants (16 * c + i)) then s.modEng (16 * c + i) fun x => { x with crowd := true }
    else s) s

/-- The stall cycles of an access: two when nothing contends, and at most 18 more cycles in all unless another
engine's lock has held it up (R221). -/
def EngX.memStalls (x : EngX) (stalls : Nat) : Nat :=
  if x.contend then Nat.max 2 stalls else if x.crowd then min 19 (Nat.max 2 stalls) else 2

/-- The words that the banks now serve an engine. -/
def State.wordsServed (s : State) (e : Nat) : List Nat :=
  (s.eng e).wordsWanted.filter fun a => s.bankTurn (e / 16) (e % 16) (a % 16)

/-- An SPUSH reads words of its cell; with the last of them it goes on. -/
def State.spushRead (s : State) (e n : Nat) (i : ShuInstr) (as : List Nat) : State :=
  let s := s.modEng e fun x => { x with got := x.got ++ as.map fun a => (a, s.cluSeen e a) }
  let x := s.eng e
  match i with
  | .spush p c f l h =>
    if x.wordsWanted.isEmpty then
      let cell := (x.cellAddrs p).zipIdx.foldl (fun n a =>
        n + ((x.got.find? (·.1 == a.1)).map (·.2)).getD 0 * 2 ^ (32 * a.2)) 0
      s.spushDone e i p c f l h cell n
    else s
  | _ => s

/-- CLUSTER_MEM_GRANT: the banks whose turn it is serve the engine that stalls on cluster memory. `stalls`
counts its stall cycles; `ecc` holds the verdicts on the words read. -/
def State.memGrant (s : State) (e stalls : Nat) (ecc : List Ecc) : State :=
  match (s.eng e).wait with
  | some (.mem i) =>
    let n := (s.eng e).memStalls stalls + 1
    let as := s.wordsServed e
    if !engOk e || s.engState e != 1 || !s.running (pgEng e) || !s.cluOpen e || as.isEmpty || (s.eng e).haltCut n then s
    else
      let es := match i with
        | .clu true _ _ _ _ => []
        | _ => ecc.take as.length
      let t := (s.bankServe (e / 16) (e % 16) (as.map (· % 16))).shuEcc (e / 16) es
      if es.contains .fatal then t.engEnd e 7
      else match i with
        | .clu false r p c z => t.ldcDone e r p c z n
        | .clu true r p c z => t.stcDone e r p c z n
        | _ => t.spushRead e n i as
  | _ => s

def execClusterMemGrant (e stalls : Nat) (ecc : List Ecc) (s : State) : Host.Outcome State Fault Refusal :=
  .next (s.memGrant e stalls ecc)

/-! ### Peripherals (R249) and the engine's own registers -/

/-- A fetch transfer starts in a direction, or is refused and changes no register (R222). -/
def State.fetchGo (s : State) (e dir : Nat) : State :=
  let x := s.eng e
  let src := s.rdPair (pgEng e) (SHU_Fi_SRC_LO.ADDR.nth (e % 16)) (SHU_Fi_SRC_HI.ADDR.nth (e % 16))
  let stride := s.eRd e SHU_Fi_STRIDE.BYTES
  if x.fet.isSome || src % 4 != 0 || stride % 4 != 0 then s.ev (pgEng e) 15
  else
    let f : FetX := { src := src, dst := s.eRd e SHU_Fi_DST.WORD, dspace := s.eRd e SHU_Fi_DST.DSPACE == 1,
                      len := s.eRd e SHU_Fi_SIZE.LEN, rows := s.eRd e SHU_Fi_SIZE.ROWS, stride := stride,
                      out := dir % 2 == 1 }
    let s := (s.eWr e SHU_Fi_CTL.DIR dir).setEng e { x with fet := some f }
    let s := (s.eWr e SHU_Fi_STAT.STATUS 1).eWr e SHU_Fi_STAT.ERR 0
    (s.eWr e SHU_Fi_MOVED.WORDS 0).cluSync (e / 16)

/-- Writing 1 to SHU_En_INT_PEND clears edge sources (R229). -/
def State.pendClear (s : State) (e v : Nat) : State :=
  s.eWr e SHU_En_INT_PEND.PEND (s.eRd e SHU_En_INT_PEND.PEND &&& (255 - v % 256))

/-- Bits [hi:lo] of a field replaced. -/
def State.ePart (s : State) (e : Nat) (f : Fld) (hi lo v : Nat) : State :=
  s.eWr e f (putBits (s.eRd e f) hi lo v)

/-- What a peripheral number reads. -/
def State.pioRead (s : State) (e per : Nat) : Nat :=
  let src := s.rdPair (pgEng e) (SHU_Fi_SRC_LO.ADDR.nth (e % 16)) (SHU_Fi_SRC_HI.ADDR.nth (e % 16))
  let x := s.eng e
  match per with
  | 0 => bitsOf src 23 0
  | 1 => bitsOf src 47 24
  | 2 => s.eRd e SHU_Fi_DST.WORD + s.eRd e SHU_Fi_DST.DSPACE * 2 ^ 23
  | 3 => s.eRd e SHU_Fi_SIZE.LEN
  | 4 => s.eRd e SHU_Fi_SIZE.ROWS
  | 5 => bitsOf (s.eRd e SHU_Fi_STRIDE.BYTES) 23 0
  | 6 => bitsOf (s.eRd e SHU_Fi_STRIDE.BYTES) 31 24
  | 7 => s.eRd e SHU_Fi_CTL.DIR * 2
  | 8 => s.eRd e SHU_Fi_STAT.STATUS + s.eRd e SHU_Fi_STAT.ERR * 2 ^ 4
  | 9 => bitsOf (s.eRd e SHU_Fi_MOVED.WORDS) 23 0
  | 10 => s.eRd e SHU_En_INT_EN.EN + s.eRd e SHU_En_INT_EN.EVT * 2 ^ 16
  | 11 => s.engPends e
  | 12 => s.eRd e SHU_En_SPWATCH.HANDLE + s.eRd e SHU_En_SPWATCH.EN * 2 ^ 15
  | 13 => ((x.tmr.getD x.cyc) - x.cyc) % 2 ^ 24
  | 14 => bitsOf (s.eRd e SHU_En_TIMER_RELOAD.VALUE) 23 0
  | 15 => s.eRd e SHU_En_WDOG.PERIOD
  | 16 => x.lastPush + bit x.loss * 2 ^ 8 + s.spOut e % 8 * 2 ^ 9
  | 17 => e
  | 18 => bitsOf s.time 23 0
  | 19 => bitsOf s.time 47 24
  | _ => 0

/-- What a peripheral number does with a written word: what a host write of the register does, with
what it does to the page CRC (R50, R249). -/
def State.pioWrite (s : State) (e per v : Nat) : State :=
  match per with
  | 0 => s.ePart e SHU_Fi_SRC_LO.ADDR 23 0 v
  | 1 => (s.ePart e SHU_Fi_SRC_LO.ADDR 31 24 v).eWr e SHU_Fi_SRC_HI.ADDR (v / 2 ^ 8)
  | 2 => (s.eWr e SHU_Fi_DST.WORD v).eWr e SHU_Fi_DST.DSPACE (v / 2 ^ 23)
  | 3 => s.eWr e SHU_Fi_SIZE.LEN v
  | 4 => s.eWr e SHU_Fi_SIZE.ROWS v
  | 5 => s.ePart e SHU_Fi_STRIDE.BYTES 23 0 v
  | 6 => s.ePart e SHU_Fi_STRIDE.BYTES 31 24 v
  | 7 => if maskBit v 0 then s.fetchGo e (v / 2) else s.eWr e SHU_Fi_CTL.DIR (v / 2)
  | 10 => ((s.disarm (pgEng e)).eWr e SHU_En_INT_EN.EN v).eWr e SHU_En_INT_EN.EVT (v / 2 ^ 16)
  | 11 => s.pendClear e v
  | 12 => ((s.disarm (pgEng e)).eWr e SHU_En_SPWATCH.HANDLE v).eWr e SHU_En_SPWATCH.EN (v / 2 ^ 15)
  | 14 => (s.disarm (pgEng e)).eWr e SHU_En_TIMER_RELOAD.VALUE (v % 2 ^ 24)
  | 15 => ((s.disarm (pgEng e)).wdogSync e).eWr e SHU_En_WDOG.PERIOD v
  | 16 => s.modEng e fun x => { x with loss := false }
  | _ => s

def State.engPioRead (s : State) (e reg per : Nat) : State :=
  let x := s.eng e
  s.engNext e (x.write reg (s.pioRead e per)) x.late 1

def execPioRead (e stalls : Nat) (ecc : List Ecc) (s : State) : Host.Outcome State Fault Refusal :=
  .next (s.engRun e stalls ecc (fun i => match i with | .pio w _ _ => !w | _ => false) fun i s =>
    match i with
    | .pio _ r p => s.engPioRead e r p
    | _ => s)

def State.engPioWrite (s : State) (e reg per : Nat) : State :=
  let old := (s.eng e).late
  let (w, y) := (s.eng e).take reg
  let s := ((s.setEng e y).pioWrite e per w).crcSee s (pgEng e)
  s.engNext e (s.eng e) old 1

def execPioWrite (e stalls : Nat) (ecc : List Ecc) (s : State) : Host.Outcome State Fault Refusal :=
  .next (s.engRun e stalls ecc (fun i => match i with | .pio w _ _ => w | _ => false) fun i s =>
    match i with
    | .pio _ r p => s.engPioWrite e r p
    | _ => s)

end Sys2Proof.Machine
end

