-- ==== Sys2Proof/Machine/ShuFlow.lean ====
section
/-! DEFINITION. The B-format instructions of the shuttle engines (R250, R251, R256, R257). -/

namespace Sys2Proof.Machine

/-- A branch: its two delay slots come first, then the target, or its address + 3. -/
def State.engBranch (s : State) (e : Nat) (x : EngX) (old : List (Nat × Nat × Bool)) (go : Bool)
    (target : Nat) : State :=
  let t := if go then target else (x.pc + 3) % 2 ^ 14
  s.engDone e { x with pc := (x.pc + 1) % 2 ^ 14, br := some (2, t) } old 1

def execBra (e stalls : Nat) (ecc : List Ecc) (s : State) : Host.Outcome State Fault Refusal :=
  .next (s.engRun e stalls ecc (fun i => match i with | .bra _ _ => true | _ => false) fun i s =>
    let x := s.eng e
    match i with
    | .bra c t => s.engBranch e x x.late (condHolds c x.sr) t
    | _ => s)

def State.engCall (s : State) (e c t : Nat) : State :=
  let x := s.eng e
  if !condHolds c x.sr then s.engBranch e x x.late false t
  else if 16 ≤ x.calls.length then s.engEnd e 5
  else s.engBranch e { x with calls := ((x.pc + 3) % 2 ^ 14, x.sr) :: x.calls } x.late true t

def execCall (e stalls : Nat) (ecc : List Ecc) (s : State) : Host.Outcome State Fault Refusal :=
  .next (s.engRun e stalls ecc (fun i => match i with | .call _ _ => true | _ => false) fun i s =>
    match i with
    | .call c t => s.engCall e c t
    | _ => s)

def State.engRet (s : State) (e c : Nat) : State :=
  let x := s.eng e
  if !condHolds c x.sr then s.engBranch e x x.late false 0
  else match x.calls with
    | [] => s.engEnd e 5
    | (t, _) :: rest => s.engBranch e { x with calls := rest } x.late true t

def execRet (e stalls : Nat) (ecc : List Ecc) (s : State) : Host.Outcome State Fault Refusal :=
  .next (s.engRun e stalls ecc (fun i => match i with | .ret _ => true | _ => false) fun i s =>
    match i with
    | .ret c => s.engRet e c
    | _ => s)

/-- RTI restores PC and SR; LK stays what the sequence makes it (R214, R250). -/
def State.engRti (s : State) (e : Nat) : State :=
  let x := s.eng e
  match x.calls with
  | [] => s.engEnd e 5
  | (t, sr) :: rest => s.engBranch e ({ x with calls := rest }.setSr (maskSet sr fLK x.locked)) x.late true t

def execRti (e stalls : Nat) (ecc : List Ecc) (s : State) : Host.Outcome State Fault Refusal :=
  .next (s.engRun e stalls ecc (· == .rti) fun _ s => s.engRti e)

/-- RPTN: the next instruction COUNT times; skipped at the cost of a cycle when COUNT is 0. -/
def State.engRptn (s : State) (e : Nat) (c : ImmReg) : State :=
  let x := s.eng e
  let (n, y) := x.immReg 16 c
  if n = 0 then s.engDone e { y with pc := (x.pc + 2) % 2 ^ 14 } x.late 2
  else s.engDone e { y with pc := (x.pc + 1) % 2 ^ 14, rpt := some n } x.late 1

def execRptn (e stalls : Nat) (ecc : List Ecc) (s : State) : Host.Outcome State Fault Refusal :=
  .next (s.engRun e stalls ecc (fun i => match i with | .rptn _ => true | _ => false) fun i s =>
    match i with
    | .rptn c => s.engRptn e c
    | _ => s)

/-- LOOP: the body from the next word to END, COUNT times; COUNT 0 goes on at END + 1 after three
cycles. -/
def State.engLoop (s : State) (e stop : Nat) (c : ImmReg) : State :=
  let x := s.eng e
  let (n, y) := x.immReg 16 c
  if n = 0 then s.engDone e { y with pc := (stop + 1) % 2 ^ 14 } x.late 3
  else if 4 ≤ x.loops.length then s.engEnd e 5
  else
    let pc := (x.pc + 1) % 2 ^ 14
    s.engDone e { y with pc := pc, loops := (pc, stop, n) :: x.loops } x.late 1

def execLoop (e stalls : Nat) (ecc : List Ecc) (s : State) : Host.Outcome State Fault Refusal :=
  .next (s.engRun e stalls ecc (fun i => match i with | .loop _ _ => true | _ => false) fun i s =>
    match i with
    | .loop t c => s.engLoop e t c
    | _ => s)

def State.engLpop (s : State) (e : Nat) : State :=
  let x := s.eng e
  match x.loops with
  | [] => s.engEnd e 5
  | _ :: rest => s.engNext e { x with loops := rest } x.late 1

def execLpop (e stalls : Nat) (ecc : List Ecc) (s : State) : Host.Outcome State Fault Refusal :=
  .next (s.engRun e stalls ecc (· == .lpop) fun _ s => s.engLpop e)

end Sys2Proof.Machine
end

