-- ==== Sys2Proof/Machine/ShuSys.lean ====
section
/-! DEFINITION. The S-format instructions of the shuttle engines (R225–R227, R252, R253), the
answers to their spool operations, and the events and commands of an engine: interrupts, timer,
watchdog, start and kill (R229–R236). -/

namespace Sys2Proof.Machine

/-! ### STOP, KICK, SIGNAL, WAITI -/

def execStop (e stalls : Nat) (ecc : List Ecc) (s : State) : Host.Outcome State Fault Refusal :=
  .next (s.engRun e stalls ecc (· == .halt) fun _ s => (s.modEng e (·.tick 1)).engEnd e 1)

def execKick (e stalls : Nat) (ecc : List Ecc) (s : State) : Host.Outcome State Fault Refusal :=
  .next (s.engRun e stalls ecc (· == .kick) fun _ s =>
    s.engNext e (s.eng e).kicked (s.eng e).late 1)

def execSignal (e stalls : Nat) (ecc : List Ecc) (s : State) : Host.Outcome State Fault Refusal :=
  .next (s.engRun e stalls ecc (fun i => match i with | .signal _ => true | _ => false) fun i s =>
    match i with
    | .signal j => (s.engPend (e / 16 * 16 + j) 4).engNext e (s.eng e) (s.eng e).late 1
    | _ => s)

def execWaiti (e stalls : Nat) (ecc : List Ecc) (s : State) : Host.Outcome State Fault Refusal :=
  .next (s.engRun e stalls ecc (· == .waiti) fun _ s => (s.engStall e .irq).haltTake e)

/-! ### The cluster lock (R225–R227) -/

/-- The engine acquires the lock; LOCK completes. -/
def State.lockTake (s : State) (e n : Nat) : State :=
  let c := e / 16
  let s := s.setClu c { s.clu c with owner := some (e % 16) }
  let s := (List.range 16).foldl (fun s i => if i = e % 16 then s
    else s.modEng (16 * c + i) fun x => { x with contend := true }) s
  let s := s.wr (pgShu c) SHU_CL_LOCK.OWNER (e % 16)
  let x := s.eng e
  let y := { (x.setSr (maskSet x.sr fLK true)) with lockPc := x.pc, lockBuf := [] }
  ((s.engNext e y x.late n).modEng e fun x => { x with lockCnt := 0 }).cluSync c

/-- The waiting engine that comes first after the last holder, round-robin. -/
def State.lockNext (s : State) (c : Nat) : Option Nat :=
  let last := s.rd (pgShu c) SHU_CL_LOCK.OWNER
  (List.range 16).map (fun k => (last + 1 + k) % 16) |>.find? fun i =>
    (s.eng (16 * c + i)).wait == some .lock && s.engState (16 * c + i) == 1

/-- LOCK: acquired at once when the lock is free and nobody waits for it; otherwise the engine waits. -/
def State.engLock (s : State) (e : Nat) : State :=
  if (s.clu (e / 16)).owner.isNone && (s.lockNext (e / 16)).isNone then s.lockTake e 1
  else (s.bump (pgShu (e / 16)) SHU_CL_LOCK.WAITS 1).engStall e .lock

def execLock (e stalls : Nat) (ecc : List Ecc) (s : State) : Host.Outcome State Fault Refusal :=
  .next (s.engRun e stalls ecc (· == .lock) fun _ s => s.engLock e)

/-- LOCK_GRANT: the lock is free and the engine's turn comes. -/
def State.lockGrant (s : State) (e stalls : Nat) : State :=
  let c := e / 16
  if engOk e && s.running (pgShu c) && s.engState e == 1 && (s.clu c).owner.isNone
      && s.lockNext c == some (e % 16) then
    s.lockTake e (stalls + 1)
  else s

def execLockGrant (e stalls : Nat) (s : State) : Host.Outcome State Fault Refusal :=
  .next (s.lockGrant e stalls)

/-- The buffered pushes of an UNLOCK are issued in order, at most four of the engine's outstanding. -/
def State.unlockSend (s : State) (e : Nat) : Nat → State
  | 0 => s
  | n + 1 =>
    match (s.eng e).lockBuf with
    | .push h f l cell :: rest =>
      let k := s.clu (e / 16)
      if 4 ≤ s.spOut e || k.sps.any (fun r => r.eng == e % 16 && !r.out) then s
      else match s.spIssue (cluInit (e / 16)) (spPush h 0 cell f l) with
        | (.go, s) =>
          let s := s.setClu (e / 16)
            { k with sps := k.sps.filter (·.out) ++ ⟨e % 16, h, .push f l cell, false, true⟩ :: k.sps.filter (!·.out) }
          (s.modEng e fun x => { x with lockBuf := rest }).unlockSend e n
        | (_, s) => s
    | _ => s

/-- UNLOCK completes once its last push is sent, and the lock is free. -/
def State.unlockEnd (s : State) (e n : Nat) : State :=
  let c := e / 16
  let s := s.unlockSend e 16
  let x := s.eng e
  if x.lockBuf.isEmpty then
    let s := s.lockFree c
    let y := { (x.setSr (maskSet x.sr fLK false)) with lockCnt := 0 }
    ((s.engNext e y x.late n).spStep c).cluSync c
  else s.engStall e .unlock

/-- UNLOCK: the buffered stores in program order as one group, then the buffered pushes (R226). -/
def State.engUnlock (s : State) (e : Nat) : State :=
  let x := s.eng e
  let s := x.lockBuf.foldl (fun s b => match b with
    | .store a m v => s.cluStore (e / 16) a m v
    | .push _ _ _ _ => s) s
  let s := s.modEng e fun x => { x with lockBuf := x.lockBuf.filter fun b => match b with
    | .store _ _ _ => false
    | .push _ _ _ _ => true }
  s.unlockEnd e 1

def execUnlock (e stalls : Nat) (ecc : List Ecc) (s : State) : Host.Outcome State Fault Refusal :=
  .next (s.engRun e stalls ecc (· == .unlock) fun _ s => s.engUnlock e)

/-! ### Spool operations (R253) -/

/-- SPUSH first reads its cell, like a cluster load. -/
def execSpush (e stalls : Nat) (ecc : List Ecc) (s : State) : Host.Outcome State Fault Refusal :=
  .next (s.engRun e stalls ecc (fun i => match i with | .spush _ _ _ _ _ => true | _ => false)
    fun i s => s.engStall e (.mem i))

/-- SPOP issues its pop and stalls for the answer. -/
def State.engSpop (s : State) (e : Nat) (i : ShuInstr) (h : ImmReg) : State :=
  let (hv, x) := (s.eng e).immReg 13 h
  (((s.setEng e x).engStall e (.pop i)).spSend e hv .pop).spStep (e / 16)

def execSpop (e stalls : Nat) (ecc : List Ecc) (s : State) : Host.Outcome State Fault Refusal :=
  .next (s.engRun e stalls ecc (fun i => match i with | .spop _ _ _ _ => true | _ => false) fun i s =>
    match i with
    | .spop _ _ _ h => s.engSpop e i h
    | _ => s)

/-- SPFLUSH is posted: it is performed once the cluster's earlier operations on that manager are. -/
def State.engSpflush (s : State) (e : Nat) (h : ImmReg) : State :=
  let (hv, y) := (s.eng e).immReg 13 h
  ((s.spSend e hv .flush).engNext e y (s.eng e).late 1).spStep (e / 16)

def execSpflush (e stalls : Nat) (ecc : List Ecc) (s : State) : Host.Outcome State Fault Refusal :=
  .next (s.engRun e stalls ecc (fun i => match i with | .spflush _ => true | _ => false) fun i s =>
    match i with
    | .spflush h => s.engSpflush e h
    | _ => s)

/-- The status of a spool response in the coding of SPL_OP_RES; a bus error that has no code there
is a free value. -/
def State.spStatus (s : State) (r : SpRes) : Nat × State :=
  if r.status = .ok ∨ r.status = .dieDown then (r.st, s) else s.draw 3

/-- A push that waited for an outstanding one is sent, and SPUSH completes; an UNLOCK goes on with its
pushes. `stalls` counts the cycles that either has stalled. -/
def State.spushResume (s : State) (e stalls : Nat) : State :=
  if s.engState e ≠ 1 ∨ s.running (pgEng e) = false ∨ (s.eng e).haltCut (stalls + 1) = true then s
  else match (s.eng e).wait with
    | some (.post (.spush p c f l h) cell) =>
      s.spushDone e (.spush p c f l h) p c f l h cell (stalls + 1)
    | some .unlock => s.unlockEnd e (stalls + 1)
    | _ => s

/-- SPUSH_RESPONSE: the oldest push of the engine that has been issued reaches its queue and is answered;
peripheral 16 records the answer, and any answer but OK sets LOSS. With none out, the buffered pushes of an
UNLOCK that waited for a tag, a table switch or an earlier operation of the engine go on. -/
def State.spushResponse (s : State) (e stalls : Nat) : State :=
  let c := e / 16
  if !engOk e then s
  else
    let s := s.spStep c
    match spFind (fun r => r.eng == e % 16 && r.op.isPush && r.out) [] (s.clu c).sps with
    | some (pre, r, rest) =>
      match r.op with
      | .push f l cell =>
        if spTurn pre r && (r.sink || s.running (pgShu c)) && !s.spCircles (cluInit c) r.h then
          let s := s.setClu c { s.clu c with sps := pre ++ rest }
          let (res, s) := s.spoolPush r.h (cluInit c) 0 cell f l
          let (st, s) := (s.spBack (cluInit c) r.net res).spStatus res
          let s := if r.sink then s
            else s.modEng e fun x => { x with lastPush := st, loss := x.loss || st != spOk || res.status != .ok }
          (s.spStep c).spushResume e stalls
        else s
      | _ => s
    | none => s.spushResume e stalls

def execSpushResponse (e stalls : Nat) (s : State) : Host.Outcome State Fault Refusal :=
  .next (s.spushResponse e stalls)

/-- SPOP completes: the cell, if one came, is written, the status word goes to its register, and SR.Z says that
no cell came. -/
def State.spopEnd (s : State) (e stalls p c d w : Nat) (cell : Option Nat) : State :=
  if (s.eng e).haltCut (stalls + 1) then s
  else
    let s := match cell with
      | some v => s.putCell e ((s.eng e).cellAddrs p) v
      | none => s
    let x := s.eng e
    let y := (x.post p c).setSr (maskSet x.sr fZ cell.isNone)
    s.engNext e (y.write d w) x.late (stalls + 1)

/-- The answer to an SPOP reaches its engine. While another engine holds the lock, the write of its cell waits
(R225). -/
def State.spopDone (s : State) (e stalls : Nat) (res : SpRes) (st : Nat) : State :=
  match (s.eng e).wait with
  | some (.pop (.spop p c d h)) =>
    let got := decide (res.status = .ok) && (st == spOk || st == spCellErr)
    let w := st + res.spf * 2 ^ 4
    if !got then s.spopEnd e stalls p c d w none
    else if s.cluOpen e then s.spopEnd e stalls p c d w (some res.cell)
    else s.modEng e fun x => { x with wait := some (.cell (.spop p c d h) w res.cell), contend := true }
  | _ => s

/-- A popped cell that waited for another engine's lock is written. -/
def State.spopResume (s : State) (e stalls : Nat) : State :=
  match (s.eng e).wait with
  | some (.cell (.spop p c d _) w v) =>
    if s.engState e == 1 && s.running (pgEng e) && s.cluOpen e then s.spopEnd e stalls p c d w (some v) else s
  | _ => s

/-- SPOP_RESPONSE: the engine's pop reaches its queue and is answered, or the cell that it brought finds the
lock free. The answer to an engine whose run has ended is sunk. -/
def State.spopResponse (s : State) (e stalls : Nat) (ecc : Ecc) : State :=
  let c := e / 16
  if !engOk e then s
  else
    let s := s.spStep c
    match spFind (fun r => r.eng == e % 16 && r.op == .pop && r.out) [] (s.clu c).sps with
    | some (pre, r, rest) =>
      if spTurn pre r && (r.sink || s.running (pgShu c)) && !s.spCircles (cluInit c) r.h then
        let s := s.setClu c { s.clu c with sps := pre ++ rest }
        let (res, s) := s.spoolPop r.h (cluInit c) ecc
        let (st, s) := (s.spBack (cluInit c) r.net res).spStatus res
        let s := s.spStep c
        if r.sink then s else s.spopDone e stalls res st
      else s
    | none => s.spopResume e stalls

def execSpopResponse (e stalls : Nat) (ecc : Ecc) (s : State) : Host.Outcome State Fault Refusal :=
  .next (s.spopResponse e stalls ecc)

/-! ### Interrupts, timer and watchdog (R229–R233) -/

/-- INTERRUPT_TAKE: the lowest eligible interrupt is taken at a boundary. A WAITI that it ends completes
first, like any instruction: held results are written, and at the END of a loop body the test is made
(R254, R257). `stalls` counts the cycles that WAITI stalled. -/
def State.irqTake (s : State) (e stalls : Nat) : State :=
  let x := s.eng e
  match s.engIrq e with
  | none => s
  | some k =>
    if engOk e && s.engState e == 1 && s.running (pgEng e) && !x.timerDue && !s.wdogDue e
        && (!x.stepping || s.on pgDbg DBG_SHU_CMD.STEP_INT) then
      let w := x.wait == some .irq
      let x := if w then x.advancePc.settleLate x.late else x
      let y := { (x.setSr (putBits x.sr 11 8 k)) with calls := (x.pc, x.sr) :: x.calls, pc := 8 * k, wait := none }
      let s := s.setEng e (y.tick (if w then stalls + 4 else 3))
      let s := if k = 3 then s
        else s.eWr e SHU_En_INT_PEND.PEND (maskSet (s.eRd e SHU_En_INT_PEND.PEND) k false)
      s.haltTake e
    else s

def execInterruptTake (e stalls : Nat) (s : State) : Host.Outcome State Fault Refusal :=
  .next (s.irqTake e stalls)

/-- TIMER_EXPIRE: the count reaches 0, TIMER pends and the count reloads (R232). -/
def State.timerExpire (s : State) (e : Nat) : State :=
  let x := s.eng e
  match x.tmr with
  | some t =>
    if engOk e && s.engState e == 1 && s.running (pgEng e) && (x.timerDue || x.wait.isSome) then
      let r := s.eRd e SHU_En_TIMER_RELOAD.VALUE
      (s.setEng e { x with cyc := max x.cyc t, tmr := if r = 0 then none else some (t + r) }).engPend e 1
    else s
  | none => s

def execTimerExpire (e : Nat) (s : State) : Host.Outcome State Fault Refusal :=
  .next (s.timerExpire e)

/-- WDOG_EXPIRE: the watchdog ends the run (R233). -/
def State.wdogExpire (s : State) (e : Nat) : State :=
  let x := s.eng e
  let p := s.eRd e SHU_En_WDOG.PERIOD
  if engOk e && s.engState e == 1 && s.running (pgEng e) && p != 0
      && (s.wdogDue e || x.wait.isSome) then
    (s.setEng e { x with cyc := x.cyc + (p * 1024 - s.wdogCount e) }).engEnd e 3
  else s

def execWdogExpire (e : Nat) (s : State) : Host.Outcome State Fault Refusal :=
  .next (s.wdogExpire e)

/-! ### Commands of the SHU page (R229, R233–R236) -/

/-- A start of an idle or stopped engine (R234). -/
def State.engStart (s : State) (e : Nat) : State :=
  if s.engState e % 2 = 1 then (s.eWr e SHU_En_STAT.START_REFUSED 1).ev (pgEng e) 14
  else
    let r := s.eRd e SHU_En_TIMER_RELOAD.VALUE
    let s := s.modEng e fun x =>
      { ((x.set cSR 0x800).set cMR 0) with
        pc := s.eRd e SHU_En_ENTRY.PC, calls := [], loops := [], late := [], br := none, rpt := none,
        wait := none, cyc := 0, tmr := if r = 0 then none else some r, wd := 0, wdAt := 0, lockCnt := 0,
        lockBuf := [], haltAt := none, stepping := false, dslot := {}, pslot := {}, contend := false, crowd := false,
        got := [] }
    let s := (s.eWr e SHU_En_STAT.STATE 1).eWr e SHU_En_STAT.CAUSE 0
    (s.eWr e SHU_En_STAT.LOCK_BROKEN 0).cluSync (e / 16)

def execEngineStart (e : Nat) (s : State) : Host.Outcome State Fault Refusal :=
  .next (if engOk e then s.guarded (pgEng e) 0x400 (·.engStart e) else s.answer .decode)

/-- A channel issues nothing further, and its outstanding responses are sunk. -/
def EngX.fetStop (x : EngX) : EngX :=
  { x with fet := none, fetOut := x.fetOut.map fun r => { r with sink := true } }

/-- An active transfer is aborted: it issues nothing further (R236). -/
def State.fetAbort (s : State) (e : Nat) : State :=
  if (s.eng e).fet.isNone then s
  else
    let s := s.modEng e (·.fetStop)
    let s := (s.eWr e SHU_Fi_STAT.STATUS 2).eWr e SHU_Fi_STAT.ERR 7
    ((s.engPend e 2).evAborted (pgEng e)).cluSync (e / 16)

/-- A KILL aborts an engine's run and its channel's transfer (R236). -/
def State.engKill (s : State) (e : Nat) : State :=
  let s := if s.engState e % 2 = 1 then s.engEnd e 2 else s
  s.fetAbort e

def execEngineKill (e : Nat) (s : State) : Host.Outcome State Fault Refusal :=
  .next (if engOk e then s.guarded (pgEng e) 0x400 (·.engKill e) else s.answer .decode)

/-- PAGE_CTL.ABORT aborts every run and transfer of the cluster (R236). -/
def State.cluAbort (s : State) (c : Nat) : State :=
  (List.range 16).foldl (fun s i => s.engKill (16 * c + i)) s

def execWdogKick (e : Nat) (s : State) : Host.Outcome State Fault Refusal :=
  .next (if engOk e then s.guarded (pgEng e) 0x400 fun s => s.modEng e (·.kicked)
    else s.answer .decode)

def execDoorbellRing (e : Nat) (s : State) : Host.Outcome State Fault Refusal :=
  .next (if engOk e then s.guarded (pgEng e) 0x418 (·.engPend e 0) else s.answer .decode)

def execIntPendClear (e v : Nat) (s : State) : Host.Outcome State Fault Refusal :=
  .next (if engOk e then s.guarded (pgEng e) 0x414 (·.pendClear e v) else s.answer .decode)

/-- FETCH_GO: SHU_Fi_CTL.GO with a direction. -/
def execFetchGo (e dir : Nat) (s : State) : Host.Outcome State Fault Refusal :=
  .next (if engOk e then s.guarded (pgEng e) 0x814 (·.fetchGo e dir) else s.answer .decode)

end Sys2Proof.Machine
end

