-- ==== Sys2Proof/Machine/Debug.lean ====
section
/-! DEFINITION. The debug commands of the DBG page: halting shuttle engines (R466–R469) and
sequencers (R470). -/

namespace Sys2Proof.Machine

/-- A write to the block area of the DBG page: DENIED unless it comes from the debug master while a
debugger is attached (R466). -/
def State.dbgGuarded (s : State) (init : Nat) (f : State → State) : State :=
  if !s.tu.porDone then s
  else match s.pageCheck pgDbg 0x40 with
  | some e => s.answer e
  | none => if init = 1 ∧ s.dp.attached then (f s).answer .ok else s.answer .denied

/-- The engine that DBG_SHU_SEL names. -/
def State.dbgEng (s : State) : Nat := s.rd pgDbg DBG_SHU_SEL.ENGINE

/-! ### Engines -/

/-- HALT of a running engine is accepted, and taken at once where the engine stands at a boundary;
of any other engine it is ignored (R467). -/
def State.shuHalt (s : State) (e : Nat) : State :=
  if s.engState e = 1 then
    (s.modEng e fun x => { x with haltAt := some (x.haltAt.getD x.cyc) }).haltTake e
  else s.ev pgDbg 8

/-- A halted engine runs on from its PC; its watchdog reloads (R469). -/
def State.shuResume (s : State) (e : Nat) : State :=
  if s.engState e = 3 then
    let s := s.modEng e fun x => { x with haltAt := none, stepping := false, wd := 0, wdAt := x.cyc }
    (s.eWr e SHU_En_STAT.STATE 1).cluSync (e / 16)
  else s

/-- A halted engine runs one step; its watchdog reloads (R469). The 64 cycles of R468 count from
here. -/
def State.shuStep (s : State) (e : Nat) : State :=
  if s.engState e = 3 then
    let s := s.modEng e fun x => { x with haltAt := some x.cyc, stepping := true, wd := 0, wdAt := x.cyc }
    (s.eWr e SHU_En_STAT.STATE 1).cluSync (e / 16)
  else s

/-- The pops of an engine that are out are sunk, and their cells lost; one not issued yet is abandoned with its
instruction (R468). -/
def CluX.sinkPops (k : CluX) (i : Nat) : CluX :=
  { k with sps := (k.sps.filter fun r => !(r.eng == i && r.op == .pop && !r.out)).map fun r =>
      if r.eng = i ∧ r.op = .pop then { r with sink := true } else r }

/-- SHU_HALT_FORCE: a halt that has waited 64 engine cycles inside a locked sequence is forced: the
instruction in progress is abandoned, the lock broken, and PC returns to the LOCK (R468). -/
def State.haltForce (s : State) (e : Nat) : State :=
  let x := s.eng e
  match x.haltAt with
  | none => s
  | some t =>
    if engOk e && s.engState e == 1 && s.running (pgEng e) && x.locked
        && (x.wait.isSome || decide (t + 64 ≤ x.cyc)) then
      let s := s.breakLock e
      let s := s.setClu (e / 16) ((s.clu (e / 16)).sinkPops (e % 16))
      let s := s.modEng e fun y => { y with
        pc := y.lockPc, br := none, rpt := none, wait := none, cyc := max y.cyc (t + 64), haltAt := none, stepping := false }
      let s := s.spStep (e / 16)
      let s := (s.eWr e SHU_En_STAT.STATE 3).cluSync (e / 16)
      (s.wr pgDbg DBG_SHU_STAT.FORCED 1).ev pgDbg 10
    else s

def execShuHaltForce (e : Nat) (s : State) : Host.Outcome State Fault Refusal := .next (s.haltForce e)

/-- A write of DBG_SHU_CMD: STEP_INT takes its value, and OP acts on the selected engine. -/
def State.dbgShuCmd (s : State) (op : Nat) (stepInt : Bool) : State :=
  let s := s.wr pgDbg DBG_SHU_CMD.STEP_INT (bit stepInt)
  let e := s.dbgEng
  if op = 1 then s.shuHalt e else if op = 2 then s.shuStep e
  else if op = 3 then s.shuResume e else s

def execShuHalt (init : Nat) (stepInt : Bool) (s : State) : Host.Outcome State Fault Refusal :=
  .next (s.dbgGuarded init (·.dbgShuCmd 1 stepInt))

def execShuStep (init : Nat) (stepInt : Bool) (s : State) : Host.Outcome State Fault Refusal :=
  .next (s.dbgGuarded init (·.dbgShuCmd 2 stepInt))

def execShuResume (init : Nat) (stepInt : Bool) (s : State) : Host.Outcome State Fault Refusal :=
  .next (s.dbgGuarded init (·.dbgShuCmd 3 stepInt))

/-- A write of DBG_SHU_RVAL: a register of the halted engine takes the word as R241 converts it; a
stack entry keeps its value, and an engine that is not halted sets NOT_HALTED (R469). DESIGN CHOICE: the write of LO
carries the 24 bits that R241 converts, and a write of HI changes no register. -/
def State.rvalWrite (s : State) (hi : Bool) (v : Nat) : State :=
  let e := s.dbgEng
  if s.engState e ≠ 3 then s.ev pgDbg 9
  else
    let c := s.rd pgDbg DBG_SHU_RSEL.REG
    if hi || s.rd pgDbg DBG_SHU_RSEL.SPACE != 0 || !regOk c then s
    else s.modEng e fun x => x.put c (v % 2 ^ 24)

def execShuRvalWrite (init : Nat) (hi : Bool) (v : Nat) (s : State) : Host.Outcome State Fault Refusal :=
  .next (s.dbgGuarded init (·.rvalWrite hi v))

/-! ### Sequencers -/

/-- A write of DBG_SEQ_CMD: OP acts on the selected sequencer and its gang. -/
def State.dbgSeqCmd (s : State) (op : Nat) : State :=
  let b := s.rd pgDbg DBG_SEQ_SEL.SEQ
  if op = 1 then s.seqHalt b else if op = 2 then s.seqStep b else if op = 3 then s.seqResume b else s

def execSeqHalt (init : Nat) (s : State) : Host.Outcome State Fault Refusal :=
  .next (s.dbgGuarded init (·.dbgSeqCmd 1))

def execSeqStep (init : Nat) (s : State) : Host.Outcome State Fault Refusal :=
  .next (s.dbgGuarded init (·.dbgSeqCmd 2))

def execSeqResume (init : Nat) (s : State) : Host.Outcome State Fault Refusal :=
  .next (s.dbgGuarded init (·.dbgSeqCmd 3))

def execSeqResumeStart (l : Nat) (s : State) : Host.Outcome State Fault Refusal :=
  .next (s.seqResumeStart l)

/-! ### Attach and detach (R466) -/

/-- A halted sequencer starts as RESUME would start it; others are not touched. -/
def State.seqResumeAll (s : State) : State :=
  (List.range 16).foldl (fun s b => if s.leader b = b then s.seqResume b else s) s

/-- The debugger attaches: the attestation flag sets until package reset. -/
def State.dbgAttach (s : State) : State :=
  { s with dp := { s.dp with attached := true }, hub := { s.hub with seenDbg := true } }

/-- The debugger detaches: every halted engine and sequencer resumes. -/
def State.dbgDetach (s : State) : State :=
  if !s.dp.attached then s
  else
    let s : State := { s with dp := { s.dp with attached := false } }
    ((List.range 256).foldl State.shuResume s).seqResumeAll

/-- An engine or a sequencer is halted (R465). -/
def State.anyHalted (s : State) : Bool :=
  (List.range 256).any (fun e => s.engState e == 3) || s.seqs.any fun e => e.2.halted

end Sys2Proof.Machine
end

