-- ==== Sys2Proof/Machine/DrcStates.lean ====
section
/-! DEFINITION. The states of a DRAM channel (R262–R266), its chip marks (R278), and what an
application of its pending set does. -/

namespace Sys2Proof.Machine

/-- The contents of a channel's chips are lost; what they hold afterwards is open (R499). -/
def State.drcContentsLost (s : State) (k : Nat) : State :=
  let x := s.drc k
  s.setDrc k { x with epoch := x.epoch + 1, lines := [] }

/-- PAGE_LEVEL.BLOCK bit 9 (ERASED): a chip is marked. -/
def State.erasedSync (s : State) (k : Nat) : State :=
  let pg := pgDrc k
  s.wr pg PAGE_LEVEL.BLOCK (maskSet (s.rd pg PAGE_LEVEL.BLOCK) 1
    ((List.range 32).any fun x => s.on pg (DRC_ERASEx.VALID.nth x)))

/-- The marks of a channel are lost (R278). -/
def State.unmarkAll (s : State) (k : Nat) : State :=
  let s := ((List.range 32).foldl (fun s x =>
    (s.wr (pgDrc k) (DRC_ERASEx.VALID.nth x) 0).wr (pgDrc k) (DRC_ERASEx.CHIP.nth x) 0) s).crcSee s (pgDrc k)
  (s.setDrc k { s.drc k with marks := [], corr := [] }).erasedSync k

/-- The outcome of training is cleared. -/
def State.trainClear (s : State) (k : Nat) : State :=
  (s.wr (pgDrc k) DRC_STAT.TRAIN_OK 0).wr (pgDrc k) DRC_STAT.TRAIN_FAIL 0

/-- A channel enters a state, at the end of a refresh interval or as its clocks are withdrawn: its rows are
closed (R265, R271). -/
def State.drcEnter (s : State) (k st : Nat) : State :=
  let s := s.wr (pgDrc k) DRC_STAT.STATE st
  let x := s.drc k
  let s := s.setDrc k { x with
    training := st == 2, rows := [] }
  if st = 1 then ((s.trainClear k).unmarkAll k).drcContentsLost k
  else if st = 2 then s.trainClear k
  else s

/-- The transitions of R265. -/
def State.drcAllowed (s : State) (k st tgt : Nat) : Bool :=
  let pg := pgDrc k
  tgt == 1
    || (st == 1 && tgt == 2 && !s.on pg DRC_STAT.REFUSED && s.on pg DRC_STAT.DIMMS)
    || (st == 2 && tgt == 3 && s.on pg DRC_STAT.TRAIN_OK)
    || (st == 3 && decide (4 ≤ tgt ∧ tgt ≤ 6))
    || (decide (4 ≤ st ∧ st ≤ 6) && tgt == 3)

/-- A pending set of the channel's page has applied; `s0` is the state before. A second mark of a
rank and a target that R265 does not allow keep their registers as they were (R498). -/
def State.drcApplied (s : State) (s0 : State) (k : Nat) : State :=
  let pg := pgDrc k
  let set (off : Nat) : Bool := (s0.shadow.find (regKey pg off)).isSome
  let bad := (List.range 32).filter fun x =>
    s0.on pg (DRC_ERASEx.VALID.nth x) && s.on pg (DRC_ERASEx.VALID.nth x)
      && s0.rd pg (DRC_ERASEx.CHIP.nth x) != s.rd pg (DRC_ERASEx.CHIP.nth x)
  let s := bad.foldl (fun s x => s.setReg pg (0x80 + 4 * x) (s0.reg pg (0x80 + 4 * x))) s
  let s := if bad.isEmpty then s else s.ev pg 11
  let s := s.erasedSync k
  let s := if s.on pg DRC_ECC_CFG.AUTO_MARK == s0.on pg DRC_ECC_CFG.AUTO_MARK
      && s.rd pg DRC_ECC_CFG.MARK_AT == s0.rd pg DRC_ECC_CFG.MARK_AT then s else s.markAll k
  let st := s.rd pg DRC_STAT.STATE
  let tgt := s.rd pg DRC_CTL.TARGET
  if !set 0x40 || tgt == st then s
  else if s.drcAllowed k st tgt then s.drcEnter k tgt
  else (s.wrCov pg DRC_CTL.TARGET (s0.rd pg DRC_CTL.TARGET)).ev pg 15

/-- The marks that the controller has decided on apply at the native boundary (R278). -/
def State.drcMarks (s : State) (k : Nat) : State :=
  let pg := pgDrc k
  let s0 := s
  let ms := (s.drc k).marks
  let s := s.setDrc k { s.drc k with marks := [] }
  let s := ms.foldl (fun s (m : Nat × Nat) =>
    if s.on pg (DRC_ERASEx.VALID.nth m.1) then
      if s.rd pg (DRC_ERASEx.CHIP.nth m.1) = m.2 then s else s.ev pg 11
    else
      ((s.wrCov pg (DRC_ERASEx.CHIP.nth m.1) m.2).wrCov pg (DRC_ERASEx.VALID.nth m.1) 1).ev pg 10) s
  (s.crcSee s0 pg).erasedSync k

/-- The clocks are withdrawn (R266). -/
def State.drcWithdraw (s : State) (k : Nat) : State :=
  let st := s.rd (pgDrc k) DRC_STAT.STATE
  if 3 ≤ st ∧ st ≤ 5 then
    (s.drcEnter k 6).setDrc k { (s.drcEnter k 6).drc k with heldState := some st }
  else if st = 2 then
    let s := (s.trainClear k).drcContentsLost k
    s.setDrc k { s.drc k with training := false }
  else s

/-- The channel returns after an accepted UNGATE (R266). -/
def State.drcReturn (s : State) (k : Nat) : State :=
  let x := s.drc k
  match x.heldState with
  | some st => (s.setDrc k { x with heldState := none }).wr (pgDrc k) DRC_STAT.STATE st
  | none =>
    if s.rd (pgDrc k) DRC_STAT.STATE = 2 then
      (s.trainClear k).setDrc k { x with training := true } else s

/-- A refresh interval ends at the coming multiple of its length, the refresh closes the open rows (R271), and
the ranks' MR4 reads say whether
doubled refresh is needed from now on (R265, R266). -/
def State.refreshTick (s : State) (k : Nat) (hot : Bool) : State :=
  let pg := pgDrc k
  let len := if s.on pg DRC_STAT.HOT then 24960 else 49920
  let s := { s with now := boundaryAt len s.now (s.drc k).intervalAt }
  let s := s.wr pg DRC_STAT.HOT (bit hot)
  s.setDrc k { s.drc k with intervals := (s.drc k).intervals + 1, intervalAt := s.now, rows := [] }

end Sys2Proof.Machine
end

