-- ==== Sys2Proof/Machine/LinCmd.lean ====
section
/-! DEFINITION. Enabling, re-keying and disabling lined regions, the sweeper and the fence
(R295–R299). -/

namespace Sys2Proof.Machine

/-- LIN_CMD_STAT reports a result. -/
def State.linReport (s : State) (r st : Nat) : State :=
  (s.wr pgLin LIN_CMD_STAT.STATUS st).wr pgLin LIN_CMD_STAT.REGION r

/-- The device's sources of a fence: every controller, catch unit and spool manager that is not on
a lost panel or in a domain that is off, or browned out, which counts as off (R299, R441). -/
def State.fenceLive (s : State) (pg d : Nat) : Bool := !(s.die d).lost && decide (s.pageDomain pg < 2)

/-- LIN_Rr_STAT.FENCE follows the acknowledgements outstanding. -/
def State.fenceSync (s : State) (r : Nat) : State :=
  let x := s.lin r
  s.wr pgLin (LIN_Rr_STAT.FENCE.nth r)
    (bit (!x.ctlOut.isEmpty) + 2 * bit (!x.catOut.isEmpty) + 4 * bit (!x.splOut.isEmpty))

/-- Every fence acknowledgement is in: the retiring slots are zeroised and freed, and the region
becomes ACTIVE after a roll, OFF after DISABLE (R299). -/
def State.fenceDone (s : State) (r : Nat) : State :=
  let x := s.lin r
  if x.ctlOut.isEmpty && x.catOut.isEmpty && x.splOut.isEmpty then
    let st (f : Fld) := f.nth r
    let old := s.on pgLin (st LIN_Rr_STAT.OLD_VALID)
    let s := if old then s.freeSlot (s.rd pgLin (st LIN_Rr_STAT.KEY_OLD)) else s
    let s := s.wr pgLin (st LIN_Rr_STAT.OLD_VALID) 0
    if s.linState r = 4 then
      ((s.bump pgLin (LIN_Rr_ROLLS.COUNT.nth r) 1).setLinState r 2).ev pgLin 11
    else if s.linState r = 5 then
      (s.freeSlot (s.rd pgLin (st LIN_Rr_STAT.KEY_CUR))).setLinState r 0
    else s
  else s

/-- ENABLE (R295). -/
def State.linEnable (s : State) (r : Nat) : State :=
  let base := s.rd pgLin (LIN_Rr_BASE.VALUE.nth r)
  let size := s.rd pgLin (LIN_Rr_SIZE.VALUE.nth r)
  let clash := (List.range 16).any fun q => q != r && s.linState q != 0 &&
    decide (base < (s.lin q).base + (s.lin q).size ∧ (s.lin q).base < base + size)
  if !s.cap 6 then s.capDeny pgLin
  else if s.linState r ≠ 0 ∨ 4096 < base + size ∨ size = 0 ∨ clash then s.linReport r 1
  else match s.takeSlot 1 with
    | none => s.linReport r 3
    | some (k, s) =>
      let st (f : Fld) := f.nth r
      let s := (s.wr pgLin (st LIN_Rr_STAT.KEY_CUR) k).wr pgLin (st LIN_Rr_STAT.EPOCH) 0
      let s := (s.wr pgLin (st LIN_Rr_STAT.EXHAUSTED) 0).wr pgLin (st LIN_Rr_STAT.PART) 0
      let s := s.wr pgLin (LIN_Rr_ROLLS.COUNT.nth r) 0
      let s := (s.setLin r { s.lin r with group := 0, base := base, size := size }).wr pgLin
        (LIN_Rr_SWEEP.LEFT.nth r) (size * 1835008)
      ((s.setLinState r 1).linReport r 0).wr pgLin PAGE_LEVEL.BUSY 1

/-- REKEY: its final state is its own write (R295, R296). -/
def State.linRekey (s : State) (r : Nat) : State :=
  if s.linState r ≠ 2 then s.linReport r 1
  else match s.rollStart r with
    | none => s.linReport r 3
    | some s => (s.linReport r 0).evDone pgLin

/-- A unit on a panel that has been lost, or in a domain that has gone off, counts as acknowledged. -/
def State.fencesPrune (s : State) : State :=
  (List.range 16).foldl (fun s r =>
    if s.linState r = 4 ∨ s.linState r = 5 then
      let x := s.lin r
      let s := s.setLin r { x with
        ctlOut := x.ctlOut.filter fun k => s.fenceLive (pgDrc k) (k / 2 + 1),
        catOut := x.catOut.filter fun e => s.fenceLive (pgCat e.1) e.1,
        splOut := x.splOut.filter fun p => s.fenceLive (pgSpl p) p }
      (s.fenceDone r).fenceSync r
    else s) s

/-- The lines of a catch unit's cache that lie in a region, with the bits that they hold. -/
def State.linesIn (s : State) (r p : Nat) : List (Nat × Nat) :=
  ((s.cat p).lines.filter fun e => s.regionOf e.1 == some r).map fun e => (e.1, e.2.bits ||| e.2.sent)

/-- A fence is sent to every DRAM controller, catch unit and spool manager (R299). -/
def State.fenceSend (s : State) (r : Nat) : State :=
  let panels := [1, 2, 3, 4]
  let s := s.setLin r { s.lin r with
    ctlOut := (List.range 8).filter fun k => s.fenceLive (pgDrc k) (k / 2 + 1),
    catOut := (panels.filter fun p => s.fenceLive (pgCat p) p).map fun p => (p, s.linesIn r p),
    splOut := panels.filter fun p => s.fenceLive (pgSpl p) p }
  (s.fenceDone r).fenceSync r

/-- DISABLE: the region's slots are retired under a fence (R295, R299). -/
def State.linDisable (s : State) (r : Nat) : State :=
  if s.linState r ≠ 2 then s.linReport r 1
  else
    let s := s.setLinState r 5
    let k := s.rd pgLin (LIN_Rr_STAT.KEY_CUR.nth r)
    let s := s.setSlot k { s.slot k with state := 2 }
    ((s.linReport r 0).fenceSend r).evDone pgLin

/-- An OP written while the page is busy is ignored with CMD_REFUSED (R295). -/
def State.linCmd (s : State) (f : State → State) : State :=
  if s.on pgLin PAGE_LEVEL.BUSY then s.ev pgLin 12 else f s

def execEnable (r : Nat) (s : State) : Host.Outcome State Fault Refusal :=
  .next (s.guarded pgLin 0x40 (·.linCmd (·.linEnable (r % 16))))

def execRekey (r : Nat) (s : State) : Host.Outcome State Fault Refusal :=
  .next (s.guarded pgLin 0x40 (·.linCmd (·.linRekey (r % 16))))

def execDisable (r : Nat) (s : State) : Host.Outcome State Fault Refusal :=
  .next (s.guarded pgLin 0x40 (·.linCmd (·.linDisable (r % 16))))

/-- FENCE_ACK: unit 0–7 is a DRAM controller, 8–11 a catch unit, 12–15 a spool manager. Requests
and spool operations are whole steps, so a controller and a manager have none left; a catch unit
acknowledges once its lines of the region are merged and its clock runs (R299). -/
def State.fenceAck (s : State) (r unit : Nat) : State :=
  let x := s.lin r
  let s :=
    if unit < 8 then s.setLin r { x with ctlOut := x.ctlOut.erase unit }
    else if unit < 12 then
      let p := unit - 7
      let live := s.fenceLive (pgCat p) p
      s.setLin r { x with catOut := x.catOut.filter fun e =>
        !(e.1 == p && (!live || (e.2.isEmpty && s.running (pgCat p)))) }
    else s.setLin r { x with splOut := x.splOut.erase (unit - 11) }
  if s.linState r = 4 ∨ s.linState r = 5 then (s.fenceDone r).fenceSync r else s

def execFenceAck (r unit : Nat) (s : State) : Host.Outcome State Fault Refusal :=
  .next (if r < 16 ∧ unit < 16 then s.fenceAck r unit else s)

/-! ### The sweeper (R295–R297) -/

/-- The address of the metadata line of group `g` of a region, and of its data lines. -/
def State.groupAt (s : State) (r g : Nat) : Nat × List Nat :=
  let gran := ((s.lin r).base + g / 1835008) * 2 ^ 30
  let i := g % 1835008
  (gran + 0x38000000 + i * 64, (List.range 8).map fun j => gran + i * 512 + 64 * j)

/-- The place of a line as the sweeper reaches it: a router on the way may answer in its stead (R316). -/
def State.sweepReach (s : State) (a : Nat) : Option (Nat × Nat) × State :=
  match s.memWay 0x84 a with
  | some r => (none, s.countRoute r)
  | none => (match s.reach a 0x84 with
    | .error _ => none
    | .ok x => some x, s)

/-- A line is read by the sweeper; `none` where it cannot be reached. -/
def State.sweepRead (s : State) (a : Nat) : Option Nat × State :=
  match s.sweepReach a with
  | (none, s) => (none, s)
  | (some (k, ca), s) =>
    let (r, s) := s.lineOp k ca false .read
    (if r.1 = .ok then some r.2 else none, s)

/-- A line is written whole by the sweeper; the result says whether it could be reached. -/
def State.sweepWrite (s : State) (a data : Nat) : Bool × State :=
  match s.sweepReach a with
  | (none, s) => (false, s)
  | (some (k, ca), s) => (true, (s.lineOp k ca false (.write data (2 ^ 64 - 1))).2)

/-- A line that the sweeper could not reach is counted (R297). -/
def State.sweepLost (s : State) (r n : Nat) : State := s.bump pgLin (LIN_Rr_STAT.PART.nth r) n

/-- One group of an INIT sweep: encrypted zeros with CTR 0, and the metadata line (R295); and the requests that
it took. -/
def State.sweepInit (s : State) (r ma : Nat) (das : List Nat) : Nat × State :=
  let (m, s) := das.zipIdx.foldl (fun (acc : Nat × State) e =>
    let (c, en) := acc.2.sealLine r e.1 0 0
    let (ok, s) := acc.2.sweepWrite e.1 c
    (acc.1 + en * 2 ^ (64 * e.2), if ok then s else s.sweepLost r 1)) (0, s)
  (9, (s.sweepWrite ma m).2)

/-- One group of a rolling sweep: each line still at the old epoch is checked, decrypted and
written under the new key with CTR 0; a line that fails its tag stays and is alarmed (R296,
R297). With it the requests that it took: the reads, and a write of each line that changed. -/
def State.sweepRoll (s : State) (r ma : Nat) (das : List Nat) : Nat × State :=
  let (ml, s) := s.sweepRead ma
  match ml with
  | none => (1, s.sweepLost r 8)
  | some m =>
    let cur := s.rd pgLin (LIN_Rr_STAT.EPOCH.nth r)
    let (m', s) := das.zipIdx.foldl (fun (acc : Nat × State) e =>
      let s := acc.2
      let en := entry m e.2
      if entryEpoch en = cur then acc
      else
        let (d, s) := s.sweepRead e.1
        match d with
        | none => (acc.1, s.sweepLost r 1)
        | some c =>
          match s.openLine r e.1 en c with
          | none => (acc.1, s.tagFail r e.1 0x84 0 2)
          | some pl =>
            let (c', en') := s.sealLine r e.1 0 pl
            let (ok, s) := s.sweepWrite e.1 c'
            if ok then (putBits acc.1 (64 * e.2 + 63) (64 * e.2) en', s)
            else (acc.1, s.sweepLost r 1)) (m, s)
    let is := List.range 8
    let old := (is.filter fun i => entryEpoch (entry m i) != cur).length
    let new := (is.filter fun i => entry m i != entry m' i).length
    if m' = m then (1 + old, s) else (2 + old + new, (s.sweepWrite ma m').2)

/-- The requests of a group in their order, by address and operation: each line is written once in INIT; in a roll
the metadata line and each line still at the old epoch are read and written. DESIGN CHOICE: the write of a line that
turns out to fail its tag is admitted with the others, though it is not made. -/
def State.sweepReqs (s : State) (r ma : Nat) (das : List Nat) : List (Nat × Nat) :=
  let cur := s.rd pgLin (LIN_Rr_STAT.EPOCH.nth r)
  if s.linState r = 1 then das.map (·, 1) ++ [(ma, 1)]
  else match (s.sweepRead ma).1 with
    | none => [(ma, 0)]
    | some m =>
      let old := das.zipIdx.filter fun e => entryEpoch (entry m e.2) != cur
      (ma, 0) :: (old.flatMap fun e => [(e.1, 0), (e.1, 1)]) ++ if old.isEmpty then [] else [(ma, 1)]

/-- A request of the sweeper as the network carries it; each costs one credit of its channel (R270, R296). -/
def State.sweepNet (s : State) (a op : Nat) : NetReq :=
  let k := ((s.mapAddr a).map (·.1)).getD 0
  { op := op, die := k / 2 + 1, rtr := drcRouter k, addr := a }
def State.sweepCost (s : State) (a : Nat) : List (Nat × Nat) := ((s.mapAddr a).map fun e => (e.1, 1)).toList

/-- The requests of a group that still wait are admitted one by one (R322); `false` where one is not. -/
def State.sweepAdmit (s : State) (r : Nat) : List (Nat × Nat) → Bool × State
  | [] => (true, s)
  | (a, op) :: rest =>
    match s.send 0x84 (s.sweepCost a) (s.sweepNet a op) with
    | (.go, s) => (s.setLin r { s.lin r with paid := (s.lin r).paid + 1 }).sweepAdmit r rest
    | (_, s) => (false, s)

/-- The activates of a group in their order: a line of a rolling sweep may be read and written. -/
def sweepLines (init : Bool) (ma : Nat) (das : List Nat) : List Nat :=
  if init then das ++ [ma] else ma :: das.flatMap (fun a => [a, a]) ++ [ma]

/-- The last group is swept: INIT is done, or the old key retires under a fence (R295, R297). -/
def State.sweepEnd (s : State) (r : Nat) : State :=
  if s.linState r = 1 then ((s.setLinState r 2).wr pgLin PAGE_LEVEL.BUSY 0).evDone pgLin
  else
    let k := s.rd pgLin (LIN_Rr_STAT.KEY_OLD.nth r)
    ((s.setLinState r 4).setSlot k { s.slot k with state := 2 }).fenceSend r

/-- SWEEP_GROUP: the sweeper, initiator 0x84, processes the next group of a region (R296). -/
def State.sweepGroup (s : State) (r : Nat) : State :=
  let st := s.linState r
  if (st = 1 ∨ st = 3) ∧ s.clocksOn then
    let (ma, das) := s.groupAt r (s.lin r).group
    match s.linesWait 0x84 (sweepLines (st == 1) ma das) with
    | some w => s.bankHolds w 0x84
    | none =>
      let reqs := s.sweepReqs r ma das
      if (ma :: das).any (s.memCircles 0x84) then s
      else match s.sweepAdmit r (reqs.drop (s.lin r).paid) with
      | (true, s) =>
        let (m, s) := if st = 1 then s.sweepInit r ma das else s.sweepRoll r ma das
        let s := reqs.foldl (fun s e => (s.consume 0x84 (s.sweepNet e.1 e.2).is 0 0 0 none).tagFree 0x84 1) s
        let s := (List.range m).foldl (fun s _ => s.countAnswer 0x84 64) s
        let g := (s.lin r).group + 1
        let left := (s.lin r).size * 1835008 - g
        let s := (s.setLin r { s.lin r with group := g, paid := 0 }).wr pgLin (LIN_Rr_SWEEP.LEFT.nth r) left
        if left = 0 then s.sweepEnd r else s
      | (false, s) => s
  else s

def execSweepGroup (r : Nat) (e : Noise) (s : State) : Host.Outcome State Fault Refusal :=
  .next (if r < 16 then (s.disturb e).sweepGroup r else s)

/-- An abort during INIT zeroises and frees the slot (R295). -/
def State.linAbort (s : State) : State :=
  match (List.range 16).find? fun r => s.linState r == 1 with
  | none => s
  | some r =>
    let s := s.freeSlot (s.rd pgLin (LIN_Rr_STAT.KEY_CUR.nth r))
    let s := ((s.setLinState r 0).wr pgLin PAGE_LEVEL.BUSY 0).wr pgLin (LIN_Rr_SWEEP.LEFT.nth r) 0
    (s.linReport r 2).evAborted pgLin

end Sys2Proof.Machine
end

