-- ==== Sys2Proof/Machine/Reset.lean ====
section
/-! DEFINITION. The soft reset of a page (R57 and what each chapter adds to it), and the loss of
a block's contents when its domain goes off or its die is lost (R56, R23, R438). -/

namespace Sys2Proof.Machine

/-! ### Registers and passes -/

/-- The block-area registers of a page that the test does not keep return to their reset values. -/
def State.clearRegs (s : State) (pg : Nat) (keep : Nat → Bool) : State :=
  { s with regs := s.regs.filter fun e =>
      !decide (regKey pg 0x40 ≤ e.1 ∧ e.1 < regKey (pg + 1) 0) || keep (e.1 - regKey pg 0) }

/-- The block-area registers of a page return to their reset values, but for the bits of a mask. -/
def State.clearBut (s : State) (pg : Nat) (keep : Nat → Word) : State :=
  { s with regs := s.regs.filterMap fun e =>
      let off := e.1 - regKey pg 0
      if decide (regKey pg 0x40 ≤ e.1 ∧ e.1 < regKey (pg + 1) 0) then
        let d := BitVec.ofNat 32 (resetNat pg off)
        let w := merge (keep off) d e.2
        if w = d then none else some (e.1, w)
      else some e }

/-- The bits that fields hold at an offset. -/
def fldMask (fs : List Fld) (off : Nat) : Word :=
  BitVec.ofNat 32 (fs.foldl (fun n f => if f.off = off then n ||| putBits 0 f.hi f.lo (2 ^ 32 - 1) else n) 0)

/-- Every bit of an offset that passes a test. -/
def offMask (p : Nat → Bool) (off : Nat) : Word := if p off then BitVec.allOnes 32 else 0

/-- A commit whose pass is abandoned ends refused (R52, R53, R57). -/
def State.crcAbandon (s : State) (pg : Nat) : State :=
  match (s.page pg).pass with
  | none => s
  | some p =>
    let s := s.setPage pg { s.page pg with pass := none }
    if p.commit then (s.wr pg PAGE_CRC_CTL.COMMIT 0).ev pg 2 else s

/-- ARMED clears, and CRC_BAD with it (R50, R51). -/
def State.unarm (s : State) (pg : Nat) : State :=
  (s.wr pg PAGE_LEVEL.ARMED 0).wr pg PAGE_LEVEL.CRC_BAD 0

/-- The live state that the header of a block without work shows. -/
def State.levelClear (s : State) (pg : Nat) : State :=
  (s.wr pg PAGE_LEVEL.BLOCK 0).wr pg PAGE_LEVEL.BUSY 0

/-! ### Blocks -/

/-- A sequencer's run ends as an abort at once, or its arm is cancelled (R148). -/
def State.seqCut (s : State) (b : Nat) : State :=
  let l := s.leader b
  if s.hasRun l then
    (s.modSeq l fun x => { x with causes := if x.finals.isEmpty then [2] else x.finals }).endRun l
  else s.seqAbort l

/-- The sequencers of a panel report whether SEQ_GANG makes them members, which show their leader's
CAUSE, INVALID and flags (R123, R145). -/
def State.gangSync (s : State) (p : Nat) : State :=
  let bs := (List.range 4).map (4 * (p - 1) + ·)
  let s := bs.foldl (fun s b =>
    if !s.isMember b && s.rd (pgSeq b) SEQ_RUN.STATE == 4 then s.wr (pgSeq b) SEQ_RUN.STATE 0 else s) s
  (bs.filter fun b => !s.isMember b).foldl State.seqMirror s

/-- The sequencer's own state is gone; its runs go on being counted, and the warp buffer's memory keeps
what it holds. -/
def State.seqClear (s : State) (b : Nat) : State :=
  let x := s.seq b
  (s.setSeq b { run := x.run, store := x.store, life := x.life, walk := { reqs := x.walk.reqs.filterMap SegReq.sunk } }).gangSync (b / 4 + 1)

/-- An edge bank's clocked state is gone; what holds it, the masks that reach it and its delay lines'
calibration stay. -/
def State.bankClear (s : State) (b : Nat) (wave : Bool) : State :=
  let x := s.bank b
  let s := s.setBank b {
    held := x.held || x.holdDue, maskIn := x.maskIn, maskAct := x.maskIn,
    wave := if wave then x.wave else [], copies := x.copies, calDue := x.calDue, lastCal := x.lastCal }
  s.settleBank b

/-- The weft tables hold their reset values (R168). -/
def State.weftClear (s : State) (b : Nat) : State :=
  { s with weftTab := s.weftTab.clear (weftKey b 0 0) (weftKey (b + 1) 0 0) }

/-- The catch unit's clocked state is gone (R196). -/
def State.catClear (s : State) (p : Nat) (tally : Bool) : State :=
  let x := s.cat p
  let f := x.flight.map fun e => (e.1, e.2.1, true)
  let s := (List.range 16).foldl (fun s r => s.setLin r { s.lin r with
    catOut := (s.lin r).catOut.map fun e => if e.1 = p then (p, []) else e }) s
  s.setCat p (if tally then { tally := x.tally, lost := x.lost, store := x.store, life := x.life, flight := f }
    else { lost := x.lost, life := x.life + 1, flight := f })

/-- Every engine of a cluster at its reset state; `mem` keeps the memories (R212, R237). -/
def State.cluClear (s : State) (c : Nat) (mem : Bool) : State :=
  let s := (List.range 16).foldl (fun s i =>
    let x := s.eng (16 * c + i)
    s.setEng (16 * c + i) { data := if mem then x.data else [], prog := if mem then x.prog else [],
                               fetOut := x.fetOut.map fun r => { r with sink := true } }) s
  let k := s.clu c
  s.setClu c { mem := if mem then k.mem else [], sps := (k.sps.filter (·.out)).map fun r => { r with sink := true } }

/-- A channel's controller at its reset state: RESET, with its contents lost. -/
def State.drcClear (s : State) (k : Nat) : State :=
  s.setDrc k { epoch := (s.drc k).epoch + 1 }

/-- The fabric ports and serial ports of a panel at their reset state; the tags of their requests return, and what
answers them is sunk. -/
def State.fabClear (s : State) (p : Nat) : State :=
  let mine (i : Nat) : Bool := isFabInit i
  let s : State := { s with fabs := s.fabs.clear (16 * (p - 1)) (16 * p), sers := s.sers.clear (4 * (p - 1)) (4 * p) }
  let x := s.noc p
  (s.setNoc p { x with held := x.held.filter (!mine ·.1), old := x.old.filter (!mine ·.1),
                       flight := x.flight.filter fun k => !mine k.hdr.init }).tagSync p

/-- The registers of the lined regions (R301). -/
def linKeep (off : Nat) : Bool := decide (0x100 ≤ off) || off == 0x48

/-- The TIME registers that report or select the running time unit (R91). -/
def timeKeep (off : Nat) : Bool :=
  off == 0x40 || off == 0x44 || off == 0x48 || off == 0x4C || off == 0x54
    || decide (0x58 ≤ off ∧ off < 0x68) || decide (0xC0 ≤ off ∧ off < 0x100)

/-- A quad's lanes and scans at their reset state (R385). -/
def State.quadReset (s : State) (q : Nat) : State :=
  let s := (s.laneAbort q).quadQuiet q (decide (16 ≤ q))
  let s := if q < 16 ∧ s.klfUp q then s.klfDown q 2 else s
  let s := ((s.clearRegs (pgLane q) fun _ => false).levelClear (pgLane q)).setQuad q {}
  if q < 16 then (s.klfLanes q).klfToDetect q else s

/-- A Kelef port's link page at its reset state: a port that is not DOWN goes down. -/
def State.portReset (s : State) (p : Nat) : State :=
  let s := if s.rd (pgKlf p) KLF_STAT.STATE = 0 then s else s.klfDown p 6
  let x := s.port p
  let s := (s.clearRegs (pgKlf p) fun _ => false).levelClear (pgKlf p)
  s.setPort p { quiet := x.quiet, enter := x.enter }

/-- PAGE_LEVEL.BUSY of the HUB page: a mover is active (R472). -/
def State.moverSync (s : State) : State := s.wr pgHub PAGE_LEVEL.BUSY (bit (s.movers.any fun e => e.2.run))

def State.mover (s : State) (m : Nat) : MoverX := s.movers.getD m {}
def State.setMover (s : State) (m : Nat) (x : MoverX) : State := { s with movers := s.movers.setD m {} x }

/-- The copy ends: what has been issued may still take effect, and its responses are sunk (R461). -/
def MoverX.halt (x : MoverX) : MoverX :=
  { lines := (x.lines.filter (·.sent)).map fun l => { l with sink := true } }

/-- A mover is aborted (R461). -/
def State.moverCut (s : State) (m : Nat) : State :=
  if (s.mover m).run then
    let s := ((s.wr pgHub (MVRm_STAT.STATUS.nth m) 0).wr pgHub (MVRm_STAT.ERR.nth m) 0).evAborted pgHub
    (s.setMover m (s.mover m).halt).moverSync
  else s

/-! ### The mailbox (R457, R459) -/

/-- The mailbox command that runs is aborted before its reply: STATUS ABORTED, no effect; a FW_WRITE
leaves the inactive image invalid (R457, R459). -/
def State.mbxReply (s : State) (st : Nat) (payload len : Nat) : State :=
  let cmd := s.rd pgMbx (MBX_CMDk.DATA.nth 0)
  let w0 := cmd % 2 ^ 16 + len % 2 ^ 16 * 2 ^ 16
  let m := w0 + st * 2 ^ 32 + payload % 2 ^ (8 * len) * 2 ^ 64
  let s := (List.range 64).foldl (fun s k =>
    s.wr pgMbx (MBX_RSPk.DATA.nth k) (m / 2 ^ (32 * k) % 2 ^ 32)) s
  let s := (s.wr pgMbx MBX_STAT.BUSY 0).wr pgMbx MBX_STAT.REPLY 1
  (s.wr pgMbx PAGE_LEVEL.BUSY 0)

/-- The inactive image is 1 − HUB_BOOT.IMAGE. -/
def State.spareImage (s : State) : Nat := 1 - s.rd pgHub HUB_BOOT.IMAGE

/-- The command in progress ends without its effect (R457, R459). -/
def State.mbxCut (s : State) (st : Nat) : State :=
  if s.on pgMbx MBX_STAT.BUSY then
    let s :=
      if s.rd pgMbx (MBX_CMDk.DATA.nth 0) % 256 = 0x0B then
        let i := s.spareImage
        { s with store := { s.store with stale := if s.store.stale.contains i then s.store.stale else i :: s.store.stale, wrEnd := none } }
      else s
    (s.mbxReply st 0 0).evAborted pgMbx
  else s

/-! ### Soft reset (R57) -/

/-- What the selvage page keeps: the effective capabilities, which do not change while the package
runs (R18), the roles, which take a package reset (R19), what the dies reported (R12), and which of
them were present, are released and are up. -/
def seamKeep (off : Nat) : Word :=
  offMask (fun o => o == 0x40 || o == 0x44 || decide (0x80 ≤ o ∧ o < 0xD4)) off

/-- What the CFG page keeps: the region table with every region state (R399). -/
def cfgKeep (off : Nat) : Word :=
  offMask (fun o => o == 0x5C || decide (0x80 ≤ o ∧ o < 0x100)) off

/-- The domains that are not on or are on the move. -/
def State.domsAway (s : State) : List Nat :=
  (List.range 145).filter fun d => s.domState d != 0 || (s.pow.moves.find d).isSome

/-- A soft reset of the PWR page. DESIGN CHOICE: no rule keeps a field of the page, so REQ, STATE, MOVING and EMUL
of every domain read 0, and each domain is what they say: on. -/
def State.powReset (s : State) : State :=
  let ds := s.domsAway
  let s := s.clearRegs pgPwr fun _ => false
  let s : State := { s with pow := {} }
  let s := s.wr pgPwr PAGE_LEVEL.BLOCK 0
  ds.foldl (fun s d =>
    let s := if 128 ≤ d ∧ d < 144 then s.klfToDetect (d - 128) else s
    let s := if d < 128 ∧ 2 ≤ d % 32 ∧ d % 32 < 6 then s.settleBank (4 * (d / 32) + (d % 32 - 2)) else s
    if d < 128 ∧ d % 32 = 6 then s.catWake (pgCat (d / 32 + 1)) else s) s

/-- A soft reset of the selvage CLK page: the watch of R62 and the judgement begin anew, and what a withdrawal
holds back returns, since GATED reads 0 (DESIGN CHOICE: no rule keeps a field of the page). -/
def State.clkReset (s : State) : State :=
  let gated := s.on pgClk CLK_ROOT_STAT.GATED
  let s := s.clearRegs pgClk fun _ => false
  let s : State := { s with tu := { s.tu with hasRef := false, tried := 0 } }
  if gated then
    let s := (List.range 8).foldl (fun s k => s.drcReturn k) s
    [1, 2, 3, 4].foldl (fun s p => s.catWake (pgCat p)) s
  else s

/-- What a soft reset does to the block of a page, registers included (R57). DESIGN CHOICE: a halted engine is
STOPPED with cause KILL, as R467 and R236 say of it, though R57 resets its page's registers; any other
engine's STATE and CAUSE are at their reset values. -/
def State.blockReset (s : State) (pg : Nat) : State :=
  let d := pg / 512
  let n := pg % 512
  let all (s : State) : State := (s.clearRegs pg fun _ => false).levelClear pg
  let low := n % 16
  match pageKind pg with
  | none => s
  | some .edg =>
    let b := 4 * (d - 1) + low
    (all (s.waveAbort b)).bankClear b true
  | some .seq =>
    let b := 4 * (d - 1) + low
    (all (s.seqCut b)).seqClear b
  | some .wft => (all s).weftClear (4 * (d - 1) + low)
  | some .cat =>
    let s := s.catPace pg
    let s := if (s.cat d).op.isSome then s.evAborted pg else s
    (all s).catClear d true
  | some .spl => (all s).setSpl d { store := (s.spl d).store, life := (s.spl d).life }
  | some .shu =>
    let c := 4 * (d - 1) + low
    let es := ((List.range 16).map (16 * c + ·)).filter fun e => s.engState e == 3
    es.foldl (fun s e => (s.eWr e SHU_En_STAT.STATE 2).eWr e SHU_En_STAT.CAUSE 2) ((all (s.cluAbort c)).cluClear c true)
  | some .drc => (all s).drcClear (2 * (d - 1) + low)
  | some .drcMap => all s
  | some .lin => (s.linAbort).clearRegs pg linKeep
  | some .noc =>
    let x := s.noc d
    (all s).setNoc d { held := x.held, old := x.old, deferred := x.deferred, paused := x.paused, flight := x.flight }
  | some .gov => { (all s) with govBal := [] }
  | some .pat => { (all s) with pats := s.pats.del (n % 2) }
  | some .time =>
    let s := s.clearRegs pg timeKeep
    { s with launch := [] }
  | some .cfg => (s.cfgAbort.confErr false).clearBut pg cfgKeep
  | some .darn => ((s.clearRegs pg (· == 0x68)).levelClear pg).setDarn d { s.darn d with visit := s.now, read := none, written := false, newly := [] }
  | some .fab => (all s).fabClear d
  | some .klfRt => { (all s) with rt := [], rtHit := [] }
  | some .klfCom => all s.egrUnsure
  | some .klfLink => s.portReset low
  | some .lane => s.quadReset (if d = 0 then low else 16 + 8 * (d - 1) + low)
  | some .clkPnl => (s.clearRegs pg fun _ => false).uclkApplied d
  | some .clkSel => s.clkReset
  | some .hub =>
    let s := (List.range 4).foldl State.moverCut s
    let s := all s
    { s with hub := { s.hub with signing := none } }
  | some .mbx =>
    let s := all (s.mbxCut 7)
    { s with hub := { s.hub with notes := [] } }
  | some .dbg => s.clearBut pg (fldMask [DBG_SEQ_STAT.HALTED])
  | some .pwr => s.powReset
  | some .seam => s.clearBut pg seamKeep
  | some .alm =>
    let s := s.clearBut pg (fldMask [HUB_ALM_LEVEL.BOOT])
    let s : State := { s with alarms := [] }
    (s.wr pgAlm HUB_ALM_PEND.CLASS (maskSet 0 5 (s.on pgAlm HUB_ALM_LEVEL.BOOT))).alarmSync

/-- PAGE_CTL.SOFT_RESET (R57): the block's state and every block register and shadow return to
reset values, operations end aborted, a commit's pass ends refused, ARMED clears. SOFT_RESET and
IN_RESET read 1 until the reset has completed. -/
def State.softReset (s : State) (pg : Nat) : State :=
  let s := ((s.blockReset pg).crcSee s pg).dropPending pg
  let s := match (s.page pg).pass with
    | some p => if p.commit then s.crcAbandon pg else s
    | none => s
  let s := s.unarm pg
  (s.wr pg PAGE_CTL.SOFT_RESET 1).wr pg PAGE_LEVEL.IN_RESET 1

/-- SOFT_RESET_DONE. DESIGN CHOICE: a panel's CLK page shows the package reference again where it is present, and
the multiplier locks to it anew (R65). -/
def State.softDone (s : State) (pg : Nat) : State :=
  let s := (s.wr pg PAGE_CTL.SOFT_RESET 0).wr pg PAGE_LEVEL.IN_RESET 0
  let p := pg / 512
  if pageKind pg = some .clkPnl ∧ (s.die p).refAt.isSome then
    (s.setDie p { s.die p with refAt := some s.now }).wr pg CLK_PNL_STAT.REF_OK 1
  else s

/-! ### Loss of contents -/

/-- What a block holds beside its registers is lost. The golden signatures, classes and masks of a fabric's frames lie in
its panel's darner, whose domain is the core, and stay with their checksum (R408). -/
def State.blockLost (s : State) (pg : Nat) : State :=
  let d := pg / 512
  let low := pg % 512 % 16
  match pageKind pg with
  | some .edg => (s.bankClear (4 * (d - 1) + low) false)
  | some .seq =>
    (s.seqClear (4 * (d - 1) + low)).modSeq (4 * (d - 1) + low) fun x => { x with store := [], life := x.life + 1 }
  | some .wft => s.weftClear (4 * (d - 1) + low)
  | some .cat => s.catClear d false
  | some .spl => s.setSpl d (s.spl d).lost
  | some .shu => s.cluClear (4 * (d - 1) + low) false
  | some .drc => s.drcClear (2 * (d - 1) + low)
  | some .fab =>
    let x := s.darn d
    ({ (s.fabClear d) with logics := s.logics.del d } : State).setDarn d { x with
      read := none, frames := x.frames.map fun e => (e.1, { e.2 with data := 0, orig := 0, chk := 0 }) }
  | some .lane => s.setQuad (if d = 0 then low else 16 + 8 * (d - 1) + low) {}
  | _ => s

/-- The pages of a power domain. -/
def domainPages (dom : Nat) : List Nat :=
  ((List.range 5).flatMap fun d => (List.range 512).map (pageNo d)).filter fun pg =>
    (pageKind pg).isSome && domainOf pg == dom

/-- A page whose domain goes off or browns out loses its block registers and shadows; CLK_EN is
0 afterwards (R56, R434, R53, R50). -/
def State.pageLost (s : State) (pg : Nat) : State :=
  let s := ((s.clearRegs pg fun _ => false).levelClear pg).dropPending pg
  let s := ((s.crcAbandon pg).unarm pg).crcTouch pg
  let s := (s.wr pg PAGE_CTL.CLK_EN 0).blockLost pg
  (s.wr pg PAGE_CTL.SOFT_RESET 0).wr pg PAGE_LEVEL.IN_RESET 0

/-- Everything that a die held is lost: registers, shadows, headers and blocks (R26). -/
def State.dieWipe (s : State) (d : Nat) : State :=
  let lo := regKey (pageNo d 0) 0
  let hi := regKey (pageNo (d + 1) 0) 0
  let s := ((List.range 512).map (pageNo d)).foldl State.blockLost s
  { s with regs := s.regs.clear lo hi, shadow := s.shadow.clear lo hi,
           pages := s.pages.clear (pageNo d 0) (pageNo (d + 1) 0), nocs := s.nocs.del d,
           darns := s.darns.del d, logics := s.logics.del d, uclks := s.uclks.clear (8 * (d - 1)) (8 * d) }

end Sys2Proof.Machine
end

