-- ==== Sys2Proof/Machine/Power.lean ====
section
/-! DEFINITION. Power domains, brown-outs, temperature and nap (chapter 20). -/

namespace Sys2Proof.Machine

/-- A core, which is never switched. -/
def domCore (d : Nat) : Bool := decide (d < 128 ∧ d % 32 = 0) || d == 144

/-- The die of a domain. -/
def domDie (d : Nat) : Nat := if d < 128 then d / 32 + 1 else 0

/-- The condition under which a domain may leave on (R434). -/
def State.quiescent (s : State) (d : Nat) : Bool :=
  let p := d / 32 + 1
  let k := d % 32
  if 128 ≤ d then s.quadState (d - 128) == 2
  else if k = 1 then
    s.baseState p != 3 &&
      (List.range 32).all fun r => s.regionTiles r p == 0 || s.regionState r != 3
  else if k < 6 then s.rd (pgSeq (4 * (p - 1) + (k - 2))) SEQ_RUN.STATE == 0
  else if k = 6 then !s.on (pgCat p) PAGE_LEVEL.BUSY && !s.panelBusy p
  else if k = 7 then s.rd (pgSpl p) SPL_OPEN.COUNT == 0
  else if k < 12 then !s.on (pgShu (4 * (p - 1) + (k - 8))) PAGE_LEVEL.BUSY
  else if k < 14 then
    let st := s.rd (pgDrc (2 * (p - 1) + (k - 12))) DRC_STAT.STATE
    st == 1 || st == 6
  else s.quadState (16 + 8 * (p - 1) + (k - 14)) == 2

/-- The reason for which a request is refused (R436, R442). DESIGN CHOICE: where several hold, the one reported is the
first of: core, REQ 1 after a brown-out, not quiescent, reference port or time parent, die not released or lost; and
until a reference port has been chosen REF_PORT and ACTIVE_PORT name no quad. -/
def State.powRefusal (s : State) (d req : Nat) : Option Nat :=
  let brown := s.rd pgPwr (PWR_Dd.STATE.nth d) = 3
  let named := (s.tu.hasRef || s.tu.everJudged)
    && (s.rd pgClk CLK_ROOT_STAT.REF_PORT == d - 128 || s.rd pgTime TIME_STAT.ACTIVE_PORT == d - 128)
  if domCore d then some 0
  else if brown ∧ req = 1 then some 4
  else if !brown ∧ req ≠ 0 ∧ !s.quiescent d then some 1
  else if decide (128 ≤ d) && named then some 2
  else if d < 128 ∧ (!s.released (domDie d) ∨ (s.die (domDie d)).lost) then some 3
  else none

/-- PAGE_LEVEL.BLOCK of the PWR page: MOVING, THERM, EMUL (R448). -/
def State.powSync (s : State) : State :=
  let v := s.rd pgPwr PAGE_LEVEL.BLOCK
  let em := (List.range 145).any fun d => s.on pgPwr (PWR_Dd.EMUL.nth d)
  s.wr pgPwr PAGE_LEVEL.BLOCK (maskSet (maskSet v 0 (!s.pow.moves.isEmpty)) 2 em)

/-- A domain starts to move to a state (R437); a state that was only recorded for it is recorded no longer (R447). -/
def State.powMove (s : State) (d t : Nat) : State :=
  let s : State := { s with pow := { s.pow with moves := s.pow.moves.put d t } }
  ((s.wr pgPwr (PWR_Dd.MOVING.nth d) 1).wr pgPwr (PWR_Dd.EMUL.nth d) 0).powSync

/-- An accepted request takes effect once no transition runs: the domain moves; while a debugger is attached a request
to leave on is only recorded (R437, R442, R447). -/
def State.powAct (s : State) (d : Nat) : State :=
  let req := s.rd pgPwr (PWR_Dd.REQ.nth d)
  let st := s.rd pgPwr (PWR_Dd.STATE.nth d)
  if (s.pow.moves.find d).isSome ∨ req = st then s
  else if st = 3 ∧ req = 2 then s.wr pgPwr (PWR_Dd.STATE.nth d) 2
  else if s.on pgPwr (PWR_Dd.EMUL.nth d) ∧ req = 0 then
    ((s.wr pgPwr (PWR_Dd.STATE.nth d) 0).wr pgPwr (PWR_Dd.EMUL.nth d) 0).powSync
  else if s.dp.attached ∧ req ≠ 0 ∧ s.domState d = 0 then
    ((s.wr pgPwr (PWR_Dd.STATE.nth d) req).wr pgPwr (PWR_Dd.EMUL.nth d) 1).powSync
  else
    let on := s.on pgPwr (PWR_Dd.EMUL.nth d)
    (if on then s.wr pgPwr (PWR_Dd.STATE.nth d) 0 else s).powMove d req

/-- A request applies: it is refused, or takes effect, at once or when the transition in progress has ended (R436,
R437). `old` is the applied REQ that a refusal leaves. DESIGN CHOICE: a REQ that names the state that the domain is in,
with no transition in progress, asks for nothing and is not refused. -/
def State.powTake (s : State) (d old : Nat) : State :=
  let req := s.rd pgPwr (PWR_Dd.REQ.nth d)
  if (req = s.rd pgPwr (PWR_Dd.STATE.nth d) ∧ (s.pow.moves.find d).isNone) ∨ req = 3 then s
  else match s.powRefusal d req with
    | some e =>
      let s := s.wrCov pgPwr (PWR_Dd.REQ.nth d) old
      (((s.wr pgPwr PWR_LAST_REF.DOMAIN d).wr pgPwr PWR_LAST_REF.REASON e).wr pgPwr
        PWR_LAST_REF.VALID 1).ev pgPwr 8
    | none => s.powAct d

/-- The pending set of the PWR page has applied; `s0` is the state before. -/
def State.pwrApplied (s : State) (s0 : State) : State :=
  ((List.range 145).filter fun d => (s0.shadow.find (regKey pgPwr (0x400 + 4 * d))).isSome).foldl
    (fun s d => s.powTake d (s0.rd pgPwr (PWR_Dd.REQ.nth d))) s

/-- After a detach the recorded requests are applied at the next boundary and checked again (R447). -/
def State.powRecorded (s : State) : State :=
  if s.dp.attached then s
  else (List.range 145).foldl (fun s d =>
    if s.on pgPwr (PWR_Dd.EMUL.nth d) then
      let s := (s.wr pgPwr (PWR_Dd.STATE.nth d) 0).wr pgPwr (PWR_Dd.EMUL.nth d) 0
      (s.powTake d 0).powSync
    else s) s

/-- The configuration of a panel is EMPTY: its base, and every region with tiles there. HELD sets where one of them was
RUNNING (R389, R410); a full load in progress no longer writes the panel (R396). -/
def State.cfgEmpty (s : State) (p : Nat) : State :=
  let rs := (List.range 32).filter fun r => s.regionTiles r p != 0
  let ran := s.baseState p == 3 || rs.any fun r => s.regionState r == 3
  let s := s.setBase p 0
  let s : State := { s with cfg := { s.cfg with
    stream := s.cfg.stream.map fun x => { x with panels := x.panels.filter (· != p) } } }
  let s := (rs.foldl (fun s r => s.setRegion r 0) s).holdSync.doneSync
  if ran then s.ev pgCfg 12 else s

/-- The run of a sequencer whose domain is lost ends with it. -/
def State.runLost (s : State) (b : Nat) : State :=
  if s.seqBusy b then s.seqCut b else s

/-- What a domain holds is lost (R434, R438). -/
def State.domainLost (s : State) (d : Nat) : State :=
  let p := d / 32 + 1
  let s := if d < 128 ∧ 2 ≤ d % 32 ∧ d % 32 < 6 then s.runLost (4 * (p - 1) + (d % 32 - 2)) else s
  let s := if 128 ≤ d ∧ d < 144 ∧ s.rd (pgKlf (d - 128)) KLF_STAT.STATE ≠ 0 then s.klfDown (d - 128) 6 else s
  let s := (domainPages d).foldl State.pageLost s
  if d < 128 ∧ d % 32 = 1 then s.cfgEmpty p else s

/-- The edge bank that lies in a domain, if it is a bank's. -/
def domBank (d : Nat) : Option Nat :=
  if d < 128 ∧ 2 ≤ d % 32 ∧ d % 32 < 6 then some (4 * (d / 32) + (d % 32 - 2)) else none

/-- The channels of a domain's bank take the outputs of their state (R94). -/
def State.domSettle (s : State) (d : Nat) : State := ((domBank d).map s.settleBank).getD s

/-- A domain in retention has stopped its clocks: a commit whose pass is abandoned ends refused, and
its edge channels are OFF (R53, R94). -/
def State.retained (s : State) (d : Nat) : State :=
  ((domainPages d).foldl State.crcAbandon s).domSettle d

/-- DOMAIN_TRANSITION_DONE: the transition ends, and the request that applied meanwhile is taken up. -/
def State.transitionDone (s : State) (d : Nat) : State :=
  match s.pow.moves.find d with
  | none => s
  | some t =>
    let was := s.rd pgPwr (PWR_Dd.STATE.nth d)
    let s : State := { s with pow := { s.pow with moves := s.pow.moves.del d } }
    let s := (domainPages d).foldl State.catPace s
    let s := (s.wr pgPwr (PWR_Dd.STATE.nth d) t).wr pgPwr (PWR_Dd.MOVING.nth d) 0
    let s := if t = 0 then s else s.stallsStop .off fun pg _ => domainOf pg == d
    let s := if t = 2 then (s.domainLost d).fencesPrune else if t = 1 then s.retained d else s
    let s := if 128 ≤ d ∧ d < 144 ∧ t = 0 then s.klfToDetect (d - 128) else s
    let s := if t = 0 then (if was = 2 then ((domBank d).map s.calFresh).getD s else s).domSettle d else s
    let s := (domainPages d).foldl State.catWake s
    (s.powAct d).powSync

def execDomainTransitionDone (d : Nat) (s : State) : Host.Outcome State Fault Refusal :=
  .next (s.transitionDone d)

/-- A brown-out is recorded whatever the domain (R441). -/
def State.brownRecord (s : State) (d kind : Nat) : State :=
  let s := (s.wr pgPwr PWR_BROWN.DOMAIN d).wr pgPwr PWR_BROWN.KIND kind
  let s := (s.bump pgPwr PWR_BROWN.COUNT 1).wrPair pgPwr PWR_BROWN_T_LO.TIME PWR_BROWN_T_HI.TIME s.time
  ((s.ev pgPwr 9).wr pgPwr (PWR_Dd.STATE.nth d) 3).raise pgPwr 4 (some 9)

/-- A switchable domain browns out: 0 undervoltage, 1 the low-current limit (R441). -/
def State.brownDomain (s : State) (d kind : Nat) : State :=
  let s : State := { s with pow := { s.pow with moves := s.pow.moves.del d } }
  let s := (s.wr pgPwr (PWR_Dd.MOVING.nth d) 0).wr pgPwr (PWR_Dd.EMUL.nth d) 0
  ((((s.brownRecord d kind).domainLost d).fencesPrune).stallsStop .off fun pg _ => domainOf pg == d).powSync

/-- The setpoint of a domain's regulator in mV: 0.65 V in retention, otherwise by VSET, above 40 taken as 40
(R434, R439). -/
def State.setpoint (s : State) (d : Nat) : Nat :=
  if s.domState d = 1 then 650 else 650 + 5 * min 40 (s.rd pgPwr (PWR_Dd.VSET.nth d))

/-- The domain browns out: it delivers current, and its output has stayed below 90 % of the setpoint, or its load has
exceeded 1.5 A while the low-current mode holds, which retention always uses (R440, R441). `x` is the output in mV, or
the load in mA. -/
def State.canBrown (s : State) (d kind x : Nat) : Bool :=
  let st := s.domState d
  domListed d && s.tu.porDone && (st == 0 || st == 1 || (s.pow.moves.find d).isSome)
    && ((kind == 0 && decide (10 * x < 9 * s.setpoint d))
      || (kind == 1 && decide (1500 < x) && (s.on pgPwr (PWR_Dd.LOWI.nth d) || st == 1)))

/-! ### Temperature and nap (R444–R446) -/

/-- A ring-timed sample is due `gap` after the last one (R444, R445). DESIGN CHOICE: 10 µs of the ring reference
are taken as 128,000 G, and no fabric time passes for a sample while the count stands (R68). -/
def State.sampleDue (s : State) (last : Option Nat) (gap : Nat) : State :=
  match last with
  | some t => if s.clocksOnFor pgTime then { s with now := max s.now (t + gap) } else s
  | none => s

/-- The temperature samples of the five dies, in °C. -/
def State.tempSample (s : State) (ts : List Int) : State :=
  if !s.tu.porDone then s
  else
    let s := s.sampleDue s.pow.sampled 128000
    let s := (List.range 5).foldl (fun s n =>
      let t := ts.getD n 0
      let old := signed 8 (s.rd pgPwr (PWR_TEMPn.PEAK.nth n))
      let s := s.wr pgPwr (PWR_TEMPn.TEMP.nth n) (unsign 8 t)
      if s.pow.sampled.isNone ∨ old < t then s.wr pgPwr (PWR_TEMPn.PEAK.nth n) (unsign 8 t) else s) s
    let s : State := { s with pow := { s.pow with sampled := some s.now } }
    let lim : Int := s.rd pgPwr PWR_THERM.LIMIT
    let hyst : Int := s.rd pgPwr PWR_THERM.HYST
    let five := (List.range 5).map (ts.getD · 0)
    let was := maskBit (s.rd pgPwr PAGE_LEVEL.BLOCK) 1
    let hot := if was then five.any fun t => decide (lim - hyst ≤ t) else five.any fun t => decide (lim ≤ t)
    let s := s.wr pgPwr PAGE_LEVEL.BLOCK (maskSet (s.rd pgPwr PAGE_LEVEL.BLOCK) 1 hot)
    let s : State := { s with pins := { s.pins with thermN := s.pins.thermN.map fun _ => hot } }
    if hot && !was then s.ev pgPwr 11 else s

def execTempSample (ts : List Int) (s : State) : Host.Outcome State Fault Refusal :=
  .next (s.tempSample ts)

/-- The quads that nap watches: set in SDMASK and in DEEP. -/
def State.napQuads (s : State) : List Nat :=
  let m := s.rd pgPwr PWR_NAP_SDMASK_LO.QUADS + 2 ^ 32 * (s.rd pgPwr PWR_NAP_SDMASK_HI.QUADS % 2 ^ 16)
  (List.range 48).filter fun q => maskBit m q && s.quadState q == 2

/-- A quad whose detect rose is woken: its applied request becomes ACTIVE at once. -/
def State.napWake (s : State) (q : Nat) : State :=
  if s.on pgPwr PWR_NAP_CFG.AUTO_WAKE && s.pageDomain (pgLane q) == 0 then
    ((s.wr (pgLane q) LANE_PWR.REQ 0).crcSee s (pgLane q)).quadMove q
  else s

/-- The reference of a watched quad. -/
def State.napRef (s : State) : Nat :=
  s.rd pgPwr PWR_NAP_SDREF_LO.QUADS + 2 ^ 32 * s.rd pgPwr PWR_NAP_SDREF_HI.QUADS

def State.setNapRef (s : State) (v : Nat) : State :=
  s.wrPair pgPwr PWR_NAP_SDREF_LO.QUADS PWR_NAP_SDREF_HI.QUADS v

/-- The output of a domain lies outside its window: its setpoint ± VTOL × 5 mV (R445). -/
def State.voltOut (s : State) (d mv : Nat) : Bool :=
  let w := 5 * s.rd pgPwr PWR_NAP_CFG.VTOL
  decide (mv + w < s.setpoint d ∨ s.setpoint d + w < mv)

/-- A sample against the reference and the windows: signal detects by quad, temperatures, the outputs of domains and
VIN in mV (R445, R446). -/
def State.napCompare (s : State) (sd : Nat) (ts : List Int) (volts : List (Nat × Nat)) (vin : Nat) : State :=
  let ref := s.napRef
  let diff := s.napQuads.filter fun q => maskBit sd q != maskBit ref q
  let rose := diff.filter (maskBit sd ·)
  let hi : Int := signed 8 (s.rd pgPwr PWR_NAP_TLIM.HI)
  let lo : Int := signed 8 (s.rd pgPwr PWR_NAP_TLIM.LO)
  let above := (List.range 5).filter fun n => decide (hi < ts.getD n 0)
  let below := (List.range 5).filter fun n => decide (ts.getD n 0 < lo)
  let vs := (volts.filter fun e => domListed e.1 && s.domState e.1 == 0 && s.voltOut e.1 e.2).map (·.1)
  let vin := decide (vin < 1710 ∨ 1890 < vin)
  let s := s.setNapRef (diff.foldl (fun v q => maskSet v q (maskBit sd q)) ref)
  let s := if diff.isEmpty then s else s.wr pgPwr PWR_NAP_EVT.SD 1
  let s := if above.isEmpty then s else s.wr pgPwr PWR_NAP_EVT.TEMP_HI 1
  let s := if below.isEmpty then s else s.wr pgPwr PWR_NAP_EVT.TEMP_LO 1
  let s := match (above ++ below).getLast? with
    | none => s
    | some n => s.wr pgPwr PWR_NAP_EVT.DIE n
  let s := if vs.isEmpty && !vin then s
    else (s.wr pgPwr PWR_NAP_EVT.VOLT 1).wr pgPwr PWR_NAP_EVT.DOMAIN
      (if vin then 0xFE else vs.getLast?.getD 0)
  let s := if diff.isEmpty && above.isEmpty && below.isEmpty && vs.isEmpty && !vin then s else s.ev pgPwr 10
  rose.foldl State.napWake s

/-- The time from one nap sample to the next (R445): PERIOD of 0 is taken as 1, above 10,000 as 10,000. -/
def State.napGap (s : State) : Nat := 128000 * min 10000 (max 1 (s.rd pgPwr PWR_NAP_CFG.PERIOD))

/-- NAP_SAMPLE: the first sample after EN was set only fills SDREF. -/
def State.napSample (s : State) (sd : Nat) (ts : List Int) (volts : List (Nat × Nat)) (vin : Nat) : State :=
  if !s.tu.porDone || !s.on pgPwr PWR_NAP_CFG.EN then s
  else
    let first := s.pow.napped.isNone
    let s := s.sampleDue s.pow.napped s.napGap
    let s := s.wr pgPwr PWR_NAP_COUNT.COUNT (s.rd pgPwr PWR_NAP_COUNT.COUNT + 1)
    let s : State := { s with pow := { s.pow with napped := some s.now } }
    if first then s.setNapRef (s.napQuads.foldl (fun v q => maskSet v q (maskBit sd q)) 0)
    else s.napCompare sd ts volts vin

def execNapSample (sd : Nat) (ts : List Int) (volts : List (Nat × Nat)) (vin : Nat) (s : State) :
    Host.Outcome State Fault Refusal := .next (s.napSample sd ts volts vin)

end Sys2Proof.Machine
end

