-- ==== Sys2Proof/Machine/Dies.lean ====
section
/-! DEFINITION. Dies (chapter 1): start-up, straps, roles and release, the loss of a die, detours, and
the reset of the package. -/

namespace Sys2Proof.Machine

/-! ### The loss of a die (R22–R28) -/

/-- A field of SEAM_PKG or SEAM_STAT that holds one bit for each die. -/
def State.dieBit (s : State) (f : Fld) (d : Nat) (b : Bool) : State :=
  s.wr pgSeam f (maskSet (s.rd pgSeam f) d b)

/-- The work of a panel is lost: its runs end, and each lockstep partner is told (R26, R151). -/
def State.panelLost (s : State) (p : Nat) : State :=
  let s := (List.range 4).foldl (fun s i => s.runLost (4 * (p - 1) + i)) s
  let s := s.dieWipe p
  let s := (s.cfgEmpty p).stallsStop .dieDown fun pg _ => pg / 512 == p
  s.fencesPrune

/-- A die is declared lost (R22): its UP bit clears, DIE_LOST and SEAM_LOSS_TIME record it, and the
hub alarm is raised. From here on requests to it are answered DIE_DOWN (R23). -/
def State.dieLost (s : State) (d : Nat) : State :=
  if (s.die d).lost then s
  else s.atOnce fun s =>
    let s := s.setDie d { s.die d with lost := true, liveSince := none }
    let s := (s.dieBit SEAM_PKG.UP d false).dieBit SEAM_STAT.DIE_LOST d true
    let s := s.wrPair pgSeam SEAM_LOSS_TIME_LO.TIME SEAM_LOSS_TIME_HI.TIME s.time
    let s := s.raise pgSeam 2 none d
    if panelOk d then s.panelLost d else s

/-- A panel or fitted site that answered misses its heartbeat: it is declared lost, and one that is lost
already is no longer live (R22, R27). -/
def State.heartbeatGone (s : State) (d : Nat) : State :=
  if !(panelOk d || s.fitted d) then s
  else if (s.die d).lost then
    (s.setDie d { s.die d with liveSince := none }).dieBit SEAM_PKG.UP d false
  else if (s.die d).answered then s.dieLost d
  else s

def execHeartbeatMiss (d : Nat) (s : State) : Host.Outcome State Fault Refusal :=
  .next (s.heartbeatGone d)

/-- PANEL_MULT_TIMEOUT: the reference has run for 1,280,000 G without the panel's lock (R65). -/
def State.multTimeout (s : State) (p : Nat) : State :=
  match (s.die p).refAt with
  | none => s
  | some t =>
    if panelOk p && s.on (pgClkPnl p) CLK_PNL_STAT.REF_OK && !s.on (pgClkPnl p) CLK_PNL_STAT.MULT_LOCK then
      (if s.clocksOn then { s with now := max s.now (t + 1280000) } else s).dieLost p
    else s

def execPanelMultTimeout (p : Nat) (s : State) : Host.Outcome State Fault Refusal := .next (s.multTimeout p)

/-- HEARTBEAT_RETURN: the heartbeat of a lost die is live again (R27). DESIGN CHOICE: a die that did not answer
at start-up shows UP too once its heartbeat is live, while its identity stays that of R12, since it has reported
none. -/
def State.heartbeatBack (s : State) (d : Nat) : State :=
  if (s.die d).lost && (panelOk d || s.fitted d) && (s.die d).liveSince.isNone then
    (s.setDie d { s.die d with liveSince := some s.now }).dieBit SEAM_PKG.UP d true
  else s

def execHeartbeatReturn (d : Nat) (s : State) : Host.Outcome State Fault Refusal :=
  .next (s.heartbeatBack d)

/-- A request of an initiator to a lost die gets its one response, DIE_DOWN (R23, R24). -/
def execSeamReqToLostDie (d : Nat) (s : State) : Host.Outcome State Fault Refusal :=
  .next (if (s.die d).lost then (s.synth d .dieDown).answer .dieDown else s)

/-- A response that comes for a tag already answered is sunk (R23). -/
def execSeamLateResponse (_d : Nat) (s : State) : Host.Outcome State Fault Refusal := .next s

/-! ### Detours (R25, R27) -/

/-- Firmware writes the inactive tables anew and asks for the switch, which falls on a budget-period
boundary. An entry is die, router, destination and port. -/
def State.detours (s : State) (es : List (Nat × Nat × Nat × Nat)) : State :=
  let b := 1 - s.netBank
  let s := (List.range 5).foldl (fun s d =>
    let x := s.noc d
    s.setNoc d { x with tbl := x.tbl.clear (tblKey b 0 0) (tblKey (b + 1) 0 0) }) s
  let s := es.foldl (fun s (e : Nat × Nat × Nat × Nat) =>
    if nocOk e.1 && !(s.die e.1).lost then
      let x := s.noc e.1
      let r := if e.1 = 0 then 0 else e.2.1 % 16
      s.setNoc e.1 { x with tbl := x.tbl.setD (tblKey b r (e.2.2.1 % 65)) 7 (e.2.2.2 % 8) }
    else s) s
  s.nocSwitch 0

/-- Firmware runs, and the tables can be written. -/
def State.detourReady (s : State) : Bool :=
  s.on pgHub HUB_BOOT.FW_RUN && !s.on (pgNoc 0) NOC_VER.PENDING && s.oldInFlight == 0
    && s.clocksOnFor (pgNoc 0)

/-- The places of the routers on dies that are not lost. -/
def State.livePlaces (s : State) : List Nat := (List.range 64).filter fun rc => !(s.die (panelAt rc).1).lost

/-- A request under a bank of the tables reaches its place from another. -/
def State.reaches (s : State) (bank : Nat) (sel : Bool) (dest rc : Nat) : Bool :=
  match s.walk 80 0 none rc { tv := bank, op := 0, drtr := dest, dep := 0, sel := sel, init := 0, tag := 0, addr := 0, len := 0, itime := 0 } with
  | .arrives _ => true
  | _ => false

/-- Under a bank of the tables, every router of a remaining panel and the selvage die reach every other such
router, and every router reaches the selvage die, around lost panels and removed links (R21, R25). -/
def State.bankRoutes (s : State) (bank : Nat) : Bool :=
  s.livePlaces.all fun a =>
    s.reaches bank false a (bridgeAt (s.enterBridge bank a % 8)) && s.reaches bank true (bridgeAt (s.nearBridge a)) a
      && s.livePlaces.all fun b => s.reaches bank false b a

/-- The links, as place and port, that dimension order takes from one place to another. -/
def dimLinks (dest : Nat) : Nat → Nat → List (Nat × Nat)
  | 0, _ => []
  | n + 1, rc =>
    match dimPort rc dest with
    | none => []
    | some p => (rc, p) :: dimLinks dest n (portTo rc p)

/-- The links that a bank's tables make a packet take to a router; port 4 is a passage of the selvage die. -/
def State.tableLinks (s : State) (bank dest : Nat) : Nat → Nat → List (Nat × Nat)
  | 0, _ => []
  | n + 1, rc =>
    if rc = dest then []
    else
      let pl := panelAt rc
      let t := s.detour bank pl.1 pl.2 dest
      let port := if t = 7 then (dimPort rc dest).getD 8 else t
      (rc, port) :: s.tableLinks bank dest n
        (if port = 4 then bridgeAt (s.enterBridge bank dest % 8) else portTo rc port)

/-- The links of the rows or columns next to a link's own that cross the same join alike and are not removed:
the neighbours within the quadrant pair (R21). -/
def State.besideLinks (s : State) (l : Nat × Nat) : List (Nat × Nat) :=
  let step := if l.2 = 2 ∨ l.2 = 3 then 8 else 1
  let at0 := if step = 8 then l.1 / 8 else l.1 % 8
  ((if at0 % 4 = 0 then [] else [(l.1 - step, l.2)]) ++ (if at0 % 4 = 3 then [] else [(l.1 + step, l.2)])).filter
    fun x => !s.linkGone x.1 x.2

/-- A packet that would have used removed links goes through a row or column next to each of them, and takes at
most 2 extra hops for each (R21). Where a lost panel lies on its way the tables follow R25, and where every
neighbour's link is removed too R21 names no way, so any that arrives serves (DESIGN CHOICE). -/
def State.aroundOk (s : State) (bank a b : Nat) : Bool :=
  let own := dimLinks b 8 a
  let gone := own.filter fun l => s.linkGone l.1 l.2
  if gone.isEmpty || (b :: own.map (·.1)).any (fun rc => (s.die (panelAt rc).1).lost)
      || gone.any (fun l => (s.besideLinks l).isEmpty) then true
  else
    let w := s.tableLinks bank b 80 a
    decide (w.length ≤ own.length + 2 * gone.length) && gone.all fun l => (s.besideLinks l).any w.contains

/-- Firmware's tables lead everywhere: what DETOUR_LOAD and DETOUR_WITHDRAW may write. Routers that are disabled
at the moment are left aside, since R25 asks for ways around lost quadrants and R21 around removed links. -/
def State.detoursLead (s : State) (es : List (Nat × Nat × Nat × Nat)) : Bool :=
  let t := (List.range 5).foldl (fun s d => (s.wr (pgNoc d) NOC_RTR_STAT.OFF 0).wr (pgNoc d) NOC_RTR_STAT.DRAINING 0) (s.detours es)
  let bank := 1 - s.netBank
  t.bankRoutes bank && s.livePlaces.all fun a => s.livePlaces.all fun b => t.aroundOk bank a b

/-- A torus link is removed by a stream group (R21), and firmware has loaded no tables for it yet. -/
def State.linksOpen (s : State) : Bool :=
  !s.hub.linkDetour && s.hub.locked && (List.range 64).any fun rc => s.linkGone rc 1 || s.linkGone rc 2

/-- DETOUR_LOAD: a panel is lost and no detour around it is loaded yet (R25), or the roles remove torus links
(R21). -/
def State.detourLoad (s : State) (es : List (Nat × Nat × Nat × Nat)) : State :=
  let ps := [1, 2, 3, 4].filter fun p => (s.die p).lost && !(s.die p).detour
  if !s.detourReady || (ps.isEmpty && !s.linksOpen) || !s.detoursLead es then s
  else
    let t := ps.foldl (fun s p => s.setDie p { s.die p with detour := true }) (s.detours es)
    { t with hub := { t.hub with linkDetour := t.hub.linkDetour || s.linksOpen } }

def execDetourLoad (es : List (Nat × Nat × Nat × Nat)) (s : State) :
    Host.Outcome State Fault Refusal := .next (s.detourLoad es)

/-- DETOUR_WITHDRAW: a readmitted panel's heartbeat has been live for 12,800,000 G. -/
def State.detourWithdraw (s : State) (es : List (Nat × Nat × Nat × Nat)) : State :=
  let ps := [1, 2, 3, 4].filter fun p =>
    let x := s.die p
    x.detour && !x.lost && (match x.liveSince with
      | some t => decide (t + 12800000 ≤ s.now)
      | none => false)
  if !s.detourReady || ps.isEmpty || !s.detoursLead es then s
  else ps.foldl (fun s p => s.setDie p { s.die p with detour := false }) (s.detours es)

def execDetourWithdraw (es : List (Nat × Nat × Nat × Nat)) (s : State) :
    Host.Outcome State Fault Refusal := .next (s.detourWithdraw es)

/-! ### Start-up (R9–R13) -/

/-- What a die reports when its own power-on reset ends. -/
structure DieReport where
  dieId : Nat
  pkgVar : Nat
  letter : Nat
  digit : Nat
  typ : Nat
  cap : Nat
  deriving DecidableEq, Repr

/-- SEAM_DIEn_ID and SEAM_DIEn_CAP take a report. -/
def State.dieReport (s : State) (d : Nat) (r : DieReport) : State :=
  let f (x : Fld) := x.nth d
  let s := (s.wr pgSeam (f SEAM_DIEn_ID.DIE_ID) r.dieId).wr pgSeam (f SEAM_DIEn_ID.REV_LETTER) r.letter
  let s := (s.wr pgSeam (f SEAM_DIEn_ID.REV_DIGIT) r.digit).wr pgSeam (f SEAM_DIEn_ID.DIE_TYPE) r.typ
  let s := (s.wr pgSeam (f SEAM_DIEn_ID.PKG_VAR) r.pkgVar).wr pgSeam (f SEAM_DIEn_ID.VALID) 1
  s.wr pgSeam (f SEAM_DIEn_CAP.CAP) r.cap

/-- A BOOT condition of R475 holds. -/
def State.bootAlarm (s : State) (pg : Nat) : State :=
  ((s.wr pgAlm HUB_ALM_LEVEL.BOOT 1).raise pg 5 none)

/-- The selvage die's own straps: they name the package variant, and a wrong DIE_ID or a reserved
outline is a fault of the package wiring (R11). DESIGN CHOICE: PRESENT and UP show the selvage die itself in
bit 0 from then on, though it exchanges no heartbeat with itself (R22). -/
def State.selvageUp (s : State) (r : DieReport) : State :=
  let s := (s.dieReport 0 r).wr pgSeam SEAM_PKG.PKG_VAR r.pkgVar
  let s := s.setDie 0 { s.die 0 with porDone := true, answered := true, dieId := r.dieId, pkgVar := r.pkgVar }
  let s := (s.dieBit SEAM_PKG.PRESENT 0 true).dieBit SEAM_PKG.UP 0 true
  let s := (List.range 16).foldl State.klfToDetect s
  if r.dieId % 8 ≠ 0 ∨ r.pkgVar / 4 % 4 ≠ 0 then
    { (s.bootAlarm pgSeam) with hub := { s.hub with wiring := true } }
  else s

/-- A panel or a site at start-up: one that answers is present and up; a panel or fitted site that
does not answer is lost (R12). -/
def State.dieUp (s : State) (d : Nat) (r : Option DieReport) : State :=
  match r with
  | some r =>
    let s := s.dieReport d r
    let s := s.panelCal d
    let s := s.setDie d { s.die d with porDone := true, answered := true, dieId := r.dieId, pkgVar := r.pkgVar, liveSince := some s.now }
    let s := (s.dieBit SEAM_PKG.PRESENT d true).dieBit SEAM_PKG.UP d true
    if s.tu.everJudged && panelOk d then (s.wrCov (pgClkPnl d) PAGE_CTL.CLK_EN 1).refStart d else s
  | none => (s.setDie d { s.die d with porDone := true }).dieLost d

/-- DIE_POR_END: the power-on reset of a die ends; `r` is what it reports, none when its heartbeat does
not answer. -/
def State.diePorEnd (s : State) (d : Nat) (r : Option DieReport) : State :=
  if (s.die d).porDone then s
  else if d = 0 then
    match r with
    | some r => s.selvageUp r
    | none => s
  else if panelOk d || s.fitted d then s.dieUp d r
  else s

def execDiePorEnd (d : Nat) (answers : Bool) (dieId pkgVar letter digit typ cap : Nat) (s : State) :
    Host.Outcome State Fault Refusal :=
  .next (s.diePorEnd d (if answers then some ⟨dieId, pkgVar, letter, digit, typ, cap⟩ else none))

/-- SHELL_POR_END: the alarm, configuration and thermal outputs are driven, the Kelef receivers are
powered, the watch of R62 starts, and the hub controller starts from its boot ROM, whose first act is
to read the stored debug lock (R427, R465). -/
def State.shellPorEnd (s : State) : State :=
  if s.tu.porDone then s
  else
    let s : State := { s with
      tu := { s.tu with porDone := true }, dp := { s.dp with locked := s.store.lock }, pins := ⟨some false, some false, some false, some false⟩ }
    ((List.range 16).foldl State.klfToDetect s).alarmSync

def execShellPorEnd (s : State) : Host.Outcome State Fault Refusal := .next s.shellPorEnd

/-! ### Roles and release (R19, R33) -/

/-- A write of a SEAM_ROLE register; the first write that releases a die (R33), or a rejected role set, locks
them (R19, R433). -/
def State.roleWrite (s : State) (off v : Nat) : State :=
  if s.hub.locked || s.hub.reasons.any fun e => e.2 == 4 then s.wr pgSeam SEAM_STAT.ROLE_LOCKED 1
  else
    let m := typeMask pgSeam off (· == .rw)
    ((s.disarm pgSeam).setReg pgSeam off (merge m (s.reg pgSeam off) (BitVec.ofNat 32 v))).crcSee s pgSeam

/-- The offsets of the SEAM_ROLE registers. -/
def roleOff (off : Nat) : Bool := decide (0xC0 ≤ off ∧ off ≤ 0xD0) && off % 4 == 0

def execSeamRoleWrite (off v : Nat) (s : State) : Host.Outcome State Fault Refusal :=
  .next (if roleOff off then s.guarded pgSeam off (·.roleWrite off v) else s)

/-- SEAM_RELEASE: releases the dies that are present, not lost and not yet released, and REL shows their
bits. Only initiator 0x02 may write it. -/
def State.seamRelease (s : State) (init v : Nat) : State :=
  if init ≠ 2 then s
  else
    let ds := [0, 1, 2, 3, 4, 5, 6].filter fun d =>
      maskBit v d && maskBit (s.rd pgSeam SEAM_PKG.PRESENT) d && !(s.die d).lost && !s.released d
    if ds.isEmpty then s
    else
      let s := ds.foldl (fun s d => (s.dieBit SEAM_PKG.RELEASED d true).dieBit SEAM_RELEASE.REL d true) s
      let s : State := { s with hub := { s.hub with first := true, locked := true } }
      s.doneSync

def execSeamReleaseWrite (init v : Nat) (s : State) : Host.Outcome State Fault Refusal :=
  .next (s.guarded pgSeam 0x48 (·.seamRelease init v))

/-! ### Package reset (R29) -/

/-- The selvage die resets, and every die with it. What survives is the persistent store; the DRAM
contents are lost. The model's own queue and counter of free values go on. -/
def State.packageReset (s : State) : State :=
  let r := State.reset
  { r with
    fresh := s.fresh, resp := s.resp, pending := s.pending, store := s.store,
    drcs := (List.range 8).map fun k => (k, ({ epoch := (s.drc k).epoch + 1 } : DrcX)) }

def execSelvageReset (s : State) : Host.Outcome State Fault Refusal := .next s.packageReset

/-! ### Brown-out (R441) -/

/-- BROWN_OUT: kind 0 undervoltage, `x` in mV, 1 the low-current limit, `x` in mA. A panel core takes its die with it, the
selvage core the package. -/
def State.brownOut (s : State) (d kind x : Nat) : State :=
  if !s.canBrown d kind x then s
  else if d = 144 then s.packageReset
  else if domCore d then (s.brownRecord d kind).dieLost (domDie d)
  else s.brownDomain d kind

def execBrownOut (d kind x : Nat) (s : State) : Host.Outcome State Fault Refusal :=
  .next (s.atOnce (·.brownOut d kind x))

end Sys2Proof.Machine
end

