-- ==== Sys2Proof/Machine/Holdover.lean ====
section
/-! DEFINITION. The reference signal and its judgement (R62–R65), the loss and the return of the parent's signal
(R80–R82), and the withdrawal of the clocks after holdover with their return (R83, R84). -/

namespace Sys2Proof.Machine

/-! ### Reference and judgement (R62–R65) -/

/-- A lane 0 gains signal detect and data lock. -/
def State.refSignal (s : State) (p : Nat) (eyes : List Nat) : State := (s.laneSd p 0).laneLocks p 0 eyes

/-- REF_SIGNAL_QUALIFY: a lane 0 has gained signal detect and data lock (R62). -/
def State.refQualify (s : State) (p : Nat) (eyes : List Nat) : State :=
  if s.tu.porDone && s.portOk p && s.laneRuns p then
    let s := s.refSignal p eyes
    if s.tu.hasRef then s
    else match s.nextRef 16 15 with
      | none => s
      | some q => s.takeRef q
  else s

def execRefSignalQualify (p : Nat) (eyes : List Nat) (s : State) : Host.Outcome State Fault Refusal :=
  .next (s.refQualify p eyes)

/-- JUDGED sets. The first time, the package reference starts and the clocks of R428 are enabled;
after a withdrawal only the Kelef ports and their lanes restart (R65, R84, R428). -/
def State.judged (s : State) : State :=
  let s := (s.wr pgClk CLK_ROOT_STAT.JUDGED 1)
  let s := { s with tu := { s.tu with dark := false } }
  let s := if s.tu.everJudged then s
    else
      let s := { s with tu := { s.tu with everJudged := true } }
      let s := (judgedPages s).foldl (fun s pg => s.wrCov pg PAGE_CTL.CLK_EN 1) s
      [1, 2, 3, 4].foldl State.refStart s
  (List.range 16).foldl State.klfWake s

/-- A judgement window ends with a count of the F0/64 output and with the lock detector held or
not: it passes within ±500 ppm of 32,768, and sixteen in a row set JUDGED (R63). A lock that the
detector loses sets LOCK_LOST (DEDUCED from the event's name). -/
def State.windowEnd (s : State) (count : Nat) (held : Bool) : State :=
  if s.tu.hasRef && !s.on pgClk CLK_ROOT_STAT.JUDGED && decide (s.tu.tried < 64) then
    let s := if s.on pgClk CLK_ROOT_STAT.PLL_LOCK && !held then s.ev pgClk 9 else s
    let (dev, s) := s.quot (((count : Int) - 32768) * 1000000) 32768
    let s := (s.wr pgClk CLK_ROOT_STAT.DEV (satSigned 16 dev)).wr pgClk CLK_ROOT_STAT.PLL_LOCK
      (bit held)
    let s := { s with tu := { s.tu with tried := s.tu.tried + 1 } }
    if held && decide (32752 ≤ count ∧ count ≤ 32784) then
      let s := s.wr pgClk CLK_ROOT_STAT.WINDOWS (s.rd pgClk CLK_ROOT_STAT.WINDOWS + 1)
      if s.rd pgClk CLK_ROOT_STAT.WINDOWS = 16 then s.judged else s
    else s.wr pgClk CLK_ROOT_STAT.WINDOWS 0
  else s

def execJudgeWindowEnd (count : Nat) (held : Bool) (s : State) :
    Host.Outcome State Fault Refusal := .next (s.windowEnd count held)

/-! ### Loss and return of the parent's signal (R80–R82) -/

/-- The shell detects loss of signal on the active parent (R80); its port goes down as for any loss of signal
(R334, R377). -/
def State.parentLoss (s : State) : State :=
  let p := s.rd pgTime TIME_STAT.ACTIVE_PORT
  if s.clocksOnFor pgTime then ((s.signalGone p 0).laneDrop p 1).enterHoldover else s

def execParentSignalLoss (s : State) : Host.Outcome State Fault Refusal := .next s.parentLoss

/-- The primary's signal returns during holdover: a qualifying alternate still goes first (R82). -/
def State.parentReturn (s : State) : State :=
  if s.on pgTime TIME_STAT.HOLDOVER && s.clocksOnFor pgTime then s.laneSd (s.rd pgTime TIME_PARENT.PRIMARY) 0
  else s

def execParentSignalReturn (s : State) : Host.Outcome State Fault Refusal := .next s.parentReturn

/-! ### Withdrawal (R83, R84) -/

/-- HOLDOVER_EXPIRY: 1,280,000 G on the held clock without a relock; of a device that still waits for UNGATE the Kelef
ports, their lanes and the time unit stop again. A holdover for a parent that became
too deep keeps its reference and its links (R75), so it has no held clock and does not expire. -/
def State.withdraw (s : State) : State :=
  if !s.on pgClk CLK_ROOT_STAT.HOLDOVER || s.tu.dark then s
  else
    let s := { s with now := max s.now (s.tu.holdStart + 1280000) }
    let s := if s.on pgClk CLK_ROOT_STAT.GATED then s
      else [1, 2, 3, 4].foldl (fun s p => s.catPace (pgCat p)) ((List.range 8).foldl (fun s k => s.drcWithdraw k) (s.endAllRuns 8))
    let s := (s.pages.map (·.1)).foldl State.crcAbandon s
    let s := ((s.wr pgClk CLK_ROOT_STAT.GATED 1).wr pgTime TIME_STAT.VALID 0).wr pgTime TIME_STAT.DEPTH 63
    let s := (List.range 16).foldl (fun s p => s.setBeacon p { s.beacon p with t1 := none }) s
    let s := { s with tu := { s.tu with
        dark := true, stepped := false, confirm := 0, thetas := [], goal := 0, fast := false, switch := none } }
    ((s.ev pgTime 12).raise pgTime 3 (some 12)).ev pgClk 10

/-- Signal detect and data lock return after a withdrawal on the primary or the alternate, the
primary first: lock is judged anew (R84). DESIGN CHOICE: both HOLDOVER bits clear as the signal returns,
since the control word is no longer held and no rule says when they do. -/
def State.clockRecovery (s : State) (p : Nat) (eyes : List Nat) : State :=
  let prim := s.rd pgTime TIME_PARENT.PRIMARY
  if s.tu.dark && s.portOk p
      && (p == prim || (p == s.rd pgTime TIME_PARENT.ALTERNATE && !s.refQualifies prim)) then
    let s := s.refSignal p eyes
    if s.refQualifies p then
      let s := (s.wr pgClk CLK_ROOT_STAT.JUDGED 0).wr pgClk CLK_ROOT_STAT.HOLDOVER 0
      let s := s.wr pgTime TIME_STAT.HOLDOVER 0
      let s := { s with tu := { s.tu with stepped := false, confirm := 0, thetas := [], goal := 0,
                                          fast := false, switch := none } }
      s.takeRef p
    else s
  else s

def execClockRecovery (p : Nat) (eyes : List Nat) (s : State) : Host.Outcome State Fault Refusal :=
  .next (s.clockRecovery p eyes)

def execHoldoverExpiry (s : State) : Host.Outcome State Fault Refusal := .next (s.atOnce State.withdraw)

/-- CLK_ROOT_CTL.UNGATE: refused unless JUDGED and VALID are both 1; the withdrawn domains start
and the DRAM channels return (R266). -/
def State.ungate (s : State) : State :=
  if !s.on pgClk CLK_ROOT_STAT.JUDGED || !s.on pgTime TIME_STAT.VALID then s.ev pgClk 11
  else if !s.on pgClk CLK_ROOT_STAT.GATED then s
  else
    let s := [1, 2, 3, 4].foldl (fun s p => s.catPace (pgCat p)) s
    let s := (List.range 8).foldl (fun s k => s.drcReturn k) (s.wr pgClk CLK_ROOT_STAT.GATED 0)
    [1, 2, 3, 4].foldl (fun s p => s.catWake (pgCat p)) s

def execUngate (s : State) : Host.Outcome State Fault Refusal :=
  .next (s.guarded pgClk 0x48 (·.ungate))

end Sys2Proof.Machine
end

