-- ==== Sys2Proof/Machine/Hooks.lean ====
section
/-! DEFINITION. What the application of a pending set does in each kind of page, the boundaries at
which sets apply, and the budget-period boundary (R41, R42, R324, R498). -/

namespace Sys2Proof.Machine

/-! ### Boundary-time checks of single pages -/

/-- A window of a patch site: base, size, both 48 bits wide (R318). -/
def State.patBase (s : State) (pg w : Nat) : Nat :=
  s.rd pg (PAT_Wk_BASE_LO.BASE.nth w) + 2 ^ 32 * (s.rd pg (PAT_Wk_BASE_HI.BASE.nth w) % 2 ^ 16)
def State.patSize (s : State) (pg w : Nat) : Nat :=
  s.rd pg (PAT_Wk_SIZE_LO.SIZE.nth w) + 2 ^ 32 * (s.rd pg (PAT_Wk_SIZE_HI.SIZE.nth w) % 2 ^ 16)

/-- The window keeps R318: multiples of 4 KB, and a size that is not zero. -/
def State.patShape (s : State) (pg w : Nat) : Bool :=
  s.patBase pg w % 4096 == 0 && s.patSize pg w % 4096 == 0 && s.patSize pg w != 0

/-- The two streams of a site come from one panel, which has one group to carry them (R320). -/
def State.patClash (s : State) (pg : Nat) : Bool :=
  s.on pg (PAT_STRMg.EN.nth 0) && s.on pg (PAT_STRMg.EN.nth 1)
    && s.rd pg (PAT_STRMg.SRC.nth 0) / 4 == s.rd pg (PAT_STRMg.SRC.nth 1) / 4

/-- A register of window `w` was in the set (R318). -/
def State.winSet (s0 : State) (pg w : Nat) : Bool :=
  [PAT_Wk_BASE_LO.BASE, PAT_Wk_BASE_HI.BASE, PAT_Wk_SIZE_LO.SIZE, PAT_Wk_SIZE_HI.SIZE, PAT_Wk_CFG.EN].any
    fun f => s0.inSet pg (f.nth w).off

/-- A set of a PAT page has applied: bad windows that it wrote are reported, and an enable that would give one
panel group two streams is undone, that of stream 1 first. -/
def State.patApplied (s : State) (s0 : State) (pg : Nat) : State :=
  let s := if (List.range 16).any fun w => s0.winSet pg w && s.on pg (PAT_Wk_CFG.EN.nth w) && !s.patShape pg w then s.ev pg 10 else s
  if !s.patClash pg then s
  else
    let back (s : State) (off : Nat) : State := s.setReg pg off (s0.reg pg off)
    let s := if s0.inSet pg 0x64 then back s 0x64 else s
    (if s.patClash pg then back s 0x60 else s).ev pg 11

/-- LIN_Rr_BASE and LIN_Rr_SIZE keep their values while the region's STATE is not OFF. -/
def State.linApplied (s : State) (s0 : State) : State :=
  (List.range 16).foldl (fun s r =>
    if s.linState r = 0 then s
    else [0x100 + 0x40 * r, 0x104 + 0x40 * r].foldl (fun s off =>
      if s0.inSet pgLin off then (s.setReg pgLin off (s0.reg pgLin off)).ev pgLin 13 else s) s) s

/-- The queues whose configuration was in the set (R202, R208). -/
def State.splSet (s : State) (s0 : State) (p : Nat) : State :=
  ((s0.pendingSet (pgSpl p)).map fun e => (e.1 - regKey (pgSpl p) 0x1000) / 4).foldl
    (fun s q => if q < 2048 then s.splApplied p q (s0.on (pgSpl p) (SPL_Q_CFG.EN.nth q)) else s) s

/-- A darner that is switched on starts its visit and its heartbeat interval. -/
def State.darnApplied (s : State) (s0 : State) (p : Nat) : State :=
  if s.on (pgDarn p) DARN_CFG.EN && !s0.on (pgDarn p) DARN_CFG.EN then
    (s.setDarn p { s.darn p with visit := s.now, beat := s.now }).darnRead p
  else s

/-- The pending set of a page has applied; `s0` is the state before. -/
def State.applied (s : State) (s0 : State) (pg : Nat) : State :=
  let d := pg / 512
  let low := pg % 16
  match pageKind pg with
  | some .time => if s0.inSet pg 0x4C then s.parentApplied (s0.rd pgTime TIME_PARENT.PRIMARY) else s
  | some .clkPnl => s.uclkApplied d
  | some .drcMap => s.mapApplied
  | some .drc => s.drcApplied s0 (2 * (d - 1) + low)
  | some .cat => s.catApplied d
  | some .spl => s.splSet s0 d
  | some .gov => s.govSums.deferRefuse
  | some .pat => s.patApplied s0 pg
  | some .lin => s.linApplied s0
  | some .lane => s.laneApplied s0 (if d = 0 then low else 16 + 8 * (d - 1) + low)
  | some .fab => s.fabApplied d ((List.range 16).map fun f => (s0.reg pg (0x100 + 8 * f)).toNat)
  | some .pwr => s.pwrApplied s0
  | some .darn => s.darnApplied s0 d
  | some .edg =>
    let b := 4 * (d - 1) + low
    if s.hasRun b then s else s.settleBank b
  | _ => s

/-! ### Boundaries -/

/-- The pending set of a page applies, with what it does to the block; a set of the GOV page that
would take a class past its capacity is discarded (R324). -/
def State.applyPage (s : State) (pg kind : Nat) (parity : Bool) : State :=
  if !s.on pg PAGE_PEND.PENDING then s
  else if parity || (s.page pg).upset then s.applyCore pg kind true
  else match (if pg = pgGov then s.govRefused else none) with
    | some (c, n) =>
      let s := ((s.wr pgGov GOV_ADMIT.CLASS c).wr pgGov GOV_ADMIT.SUM n).wr pgGov GOV_ADMIT.REFUSED 1
      (s.dropPending pg).ev pgGov 8
    | none => ((s.applyCore pg kind false).applied s pg).crcSee s pg

/-- The native boundaries (R42): a pattern cycle, a refresh interval, two spool operations, or the
budget period. -/
inductive Native where
  | cycle | refresh | spool | budget
  deriving DecidableEq, Repr

def nativeOf (pg : Nat) : Native :=
  match pageKind pg with
  | some .edg => .cycle
  | some .seq => .cycle
  | some .wft => .cycle
  | some .drc => .refresh
  | some .spl => .spool
  | _ => .budget

/-- Budget-period boundaries occur: JUDGED is 1 and the clocks are not withdrawn (R83, R436). -/
def State.periods (s : State) : Bool := s.clocksOn

/-- A write has reached a shadow: kind 3 applies at its end; so does a set that waits for the
boundary between two spool operations, and any set of the PWR page while no period boundary can
occur (R42, R210, R436). -/
def State.afterShadow (s : State) (pg : Nat) : State :=
  let k := s.rd pg PAGE_PEND.KIND
  if k = 3 then s.applyPage pg 3 false
  else if k = 0 ∧ nativeOf pg = .spool ∧ s.running pg then s.applyPage pg 0 false
  else if pg = pgPwr ∧ !s.periods then s.applyPage pg k false
  else s

/-- The pages with a pending set. -/
def State.pendingPages (s : State) : List Nat := (s.shadow.map fun e => e.1 / 2 ^ 20).eraseDups

/-- The set of a page applies at a budget-period boundary. -/
def State.periodSet (s : State) (pg : Nat) : Bool :=
  let k := s.rd pg PAGE_PEND.KIND
  s.pageDomain pg == 0 && (k == 1 || (k == 0 && nativeOf pg == .budget))

/-- The write-backs that wait for budget are tried again (R270). -/
def State.retryBacks (s : State) (k : Nat) : State :=
  let l := (s.drc k).wback
  if l.isEmpty then s
  else l.foldl (fun s ca => s.writeBack k ca) (s.setDrc k { s.drc k with wback := [] })

/-- A launch entry is due at a time or before it. -/
def State.launchDue (s : State) (t : Nat) : Bool :=
  s.on pgTime TIME_STAT.VALID && s.on pgTime PAGE_CTL.CLK_EN
    && s.launch.any fun e => match e.2.ent with
      | some x => decide (x.t ≤ t)
      | none => false

/-- BUDGET_PERIOD_BOUNDARY: the coming multiple of 16,384 G. Launch entries due by then have fired first
(R436). Pending sets apply, a table switch takes effect, balances refill from the budgets now applied,
sums are compared with capacities, and window budgets start anew (R42, R315, R318, R322, R325). -/
def State.budgetBoundary (s : State) (bad : List Nat) : State :=
  let t := boundaryAt 16384 s.now s.tu.periodAt
  if !s.periods || s.launchDue t then s
  else
    let s := { s with now := t, tu := { s.tu with periodAt := t } }
    let s := (s.pendingPages.filter s.periodSet).foldl
      (fun s pg => s.applyPage pg (s.rd pg PAGE_PEND.KIND) (bad.contains pg)) s
    let s := (s.powRecorded.nocTurn).govSums.refill.govOver
    let s : State := { s with pats := (s.pats.map fun e => (e.1, { e.2 with used := [] })).filter fun e => e.2 != {} }
    let s := (List.range 5).foldl (fun s p => if p != 0 && s.running (pgSpl p) then s.splRetry p else s) s
    (List.range 8).foldl (fun s k => s.retryBacks k) s

def execBudgetPeriodBoundary (bad : List Nat) (s : State) : Host.Outcome State Fault Refusal :=
  .next (s.budgetBoundary bad)

/-- REFRESH_INTERVAL_END: a channel's native boundary (R265, R278). -/
def State.refreshEnd (s : State) (k : Nat) (hot : Bool) (bad : List Nat) : State :=
  let pg := pgDrc k
  if !s.clocksOn || (s.die (k / 2 + 1)).lost || s.pageDomain pg != 0 then s
  else
    let s := s.refreshTick k hot
    let s := if s.nativeWaits pg then s.applyPage pg 0 (bad.contains pg) else s
    s.drcMarks k

def execRefreshIntervalEnd (k : Nat) (hot : Bool) (bad : List Nat) (s : State) :
    Host.Outcome State Fault Refusal := .next (if k < 8 then s.refreshEnd k hot bad else s)

end Sys2Proof.Machine
end

