-- ==== Sys2Proof/Machine/Guest.lean ====
section
/-! DEFINITION. The patch-site firewall (R28, R318, R319): windows, violations, isolation, and the
requests that pass it. -/

namespace Sys2Proof.Machine

/-- The response of a code (R311). -/
def BusStatus.ofCode (n : Nat) : BusStatus :=
  [BusStatus.ok, .decode, .align, .gated, .off, .absent, .dieDown, .ecc, .tag, .denied, .notReady,
    .lineExhausted, .unreachable, .noBudget, .firewall, .routeOff].getD n .ok

def State.pat (s : State) (site : Nat) : PatX := s.pats.getD (site - 5) {}
def State.setPat (s : State) (site : Nat) (x : PatX) : State :=
  { s with pats := s.pats.setD (site - 5) {} x }

/-- The lowest-numbered enabled window of a direction that contains an access. -/
def State.patWindow (s : State) (pg : Nat) (dir : Nat) (a n : Nat) : Option Nat :=
  (List.range 16).find? fun w =>
    s.on pg (PAT_Wk_CFG.EN.nth w) && s.patShape pg w && s.rd pg (PAT_Wk_CFG.DIR.nth w) == dir
      && decide (s.patBase pg w ≤ a ∧ a + n ≤ s.patBase pg w + s.patSize pg w)

/-- A violation (R319): counted, recorded, and raised in the security class, whatever PAGE_ALARM_EN
holds; at ISOLATE_AT the site is isolated. -/
def State.patViolation (s : State) (pg dir op a cause : Nat) : State :=
  let s := (s.bump pg PAT_VIOL.COUNT 1).wrPair pg PAT_LAST_LO.ADDR PAT_LAST_HI.ADDR (a % 2 ^ 48)
  let s := ((s.wr pg PAT_LAST_INFO.OP op).wr pg PAT_LAST_INFO.DIR dir).wr pg PAT_LAST_INFO.CAUSE cause
  let s := (s.ev pg 8).raise pg 1 (some 8)
  let lim := s.rd pg PAT_CFG.ISOLATE_AT
  if lim ≠ 0 ∧ lim ≤ s.rd pg PAT_VIOL.COUNT ∧ !s.on pg PAT_VIOL.ISOLATED then
    (s.wr pg PAT_VIOL.ISOLATED 1).ev pg 9
  else s

/-- What the firewall decides on a request: its cause, or the window that admits it. -/
def State.patJudge (s : State) (pg dir op a n : Nat) (remote : Bool) : Except Nat Nat :=
  if s.on pg PAT_VIOL.ISOLATED then .error 5
  else if dir = 0 ∧ 3 ≤ op then .error 4
  else if dir = 0 ∧ remote then .error 3
  else match s.patWindow pg dir a n with
    | none => .error 0
    | some w =>
      if !s.on pg (if op = 0 then PAT_Wk_CFG.RD.nth w else PAT_Wk_CFG.WR.nth w) then .error 1
      else if dir = 0 ∧ a < 2 ^ 42 ∧ !s.on pg (PAT_Wk_CFG.PLAIN.nth w) then .error 2
      else .ok w

/-- A window that has admitted its BUDGET in this period. -/
def State.patSpent (s : State) (site w : Nat) : Bool :=
  let b := s.rd (pgPat site) (PAT_Wk_CFG.BUDGET.nth w)
  b != 0 && decide (b ≤ (s.pat site).used.getD w 0)

/-- A request passes a window. -/
def State.patPass (s : State) (site w : Nat) : State :=
  let x := s.pat site
  s.setPat site { x with used := x.used.setD w 0 (x.used.getD w 0 + 1) }

/-- A request to the guest die of a site: the answer, `none` while it waits for its window's next
period. What a guest die answers is its own matter: status and data are free values. -/
def State.guestTo (s : State) (site op a n : Nat) : Option (BusStatus × Nat) × State :=
  match s.dieCheck site with
  | some e => (some (e, 0), s.synth site e)
  | none =>
    match s.patJudge (pgPat site) 1 op a n false with
    | .error c => (some (.firewall, 0), s.patViolation (pgPat site) 1 op a c)
    | .ok w =>
      if s.patSpent site w then (none, s)
      else
        let (st, s) := (s.patPass site w).draw 4
        let (d, s) := s.draw (8 * n)
        (some (.ofCode st, if st = 0 ∧ op = 0 then d else 0), s)

/-- The site that a local address names: its on-die window or its control pages (R30, R31). -/
def siteOf (a : Nat) : Option Nat :=
  let d :=
    if 0x080000000000 ≤ a ∧ a < 0x080040000000 then a / 2 ^ 27 % 8
    else if 0x0C0000000000 ≤ a ∧ a < 0x0C0002000000 then a / 2 ^ 21 % 8
    else 0
  if d = 5 ∨ d = 6 then some d else none

/-- A peek of a guest-die page: judged as the normal read of the page, with no effect on the firewall (R36). -/
def State.guestPeek (s : State) (site a n : Nat) : Option (BusStatus × Nat) × State :=
  match s.dieCheck site with
  | some e => (some (e, 0), s)
  | none =>
    match s.patJudge (pgPat site) 1 0 a n false with
    | .error _ => (some (.firewall, 0), s)
    | .ok w =>
      if s.patSpent site w then (none, s)
      else
        let (st, s) := s.draw 4
        let (d, s) := s.draw (8 * n)
        (some (.ofCode st, if st = 0 then d else 0), s)

/-- An access that reaches a site as it comes from the bus; the peek alias takes no write (R36). -/
def State.guestAccess (s : State) (site op a n : Nat) : Option (BusStatus × Nat) × State :=
  if 0x0C0001000000 ≤ a then
    if op ≠ 0 then (some (.decode, 0), s) else s.guestPeek site (a - 0x1000000) n
  else s.guestTo site op a n

end Sys2Proof.Machine
end

