-- ==== Sys2Proof/Machine/Launch.lean ====
section
/-! DEFINITION. The launch table (R85–R90): adding, cancelling and reading entries, and what they do when
they fire. -/

namespace Sys2Proof.Machine

def State.lslot (s : State) (i : Nat) : LaunchSlot := s.launch.getD i {}
def State.setLslot (s : State) (i : Nat) (x : LaunchSlot) : State :=
  { s with launch := s.launch.setD i {} x }

/-- The occupied slots. -/
def State.launchUsed (s : State) : Nat := (s.launch.filter fun e => e.2.ent.isSome).length

/-- TIME_LNCH_USED.USED follows the table. -/
def State.launchSync (s : State) : State := s.wr pgTime TIME_LNCH_USED.USED s.launchUsed

/-- TIME_LNCH_RES reports. -/
def State.launchRes (s : State) (st index gen : Nat) : State :=
  ((s.wr pgTime TIME_LNCH_RES.STATUS st).wr pgTime TIME_LNCH_RES.INDEX index).wr pgTime
    TIME_LNCH_RES.GEN gen

/-- The lowest free slot from `i` on, among `n` slots. -/
def State.freeSlotFrom (s : State) : Nat → Nat → Option Nat
  | 0, _ => none
  | n + 1, i => if (s.lslot i).ent.isNone then some i else s.freeSlotFrom n (i + 1)

/-- The slot that an added entry takes: the spec does not say which free slot; `pick` proposes one. -/
def State.launchSlotFor (s : State) (pick : Nat) : Option Nat :=
  if (s.lslot (pick % 1024)).ent.isNone then some (pick % 1024) else s.freeSlotFrom 1024 0

/-- OP = 1: the staged entry is added (R87). DESIGN CHOICE: INDEX and GEN of a result that is not OK are 0. -/
def State.launchAdd (s : State) (pick : Nat) : State :=
  let act := s.rd pgTime TIME_LNCH_ACT.ACTION
  let t := s.rdPair pgTime TIME_LNCH_T_LO.T TIME_LNCH_T_HI.T
  if act = 0 ∨ 6 ≤ act then s.launchRes 4 0 0
  else if !s.on pgTime TIME_STAT.VALID then s.launchRes 7 0 0
  else if t % 8 ≠ 0 then s.launchRes 3 0 0
  else if t < s.time + 2048 then s.launchRes 2 0 0
  else match s.launchSlotFor pick with
    | none => (s.launchRes 1 0 0).ev pgTime 16
    | some i =>
      let gen := ((s.lslot i).gen + 1) % 64
      let e : LaunchEnt := ⟨t, act, s.on pgTime TIME_LNCH_ACT.FULL_LOAD,
        s.rd pgTime TIME_LNCH_ACT.EVENT, s.rd pgTime TIME_LNCH_ARG.ARG, gen⟩
      ((s.setLslot i ⟨some e, gen, false, true⟩).launchSync).launchRes 0 i gen

def execLaunchAdd (pick : Nat) (s : State) : Host.Outcome State Fault Refusal :=
  .next (s.guarded pgTime 0x110 (·.launchAdd pick))

/-- What a cancel or a read finds of a named entry: 6 FIRED, 0 OK, 5 GONE, in that order (R89). -/
def LaunchSlot.look (x : LaunchSlot) (gen : Nat) : Nat :=
  match x.ent with
  | none => if x.used && x.fired && x.gen == gen then 6 else 5
  | some e => if e.gen = gen then 0 else 5

/-- A slot is freed; it keeps the generation of the entry that left it, and whether it fired. -/
def LaunchSlot.freed (x : LaunchSlot) (fired : Bool) : LaunchSlot := { x with ent := none, fired := fired }

/-- OP = 2 (R89). -/
def State.launchCancel (s : State) (i gen : Nat) : State :=
  let r := (s.lslot i).look gen
  let s := if r = 0 then (s.setLslot i ((s.lslot i).freed false)).launchSync else s
  s.launchRes r i gen

def execLaunchCancel (i gen : Nat) (s : State) : Host.Outcome State Fault Refusal :=
  .next (s.guarded pgTime 0x110 (·.launchCancel (i % 1024) (gen % 64)))

/-- OP = 3 (R89). -/
def State.launchRead (s : State) (i gen : Nat) : State :=
  let r := (s.lslot i).look gen
  let s := match (s.lslot i).ent with
    | some e =>
      if r = 0 then
        let s := s.wrPair pgTime TIME_LNCH_T_LO.T TIME_LNCH_T_HI.T e.t
        let s := (s.wr pgTime TIME_LNCH_ACT.ACTION e.action).wr pgTime TIME_LNCH_ACT.FULL_LOAD (bit e.fullLoad)
        (s.wr pgTime TIME_LNCH_ACT.EVENT e.event).wr pgTime TIME_LNCH_ARG.ARG e.arg
      else s
    | none => s
  s.launchRes r i gen

def execLaunchRead (i gen : Nat) (s : State) : Host.Outcome State Fault Refusal :=
  .next (s.guarded pgTime 0x110 (·.launchRead (i % 1024) (gen % 64)))

/-! ### Firing (R88) -/

/-- The order of the actions of one instant. -/
def actOrder (a : Nat) : Nat :=
  if a = 2 then 0 else if a = 3 then 1 else if a = 4 then 2 else if a = 1 then 3 else 4

/-- Entries fire: VALID is 1, and the TIME page runs (R90). -/
def State.launchOn (s : State) : Bool :=
  s.on pgTime TIME_STAT.VALID && s.on pgTime PAGE_CTL.CLK_EN && s.clocksOn

/-- One entry fires before another: the earlier time, then the order of actions, then the slot. -/
def firesBefore (a : Nat × LaunchEnt) (b : Nat × LaunchEnt) : Bool :=
  decide (a.2.t < b.2.t) || (a.2.t == b.2.t &&
    (decide (actOrder a.2.action < actOrder b.2.action)
      || (actOrder a.2.action == actOrder b.2.action && decide (a.1 < b.1))))

/-- The entries held, with their slots. -/
def State.launchEnts (s : State) : List (Nat × LaunchEnt) :=
  s.launch.filterMap fun e => e.2.ent.map ((e.1, ·))

/-- The entry of a slot is the next to fire, its time has not passed, and it has this action. -/
def State.launchNext (s : State) (i action : Nat) : Option LaunchEnt :=
  match (s.lslot i).ent with
  | none => none
  | some e =>
    if s.launchOn && e.action == action && decide (s.time ≤ e.t)
        && s.launchEnts.all fun x => !firesBefore x (i, e) then some e else none

/-- An entry fires at its time: its slot is freed, and a fire in a suspect window is flagged (R79). -/
def State.launchFire (s : State) (i action : Nat) (f : LaunchEnt → State → State) : State :=
  match s.launchNext i action with
  | none => s
  | some e =>
    let s := { s with now := max s.now e.t }
    let s := (s.setLslot i ((s.lslot i).freed true)).launchSync
    let s := if s.on pgTime TIME_STAT.SUSPECT then s.ev pgTime 15 else s
    f e s

/-- COMMIT: the pages with KIND 2, a pending set, and their group in the mask (R42). -/
def State.launchCommit (mask : Nat) (s : State) : State :=
  (s.pendingPages.filter fun pg =>
    s.rd pg PAGE_PEND.KIND == 2 && maskBit mask (s.rd pg PAGE_BNDRY.GROUP) && s.pageDomain pg == 0).foldl
    (fun s pg => s.applyPage pg 2 false) s

def execLaunchCommit (i : Nat) (s : State) : Host.Outcome State Fault Refusal :=
  .next (s.launchFire i 2 fun e => State.launchCommit e.arg)

def execLaunchRelease (i : Nat) (s : State) : Host.Outcome State Fault Refusal :=
  .next (s.launchFire i 3 fun e s => if s.running pgCfg then s.cfgRelease e.fullLoad e.arg e.t else s)

/-- A register pair is copied. -/
def State.copyPair (s : State) (pg : Nat) (fl fh tl th : Fld) : State :=
  (s.wr pg tl (s.rd pg fl)).wr pg th (s.rd pg fh)

/-- The counters of one class as they stand (R86, R150, R178, R238, R279, R322, R349); a block that is
gated or not on copies nothing (R56). -/
def State.snapClass (s : State) (c : Nat) : State :=
  let on (n : Nat) (pg : Nat → Nat) (f : State → Nat → State) : State :=
    ((List.range n).filter fun i => s.running (pg i)).foldl f s
  if c = 0 then
    on 4 (fun i => pgCat (i + 1)) fun s i => (List.range 64).foldl (fun s n =>
      s.copyPair (pgCat (i + 1)) (CAT_FCNTn_LO.COUNT.nth n) (CAT_FCNTn_HI.COUNT.nth n)
        (CAT_FSNAPn_LO.COUNT.nth n) (CAT_FSNAPn_HI.COUNT.nth n)) s
  else if c = 1 then
    on 16 pgSeq fun s b => s.copyPair (pgSeq b) SEQ_CYCLE_LO.COUNT SEQ_CYCLE_HI.COUNT
      SEQ_SNAP_CYC_LO.COUNT SEQ_SNAP_CYC_HI.COUNT
  else if c = 2 then
    on 5 pgNoc fun s d => let x := s.noc d; s.setNoc d { x with snap := x.stats }
  else if c = 3 then
    on 8 pgDrc fun s k =>
      (s.wr (pgDrc k) DRC_ECC_SNAP.COUNT (s.rd (pgDrc k) DRC_ECC_CNT.COUNT)).wr (pgDrc k)
        DRC_UE_SNAP.COUNT (s.rd (pgDrc k) DRC_UE_CNT.COUNT)
  else if c = 4 then
    on 256 pgEng fun s e =>
      (s.eWr e SHU_En_SNAP_LO.COUNT (s.eng e).cyc).eWr e SHU_En_SNAP_HI.COUNT ((s.eng e).cyc / 2 ^ 32 % 2 ^ 16)
  else if c = 5 then
    on 16 pgKlf fun s p =>
      [0x60, 0x64, 0x68, 0x6C, 0x70, 0x74].foldl (fun s off =>
        s.setReg (pgKlf p) (off + 0x40) (s.reg (pgKlf p) off)) s
  else s

def State.launchSnap (mask : Nat) (s : State) : State :=
  ((List.range 6).filter (maskBit mask ·)).foldl State.snapClass s

/-- A vector is still to be delivered that a copy of the fail counters at a time includes (R178). -/
def State.snapWaits (s : State) (t : Nat) : Bool :=
  (List.range 16).any fun b => s.running (pgEdg b) && ((s.vecDue b).map fun d =>
    decide (d + 16 * 256 ≤ t * 256)).getD false

/-- A copy of the fail counters follows the delivery of every vector due 16 G before it. -/
def State.snapFire (s : State) (i : Nat) : State :=
  if (s.launchNext i 4).any fun e => maskBit e.arg 0 && s.snapWaits e.t then s
  else s.launchFire i 4 fun e => State.launchSnap e.arg

def execLaunchSnapshot (i : Nat) (s : State) : Host.Outcome State Fault Refusal := .next (s.snapFire i)

/-- START_SEQ: every ready sequencer or gang that is named starts at T, the others refuse. A panel
that is lost or not released is passed over, and a sequencer with a gated page, or in a gang one of whose
members has one, loses the effect (R88, R145, R432). -/
def State.launchStart (mask t : Nat) (s : State) : State :=
  let named := (List.range 16).filter fun b =>
    maskBit mask b && s.released (b / 4 + 1) && !(s.die (b / 4 + 1)).lost && s.gangRuns b
  (named.map s.leader).eraseDups.foldl (fun s l =>
    if s.rd (pgSeq l) SEQ_RUN.STATE = 2 then s.startRun l t
    else (named.filter fun b => s.leader b == l).foldl (fun s b => s.ev (pgSeq b) 9) s) s

def execLaunchStartSeq (i : Nat) (s : State) : Host.Outcome State Fault Refusal :=
  .next (s.launchFire i 1 fun e => State.launchStart e.arg e.t)

/-- EVENT: a TIME_EVT bit sets, and with TIME_EVT_HOST goes to the host. -/
def State.launchEvent (k t : Nat) (s : State) : State :=
  let s := (List.range 256).foldl (fun s e => if s.eRd e SHU_En_INT_EN.EVT = k then s.engPend e 5 else s) s
  let s := s.wr pgTime TIME_EVT.EVT (maskSet (s.rd pgTime TIME_EVT.EVT) k true)
  if maskBit (s.rd pgTime TIME_EVT_HOST.FWD) k then s.postEvent k t else s

def execLaunchEvent (i : Nat) (s : State) : Host.Outcome State Fault Refusal :=
  .next (s.launchFire i 5 fun e => State.launchEvent e.event e.t)

/-- LAUNCH_MISSED_FREE: once firing is possible, the entries whose T has passed are freed and counted
(R90). -/
def State.launchMissed (s : State) : State :=
  let late := s.launchEnts.filter fun e => decide (e.2.t < s.time)
  if !s.launchOn || late.isEmpty then s
  else
    let s := late.foldl (fun s e => s.setLslot e.1 ((s.lslot e.1).freed false)) s
    ((s.bump pgTime TIME_LNCH_USED.MISSED late.length).ev pgTime 14).launchSync

def execLaunchMissedFree (s : State) : Host.Outcome State Fault Refusal := .next s.launchMissed

end Sys2Proof.Machine
end

