-- ==== Sys2Proof/Machine/Reads.lean ====
section
/-! DEFINITION. What a register read returns (R34–R38, R58): registers that show live state are
computed here, every other register reads its applied value. -/

namespace Sys2Proof.Machine

/-! ### Where the register of an offset is held -/

/-- The home of a page offset: a window register shows the entry that its selector names (R197,
R210, R327). -/
def State.homeOff (s : State) (pg off : Nat) : Nat :=
  match pageKind pg with
  | some .cat =>
    let i := s.rd pg CAT_SITE_SEL.SITE
    if 0x600 ≤ off ∧ off < 0x620 then 0x1000 + 0x40 * i + (off - 0x600)
    else if 0x620 ≤ off ∧ off < 0x660 then 0x3000 + 0x40 * i + (off - 0x620) else off
  | some .spl =>
    let q := 4 * s.rd pg SPL_Q_SEL.QUEUE
    if off = 0x600 then 0x1000 + q else if off = 0x604 then 0x4000 + q
    else if off = 0x608 then 0x6000 + q else if off = 0x60C then 0x8000 + q
    else if off = 0x610 then 0xA000 + q else if off = 0x614 then 0xC000 + q else off
  | some .gov =>
    if 0x100 ≤ off ∧ off < 0x128 then 0x1000 + 0x40 * s.rd pg GOV_SEL.INIT + (off - 0x100) else off
  | _ => off

/-- The page implements the register of this home: SEQ_GANG exists for sequencer 0 only (R125), and
PWR_Dd for the domains of R434. -/
def hasReg (pg off : Nat) : Bool :=
  match pageKind pg with
  | none => false
  | some k =>
    (rowAt k off).isSome && !(k == .seq && off == 0x48 && pg % 4 != 0)
      && !(k == .pwr && decide (0x400 ≤ off) && !domListed ((off - 0x400) / 4))

/-! ### The header (R37, R38) -/

/-- PAGE_ID.BLOCK_TYPE. -/
def blockType : PageKind → Nat
  | .seam => 0x01 | .hub => 0x02 | .mbx => 0x03 | .dbg => 0x04 | .alm => 0x02
  | .clkSel => 0x05 | .clkPnl => 0x05 | .time => 0x06
  | .klfRt => 0x07 | .klfCom => 0x07 | .klfLink => 0x07 | .cfg => 0x08 | .pat => 0x09
  | .pwr => 0x0A | .gov => 0x0B | .noc => 0x0C | .edg => 0x10 | .seq => 0x11 | .wft => 0x12
  | .cat => 0x13 | .spl => 0x14 | .shu => 0x15 | .drc => 0x16 | .drcMap => 0x16 | .lin => 0x17
  | .lane => 0x18 | .fab => 0x19 | .darn => 0x1A

/-- PAGE_ID.INSTANCE: the number of the block within its die. -/
def instanceOf (pg : Nat) : PageKind → Nat
  | .alm => 1
  | .klfRt => 17
  | .klfCom => 16
  | .drcMap => 8
  | .edg => pg % 16
  | .seq => pg % 16
  | .wft => pg % 16
  | .shu => pg % 16
  | .drc => 2 * (pg / 512 - 1) + pg % 16
  | .lane => pg % 16
  | .klfLink => pg % 16
  | .pat => pg % 2
  | _ => 0

def State.pageId (s : State) (pg : Nat) : Nat :=
  match pageKind pg with
  | none => 0
  | some k =>
    let d := pg / 512
    blockType k + instanceOf pg k * 2 ^ 8 + s.rd pgSeam (SEAM_DIEn_ID.REV_LETTER.nth d) * 2 ^ 16
      + s.rd pgSeam (SEAM_DIEn_ID.REV_DIGIT.nth d) * 2 ^ 21 + (1 + Config.blockVers (blockType k) % 15) * 2 ^ 28

/-- The live state of a block that is not held in its PAGE_LEVEL register: bits 5 and [31:8] that
follow other state. -/
def State.liveBits (s : State) (pg : Nat) : List (Nat × Bool) :=
  let b := 4 * (pg / 512 - 1) + pg % 16
  match pageKind pg with
  | some .edg => [(5, (s.bank b).op.isSome), (8, s.hasRun b), (9, (s.bank b).held), (10, (s.bank b).stale)]
  | some .seq => [(5, s.seqBusy b), (8, s.seqState b == 1), (9, s.seqState b == 2),
                  (10, s.seqState b == 3), (11, s.isMember b)]
  | some .wft => [(8, s.isMember b)]
  | some .cat => [(10, (s.cat (pg / 512)).op.isNone && !s.panelBusy (pg / 512))]
  | some .noc => [(8, s.on pg NOC_RTR_STAT.DRAINING), (9, s.on pg NOC_VER.OLD)]
  | some .gov => [(8, s.on pg GOV_OVER.OVER)]
  | some .pat => [(8, s.on pg PAT_VIOL.ISOLATED)]
  | some .darn => [(8, s.on pg DARN_CFG.EN && s.running pg)]
  | some .alm => [(8, s.on pg HUB_ALM_LEVEL.PIN)]
  | _ => []

/-- A domain is in its reset: it comes back from off or from a brown-out (R37, R434). -/
def State.domResets (s : State) (d : Nat) : Bool :=
  s.pow.moves.find d == some 0 && decide (2 ≤ s.rd pgPwr (PWR_Dd.STATE.nth d))

def State.pageLevel (s : State) (pg : Nat) : Nat :=
  let w := (s.reg pg PAGE_LEVEL.BUSY.off).toNat
  let w := putBits (maskSet w 0 (s.running pg)) 2 1 (s.pageDomain pg)
  let w := if s.domResets (domainOf pg) then maskSet w 6 true else w
  (s.liveBits pg).foldl (fun w e => maskSet w e.1 e.2) w

/-! ### Live registers of the blocks -/

/-- The statistics window of a NOC page (R313, R327). -/
def State.nocWindow (s : State) (d off : Nat) : Nat :=
  let pg := pgNoc d
  let i := s.rd pg NOC_STAT_SEL.INIT
  let x := s.noc d
  let t := (if s.on pg NOC_STAT_SEL.SNAP then x.snap else x.stats).getD i {}
  if !initListed i || initDie i != d then 0
  else if off = 0x100 then t.bytes % 2 ^ 32 else if off = 0x104 then t.bytes / 2 ^ 32 % 2 ^ 16
  else if off = 0x108 then t.trans else if off = 0x10C then t.maxLat
  else if off = 0x110 then t.defer else if off = 0x114 then t.nobud
  else if 0x140 ≤ off ∧ off < 0x180 then t.hist.getD ((off - 0x140) / 4) 0 else 0

/-- The live registers of an engine (R212, R229–R233). -/
def State.engReg (s : State) (c off : Nat) : Nat :=
  let e := 16 * c + (off - 0x400) / 0x40
  let x := s.eng e
  let w := (s.reg (pgShu c) off).toNat
  let o := off % 0x40
  let left := (s.eRd e SHU_En_WDOG.PERIOD * 1024 - s.wdogCount e + 1023) / 1024
  let stall := match x.wait with
    | none => false
    | some .irq => false
    | some _ => true
  if o = 0x08 then maskSet (maskSet w 8 stall) 10 x.locked
  else if o = 0x0C then x.pc
  else if o = 0x14 then s.engPends e
  else if o = 0x20 then (match x.tmr with | some t => (t - x.cyc) % 2 ^ 32 | none => 0)
  else if o = 0x28 then putBits w 31 16 left
  else if o = 0x30 then x.cyc % 2 ^ 32
  else if o = 0x34 then x.cyc / 2 ^ 32 % 2 ^ 16
  else w

/-- The selected entry of a DRAM channel's error log (R279). -/
def State.drcLogReg (s : State) (k off : Nat) : Nat :=
  match (s.drc k).log[s.rd (pgDrc k) DRC_LOG_SEL.INDEX]? with
  | none => 0
  | some e =>
    if off = 0x180 then e.ca % 2 ^ 32 else if off = 0x184 then e.ca / 2 ^ 32 % 2 ^ 9
    else if off = 0x188 then e.loc + e.chip % 16 * 2 ^ 10 + e.kind % 4 * 2 ^ 14 + e.cw % 8 * 2 ^ 24
    else if off = 0x18C then e.row % 2 ^ 18
    else if off = 0x190 then e.time % 2 ^ 32 else e.time / 2 ^ 32 % 2 ^ 32

/-- The selected entry of the alarm log (R476). -/
def State.almReg (s : State) (off : Nat) : Nat :=
  match s.alarms[s.rd pgAlm HUB_ALM_LOG_SEL.INDEX]? with
  | none => 0
  | some e =>
    if off = 0x80 then
      e.page % 2 ^ 12 + e.cls % 8 * 2 ^ 12 + e.bitNo.getD 0 % 32 * 2 ^ 16 + bit e.bitNo.isNone * 2 ^ 21
        + e.die % 8 * 2 ^ 24 + 2 ^ 31
    else if off = 0x84 then e.time % 2 ^ 32 else e.time / 2 ^ 32 % 2 ^ 32

/-- What DBG_SHU_RVAL shows: the register or stack entry that DBG_SHU_RSEL names, of a halted
engine (R469). -/
def State.dbgRval (s : State) : Nat :=
  let e := s.rd pgDbg DBG_SHU_SEL.ENGINE
  let x := s.eng e
  let n := s.rd pgDbg DBG_SHU_RSEL.ENTRY
  if s.engState e ≠ 3 then 0
  else
    let sp := s.rd pgDbg DBG_SHU_RSEL.SPACE
    if sp = 0 then
      let c := s.rd pgDbg DBG_SHU_RSEL.REG
      if 8 ≤ c ∧ c < 0x0C ∨ 0x20 ≤ c ∧ c < 0x28 then x.get c else if regOk c then (x.word c).1 else 0
    else if sp = 1 then
      match x.calls.reverse[n]? with
      | some (pc, sr) => pc % 2 ^ 14 + sr % 2 ^ 16 * 2 ^ 16
      | none => 0
    else if sp = 2 then
      match x.loops.reverse[n]? with
      | some (a, e, m) => a % 2 ^ 14 + e % 2 ^ 14 * 2 ^ 16 + m % 2 ^ 16 * 2 ^ 32
      | none => 0
    else 0

/-- What DBG_SEQ_VAL shows of a halted sequencer (R470). -/
def State.dbgSeqVal (s : State) : Nat :=
  let l := s.leader (s.rd pgDbg DBG_SEQ_SEL.SEQ)
  let x := s.seq l
  let n := s.rd pgDbg DBG_SEQ_ENT.ENTRY
  if !x.halted then 0
  else if s.on pgDbg DBG_SEQ_ENT.STACK then (x.calls.reverse[n]?).getD 0 % 2 ^ 24
  else ((x.loops.reverse[n]?).map (·.2)).getD 0 % 2 ^ 24

/-- No tile of a panel belongs to a base or a region that runs. -/
def State.panelQuiet (s : State) (p : Nat) : Bool :=
  s.baseState p != 3 && (List.range 32).all fun r => s.regionTiles r p == 0 || s.regionState r != 3

/-- Registers that show live state of a unit. -/
def State.liveReg (s : State) (pg off : Nat) : Option Nat :=
  let d := pg / 512
  let b := 4 * (d - 1) + pg % 16
  let w := (s.reg pg off).toNat
  match pageKind pg with
  | some .time =>
    if off = 0x40 then some (s.time % 2 ^ 32) else if off = 0x44 then some (s.time / 2 ^ 32) else none
  | some .edg =>
    if off = 0x50 then some (putBits w EDG_CAL_AGE.AGE.hi EDG_CAL_AGE.AGE.lo (min (s.calAge b / 12800) 0xFFFF))
    else if off = 0x10C then some ((s.waveProgress b).reg pg off).toNat
    else if 0x200 ≤ off ∧ off < 0x300 ∧ off % 16 = 12 then
      let c := (off - 0x200) / 16
      let f (i : Fld) (n w : Nat) := putBits w i.hi i.lo n
      some (f EDG_CHn_STAT.STATE (s.chanState b c) (f EDG_CHn_STAT.CMH (Config.free 2 s.fresh % 2)
        (f EDG_CHn_STAT.CML (Config.free 2 s.fresh / 2 % 2) w)))
    else if off = 0x300 then some ((s.bank b).tsq.headD 0 % 2 ^ 32)
    else if off = 0x304 then some ((s.bank b).tsq.headD 0 / 2 ^ 32 % 2 ^ 32)
    else none
  | some .cat =>
    match (s.cat d).op with
    | some (.clearTally b e) =>
      if off = 0x44 then some (putBits w CAT_CMD_STAT.LEFT.hi CAT_CMD_STAT.LEFT.lo (s.tallyNext d b e)) else none
    | _ => none
  | some .wft => if off = 0x104 then some ((s.weftSeen b).weftPeek b) else none
  | some .shu => if 0x400 ≤ off ∧ off < 0x800 then some (s.engReg b off) else none
  | some .drc => if 0x180 ≤ off ∧ off < 0x198 then some (s.drcLogReg (2 * (d - 1) + pg % 16) off) else none
  | some .noc =>
    if 0x100 ≤ off ∧ off < 0x180 then some (s.nocWindow d off)
    else if off = 0x4C then some (s.nocPeek d) else none
  | some .klfRt =>
    if off = 0x48 then some (Config.uid % 2 ^ 32) else if off = 0x4C then some (Config.uid / 2 ^ 32 % 2 ^ 32)
    else if off = 0x54 then some s.rtPeek else none
  | some .lane =>
    let q := if d = 0 then pg % 16 else 16 + 8 * (d - 1) + pg % 16
    let l := (off - 0x100) / 0x40
    if off = 0x40 then some (putBits w LANE_PWR.STATE.hi LANE_PWR.STATE.lo (s.quadState q))
    else if 0x100 ≤ off ∧ off < 0x200 ∧ off % 0x40 = 0x14 then
      some (match (s.quad q).scans.find l with
        | some x => putBits w LANE_SCAN_STATl.POINT.hi LANE_SCAN_STATl.POINT.lo (s.scanPoints x)
        | none => w)
    else none
  | some .cfg =>
    if 0x100 ≤ off ∧ off < 0x120 then
      let m := s.regionTiles (s.rd pg CFG_REG_SEL.REGION) ((off - 0x100) / 8 + 1)
      some (if off % 8 = 0 then m % 2 ^ 32 else m / 2 ^ 32 % 2 ^ 32)
    else none
  | some .fab =>
    if off = 0x44 then
      some ((List.range 9).foldl (fun n c => n + bit (s.netRuns d c) * 2 ^ c) 0)
    else if 0xC0 ≤ off ∧ off < 0x100 then
      some (if s.panelQuiet d || w == 0 then 0
        else (List.range 32).foldl (fun v i => maskSet v i (maskBit v i && !s.tileHeld d (Config.ustatTile ((off - 0xC0) / 4) i))) w)
    else none
  | some .clkSel =>
    if off = 0x44 ∧ s.tu.hasRef ∧ !s.on pgClk CLK_ROOT_STAT.HOLDOVER then some (Config.free 24 s.fresh) else none
  | some .pwr =>
    if 0x400 ≤ off ∧ hasReg pg off then some (putBits w PWR_Dd.CURRENT.hi PWR_Dd.CURRENT.lo (Config.free 12 s.fresh))
    else none
  | some .dbg =>
    if off = 0x48 then
      let e := s.rd pgDbg DBG_SHU_SEL.ENGINE
      let h := s.engState e
      let pd := ((s.eng e).haltAt.isSome && !(s.eng e).stepping) && h == 1
      some (putBits (maskSet (maskSet w 0 (h == 3)) 1 pd) 29 16 (s.eng e).pc)
    else if off = 0x50 then some (s.dbgRval % 2 ^ 32)
    else if off = 0x54 then some (s.dbgRval / 2 ^ 32)
    else if off = 0x70 then some s.dbgSeqVal
    else none
  | some .alm => if 0x80 ≤ off ∧ off < 0x8C then some (s.almReg off) else none
  | _ => none

/-- The registers whose value the spec leaves open: each read shows a free value. -/
def State.openReg (s : State) (pg off : Nat) : Bool :=
  match pageKind pg with
  | some .clkSel => off == 0x44 && s.tu.hasRef && !s.on pgClk CLK_ROOT_STAT.HOLDOVER
  | some .pwr => decide (0x400 ≤ off)
  | some .edg => decide (0x200 ≤ off ∧ off < 0x300 ∧ off % 16 = 12)
  | _ => false

/-- What a read of a register returns now: write-only and self-clearing fields read 0 where no register
bit holds them (R2). -/
def State.value (s : State) (pg off : Nat) : Nat :=
  if off = 0x00 then s.pageId pg
  else if off = 0x0C then s.pageLevel pg
  else match s.liveReg pg off with
    | some v => v % 2 ^ 32
    | none => (s.reg pg (s.homeOff pg off)).toNat

/-- What a normal read does beside returning its value: it clears the RC bits it returned (R58),
and advances a table pointer. A free value has been shown once. -/
def State.readEffect (s : State) (pg off : Nat) : State :=
  let h := s.homeOff pg off
  let m := typeMask pg h (· == .rc)
  let s := if s.openReg pg off then { s with fresh := s.fresh + 1 } else s
  let s := if m = 0 then s else s.setReg pg h (s.reg pg h &&& ~~~m)
  match pageKind pg with
  | some .noc => if off = 0x4C then s.nocAdvance (pg / 512) else s
  | some .klfRt => if off = 0x54 then s.rtAdvance else s
  | some .edg => if off = 0x10C then s.waveProgress (4 * (pg / 512 - 1) + pg % 16) else s
  | some .wft => if off = 0x104 then
      (s.weftSeen (4 * (pg / 512 - 1) + pg % 16)).weftAdvance (4 * (pg / 512 - 1) + pg % 16) else s
  | _ => s

end Sys2Proof.Machine
end

