-- ==== Sys2Proof/Machine/Crc.lean ====
section
/-! DEFINITION. The page CRC (R48–R53): the covered registers, CRC-32C, passes and commits. -/

namespace Sys2Proof.Machine

/-! ### CRC-32C (R49) -/

/-- One bit of the reflected Castagnoli polynomial. -/
def crcBit (c : Nat) : Nat := if c % 2 = 1 then c / 2 ^^^ 0x82F63B78 else c / 2

def crcByte (c b : Nat) : Nat := (List.range 8).foldl (fun c _ => crcBit c) (c ^^^ b)

/-- A word as four bytes, least significant first. -/
def crcWord (c w : Nat) : Nat :=
  crcByte (crcByte (crcByte (crcByte c (w % 256)) (w / 2 ^ 8 % 256)) (w / 2 ^ 16 % 256)) (w / 2 ^ 24 % 256)

def crc32c (ws : List Nat) : Nat := ws.foldl crcWord (2 ^ 32 - 1) ^^^ (2 ^ 32 - 1)

/-! ### Covered registers (R48) -/

/-- An offset put in ascending order. -/
def offInsert (a : Nat) : List Nat → List Nat
  | [] => [a]
  | b :: r => if a ≤ b then a :: b :: r else b :: offInsert a r

def RegRow.copies (r : RegRow) : List Nat := (List.range r.count).map fun i => r.off + r.stride * i

/-- The homes of a page's covered registers in the order of R49: windows follow every other covered
register, entry by entry. -/
def coveredOffs (pg : Nat) : List Nat :=
  match pageKind pg with
  | none => []
  | some k =>
    let rows := (rowsHeader ++ rowsOf k).filter (·.covered)
    let plain := (rows.filter (·.off < 0x1000)).flatMap RegRow.copies
    let win := rows.filter fun r => decide (0x1000 ≤ r.off)
    let n := (win.map (·.count)).headD 0
    (plain.filter (hasReg pg)).foldr offInsert []
      ++ (List.range n).flatMap fun i => win.map fun r => r.off + r.stride * i

/-- The home is a covered register. -/
def covered (pg off : Nat) : Bool :=
  hasReg pg off && match pageKind pg with
    | none => false
    | some k => match rowAt k off with
      | some r => r.covered
      | none => false

/-- What the pass takes of a covered register: its RW and RWS bits. -/
def State.coveredWord (s : State) (pg off : Nat) : Nat :=
  (s.reg pg off &&& typeMask pg off fun t => t == .rw || t == .rws).toNat

def State.pageCrc (s : State) (pg : Nat) : Nat := crc32c ((coveredOffs pg).map (s.coveredWord pg))

/-! ### Passes -/

/-- Passes of a page run: its domain is on and the device's clocks run (R53). -/
def State.crcRuns (s : State) (pg : Nat) : Bool :=
  s.implemented pg && (s.dieCheck (pg / 512)).isNone && s.pageDomain pg == 0 && s.clocksOnFor pg

/-- A periodic pass starts; a page runs one pass at a time. -/
def State.crcStart (s : State) (pg : Nat) : State :=
  if !s.crcRuns pg || (s.page pg).pass.isSome then s
  else s.setPage pg { s.page pg with pass := some ⟨s.now, false, true, false⟩, lastStart := s.now }

/-- An upset has flipped counted bits of an applied register: nothing restores them and nothing disarms, so the
block runs on the upset value, and the passes to come find it (R51, R473). -/
def State.regUpset (s : State) (pg off flip : Nat) : State :=
  if covered pg off then (s.setReg pg off (s.reg pg off ^^^ (BitVec.ofNat 32 flip &&& coverMask pg off))).crcSee s pg
  else s

def execCrcPassStart (pg off flip : Nat) (s : State) : Host.Outcome State Fault Refusal :=
  .next ((s.regUpset pg off flip).crcStart pg)

/-- PAGE_CRC_CTL.COMMIT: whatever pass runs is abandoned, an earlier commit ends refused, and a fresh
pass starts. Where no pass can run the commit ends refused (R52, R53). -/
def State.crcCommit (s : State) (pg : Nat) : State :=
  let s := s.crcAbandon pg
  if !s.crcRuns pg then s.ev pg 2
  else
    let s := s.setPage pg { s.page pg with pass := some ⟨s.now, true, !s.on pg PAGE_PEND.PENDING, false⟩, lastStart := s.now }
    s.wr pg PAGE_CRC_CTL.COMMIT 1

def execCrcCommit (pg : Nat) (s : State) : Host.Outcome State Fault Refusal :=
  .next (s.guarded pg 0x20 (·.crcCommit pg))

/-- A completed pass is compared while CHECK_EN and ARMED are both 1 (R51). -/
def State.crcCompare (s : State) (pg : Nat) : State :=
  if s.on pg PAGE_CRC_CTL.CHECK_EN && s.on pg PAGE_LEVEL.ARMED then
    if s.rd pg PAGE_CRC_NOW.NOW = s.rd pg PAGE_CRC_REF.REF then s.wr pg PAGE_LEVEL.CRC_BAD 0
    else (s.wr pg PAGE_LEVEL.CRC_BAD 1).ev pg 0
  else s

/-- A pass completes. A pass under which a covered register changed may or may not reflect the change,
so its result is a free value (R49). A commit whose conditions held takes the result as the
reference (R52). -/
def State.crcEnd (s : State) (pg : Nat) : State :=
  match (s.page pg).pass with
  | none => s
  | some p =>
    if !s.crcRuns pg then s
    else
      let (v, s) := if p.touched then s.draw 32 else (s.pageCrc pg, s)
      let s := (s.setPage pg { s.page pg with pass := none }).wr pg PAGE_CRC_NOW.NOW v
      let s :=
        if !p.commit then s
        else
          let s := s.wr pg PAGE_CRC_CTL.COMMIT 0
          if p.clean && !s.on pg PAGE_PEND.PENDING then
            (s.wr pg PAGE_CRC_REF.REF v).wr pg PAGE_LEVEL.ARMED 1
          else s.ev pg 2
      s.crcCompare pg

def execCrcPassEnd (pg : Nat) (s : State) : Host.Outcome State Fault Refusal := .next (s.crcEnd pg)

end Sys2Proof.Machine
end

