-- ==== Sys2Proof/Machine/Pages.lean ====
section
/-! DEFINITION. The strobes of PAGE_CTL (R45, R56, R57, R59, R497) and the commands of the alarm
page (R476, R477). -/

namespace Sys2Proof.Machine

/-! ### PAGE_CTL -/

/-- PAGE_CTL.ABORT: acts on the operation of the block; with BUSY at 0 it has no effect (R59). -/
def State.pageAbort (s : State) (pg : Nat) : State :=
  let d := pg / 512
  let low := pg % 16
  if !maskBit (s.pageLevel pg) 5 then s
  else match pageKind pg with
    | some .edg => s.waveAbort (4 * (d - 1) + low)
    | some .seq => s.seqAbort (4 * (d - 1) + low)
    | some .cat => s.catAbort d
    | some .lin => s.linAbort
    | some .shu => s.cluAbort (4 * (d - 1) + low)
    | some .lane => s.laneAbort (if d = 0 then low else 16 + 8 * (d - 1) + low)
    | some .cfg => s.cfgAbort
    | some .hub => (List.range 4).foldl State.moverCut s
    | some .mbx => s.mbxCut 7
    | _ => s

/-- PAGE_CTL.DISCARD: the pending set is dropped (R45). -/
def State.pageDiscard (s : State) (pg : Nat) : State :=
  if s.on pg PAGE_PEND.PENDING then s.dropPending pg else s

/-- PAGE_CTL.CLK_EN takes a value: only a change counts for the page CRC (R50). A set that waits for
the boundary between two spool operations applies as the clock starts. -/
def State.clkEnWrite (s : State) (pg v : Nat) : State :=
  if s.rd pg PAGE_CTL.CLK_EN = v % 2 then s
  else
    let s := ((((s.disarm pg).catPace pg).wr pg PAGE_CTL.CLK_EN v).crcSee s pg).catWake pg
    let s := if 0x50 ≤ pg ∧ pg < 0x70 then s.klfWake (pg % 16) else s
    if s.on pg PAGE_PEND.PENDING then s.afterShadow pg else s

/-- A write of PAGE_CTL (R497). -/
def State.pageCtl (s : State) (pg v : Nat) : State :=
  let s :=
    if maskBit v 1 then s.softReset pg
    else
      let s := if maskBit v 3 then s.pageAbort pg else s
      if maskBit v 4 then s.pageDiscard pg
      else if maskBit v 2 then s.applyPage pg 4 false else s
  s.clkEnWrite pg v

def execPageSoftReset (pg : Nat) (s : State) : Host.Outcome State Fault Refusal :=
  .next (s.guarded pg 0x04 (·.softReset pg))

def execSoftResetDone (pg : Nat) (s : State) : Host.Outcome State Fault Refusal :=
  .next (if s.on pg PAGE_CTL.SOFT_RESET then s.softDone pg else s)

/-- `bad`: a shadow of the set holds a parity error (R46). -/
def execPageCommitNow (pg : Nat) (bad : Bool) (s : State) : Host.Outcome State Fault Refusal :=
  .next (s.guarded pg 0x04 (·.applyPage pg 4 bad))

def execPageAbort (pg : Nat) (s : State) : Host.Outcome State Fault Refusal :=
  .next (s.guarded pg 0x04 (·.pageAbort pg))

def execPageDiscard (pg : Nat) (s : State) : Host.Outcome State Fault Refusal :=
  .next (s.guarded pg 0x04 (·.pageDiscard pg))

def execPageClkEnWrite (pg : Nat) (en : Bool) (s : State) : Host.Outcome State Fault Refusal :=
  .next (s.guarded pg 0x04 (·.clkEnWrite pg (bit en)))

/-! ### The alarm page -/

/-- Writing 1 to bits of HUB_ALM_PEND clears them, but for BOOT while its condition holds (R477). -/
def State.almPendClear (s : State) (v : Nat) : State :=
  let keep := 127 - v % 128
  let keep := if s.on pgAlm HUB_ALM_LEVEL.BOOT then maskSet keep 5 true else keep
  (s.wr pgAlm HUB_ALM_PEND.CLASS (s.rd pgAlm HUB_ALM_PEND.CLASS &&& keep)).alarmSync

def execAlmPendClear (v : Nat) (s : State) : Host.Outcome State Fault Refusal :=
  .next (s.guarded pgAlm 0x40 (·.almPendClear v))

/-- HUB_ALM_CMD.OP = 1 (R476). -/
def State.almClearLog (s : State) : State :=
  let s : State := { s with alarms := [] }
  s.setReg pgAlm HUB_ALM_LOG_LEVEL.COUNT.off 0

def execAlmClearLog (s : State) : Host.Outcome State Fault Refusal :=
  .next (s.guarded pgAlm 0x54 State.almClearLog)

end Sys2Proof.Machine
end

