-- ==== Sys2Proof/Machine/Hub.lean ====
section
/-! DEFINITION. The hub controller (chapter 21): boot, watchdog, notices, the doorbell of the mailbox,
attestation, and the commands of the hub movers. -/

namespace Sys2Proof.Machine

/-- Numbers of stated sizes in bytes, packed with the first lowest. -/
def packBytes : List (Nat × Nat) → Nat
  | [] => 0
  | (n, v) :: r => v % 2 ^ (8 * n) + 2 ^ (8 * n) * packBytes r

/-- Words of an array of registers take the bytes of a number, the first lowest. -/
def State.wrWords (s : State) (pg : Nat) (f : Fld) (n v : Nat) : State :=
  (List.range n).foldl (fun s k => s.wr pg (f.nth k) (v / 2 ^ (32 * k) % 2 ^ 32)) s

/-- The bytes of an array of registers as a number, the first lowest. -/
def State.rdWords (s : State) (pg : Nat) (f : Fld) (n : Nat) : Nat :=
  (List.range n).foldl (fun m k => m + s.rd pg (f.nth k) * 2 ^ (32 * k)) 0

/-- Firmware runs: HUB_BOOT.STATUS is RUNNING. -/
def State.fwRuns (s : State) : Bool := s.rd pgHub HUB_BOOT.STATUS == 1

/-! ### Notices (R460) -/

/-- A notice fills the buffer, and goes to the host as an event where MBX_CFG says so. -/
def State.notePost (s : State) (kind payload len : Nat) : State :=
  let m := packBytes [(1, kind), (1, 0), (2, len), (4, 0), (len, payload)]
  let s := ((s.wrWords pgMbx MBX_NOTEk.DATA 64 m).wr pgMbx MBX_STAT.NOTE 1).ev pgMbx 9
  if s.on pgMbx MBX_CFG.NOTE_EV then s.postEvent (0x40 + kind * 2 ^ 8) s.time else s

/-- Firmware posts a notice: it waits behind at most 8 others while the buffer is full. -/
def State.note (s : State) (kind payload len : Nat) : State :=
  if !s.on pgMbx MBX_STAT.NOTE then s.notePost kind payload len
  else if s.hub.notes.length < 8 then
    { s with hub := { s.hub with notes := s.hub.notes ++ [(kind, len, payload)] } }
  else s.bump pgMbx MBX_STAT.NOTE_LOST 1

/-- MBX_NOTE_ACK frees the buffer for the next notice. -/
def State.noteAck (s : State) : State :=
  let s := s.wr pgMbx MBX_STAT.NOTE 0
  match s.hub.notes with
  | [] => s
  | (kind, len, payload) :: r =>
    let s : State := { s with hub := { s.hub with notes := r } }
    s.notePost kind payload len

def execNoteAck (s : State) : Host.Outcome State Fault Refusal :=
  .next (s.guarded pgMbx 0x4C State.noteAck)

/-! ### Boot (R427, R450, R451) -/

/-- The bytes of an image area. -/
def State.image (s : State) (i : Nat) : Nat := s.store.images.getD i (Config.factoryImage i)

/-- An image passes the checks of R450; one that was written and not committed is never booted (R457). -/
def State.imagePasses (s : State) (i : Nat) : Bool :=
  !s.store.stale.contains i && Config.imageOk (s.image i)
    && decide (s.store.fwMin ≤ Config.imageSvn (s.image i) % 2 ^ 32)

/-- The measurement of an image: the SHA-384 of its stated length. -/
def measure (img : Nat) : Nat :=
  let n := min (Config.imageLen img) 0x600000
  sha384 n img

/-- ALARM_N's BOOT condition no longer holds, but for a fault of the wiring. -/
def State.bootClear (s : State) : State :=
  if s.hub.wiring then s else (s.wr pgAlm HUB_ALM_LEVEL.BOOT 0).alarmSync

/-- Firmware starts from an image; it loads what the configuration controller takes from the store. -/
def State.fwStart (s : State) (i : Nat) (fallback : Bool) : State :=
  let img := s.image i
  let s := s.wrWords pgHub HUB_MEASi.DATA 12 (measure img)
  let s := (s.wr pgHub HUB_BOOT.STATUS 1).wr pgHub HUB_BOOT.IMAGE i
  let s := (s.wr pgHub HUB_BOOT.FALLBACK (bit fallback)).wr pgHub HUB_BOOT.FW_RUN 1
  let s := s.wr pgHub HUB_FW_VER.VER (Config.imageVer img % 2 ^ 32)
  let s : State := { s with hub := { s.hub with svn := Config.imageSvn img % 2 ^ 32 } }
  let s := s.wrCov pgCfg CFG_SVN_MIN.SVN s.store.svnMin
  let s := (s.wr pgCfg CFG_PK_STAT.VALID s.store.pkValid).wr pgCfg CFG_PK_STAT.REVOKED s.store.pkRevoked
  s.bootClear

/-- FIRMWARE_START: the boot ROM ends, with the preferred image, the other one, or none. -/
def State.firmwareStart (s : State) : State :=
  if !s.tu.porDone || s.rd pgHub HUB_BOOT.STATUS != 0 then s
  else
    let i := s.store.pref % 2
    if s.imagePasses i then s.fwStart i false
    else if s.imagePasses (1 - i) then s.fwStart (1 - i) true
    else ((s.wr pgHub HUB_BOOT.STATUS 2).wr pgHub HUB_BOOT.FALLBACK 1).bootAlarm pgHub

def execFirmwareStart (s : State) : Host.Outcome State Fault Refusal := .next s.firmwareStart

/-- FW_START_TIMEOUT: the bound of step 3 passes and no firmware runs yet. -/
def execFwStartTimeout (s : State) : Host.Outcome State Fault Refusal :=
  .next (if s.tu.porDone && s.rd pgHub HUB_BOOT.STATUS == 0 then s.bootAlarm pgHub else s)

/-- A crash record; what it holds is open, and its length at most 16 KB. -/
def State.crashRecord (s : State) : State :=
  let (n, s) := s.draw 14
  let (c, s) := s.draw (8 * (n + 1))
  { s with store := { s.store with crash := some (n + 1, c) } }

/-- HUB_WDOG_EXPIRE: a crash record, the end of the command that runs, and a restart of the same image,
or none after three restarts within 128,000,000,000 G. The image is verified again before it restarts; DESIGN CHOICE: one
that fails is not run, and STATUS reads NO_IMAGE, since R451 names no other image. -/
def State.hubWdog (s : State) : State :=
  if !s.fwRuns then s
  else
    let s := s.crashRecord.mbxCut 8
    let recent := s.hub.restarts.filter fun t => decide (s.now < t + 128000000000)
    if 3 ≤ recent.length then
      ((s.wr pgHub HUB_BOOT.STATUS 3).wr pgHub HUB_BOOT.FW_RUN 0).bootAlarm pgHub
    else if !s.imagePasses (s.rd pgHub HUB_BOOT.IMAGE) then
      ((s.wr pgHub HUB_BOOT.STATUS 2).wr pgHub HUB_BOOT.FW_RUN 0).bootAlarm pgHub
    else
      let s : State := { s with hub := { s.hub with restarts := recent ++ [s.now] } }
      let s := s.bump pgHub HUB_BOOT.RESTARTS 1
      s.note 0x82 (s.reg pgHub HUB_BOOT.STATUS.off).toNat 4

def execHubWdogExpire (s : State) : Host.Outcome State Fault Refusal := .next s.hubWdog

/-! ### The mailbox's doorbell (R454) -/

/-- MBX_DOORBELL.RING submits the command in the buffer; it is ignored while a command runs, and while
no firmware runs or the wiring is at fault (R11). DESIGN CHOICE: "answers over Kelef only with identity and
attestation" is taken to close the mailbox to every initiator, the debug port among them, and to leave the
registers of the hub, mailbox and debug pages answering as usual. -/
def State.mbxRing (s : State) : State :=
  if s.on pgMbx MBX_STAT.BUSY || !s.fwRuns || s.hub.wiring then s.ev pgMbx 8
  else ((s.wr pgMbx MBX_STAT.BUSY 1).wr pgMbx MBX_STAT.REPLY 0).wr pgMbx PAGE_LEVEL.BUSY 1

/-! ### Attestation (R452, R453) -/

/-- HUB_ATT_CMD.GO: the nonce is taken; a GO while a report is being signed is counted and ignored. -/
def State.attGo (s : State) : State :=
  if s.on pgHub HUB_ATT_STAT.BUSY then s.bump pgHub HUB_ATT_STAT.IGNORED 1
  else
    let s : State := { s with hub := { s.hub with signing := some (s.rdWords pgHub HUB_ATT_NONCEj.DATA 8) } }
    s.wr pgHub HUB_ATT_STAT.BUSY 1

def execAttGo (s : State) : Host.Outcome State Fault Refusal :=
  .next (s.guarded pgHub 0xE0 State.attGo)

/-- The FLAGS of a report. -/
def State.attFlags (s : State) : Nat :=
  let run := s.on pgHub HUB_BOOT.FW_RUN
  bit (run && s.on pgHub HUB_BOOT.IMAGE) + bit run * 2 + bit (s.on pgHub HUB_BOOT.FALLBACK) * 4
    + bit s.hub.seenDbg * 8 + bit s.store.lock * 16

/-- Bytes 0x000–0x19F of a report. -/
def State.attBody (s : State) (nonce seq : Nat) : Nat :=
  packBytes ([(4, 0x7440A77E), (2, 1), (2, s.attFlags), (8, Config.uid), (8, s.time),
      (4, s.rd pgSeam SEAM_CAP_EFF.CAP), (4, (s.reg pgSeam SEAM_PKG.PKG_VAR.off).toNat),
      (4, s.rd pgHub HUB_FW_VER.VER), (4, s.hub.svn), (4, s.rd pgCfg CFG_SVN_MIN.SVN), (4, seq),
      (32, nonce), (48, s.rdWords pgHub HUB_MEASi.DATA 12), (48, s.cfg.lastFull)]
    ++ (List.range 7).map (fun d => (4, (s.reg pgSeam (SEAM_DIEn_ID.DIE_ID.nth d).off).toNat))
    ++ [(4, 0), (96, idKey), (112, 0)])

/-- ATT_REPORT_READY: the report that was asked for appears, signed. -/
def State.attReady (s : State) : State :=
  match s.hub.signing with
  | none => s
  | some nonce =>
    let seq := (s.rd pgHub HUB_ATT_STAT.SEQ + 1) % 2 ^ 16
    let body := s.attBody nonce seq
    let (k, s) := s.draw 384
    let sig := ecdsaSign idSecret k 0x1A0 body
    let s : State := { s with hub := { s.hub with signing := none } }
    let s := s.wrWords pgHub HUB_ATT_REPk.DATA 128 (packBytes [(0x1A0, body), (96, sig)])
    ((s.wr pgHub HUB_ATT_STAT.SEQ seq).wr pgHub HUB_ATT_STAT.READY 1).wr pgHub HUB_ATT_STAT.BUSY 0

def execAttReportReady (s : State) : Host.Outcome State Fault Refusal := .next s.attReady

/-! ### Movers (R461) -/

/-- The device that a global address names: 0xFFF and the device's own ID are the device itself. -/
def State.devOf (s : State) (ga : Nat) : Nat :=
  let d := ga / 2 ^ 52 % 4096
  if d = 0xFFF then s.ownDev else d

/-- The two ranges of a copy share a byte of one device. -/
def State.overlap (s : State) (a b n : Nat) : Bool :=
  s.devOf a == s.devOf b && decide (a % 2 ^ 52 < b % 2 ^ 52 + n ∧ b % 2 ^ 52 < a % 2 ^ 52 + n)

/-- MVRm_CTL.GO: a copy starts, or is refused. -/
def State.moverGo (s : State) (m : Nat) : State :=
  let src := s.rdPair pgHub (MVRm_SRC_LO.SRC.nth m) (MVRm_SRC_HI.SRC.nth m)
  let dst := s.rdPair pgHub (MVRm_DST_LO.DST.nth m) (MVRm_DST_HI.DST.nth m)
  let len := s.rd pgHub (MVRm_LEN.LEN.nth m)
  let s := s.wr pgHub (MVRm_STAT.ERR.nth m) 0
  if (s.mover m).run || src % 64 != 0 || dst % 64 != 0 || len % 64 != 0 || len == 0
      || s.overlap src dst len then s.wr pgHub (MVRm_STAT.STATUS.nth m) 3
  else
    let s := s.setMover m { s.mover m with run := true, src := src, dst := dst, len := len, next := 0, done := 0 }
    ((s.wr pgHub (MVRm_STAT.STATUS.nth m) 1).wr pgHub (MVRm_MOVED.MOVED.nth m) 0).moverSync

def execMoverGo (m : Nat) (s : State) : Host.Outcome State Fault Refusal :=
  .next (if m < 4 then s.guarded pgHub 0x214 (·.moverGo m) else s.answer .decode)

def execMoverStop (m : Nat) (s : State) : Host.Outcome State Fault Refusal :=
  .next (if m < 4 then s.guarded pgHub 0x214 (·.moverCut m) else s.answer .decode)

/-! ### The firewall's RESTORE (R319) -/

/-- PAT_CTL.RESTORE ends isolation and zeroes COUNT. -/
def State.patRestore (s : State) (site : Nat) : State :=
  let pg := pgPat site
  (s.wr pg PAT_VIOL.COUNT 0).wr pg PAT_VIOL.ISOLATED 0

def execRestore (site : Nat) (s : State) : Host.Outcome State Fault Refusal :=
  .next (if site = 5 ∨ site = 6 then s.guarded (pgPat site) 0x44 (·.patRestore site) else s)

end Sys2Proof.Machine
end

