-- ==== Sys2Proof/Machine/RegWrite.lean ====
section
/-! DEFINITION. Accesses to the control space (R31, R34–R36, R40–R55, R58): the write of a register
by its field types, the writes that a page refuses for their value (R498), what the command registers
do, reads, and accesses that stall. -/

namespace Sys2Proof.Machine

/-! ### Refused writes (R15, R16, R498) -/

/-- How a refused write is reported: not at all, by an event of the page, or under R15. -/
inductive WriteRefusal where
  | silent
  | event (b : Nat)
  | denied
  deriving DecidableEq, Repr

/-- Bits of the written word that a field takes. -/
def Fld.of (f : Fld) (v : Nat) : Nat := bitsOf v f.hi f.lo

/-- A write to CLK_UCLKn (R67). -/
def State.uclkRefusal (s : State) (v : Nat) : Option WriteRefusal :=
  let d := CLK_UCLKn.DIV.of v
  if d < 16 ∨ 4096 < d then some (.event 9)
  else if d < 24 ∧ !s.cap 9 then some .denied
  else none

/-- A write to SEQ_GANG of panel `p` (R123). -/
def State.gangRefusal (s : State) (p v : Nat) : Option WriteRefusal :=
  let m := SEQ_GANG.MODE.of v
  if (List.range 4).any fun i => s.seqBusy (4 * (p - 1) + i) then some (.event 16)
  else if 4 < m then some .silent
  else if m = 4 ∧ !s.cap 2 then some .denied
  else none

/-- A write to a PAT page (R16, R320). -/
def State.patRefusal (s : State) (off v : Nat) : Option WriteRefusal :=
  if (off = 0x60 ∨ off = 0x64) ∧ PAT_STRMg.EN.of v = 1 ∧ !(s.cap 8 && s.cap 11) then some .denied
  else if 0x100 ≤ off ∧ off % 0x20 = 0x10 ∧ PAT_Wk_CFG.EN.of v = 1 ∧ !s.cap 11 then some .denied
  else none

/-- The refusals that depend only on the value and on state that cannot change while the page runs,
and those of registers that a busy block keeps. -/
def State.writeRefusal (s : State) (pg off v : Nat) : Option WriteRefusal :=
  let d := pg / 512
  match pageKind pg with
  | some .edg =>
    if 0x80 ≤ off ∧ off < 0x100 ∧ EDG_PERIODt.PERIOD.of v < 0x7FF then some (.event 15)
    else if 0x200 ≤ off ∧ off < 0x300 ∧ off % 16 = 0 ∧ EDG_CHn_CFG.MODE.of v = 3 then some (.event 16)
    else none
  | some .clkPnl => if 0x80 ≤ off then s.uclkRefusal v else none
  | some .lane =>
    let q := if d = 0 then pg % 16 else 16 + 8 * (d - 1) + pg % 16
    if off = 0x44 ∧ q < 16 then some .silent
    else if laneStatic q off v then some (.event 10) else none
  | some .fab =>
    if fabStatic off v then some (.event 8)
    else if 0x200 ≤ off ∧ off < 0x220 ∧ off % 8 = 0 ∧ 5 ≤ FAB_SPk_CFG.MODE.of v then some .silent
    else if off = 0x48 ∧ FAB_SEAM_DIR.HORIZ.of v + FAB_SEAM_DIR.VERT.of v ≠ 0 ∧ !s.cap 8 then some .denied
    else none
  | some .pwr => if 0x400 ≤ off ∧ PWR_Dd.REQ.of v = 3 then some .silent else none
  | some .cat => if 0x1000 ≤ off ∧ off % 0x40 = 0 ∧ off < 0x3000 ∧ CAT_S_CFG.MASK_MODE.of v = 3 then some .silent else none
  | some .cfg =>
    if off = 0x50 ∧ v < s.rd pgCfg CFG_SVN_MIN.SVN then some .silent
    else if off = 0x58 ∧ 6 ≤ CFG_REL_CFG.ORDER.of v then some .silent else none
  | some .wft =>
    if (off = 0x44 ∨ off = 0x48) ∧ WFT_SCRt_CFG.EN.of v = 1 ∧ !s.cap 3 then some .denied else none
  | some .seq => if off = 0x48 then s.gangRefusal d v else none
  | some .pat => s.patRefusal off v
  | some .mbx => if 0x100 ≤ off ∧ off < 0x200 ∧ s.on pgMbx MBX_STAT.BUSY then some (.event 8) else none
  | _ => none

def State.refuse (s : State) (pg : Nat) : WriteRefusal → State
  | .silent => s
  | .event b => s.ev pg b
  | .denied => s.capDeny pg

/-! ### Command registers -/

/-- A write to the engine registers of a SHU page: CTL, INT_PEND, DOORBELL, and the channel's CTL. -/
def State.shuWrite (s : State) (c off v : Nat) : Option State :=
  if 0x400 ≤ off ∧ off < 0x800 then
    let e := 16 * c + (off - 0x400) / 0x40
    let o := off % 0x40
    if o = 0x00 then
      let s := if maskBit v 1 then s.engKill e else s
      let s := if maskBit v 0 then s.engStart e else s
      some (if maskBit v 2 then s.modEng e (·.kicked) else s)
    else if o = 0x14 then some (s.pendClear e v)
    else if o = 0x18 then some (if maskBit v 0 then s.engPend e 0 else s)
    else if o = 0x28 then some ((s.wdogSync e).eWr e SHU_En_WDOG.PERIOD v)
    else none
  else if 0x800 ≤ off ∧ off % 0x20 = 0x14 then
    let e := 16 * c + (off - 0x800) / 0x20
    some (if maskBit v 0 then s.fetchGo e (v / 2 % 2) else s.eWr e SHU_Fi_CTL.DIR (v / 2))
  else if off = 0x48 ∨ off = 0x4C then
    some (((List.range 16).filter (maskBit v ·)).foldl (fun s i =>
      if off = 0x48 then s.engStart (16 * c + i) else s.engKill (16 * c + i)) s)
  else none

/-- A write to CAT_CMD and the mask registers. -/
def State.catWrite (s : State) (p off v : Nat) : Option State :=
  if off = 0x40 then
    let op := v % 8
    some (if op = 1 then s.catFlush p else if op = 2 then s.catClearSites p
      else if op = 3 then s.catClearTally p else if op = 4 then s.catClearCounters p else s)
  else if off = 0x68 ∨ off = 0x6C then some (s.catMaskClear p (off == 0x6C) v)
  else if off = 0x70 ∨ off = 0x74 then some (s.catMaskSet p (off == 0x74) v)
  else none

/-- A write to the command registers of a spool page, by an initiator of a device. -/
def State.splWrite (s : State) (p off v init dev : Nat) : Option State :=
  if off = 0x50 then some (s.splFlush p (SPL_FLUSH.QUEUE.of v))
  else if off = 0x140 then
    let h := SPL_OP.HANDLE.of v
    let op := SPL_OP.OP.of v
    some (if op = 1 then s.splOpPush p h init dev (SPL_OP.FIRST.of v == 1) (SPL_OP.LAST.of v == 1)
      else if op = 2 then (let (e, s) := s.splSeen; s.splOpPop p h init e) else s)
  else none

/-- TIME_LNCH_CMD; which free slot an ADD takes is open (R87). -/
def State.launchCmd (s : State) (v : Nat) : State :=
  let op := TIME_LNCH_CMD.OP.of v
  let i := TIME_LNCH_CMD.INDEX.of v
  let g := TIME_LNCH_CMD.GEN.of v
  if op = 1 then (let (k, s) := s.draw 10; s.launchAdd k)
  else if op = 2 then s.launchCancel i g
  else if op = 3 then s.launchRead i g
  else s

/-- LIN_CMD. -/
def State.linWrite (s : State) (v : Nat) : State :=
  let r := LIN_CMD.REGION.of v
  let op := LIN_CMD.OP.of v
  if op = 1 then s.linCmd (·.linEnable r)
  else if op = 2 then s.linCmd (·.linRekey r)
  else if op = 3 then s.linCmd (·.linDisable r)
  else s

/-- SEQ_CTL: ARM, then START_NOW, then PARTNER_LOST. -/
def State.seqCtl (s : State) (b v : Nat) : State :=
  let s := if maskBit v 0 then s.seqArm b else s
  let s := if maskBit v 1 then s.startNow b else s
  if maskBit v 2 then s.partnerLost (s.leader b) else s

/-- LANE_SCAN_CTLl: its RW fields, and the scan that OP starts. -/
def State.scanWrite (s : State) (q l v : Nat) : State :=
  let ph := LANE_SCAN_CTLl.PHASE.of v
  let vo := LANE_SCAN_CTLl.VOLT.of v
  let dw := LANE_SCAN_CTLl.DWELL.of v
  let op := LANE_SCAN_CTLl.OP.of v
  if op = 1 ∨ op = 2 then s.scanCmd q l op ph vo dw
  else ((s.laneWr q l LANE_SCAN_CTLl.PHASE ph).laneWr q l LANE_SCAN_CTLl.VOLT vo).laneWr q l LANE_SCAN_CTLl.DWELL dw

/-- Where a write has an effect of its own in place of storing the word. -/
def State.writeOp (s : State) (pg off v init dev : Nat) : Option State :=
  let d := pg / 512
  let low := pg % 16
  let b := 4 * (d - 1) + low
  match pageKind pg with
  | some .seam => if off = 0x48 then some (s.seamRelease init v) else none
  | some .hub =>
    if off = 0xE0 then some (if maskBit v 0 then s.attGo else s)
    else if 0x200 ≤ off ∧ off < 0x300 ∧ off % 0x40 = 0x14 then
      let m := (off - 0x200) / 0x40
      let s := if maskBit v 1 then s.moverCut m else s
      some (if maskBit v 0 then s.moverGo m else s)
    else none
  | some .mbx =>
    if off = 0x40 then some (if maskBit v 0 then s.mbxRing else s)
    else if off = 0x4C then some (if maskBit v 0 then s.noteAck else s)
    else none
  | some .dbg =>
    if off = 0x44 then some (s.dbgShuCmd (v % 4) (maskBit v 2))
    else if off = 0x50 ∨ off = 0x54 then some (s.rvalWrite (off == 0x54) v)
    else if off = 0x64 then some (s.dbgSeqCmd (v % 4))
    else none
  | some .alm =>
    if off = 0x40 then some (s.almPendClear v)
    else if off = 0x54 then some (if v % 4 = 1 then s.almClearLog else s)
    else none
  | some .time => if off = 0x110 then some (s.launchCmd v) else none
  | some .clkSel => if off = 0x48 then some (if maskBit v 0 then s.ungate else s) else none
  | some .drc =>
    let k := 2 * (d - 1) + low
    if off = 0x78 then
      some (if v % 4 = 1 then s.drcClearLog k else if v % 4 = 2 then s.drcClearCounts k else s)
    else if off = 0x10C then
      some (if maskBit v 1 then s.flipArm k (v % 2) else s.wr pg DRC_FLIP_CTL.SUB v)
    else none
  | some .lin => if off = 0x40 then some (s.linWrite v) else none
  | some .noc =>
    if off = 0x40 then some (if maskBit v 0 then s.nocClear d else s)
    else if off = 0x44 then some (if maskBit v 0 then s.nocSwitch d else s)
    else if off = 0x4C then some (s.nocTblWrite d v)
    else if off = 0x50 then some (s.nocDisable d v)
    else none
  | some .pat => if off = 0x44 then some (if maskBit v 0 then s.patRestore (5 + low) else s) else none
  | some .klfRt =>
    if off = 0x54 then some (s.rtWrite v .clean)
    else if off = 0x60 then some (s.failedClear v)
    else none
  | some .klfLink =>
    if off = 0x40 then
      let s := s.klfEnable low (maskBit v 0)
      some (if maskBit v 1 then s.klfRetrain low else s)
    else none
  | some .lane =>
    if 0x100 ≤ off ∧ off < 0x200 ∧ off % 0x40 = 0x10 then
      some (s.scanWrite (if d = 0 then low else 16 + 8 * (d - 1) + low) ((off - 0x100) / 0x40) v)
    else none
  | some .edg =>
    if off = 0x108 then
      some (if v % 4 = 1 then s.waveWrite b else if v % 4 = 2 then s.waveRead b else s)
    else none
  | some .seq => if off = 0x40 then some (s.seqCtl b v) else none
  | some .wft => if off = 0x104 then some (s.weftWrite b v) else none
  | some .cat => s.catWrite d off v
  | some .spl => s.splWrite d off v init dev
  | some .shu => s.shuWrite b off v
  | _ => none

/-- What follows in the block once a register has taken a word. -/
def State.wrote (s : State) (pg off v : Nat) : State :=
  match pageKind pg with
  | some .alm => if off = 0x44 then s.alarmSync else s
  | some .pwr =>
    if off = 0x80 ∧ !maskBit v 0 then { s with pow := { s.pow with napped := none } } else s
  | some .cfg =>
    if off = 0x40 then
      let s := if maskBit v 0 then s else s.cfgAbort
      if maskBit v 2 then s.confErr false else s
    else s
  | some .seq => if off = 0x48 then s.gangSync (pg / 512) else s
  | _ => s

/-! ### The write of one register -/

/-- The bits of a written word that the register takes: bits 8–15 of the port masks read 0 and ignore
writes while the selvage die lacks KLF_16 (R16), and a program's base has its bits 5–0 at 0. -/
def State.portBits (s : State) (pg off v : Nat) : Nat :=
  if pg = pgKlfRt ∧ (off = 0x5C ∨ off = 0x60 ∨ off = 0x68)
      ∧ !maskBit (s.rd pgSeam (SEAM_DIEn_CAP.CAP.nth 0)) 10 then v % 2 ^ 8
  else if pageKind pg = some .seq ∧ off = SEQ_PROG_BASE_LO.BASE.off then v / 64 * 64
  else v

/-- A word goes into a register: RW fields at once, RWS fields into the shadow (R40, R47). -/
def State.takeWord (s : State) (pg off v : Nat) : State :=
  let w := BitVec.ofNat 32 v
  let rw := typeMask pg off (· == .rw)
  let s := if rw = 0 then s else s.setReg pg off (merge rw (s.reg pg off) w)
  if rwsMask pg off = 0 then s else s.shadowWrite pg off w

/-- A write to a header register (R37, R43, R497). PAGE_CTL disarms the page itself where CLK_EN
changes (R50). -/
def State.headerWrite (s : State) (pg off v : Nat) : State :=
  if off = 0x04 then s.pageCtl pg v
  else if off = 0x14 then
    if s.on pg PAGE_PEND.PENDING then s.ev pg 3 else (s.disarm pg).takeWord pg off v
  else if off = 0x20 then
    let s := s.takeWord pg off v
    if maskBit v 1 then s.crcCommit pg else s
  else if off = 0x24 then (s.disarm pg).takeWord pg off v
  else s

/-- What the write of one register does: an offset that the page does not implement ignores the write
(R35). -/
def State.regTake (s : State) (pg off v init dev : Nat) : State :=
  let h := s.homeOff pg off
  if !hasReg pg h then s
  else if h < 0x40 then s.headerWrite pg h v
  else if pg = pgSeam ∧ roleOff h then s.roleWrite h v
  else if pg = pgKlfRt ∧ h = 0x40 then s.devidWrite v
  else
    let v := s.portBits pg h v
    match s.writeRefusal pg h v with
    | some r => s.refuse pg r
    | none =>
      let s := if covered pg h then s.disarm pg else s
      match s.writeOp pg h v init dev with
      | some s => s
      | none => (s.takeWord pg h v).wrote pg h v

/-- One register is written; a pass that runs on its page meets the counted bits that change (R49). -/
def State.regWrite (s : State) (pg off v init dev : Nat) : State := (s.regTake pg off v init dev).crcSee s pg

/-! ### Accesses -/

/-- What the shell answers before an access is performed: none where it proceeds (R34, R36, R55, R466). -/
def State.ctlCheck (s : State) (write : Bool) (addr width init : Nat) : Option BusStatus :=
  match ctlPlace addr with
  | none => some .decode
  | some (pg, off, peek) =>
    if (width != 4 && width != 8) || addr % width != 0 then some .align
    else if write && peek then some .decode
    else match s.pageCheck pg off with
      | some e => some e
      | none =>
        if write && pg == pgDbg && decide (0x40 ≤ off) && !(init == 1 && s.dp.attached) then some .denied
        else none

/-- A shadow of the page’s pending set takes a parity error (R46). -/
def State.shadowUpset (s : State) (pg : Nat) (upset : Bool) : State :=
  if upset && s.on pg PAGE_PEND.PENDING then s.setPage pg { s.page pg with upset := true } else s

/-- A write is performed; both registers of a 64-bit write apply together (R34). DESIGN CHOICE: where
their effects meet (CRC_CTL.COMMIT beside ALARM_EN), the effect of the lower register comes first and
the upper register’s write then acts as one that arrived after it. -/
def State.ctlWriteNow (s : State) (addr width value init dev : Nat) (upset : Bool := false) : State :=
  match ctlPlace addr with
  | none => s
  | some (pg, off, _) =>
    let s := s.regWrite pg off (value % 2 ^ 32) init dev
    let s := if width = 8 then s.regWrite pg (off + 4) (value / 2 ^ 32 % 2 ^ 32) init dev else s
    let s := s.shadowUpset pg upset
    if s.on pg PAGE_PEND.PENDING then s.afterShadow pg else s

/-- The value that an access reads: both registers of a 64-bit read from one snapshot (R34). -/
def State.ctlValue (s : State) (pg off width : Nat) : Nat :=
  let lo := s.value pg off
  if width = 8 then
    let s := if s.openReg pg off then { s with fresh := s.fresh + 1 } else s
    lo + s.value pg (off + 4) * 2 ^ 32
  else lo

/-- The time-stamp queue that a 64-bit read takes from (R122). -/
def tsPlace (pg off width : Nat) : Bool := pageKind pg == some .edg && off == 0x300 && width == 8

/-- A read is performed: its data, and the state after its effects; a peek has none (R36, R58). -/
def State.ctlReadNow (s : State) (addr width : Nat) : Nat × State :=
  match ctlPlace addr with
  | none => (0, s)
  | some (pg, off, peek) =>
    let v := s.ctlValue pg off width
    if peek then (v, s)
    else if tsPlace pg off width then
      let t := s.tsPop (4 * (pg / 512 - 1) + pg % 16)
      (v, { t with resp := s.resp })
    else
      let s := s.readEffect pg off
      (v, if width = 8 then s.readEffect pg (off + 4) else s)

/-- The device answers an access in place of the block; an answer for a lost die counts (R23). -/
def State.ctlStop (s : State) (addr : Nat) (e : BusStatus) : State := s.synth (addr / 2 ^ 21 % 8) e

/-- A whole write: its response and the state. -/
def State.ctlWrite (s : State) (addr width value init dev : Nat) : BusStatus × State :=
  match s.ctlCheck true addr width init with
  | some e => (e, s.ctlStop addr e)
  | none => (.ok, s.ctlWriteNow addr width value init dev)

/-- A whole read: its response, data and the state. -/
def State.ctlRead (s : State) (addr width init : Nat) : BusStatus × Nat × State :=
  match s.ctlCheck false addr width init with
  | some e => (e, 0, s.ctlStop addr e)
  | none => let (v, s) := s.ctlReadNow addr width; (.ok, v, s)

/-- The device that a request of an initiator comes from: over Kelef its source (R309). -/
def srcDev (init src : Nat) : Nat := if init = 8 then src else 0

/-- An access can stall: its register is clocked (R54). -/
def canStall (addr : Nat) : Bool :=
  match ctlPlace addr with
  | none => false
  | some (pg, off, _) => decide (0x40 ≤ off) && !clockless pg off

/-- The access of an initiator to a register is answered, and counts among what its die's NOC page keeps of it
(R313). -/
def State.counted (s : State) (init width : Nat) : State := if initListed init then s.countAnswer init width else s

/-- An access in the control space of a guest die passes the firewall (R31, R318). -/
def State.siteAccess (s : State) (site op addr width init : Nat) : State :=
  if (width != 4 && width != 8) || addr % width != 0 then (s.answer .align).counted init width
  else match s.guestAccess site op addr width with
    | (none, s) => s
    | (some (st, d), s) => (s.answer st d).counted init width

/-- A write of a register arrives; `stall` makes it wait while it crosses into the block's clock. In the shell's
power-on reset nothing takes an access and nothing answers one (R33, R427). -/
def State.regWriteCmd (s : State) (addr width value init src : Nat) (stall upset : Bool) : State :=
  if !s.tu.porDone then s else
  match siteOf addr with
  | some site => s.siteAccess site 1 addr width init
  | none =>
  match s.ctlCheck true addr width init with
  | some e => ((s.ctlStop addr e).answer e).counted init width
  | none =>
    if stall && canStall addr then
      { s with stalls := s.stalls ++ [⟨addr, width, true, value, init, src, upset, none⟩] }
    else ((s.ctlWriteNow addr width value init (srcDev init src) upset).answer .ok).counted init width

def execRegisterWrite (addr width value init src : Nat) (stall upset : Bool) (s : State) :
    Host.Outcome State Fault Refusal := .next (s.regWriteCmd addr width value init src stall upset)

/-- A read of a register arrives. -/
def State.regReadCmd (s : State) (addr width init src : Nat) (stall : Bool) : State :=
  if !s.tu.porDone then s else
  match siteOf addr with
  | some site => s.siteAccess site 0 addr width init
  | none =>
  match s.ctlCheck false addr width init with
  | some e => ((s.ctlStop addr e).answer e).counted init width
  | none =>
    if stall && canStall addr then
      { s with stalls := s.stalls ++ [⟨addr, width, false, 0, init, src, false, none⟩] }
    else let (v, s) := s.ctlReadNow addr width; (s.answer .ok v).counted init width

def execRcRegisterRead (addr width init src : Nat) (stall : Bool) (s : State) :
    Host.Outcome State Fault Refusal := .next (s.regReadCmd addr width init src stall)

/-- How a stalled access ends where the block cannot be reached any more: its domain has left on or
its die was lost while it waited, or does not answer now (R54, R55). -/
def State.stallEnd (s : State) (x : Stall) : Option BusStatus :=
  match x.stop with
  | some e => some e
  | none =>
    match ctlPlace x.addr with
    | none => some .decode
    | some (pg, _, _) =>
      match s.dieCheck (pg / 512) with
      | some e => some e
      | none => if s.pageDomain pg != 0 then some .off else none

/-- STALLED_ACCESS_COMPLETE: the stalled access of a number takes effect entirely, or not at all. -/
def State.stallDone (s : State) (i : Nat) : State :=
  match s.stalls[i]? with
  | none => s
  | some x =>
    let s : State := { s with stalls := s.stalls.eraseIdx i }
    match s.stallEnd x with
    | some e => ((s.ctlStop x.addr e).answer e).counted x.init x.width
    | none =>
      if x.write then ((s.ctlWriteNow x.addr x.width x.value x.init (srcDev x.init x.src) x.upset).answer .ok).counted x.init x.width
      else let (v, s) := s.ctlReadNow x.addr x.width; (s.answer .ok v).counted x.init x.width

def execStalledAccessComplete (i : Nat) (s : State) : Host.Outcome State Fault Refusal :=
  .next (s.stallDone i)

end Sys2Proof.Machine
end

