-- ==== Sys2Proof/Machine/Bus.lean ====
section
/-! DEFINITION. One request of an initiator to a local address (R30, R32): DRAM, the on-die memories
and the control space; and requests to other devices (R345, R350). -/

namespace Sys2Proof.Machine

/-! ### On-die memories of a panel (R32, R217) -/

/-- What lies at an offset of a panel's on-die slot: the kind of memory, which one, and the 32-bit slot
in it. -/
inductive OnDie where
  | data (e w : Nat)
  | prog (e w : Nat)
  | clu (c w : Nat)
  | pool (w : Nat)
  | cache (w : Nat)
  | tally (w : Nat)
  | warp (q w : Nat)
  | bolt (b w : Nat)
  deriving DecidableEq, Repr

/-- The place of an offset of panel `p`; none above 0x4C0_0000. -/
def onDieAt (p off : Nat) : Option OnDie :=
  if off < 0x1000000 then some (.data (64 * (p - 1) + off / 2 ^ 18) (off % 2 ^ 18 / 4))
  else if off < 0x1800000 then
    some (.prog (64 * (p - 1) + (off - 0x1000000) / 2 ^ 17) (off % 2 ^ 17 / 4))
  else if off < 0x2000000 then
    some (.clu (4 * (p - 1) + (off - 0x1800000) / 2 ^ 21) ((off - 0x1800000) % 2 ^ 21 / 4))
  else if off < 0x2800000 then some (.pool ((off - 0x2000000) / 4))
  else if off < 0x2C00000 then some (.cache ((off - 0x2800000) / 4))
  else if off < 0x2E00000 then some (.tally ((off - 0x2C00000) / 4))
  else if off < 0x3000000 then
    some (.warp (4 * (p - 1) + (off - 0x2E00000) / 2 ^ 19) ((off - 0x2E00000) % 2 ^ 19 / 4))
  else if off < 0x4C00000 then
    some (.bolt ((off - 0x3000000) / 2 ^ 14) ((off - 0x3000000) % 2 ^ 14 / 4))
  else none

/-- The page whose block area holds a memory. -/
def OnDie.page (p : Nat) : OnDie → Nat
  | .data e _ => pgShu (e / 16)
  | .prog e _ => pgShu (e / 16)
  | .clu c _ => pgShu c
  | .pool _ => pgSpl p
  | .cache _ => pgCat p
  | .tally _ => pgCat p
  | .warp q _ => pgSeq q
  | .bolt _ _ => pgFab p

/-- The catch unit is idle: no command, and no sequencer of its panel has a run. -/
def State.catIdle (s : State) (p : Nat) : Bool := (s.cat p).op.isNone && !s.panelBusy p

/-- How a memory refuses an access, once its page has let it through. -/
def State.onDieRefuse (s : State) (p : Nat) (write : Bool) : OnDie → Option BusStatus
  | .pool _ => if write then some .decode else none
  | .cache _ => if write then some .decode else none
  | .warp _ _ => if write then some .decode else none
  | .tally _ => if write && !s.catIdle p then some .decode else none
  | .bolt b _ => if s.portBUsed p b then some .denied else none
  | _ => none

/-- Word `w` of a number, 32 bits each. -/
def wordAt (v w : Nat) : Nat := bitsOf v (32 * w + 31) (32 * w)

/-- A 32-bit slot as it reads. -/
def State.slotRead (s : State) (p : Nat) : OnDie → Nat × State
  | .data e w => ((s.eng e).data.getD w 0, s)
  | .prog e w => (bitsOf ((s.eng e).prog.getD (w / 2) 0) (32 * (w % 2) + 31) (32 * (w % 2)), s)
  | .clu c w => (s.cluWord c w, s)
  | .tally w => (s.tallyCell p (2 * w) + 2 ^ 16 * s.tallyCell p (2 * w + 1), s)
  | .bolt b w => (bitsOf (s.boltWord p b (w / 2)) (32 * (w % 2) + 31) (32 * (w % 2)), s)
  | .pool w => (wordAt (s.poolCell p (w / 16)) (w % 16), s)
  | .cache w => (wordAt (s.cacheSlot p (w / 16)) (w % 16), s)
  | .warp q w => (wordAt ((s.seq q).placeData q (w / 512)) (w % 512), s)

/-- A 32-bit slot takes a word; bits that the memory does not have are dropped. -/
def State.slotWrite (s : State) (p v : Nat) : OnDie → State
  | .data e w => s.modEng e fun x => x.store w v
  | .prog e w => s.modEng e fun x =>
      { x with prog := x.prog.setD (w / 2) 0 (putBits (x.prog.getD (w / 2) 0) (32 * (w % 2) + 31) (32 * (w % 2)) v % 2 ^ 48) }
  | .clu c w => s.cluStore c w (2 ^ 32 - 1) v
  | .tally w =>
    let x := s.cat p
    s.setCat p { x with tally := (x.tally.setD (2 * w) 0 (v % 2 ^ 16)).setD (2 * w + 1) 0 (v / 2 ^ 16 % 2 ^ 16) }
  | .bolt b w =>
    s.putBolt p b (w / 2) (putBits (s.boltWord p b (w / 2)) (32 * (w % 2) + 31) (32 * (w % 2)) v % 2 ^ 36)
  | _ => s

/-- The cluster of a memory whose words carry check bits (R218). -/
def OnDie.cluster : OnDie → Option Nat
  | .data e _ => some (e / 16)
  | .prog e _ => some (e / 16)
  | .clu c _ => some c
  | _ => none

/-- The words that `n` bytes of a memory's slots from an offset on hold: a program word fills two slots, a
cell of the pool sixteen. -/
def OnDie.words (off n : Nat) : OnDie → Nat
  | .prog _ _ => (off % 8 + n + 7) / 8
  | .pool _ => 1
  | _ => (off % 4 + n + 3) / 4

/-- The verdicts of the check bits on a read (R218); a cell of the pool that is read but not popped counts a
corrected error (R209). -/
def State.onDieEcc (s : State) (p : Nat) (m : OnDie) (es : List Ecc) : State :=
  match m.cluster with
  | some c => s.shuEcc c es
  | none =>
    match m with
    | .pool _ => if es.contains .corrected then s.splEcc p .corrected else s
    | _ => s

/-- The engine whose own memory an access touches: it may take a slot of the engine's, once for each word
(R217). -/
def State.outsideWord (s : State) (m : OnDie) : State :=
  match m with
  | .data e _ => s.slotWait e EngX.dataWait
  | .prog e _ => s.slotWait e EngX.progWait
  | .clu c w => s.bankServe c 17 [w % 16]
  | _ => s

/-- Another initiator's access to cluster memory waits while an engine holds the lock, and for the turn of the
on-die view at the word's bank (R221, R225). -/
def State.onDieLocked (s : State) : OnDie → Bool
  | .clu c w => (s.clu c).owner.isSome || !s.bankTurn c 17 (w % 16)
  | _ => false

/-- The slots that bytes `off` to `off + n − 1` touch. -/
def slotsOf (off n : Nat) : List Nat := (List.range ((off % 4 + n + 3) / 4)).map fun i => off / 4 * 4 + 4 * i

/-- A read of `n` bytes of panel `p`, word by word. -/
def State.onDieRead (s : State) (p off n : Nat) : Nat × State :=
  let r := (slotsOf off n).foldl (fun (a : Nat × Nat × State) o =>
    match onDieAt p o with
    | none => a
    | some m => let (v, s) := (a.2.2.outsideWord m).slotRead p m; (a.1 + v * 2 ^ (8 * a.2.1), a.2.1 + 4, s)) (0, 0, s)
  (sliceLine r.1 (off % 4) n, r.2.2)

/-- A write of the enabled bytes among `n` of panel `p`, word by word. -/
def State.onDieWrite (s : State) (p off n v be : Nat) : State :=
  (slotsOf off n).foldl (fun (s : State) o =>
    match onDieAt p o with
    | none => s
    | some m =>
      let (old, s) := (s.outsideWord m).slotRead p m
      let w := (List.range 4).foldl (fun w i =>
        if off ≤ o + i ∧ o + i < off + n ∧ maskBit be (o + i - off) then
          putBits w (8 * i + 7) (8 * i) (bitsOf v (8 * (o + i - off) + 7) (8 * (o + i - off))) else w) old
      s.slotWrite p w m) s

/-- The hub SRAM: bytes of 8 B words (R32). -/
def State.sramByte (s : State) (a : Nat) : Nat :=
  bitsOf ((s.sram.find (a / 8)).getD (Config.sramInit (a / 8) % 2 ^ 64)) (8 * (a % 8) + 7) (8 * (a % 8))

def State.sramPut (s : State) (a v : Nat) : State :=
  let w := (s.sram.find (a / 8)).getD (Config.sramInit (a / 8) % 2 ^ 64)
  { s with sram := s.sram.put (a / 8) (putBits w (8 * (a % 8) + 7) (8 * (a % 8)) v) }

def State.sramRead (s : State) (a n : Nat) : Nat :=
  (List.range n).foldl (fun v i => v + s.sramByte (a + i) * 2 ^ (8 * i)) 0

def State.sramWrite (s : State) (a n v be : Nat) : State :=
  (List.range n).foldl (fun s i =>
    if maskBit be i then s.sramPut (a + i) (bitsOf v (8 * i + 7) (8 * i)) else s) s

/-! ### One request -/

/-- A request for bytes of one 64 B line: initiator, source device, op (0 READ, 1 WRITE, 2 MERGE), local
address, bytes, data, byte enables (both counted from the address), open-row hint, and the verdicts of
an on-die memory's check bits. -/
structure BusReq where
  init : Nat
  dev : Nat := 0
  op : Nat
  addr : Nat
  n : Nat
  data : Nat := 0
  be : Nat := 2 ^ 64 - 1
  hint : Bool := false
  ecc : List Ecc := []
  deriving DecidableEq, Repr

/-- The request as DRAM takes it. -/
def BusReq.line (r : BusReq) : LineOp :=
  let o := r.addr % 64
  let d := r.data % 2 ^ (8 * r.n) * 2 ^ (8 * o)
  if r.op = 0 then .read
  else if r.op = 1 then .write d (r.be % 2 ^ r.n * 2 ^ o)
  else .merge d

/-- The die that an address outside DRAM names, and whether it lies in the control space; none for an
address outside the listed ranges (R30). -/
def busDie (a : Nat) : Option (Nat × Bool) :=
  if 0x080000000000 ≤ a ∧ a < 0x080040000000 then some (a / 2 ^ 27 % 8, false)
  else if 0x0C0000000000 ≤ a ∧ a < 0x0C0002000000 then some (a / 2 ^ 21 % 8, true)
  else none

/-- The local router of a panel that serves an address (R303). -/
def busRouter (a : Nat) : Nat :=
  match busDie a with
  | some (p, false) =>
    match onDieAt p (a % 2 ^ 27) with
    | some m => pageRouter (m.page p % 512)
    | none => 12
  | _ => pageRouter (a / 2 ^ 12 % 2 ^ 9)

/-- The credits of a request outside DRAM: one of class 9 for die field 0, 5 or 6 (R321). -/
def busCost (d : Nat) : List (Nat × Nat) := if d = 0 ∨ d = 5 ∨ d = 6 then [(9, 1)] else []

/-- The access to an on-die memory, at its die. -/
def State.onDieGo (s : State) (r : BusReq) : (BusStatus × Nat) × State :=
  let d := r.addr / 2 ^ 27 % 8
  let off := r.addr % 2 ^ 27
  if d = 0 then
    if off + r.n ≤ 2 ^ 20 ∧ (r.init = 1 ∨ r.init = 2) then
      if r.op = 0 then ((.ok, s.sramRead off r.n), s)
      else if r.op = 1 then ((.ok, 0), s.sramWrite off r.n r.data r.be)
      else ((.decode, 0), s)
    else ((.decode, 0), s)
  else match s.dieCheck d with
    | some e => ((e, 0), s.synth d e)
    | none =>
      match onDieAt d off with
      | none => ((.decode, 0), s)
      | some m =>
        match s.pageCheck (m.page d) 0x40 with
        | some e => ((e, 0), s)
        | none =>
          if r.op = 2 then ((.decode, 0), s)
          else match s.onDieRefuse d (r.op == 1) m with
            | some e => ((e, 0), s)
            | none =>
              if r.op = 1 then ((.ok, 0), s.onDieWrite d off r.n r.data r.be)
              else
                let es := r.ecc.take (m.words off r.n)
                let s := s.onDieEcc d m es
                if m.cluster.isSome ∧ es.contains .fatal then ((.ecc, 0), s)
                else let (v, s) := s.onDieRead d off r.n; ((.ok, v), s)

/-- The access to the control space. A write there carries every byte of its registers. -/
def State.ctlGo (s : State) (r : BusReq) : (BusStatus × Nat) × State :=
  if r.op = 0 then let (st, v, s) := s.ctlRead r.addr r.n r.init; ((st, v), s)
  else if r.op = 2 then ((.decode, 0), s)
  else if r.be % 2 ^ r.n ≠ 2 ^ r.n - 1 then ((.align, 0), s)
  else let (st, s) := s.ctlWrite r.addr r.n r.data r.init r.dev; ((st, 0), s)

/-- A request outside DRAM on its way, and at its target. -/
def State.busGo (s : State) (r : BusReq) (d : Nat) (ctl : Bool) : (BusStatus × Nat) × State :=
  match s.way r.init d (busRouter r.addr) with
  | some x => ((x.status, 0), s.countRoute x)
  | none => if ctl then s.ctlGo r else s.onDieGo r

/-- The request waits for a cluster's lock or for its banks. -/
def State.busLocked (s : State) (r : BusReq) : Bool :=
  match busDie r.addr with
  | some (p, false) => decide (1 ≤ p ∧ p ≤ 4) && (slotsOf (r.addr % 2 ^ 27) r.n).any fun o =>
      match onDieAt p o with
      | some m => s.onDieLocked m
      | none => false
  | _ => false

/-- A request to DRAM as the lining takes it. -/
def BusReq.mem (r : BusReq) : MemReq := ⟨r.init, r.dev, decide (2 ^ 42 ≤ r.addr), r.addr % 2 ^ 42, r.hint⟩

/-- The answer of DRAM, as the bytes that the request reads. -/
def BusReq.answer (r : BusReq) (x : MemRes) : BusStatus × Nat :=
  (x.1, if x.1 = .ok ∧ r.op = 0 then sliceLine x.2 (r.addr % 64) r.n else 0)

/-- A request outside DRAM reaches its target: `none` while it waits there. -/
def State.busReach (s : State) (r : BusReq) (d : Nat) (ctl : Bool) : Option (BusStatus × Nat) × State :=
  match siteOf r.addr with
  | some site =>
    match s.way r.init d 12 with
    | some x => (some (x.status, 0), s.countRoute x)
    | none => s.guestAccess site r.op r.addr r.n
  | none => let (x, s) := s.busGo r d ctl; (some x, s)

/-- A request outside DRAM as the network carries it (R309). -/
def BusReq.net (r : BusReq) (d : Nat) : NetReq :=
  { op := r.op, die := d, rtr := busRouter r.addr, addr := r.addr, n := r.n, be := r.be, data := r.data, opn := r.hint, sdev := r.dev }

/-- A request as the network carries it. -/
def State.busNet (s : State) (r : BusReq) : NetReq :=
  if r.addr < 2 ^ 43 then s.memNet r.mem r.line r.n else r.net (((busDie r.addr).map (·.1)).getD 0)

/-- The response to a request outside DRAM reaches the initiator. -/
def State.busBack (s : State) (r : BusReq) (x : BusStatus × Nat) : State :=
  s.answered r.init (s.busNet r).is x.1.code 0 0
    (if x.1 = .ok ∧ r.op = 0 then some (x.2 * 2 ^ (8 * (r.addr % 64)) % 2 ^ 512) else none) r.n

/-- What the governor charges a request (R321). -/
def State.busCosts (s : State) (r : BusReq) : List (Nat × Nat) :=
  if r.addr < 2 ^ 43 then s.memCost r.mem r.line else ((busDie r.addr).map fun d => busCost d.1).getD []

/-- A request is issued, to be answered later. -/
def State.busSend (s : State) (r : BusReq) : Admit × State := s.send r.init (s.busCosts r) (s.busNet r)

/-- Nothing of the initiator's stands before a request that has been issued (R308). -/
def State.busFirst (s : State) (r : BusReq) : Bool := s.inTurn r.init (s.busNet r).is

/-- A request that has been issued reaches its target and is answered; `none` while it waits on its way. -/
def State.busServe (s : State) (r : BusReq) : Option (BusStatus × Nat) × State :=
  if r.addr < 2 ^ 43 then
    if s.memCircles r.init r.mem.addr then (none, s)
    else let (a, s) := s.memServe r.mem r.line r.n; (a.map r.answer, s)
  else match busDie r.addr with
    | none => (some (.decode, 0), s.busBack r (.decode, 0))
    | some (d, ctl) =>
      if s.busLocked r || s.circles r.init d (busRouter r.addr) then (none, s)
      else match s.busReach r d ctl with
        | (none, _) => (none, s)
        | (some x, t) => (some x, t.busBack r x)

/-- One request of an initiator to a local address: its status and data, or `none` while it waits. -/
def State.bus (s : State) (r : BusReq) : Option (BusStatus × Nat) × State :=
  if r.n = 0 ∨ 64 < r.addr % 64 + r.n then (some (.align, 0), s)
  else if r.addr < 2 ^ 43 then let (a, s) := s.memAccess r.mem r.line r.n; (a.map r.answer, s)
  else match busDie r.addr with
    | none => (some (.decode, 0), s)
    | some (d, ctl) =>
      if s.busLocked r || s.circles r.init d (busRouter r.addr) then (none, s)
      else match s.send r.init (busCost d) (r.net d) with
        | (.noBudget, s) => (some (.noBudget, 0), s)
        | (.wait, s) => (none, s)
        | (.go, t) =>
          match t.busReach r d ctl with
          | (none, _) => (none, s)
          | (some x, t) => (some x, t.busBack r x)

/-! ### The row ONDIE_MEM_ACCESS -/

/-- The answer of a request goes to the bus. -/
def State.busAnswer (a : Option (BusStatus × Nat) × State) : State :=
  match a.1 with
  | none => a.2
  | some (st, d) => a.2.answer st d

/-- An access of an initiator to an on-die memory. -/
def execOndieMemAccess (init dev op addr n data : Nat) (ecc : List Ecc) (s : State) :
    Host.Outcome State Fault Refusal :=
  .next (if initListed init && decide (op < 3) && (busDie addr).any (!·.2) then
    State.busAnswer (s.bus { init := init, dev := srcDev init dev, op := op, addr := addr, n := n, data := data, ecc := ecc })
  else s)

/-! ### Requests to other devices (R345, R350) -/

/-- What became of a request to another device at its issue. -/
inductive Sent where
  | wait | out | stop (st : BusStatus)
  deriving DecidableEq, Repr

/-- A request to another device as the package network carries it to the Kelef egress, which lies beyond a bridge. -/
def Packet.net (p : Packet) : NetReq :=
  { op := p.typ, die := 0, rtr := 0, addr := p.addr, n := p.len + 1, data := p.data, opn := p.opn, spf := p.spf, ddev := p.dst }

/-- The answer from another device, or from the egress, reaches the initiator. -/
def State.remoteBack (s : State) (init num bytes : Nat) (a : EgrAns) : State :=
  s.answered init (·.out == some num) a.status a.spst a.spf (if a.status = 0 then some (a.data % 2 ^ 512) else none) bytes

/-- A request leaves under the governor's class 8 and crosses the network to the egress; one that finds no free
egress tag stalls, and so does one that the tables send in a circle. -/
def State.sendRemote (s : State) (init num bytes : Nat) (p : Packet) : Sent × State :=
  if s.circles init 0 0 then (.wait, s)
  else match s.send init [(8, 1)] p.net (some num) with
  | (.noBudget, s) => (.stop .noBudget, s)
  | (.wait, s) => (.wait, s)
  | (.go, t) =>
    match t.way init 0 0 with
    | some r => (.stop r.status, (t.countRoute r).remoteBack init num bytes ⟨init, num, r.status.code, false, 0, 0, 0⟩)
    | none =>
      match t.egress num { p with orig := init } with
      | (none, _) => (.wait, s)
      | (some true, t) => (.out, t)
      | (some false, t) => (.stop .unreachable, t.remoteBack init num bytes ⟨init, num, BusStatus.unreachable.code, false, 0, 0, 0⟩)

/-- The first answer from another device for an initiator, taken. -/
def State.takeAnswer (s : State) (init bytes : Nat) : Option (EgrAns × State) :=
  match s.answers.find? fun a => a.init == init with
  | none => none
  | some a =>
    let s : State := { s with answers := s.answers.erase a }
    some (a, s.remoteBack init a.num bytes a)

/-- A global address (R350): local, on another device, or answered DECODE at issue. -/
inductive Global where
  | here (a : Nat) | there (dev a : Nat) | bad
  deriving DecidableEq, Repr

def State.global (s : State) (ga : Nat) : Global :=
  let d := ga / 2 ^ 52 % 4096
  if ga / 2 ^ 48 % 16 ≠ 0 then .bad
  else if d = 0xFFF ∨ d = s.ownDev then .here (ga % 2 ^ 48)
  else .there d (ga % 2 ^ 48)

end Sys2Proof.Machine
end

