-- ==== Sys2Proof/Machine/Masters.lean ====
section
/-! DEFINITION. The initiators that copy on their own: fetch channels (R222–R224), hub movers (R461), and
the results of eye scans (R383, R384); and the requests of guest dies (R318, R319). -/

namespace Sys2Proof.Machine

/-! ### Fetch channels (R222, R223) -/

/-- SHU_Fi_STAT.ERR of a response. -/
def fetErr (st : BusStatus) : Nat :=
  match st with
  | .decode => 1 | .ecc => 2 | .tag => 3 | .dieDown => 4 | .gated => 5 | .off => 5 | .align => 6
  | _ => 7

/-- The transfer of channel `e` is in its final state: STATUS 2 or 3 with the code, and FETCH pends. -/
def State.fetEnd (s : State) (e : Nat) (err : Option BusStatus) : State :=
  let s := s.modEng e (·.fetStop)
  let s := match err with
    | none => (s.eWr e SHU_Fi_STAT.STATUS 2).eWr e SHU_Fi_STAT.ERR 0
    | some st => ((s.eWr e SHU_Fi_STAT.STATUS 3).eWr e SHU_Fi_STAT.ERR (fetErr st)).ev (pgEng e) 11
  ((s.engPend e 2).evDone (pgEng e)).cluSync (e / 16)

/-- The local address of the next word of a transfer, and the words of its next request: at most one
64 B line of one row. -/
def FetX.addr (f : FetX) : Nat := (f.src + f.row * f.stride + 4 * f.col) % 2 ^ 48
def FetX.words (f : FetX) : Nat := min ((64 - f.addr % 64) / 4) (f.len + 1 - f.col)

/-- The place of the next word in the transfer. -/
def FetX.at0 (f : FetX) : Nat := f.row * (f.len + 1) + f.col

/-- The transfer after its next request. -/
def FetX.next (f : FetX) : FetX :=
  if f.len < f.col + f.words then { f with row := f.row + 1, col := 0 } else { f with col := f.col + f.words }

/-- The next request of a transfer. -/
def FetX.req (f : FetX) : FetReq := ⟨f.addr, f.words, f.at0, f.dst, f.dspace, f.out, false⟩

/-- The whole transfer has been issued. -/
def FetX.issued (f : FetX) : Bool := decide (f.rows < f.row)

/-- Word `k` of a transfer at its destination, as an outbound transfer reads it: a data-memory word
sign-extended. -/
def State.fetWord (s : State) (e : Nat) (f : FetReq) (k : Nat) : Nat :=
  if f.dspace then
    let w := (s.eng e).load (f.dst + k)
    if w < 2 ^ 23 then w else w + 0xFF000000
  else s.cluWord (e / 16) (f.dst + k)

/-- Word `k` of a transfer arrives at its destination; a write to data memory takes a slot of the engine's
(R217). -/
def State.fetStore (s : State) (e : Nat) (f : FetReq) (k v : Nat) : State :=
  if f.dspace then (s.modEng e fun x => x.store (f.dst + k) v).slotWait e EngX.dataWait
  else (s.cluStore (e / 16) (f.dst + k) (2 ^ 32 - 1) v).bankServe (e / 16) 16 [(f.dst + k) % 16]

/-- The banks of cluster memory that a request of the fetch unit needs. -/
def FetReq.banks (f : FetReq) : List Nat :=
  if f.dspace then [] else (List.range f.words).map fun j => (f.dst + f.at0 + j) % 16

/-- The fetch unit's access to cluster memory waits at a held lock, and for its turn at every bank that it
needs (R221, R225). -/
def State.fetWaits (s : State) (e : Nat) (f : FetReq) : Bool :=
  !f.dspace && ((s.clu (e / 16)).owner.isSome || f.banks.any fun b => !s.bankTurn (e / 16) 16 b)

/-- The request on the bus; an outbound one carries the words that it reads. -/
def State.fetBus (s : State) (e : Nat) (f : FetReq) (ecc : List Ecc) : BusReq :=
  { init := cluInit (e / 16), op := bit f.out, addr := f.addr, n := 4 * f.words,
    data := (List.range f.words).foldl (fun n j => n + s.fetWord e f (f.at0 + j) * 2 ^ (32 * j)) 0,
    ecc := if f.out then [] else ecc }

/-- The channel's turn brings a request: it runs, and fewer than eight of its requests are out (R222, R467). -/
def State.fetCan (s : State) (e : Nat) : Option FetX :=
  let x := s.eng e
  match x.fet with
  | some f => if !f.issued && decide (x.fetOut.length < 8) && s.engState e != 3 then some f else none
  | none => none

/-- A channel's next request is issued; `false` where it may not be. -/
def State.fetIssue (s : State) (e : Nat) : Bool × State :=
  match s.fetCan e with
  | none => (false, s)
  | some f =>
    match s.busSend (s.fetBus e f.req []) with
    | (.wait, s) => (false, s)
    | (.noBudget, s) => (true, (s.eWr e SHU_Fi_MOVED.WORDS f.at0).fetEnd e (some .noBudget))
    | (.go, s) =>
      let s := s.modEng e fun x => { x with fet := some f.next, fetOut := x.fetOut ++ [f.req] }
      (true, s.setClu (e / 16) { s.clu (e / 16) with fetLast := e % 16 })

/-- The channels of a cluster issue round-robin, starting after the one that issued last (R222). -/
def State.fetTurn (s : State) (c : Nat) : Bool × State :=
  ((List.range 16).map fun k => ((s.clu c).fetLast + 1 + k) % 16).foldl
    (fun (a : Bool × State) i => if a.1 then a else a.2.fetIssue (16 * c + i)) (false, s)

/-- The requests of a cluster's channels that can be issued now are; while it is gated, none (R237). -/
def State.fetPump (s : State) (c : Nat) : Nat → State
  | 0 => s
  | n + 1 =>
    if s.running (pgShu c) then
      match s.fetTurn c with
      | (true, s) => s.fetPump c n
      | (false, s) => s
    else s

/-- A request of a transfer has been answered: the words move, and the last answer ends the transfer; at an
error MOVED shows the words before the failing request (R223). -/
def State.fetAnswer (s : State) (e : Nat) (f : FetReq) (st : BusStatus) (d : Nat) : State :=
  if f.sink then s
  else if st ≠ .ok then (s.eWr e SHU_Fi_MOVED.WORDS f.at0).fetEnd e (some st)
  else
    let s := if f.out then s
      else (List.range f.words).foldl (fun s j => s.fetStore e f (f.at0 + j) (wordAt d j)) s
    match (s.eng e).fet with
    | none => s
    | some g =>
      let g := { g with done := g.done + f.words }
      let s := s.eWr e SHU_Fi_MOVED.WORDS g.done
      if g.issued && (s.eng e).fetOut.all (·.sink) then s.fetEnd e none
      else s.modEng e fun x => { x with fet := some g }

/-- FETCH_RESPONSE: what a cluster's channels can issue is issued, and the `k`-th request that a channel has
out is answered, in the order of issue among those to one endpoint (R308). An outbound request reads its words as it is served, with the verdicts `ecc`; otherwise
these are of an on-die source. While the cluster is gated or the engine halted, responses wait in the shell,
which sinks those that are no longer wanted (R224, R467). -/
def State.fetResponse (s : State) (e k : Nat) (ecc : List Ecc) : State :=
  let c := e / 16
  if (s.die (e / 64 + 1)).lost then s
  else
    let s := s.fetPump c 128
    match (s.eng e).fetOut[k]? with
    | none => s
    | some f =>
      if !f.sink && (!s.running (pgEng e) || s.engState e == 3 || s.fetWaits e f) then s
      else if !s.busFirst (s.fetBus e f []) then s
      else
        let es := if f.out then ecc.take f.words else []
        let t := s.modEng e fun x => { x with fetOut := x.fetOut.eraseIdx k }
        let t := if f.out then t.bankServe c 16 f.banks else t
        if es.contains .fatal then
          (((t.busBack (s.fetBus e f []) (.ecc, 0)).shuEcc c es).fetAnswer e f .ecc 0).fetPump c 128
        else match t.busServe (s.fetBus e f ecc) with
          | (none, _) => s
          | (some (st, v), t) => ((t.shuEcc c es).fetAnswer e f st v).fetPump c 128

def execFetchResponse (e k : Nat) (ecc : List Ecc) (n : Noise) (s : State) : Host.Outcome State Fault Refusal :=
  .next (if engOk e then (s.disturb n).fetResponse e k ecc else s)

/-! ### Hub movers (R461) -/

def moverInit (m : Nat) : Nat := 3 + m

/-- The copy is in its final state: DONE, or the first error response with its code, where MOVED shows the bytes
before the failing line. -/
def State.moverEnd (s : State) (m : Nat) (err : Option (Nat × Nat)) : State :=
  let s := match err with
    | none => s.wr pgHub (MVRm_STAT.STATUS.nth m) 2
    | some (pos, c) => ((s.wr pgHub (MVRm_STAT.STATUS.nth m) 3).wr pgHub (MVRm_STAT.ERR.nth m) c).wr pgHub
        (MVRm_MOVED.MOVED.nth m) pos
  ((s.setMover m (s.mover m).halt).evDone pgHub).moverSync

/-- The request of a line as a local target takes it: the read of its source, or the full-line write. -/
def MovLine.bus (l : MovLine) (m a : Nat) (ecc : List Ecc) : BusReq :=
  { init := moverInit m, op := bit l.data.isSome, addr := a, n := 64, data := l.data.getD 0, ecc := ecc }

/-- The request of a line to another device. -/
def MovLine.packet (l : MovLine) (dev a : Nat) : Packet :=
  { typ := bit l.data.isSome, len := 63, addr := a, dst := dev, data := l.data.getD 0,
    ncol := if l.data.isSome then 2 else 0 }

/-- A request of a line is issued, waits, or is answered at its issue. -/
def State.moverSend (s : State) (m : Nat) (l : MovLine) : Sent × MovLine × State :=
  match s.global l.ga with
  | .bad => (.stop .decode, l, s)
  | .here a =>
    match s.busSend (l.bus m a []) with
    | (.noBudget, s) => (.stop .noBudget, l, s)
    | (.wait, s) => (.wait, l, s)
    | (.go, s) => (.out, { l with sent := true }, s)
  | .there dev a =>
    match s.sendRemote (moverInit m) s.fresh 64 (l.packet dev a) with
    | (.out, t) => (.out, { l with sent := true, out := some s.fresh }, { t with fresh := t.fresh + 1 })
    | (r, t) => (r, l, t)

/-- The reads of a copy go out in ascending order while fewer than 16 are out. -/
def State.moverReads (s : State) (m : Nat) : Nat → State
  | 0 => s
  | n + 1 =>
    let x := s.mover m
    if !x.run || decide (x.len ≤ x.next) || decide (16 ≤ (x.lines.filter (·.data.isNone)).length) then s
    else
      match s.moverSend m { pos := x.next, ga := (x.src + x.next) % 2 ^ 64 } with
      | (.out, l, s) => (s.setMover m { x with next := x.next + 64, lines := x.lines ++ [l] }).moverReads m n
      | (.wait, _, s) => s
      | (.stop st, _, s) => s.moverEnd m (some (x.next, st.code))

/-- The writes of the lines that have been read and wait go out, in order. -/
def State.moverWrites (s : State) (m : Nat) : Nat → State
  | 0 => s
  | n + 1 =>
    let x := s.mover m
    match x.lines.find? (!·.sent) with
    | none => s
    | some l =>
      match s.moverSend m l with
      | (.out, l', s) => (s.setMover m { x with lines := x.lines.map fun y => if y = l then l' else y }).moverWrites m n
      | (.wait, _, s) => s
      | (.stop st, _, s) => s.moverEnd m (some (l.pos, st.code))

/-- What a mover can issue is issued. -/
def State.moverPump (s : State) (m : Nat) : State :=
  if s.running pgHub then (s.moverWrites m 32).moverReads m 32 else s

/-- A request of the copy has been answered: a line that was read is to be written, and the acknowledgement of
the last write ends the copy. -/
def State.moverAnswer (s : State) (m : Nat) (l : MovLine) (code data : Nat) : State :=
  let x := s.mover m
  let s := s.setMover m { x with lines := x.lines.erase l }
  if l.sink then s
  else if code ≠ 0 then s.moverEnd m (some (l.pos, code))
  else match l.data with
    | none =>
      s.setMover m { x with lines := x.lines.map fun y =>
        if y = l then { pos := l.pos, ga := (x.dst + l.pos) % 2 ^ 64, data := some (data % 2 ^ 512), sent := false } else y }
    | some _ =>
      let s := (s.setMover m { x with lines := x.lines.erase l, done := x.done + 64 }).wr pgHub
        (MVRm_MOVED.MOVED.nth m) (x.done + 64)
      if x.len ≤ x.done + 64 then s.moverEnd m none else s

/-- MOVER_RESPONSE: a mover issues what it can, and the `k`-th of its requests in flight is answered:
requests to one endpoint are served in the order of their issue (R308). DESIGN CHOICE: beyond that the responses of
one mover come in any order. -/
def State.moverResponse (s : State) (m k : Nat) (ecc : List Ecc) : State :=
  let s := s.moverPump m
  match (s.mover m).lines[k]? with
  | none => s
  | some l =>
    if !l.sent || (!l.sink && !s.running pgHub) then s
    else match l.out with
      | some num =>
        match s.answers.find? fun a => a.init == moverInit m && a.num == num with
        | none => s
        | some a =>
          let t : State := { s with answers := s.answers.erase a }
          ((t.remoteBack (moverInit m) num 64 a).moverAnswer m l a.status a.data).moverPump m
      | none =>
        let r := l.bus m (l.ga % 2 ^ 48) ecc
        if !s.busFirst r then s
        else match s.busServe r with
        | (none, t) => t
        | (some (st, d), t) => (t.moverAnswer m l st.code d).moverPump m

def execMoverResponse (m k : Nat) (ecc : List Ecc) (n : Noise) (s : State) : Host.Outcome State Fault Refusal :=
  .next (if m < 4 then (s.disturb n).moverResponse m k ecc else s)

/-! ### Eye scans (R383, R384) -/

/-- Sixteen counts as a line, the first at the lowest address. -/
def countLine (cs : List Nat) : Nat :=
  (cs.take 16).zipIdx.foldl (fun n e => n + min e.1 (2 ^ 32 - 1) * 2 ^ (32 * e.2)) 0

/-- The result lines of a sweep go out as full-line writes of initiator 0x87; a write that waits
is taken up again by the next SCAN_END. -/
def State.scanLines (s : State) (q l : Nat) : Nat → ScanX → State
  | 0, _ => s.scanEnd q l 2 0
  | n + 1, x =>
    let r : BusReq := { init := 0x87, op := 1, addr := (x.dst + 64 * x.line) % 2 ^ 48, n := 64, data := countLine (x.counts.drop (16 * x.line)) }
    match s.bus r with
    | (none, s) => s.modQuad q fun y => { y with scans := y.scans.put l x }
    | (some (.ok, _), s) => s.scanLines q l n { x with line := x.line + 1 }
    | (some (e, _), s) => s.scanEnd q l 4 e.code

/-- SCAN_END: the last bit of a scan has been compared, with the errors counted at each point. -/
def State.scanFinal (s : State) (q l : Nat) (counts : List Nat) : State :=
  match (s.quad q).scans.find l with
  | none => s
  | some x =>
    if x.op = 1 then
      let s := { s with now := max s.now (x.start + x.point) }
      (s.laneWr q l LANE_SCAN_ERRl.COUNT (min (counts.headD 0) (2 ^ 32 - 1))).scanEnd q l 2 0
    else
      let s := { s with now := max s.now (x.start + 64 * x.point) }
      let s := s.laneWr q l LANE_SCAN_STATl.POINT 63
      let x := if x.counts.isEmpty then { x with counts := (List.range 64).map (counts.getD · 0) } else x
      s.scanLines q l (4 - x.line) x

def execScanEnd (q l : Nat) (counts : List Nat) (n : Noise) (s : State) : Host.Outcome State Fault Refusal :=
  .next (if s.laneOk q l && s.laneRuns q then (s.disturb n).scanFinal q l counts else s)

/-! ### Requests of a guest die (R318, R319) -/

/-- The site's initiator (R318). -/
def siteInit (site : Nat) : Nat := if site = 5 then 0xA0 else 0xA1

/-- A request from the guest die of a site: the firewall, then the package. A lost site's packets are
discarded (R23). -/
def State.guestFrom (s : State) (site ddev : Nat) (r : BusReq) : State :=
  if (s.die site).lost || !s.fitted site || !s.cap 11 then s
  else
    let remote := ddev % 4096 != 0xFFF && ddev % 4096 != s.ownDev
    match s.patJudge (pgPat site) 0 r.op r.addr r.n remote with
    | .error c => (s.patViolation (pgPat site) 0 r.op r.addr c).answer .firewall
    | .ok w =>
      if s.patSpent site w then s
      else match s.bus { r with init := siteInit site, dev := 0 } with
        | (none, s) => s
        | (some (st, d), s) => (s.patPass site w).answer st d

/-- GUEST_REQUEST: a request from a site's guest die, or of an initiator to it. -/
def execGuestRequest (site : Nat) (out : Bool) (init dev op ddev addr len data : Nat) (hint : Bool) (n : Noise)
    (ecc : List Ecc) (s : State) : Host.Outcome State Fault Refusal :=
  let r : BusReq := { init := init, dev := srcDev init dev, op := op, addr := addr % 2 ^ 48, n := len, data := data, hint := hint, ecc := ecc }
  .next (if !(site == 5 || site == 6) || 6 ≤ op then s
    else if out then (s.disturb n).guestFrom site ddev r
    else if siteOf r.addr = some site ∧ initListed init ∧ op < 3 then State.busAnswer ((s.disturb n).bus r)
    else s)

end Sys2Proof.Machine
end

