-- ==== Sys2Proof/Machine/FabPort.lean ====
section
/-! DEFINITION. The requests of fabric ports and their responses (R419, R420). -/

namespace Sys2Proof.Machine

/-- The request is marked as out to another device. -/
def State.fabMark (s : State) (i : Nat) (r : FabReq) (f : FabReq → FabReq) : State :=
  s.modFab i fun x => { x with queue := x.queue.map fun y => if y.tag = r.tag then f y else y }

/-- Where a request goes, for the order in which requests to one target are performed (R308, R322). -/
inductive FabTarget where
  | spool (p : Nat) | dram (k : Nat) | die (d : Nat) | dev (n : Nat) | none
  deriving DecidableEq, Repr

def State.fabTarget (s : State) (r : FabReq) : FabTarget :=
  if 3 ≤ r.op then (if r.op ≤ 5 then .spool (handlePanel r.addr) else .none)
  else match s.global r.addr with
    | .bad => .none
    | .there d _ => .dev d
    | .here a =>
      if a < 2 ^ 43 then ((s.mapAddr (a % 2 ^ 42 / 64 * 64)).map fun k => FabTarget.dram k.1).getD .none
      else ((busDie a).map fun d => FabTarget.die d.1).getD .none

/-- The governor classes that a request charges (R321). -/
def State.fabClasses (s : State) (r : FabReq) : List Nat :=
  if 3 ≤ r.op then []
  else match s.global r.addr with
    | .bad => []
    | .there _ _ => [8]
    | .here a =>
      if a < 2 ^ 43 then
        (s.memCost ⟨0, 0, decide (2 ^ 42 ≤ a), a % 2 ^ 42, r.opn⟩ .read).map (·.1)
      else ((busDie a).map fun d => (busCost d.1).map (·.1)).getD []

/-- A request that has not left the queue holds up a later one to the same target or to a class that both charge
(R308, R322). -/
def State.fabBlocks (s : State) (y r : FabReq) : Bool :=
  s.fabTarget y == s.fabTarget r || (s.fabClasses y).any (s.fabClasses r).contains

/-- A request to a local address, its data and enables counted from the address. -/
def FabReq.bus (r : FabReq) (i a : Nat) (ecc : List Ecc) : BusReq :=
  let o := a % 64
  { init := fabInit i, op := r.op, addr := a, n := r.len + 1, data := r.data / 2 ^ (8 * o), be := r.be / 2 ^ o,
    hint := r.opn, ecc := ecc }

/-- A spool operation of a fabric port. -/
def State.fabSpool (s : State) (i : Nat) (r : FabReq) (ecc : List Ecc) : SpRes × State :=
  let h := r.addr % 2 ^ 13
  if r.op = 3 then s.spoolPush h (fabInit i) 0 r.data (maskBit r.spf 0) (maskBit r.spf 1)
  else if r.op = 4 then s.spoolPop h (fabInit i) (ecc.headD .clean)
  else s.spoolFlush h (fabInit i)

/-- A spool operation of a fabric port as the network carries it. -/
def FabReq.spool (r : FabReq) : NetReq :=
  let h := r.addr % 2 ^ 13
  if r.op = 3 then spPush h 0 r.data (maskBit r.spf 0) (maskBit r.spf 1) else if r.op = 4 then spPop h else spFlush h

/-- A request of a fabric port to another device. -/
def FabReq.packet (r : FabReq) (dev a : Nat) : Packet :=
  { typ := r.op, len := r.len, addr := a, dst := dev, opn := r.opn,
    data := if r.op = 0 then 0 else r.data / 2 ^ (8 * (a % 64)) % 2 ^ (8 * (r.len + 1)),
    ncol := if r.op = 0 then 0 else colsOf r.len }

/-- The request has been issued. -/
def State.fabGone (s : State) (i : Nat) (r : FabReq) (num : Option Nat) : State :=
  s.fabMark i r fun y => { y with gone := true, sent := num }

/-- A request leaves the queue under the governor, or is answered at its issue; `false` where it waits. -/
def State.fabIssue (s : State) (i : Nat) (r : FabReq) : Bool × State :=
  if 6 ≤ r.op then (true, s.fabRespond i r BusStatus.decode.code 0 0 0)
  else if 3 ≤ r.op then
    match s.spIssue (fabInit i) r.spool with
    | (.go, s) => (true, s.fabGone i r none)
    | (_, s) => (false, s)
  else match s.global r.addr with
    | .bad => (true, s.fabRespond i r BusStatus.decode.code 0 0 0)
    | .here a =>
      if 64 < a % 64 + (r.len + 1) then (true, s.fabRespond i r BusStatus.align.code 0 0 0)
      else match s.busSend (r.bus i a []) with
        | (.go, s) => (true, s.fabGone i r none)
        | (.wait, s) => (false, s)
        | (.noBudget, s) => (true, s.fabRespond i r BusStatus.noBudget.code 0 0 0)
    | .there dev a =>
      match s.sendRemote (fabInit i) s.fresh (r.len + 1) (r.packet dev a) with
      | (.wait, s) => (false, s)
      | (.out, t) => (true, ({ t with fresh := t.fresh + 1 } : State).fabGone i r (some s.fresh))
      | (.stop st, s) => (true, s.fabRespond i r st.code 0 0 0)

/-- The requests in the queue are issued in their order, past those that wait for another class or target. -/
def State.fabPump (s : State) (i : Nat) : State :=
  if !s.running (pgFabOf i) || s.fabHeld i then s
  else (((s.fab i).queue.filter (!·.gone)).foldl (fun (a : List FabReq × State) r =>
    if a.1.any (a.2.fabBlocks · r) then (a.1 ++ [r], a.2)
    else match a.2.fabIssue i r with
      | (true, s) => (a.1, s)
      | (false, s) => (a.1 ++ [r], s)) ([], s)).2

/-- FABRIC_PORT_REQUEST: an RQ transfer; what the port can issue is issued. -/
def State.fabRequest (s : State) (i op addr len be data spf : Nat) (opn : Bool) : State :=
  if s.fabLive i then (s.fabAccept i op addr len be data spf opn).fabPump i else s

def execFabricPortRequest (i op addr len be data spf : Nat) (opn : Bool) (s : State) :
    Host.Outcome State Fault Refusal := .next (s.fabRequest i op addr len be data spf opn)

/-- A request that has been issued reaches its target and its response the port, in the order of issue among those
to one endpoint (R308). -/
def State.fabServe (s : State) (i : Nat) (r : FabReq) (ecc : List Ecc) : State :=
  if 3 ≤ r.op then
    if s.spCircles (fabInit i) r.spool.addr || !s.inTurn (fabInit i) r.spool.is then s
    else
      let (x, s) := s.fabSpool i r ecc
      (s.spBack (fabInit i) r.spool x).fabRespond i r x.status.code x.st x.spf x.cell
  else
    let a := r.addr % 2 ^ 48
    let q := r.bus i a ecc
    if !s.busFirst q then s
    else match s.busServe q with
      | (none, s) => s
      | (some (st, d), s) => s.fabRespond i r st.code 0 0 (d * 2 ^ (8 * (a % 64)))

/-- An answer from another device: it belongs to a request of the port, or is sunk. -/
def State.fabTakes (s : State) (i : Nat) (a : EgrAns) : State :=
  match (s.fab i).queue.find? fun r => r.sent == some a.num with
  | none => s
  | some r => s.fabRespond i r a.status a.spst a.spf (a.data * 2 ^ (8 * (r.addr % 64)))

/-- The bytes of the request that the port's next answer from another device belongs to. -/
def State.fabBytes (s : State) (i : Nat) : Nat :=
  match s.answers.find? fun a => a.init == fabInit i with
  | none => 64
  | some a => (((s.fab i).queue.find? fun r => r.sent == some a.num).map fun r => r.len + 1).getD 64

/-- FABRIC_PORT_RESPONSE: what the port can issue is issued; an answer from another device, or else the response of the
`k`-th of the requests that have been issued, arrives and is sunk, also while the port is gated or held; and on an edge
of the port's clock at which RS_READY is 1, `take`, the oldest response is delivered. -/
def State.fabResponse (s : State) (i k : Nat) (take : Bool) (ecc : List Ecc) : State :=
  if !decide (i < 64) || (s.die (i / 16 + 1)).lost then s
  else
    let s := s.fabPump i
    let s := match s.takeAnswer (fabInit i) (s.fabBytes i) with
      | some (a, s) => s.fabTakes i a
      | none =>
        match ((s.fab i).queue.filter fun r => r.gone && r.sent.isNone)[k]? with
        | none => s
        | some r => s.fabServe i r ecc
    if take then s.fabRsTake i else s

def execFabricPortResponse (i k : Nat) (take : Bool) (ecc : List Ecc) (n : Noise) (s : State) : Host.Outcome State Fault Refusal :=
  .next ((s.disturb n).fabResponse i k take ecc)

end Sys2Proof.Machine
end

