-- ==== Sys2Proof/Machine/Ingress.lean ====
section
/-! DEFINITION. Requests that arrive over Kelef for this device (R342, R344, R348): the ingress splits them
into line requests of initiator 0x08, and source-routed packets follow their routes. -/

namespace Sys2Proof.Machine

/-- A write to the control space from a device other than the host (R348). -/
def State.foreignWrite (s : State) (src : Nat) : State :=
  if src = 0 then s
  else ((s.bump pgKlfCom KLF_FOREIGN.COUNT 1).wr pgKlfCom KLF_FOREIGN.LAST_SRC src).ev pgKlfCom 10

/-- The next line request of a packet of which `pos` bytes are done. -/
def Packet.piece (q : Packet) (pos : Nat) (ecc : List Ecc) : BusReq :=
  let a := q.addr + pos
  let n := min (64 - a % 64) (q.len + 1 - pos)
  { init := 8, dev := q.src, op := q.typ, addr := a % 2 ^ 48, n := n, data := bitsOf q.data (8 * (pos + n) - 1) (8 * pos),
    hint := q.opn, ecc := ecc.drop (pos / 4) }

/-- The progress after the response to one line request. -/
def IngX.after (x : IngX) (n : Nat) (st : BusStatus) (d : Nat) : IngX :=
  { pos := x.pos + n, fail := if st = .ok then x.fail else some (x.fail.getD st.code),
    partly := x.partly || (st == .ok && x.fail.isNone), data := x.data + d * 2 ^ (8 * x.pos) }

/-- The line requests of a packet, in ascending address, until one waits: at most four lines. -/
def State.ingLines (s : State) (q : Packet) (ecc : List Ecc) : Nat → IngX → IngX × State
  | 0, x => (x, s)
  | n + 1, x =>
    if q.len < x.pos then (x, s)
    else
      let r := q.piece x.pos ecc
      match s.bus r with
      | (none, s) => (x, s)
      | (some (st, d), s) =>
        let s := if q.typ ≠ 0 ∧ (busDie r.addr).any (·.2) then s.foreignWrite q.src else s
        s.ingLines q ecc n (x.after r.n st d)

/-- The response of a packet whose line requests are all answered (R344). -/
def Packet.answered (q : Packet) (r : Packet) (x : IngX) : Packet :=
  match x.fail with
  | some c => { r with status := c, part := q.typ != 0 && x.partly }
  | none => if q.typ = 0 then { r with len := q.len, ncol := colsOf q.len, data := x.data } else r

/-- A READ, WRITE or MERGE proceeds; with its last line it is answered by `reply`. -/
def State.ingMem (s : State) (p : Nat) (q : Packet) (ecc : List Ecc) (reply : State → Packet → State) (r : Packet) :
    State :=
  let (x, s) := s.ingLines q ecc 8 ((s.port p).ing.getD {})
  if q.len < x.pos then reply ((s.modPort p fun y => { y with ing := none }).rxDone p q) (q.answered r x)
  else s.modPort p fun y => { y with ing := some x }

/-- A spool operation from Kelef: one producer per source device (R199). -/
def State.ingSpool (s : State) (p : Nat) (q : Packet) (ecc : List Ecc) : State :=
  let h := q.addr % 2 ^ 13
  let n := if q.typ = 3 then spPush h q.src q.data (maskBit q.spf 0) (maskBit q.spf 1)
    else if q.typ = 4 then spPop h else spFlush h
  match s.spIssue 8 n with
  | (.go, s) =>
    let (x, s) :=
      if q.typ = 3 then s.spoolPush h 8 q.src q.data (maskBit q.spf 0) (maskBit q.spf 1)
      else if q.typ = 4 then s.spoolPop h 8 (ecc.headD .clean) else s.spoolFlush h 8
    let s := s.spBack 8 n x
    let r := { q.reply s.ownDev x.status.code with spst := x.st, spf := x.spf }
    let full := q.typ = 4 ∧ x.status = .ok ∧ (x.st = spOk ∨ x.st = spCellErr)
    (s.rxDone p q).post (if full then { r with len := 63, ncol := 2, data := x.cell } else r)
  | (_, s) => s

/-- KLF_REQUEST_INGRESS: the next request of a port for this device. -/
def State.ingress (s : State) (p : Nat) (ecc : List Ecc) : State :=
  match s.rxFirst p .request with
  | none => s
  | some q =>
    if 3 ≤ q.typ then s.ingSpool p q ecc
    else s.ingMem p q ecc State.post (q.reply s.ownDev 0)

def execKlfRequestIngress (p : Nat) (ecc : List Ecc) (n : Noise) (s : State) : Host.Outcome State Fault Refusal :=
  .next ((s.disturb n).ingress p ecc)

/-! ### Source routes (R342) -/

/-- A source-routed packet leaves for its next device, unless the dateline rule stops it (R359); its receive buffer stays
held until it is sent. -/
def State.srForward (s : State) (p : Nat) (q : Packet) : State :=
  let out := routeAt q.route q.idx
  let s := s.modPort p fun x => { x with rx := x.rx.erase q }
  if s.portOk out && s.klfUp out && s.turnOk p out then
    s.txPush out { q with route := routePut q.route q.idx p, idx := q.idx + 1 } (some p) 0
  else
    let s := if s.portOk out && s.klfUp out then s.turnStop else s
    (s.undeliverable { q with route := routePut q.route q.idx p } p).owe p q.vc q.cols

/-- A source-routed packet is consumed at the last device of its route: a READ or WRITE is performed and
answered on its ingress port, a response goes to the egress. The other types are never sent so; a request
among them is answered DECODE. -/
def State.srConsume (s : State) (p : Nat) (q : Packet) (ecc : List Ecc) : State :=
  if q.typ = 6 then (s.egrResponse q).rxDone p q
  else if q.typ ≤ 1 then
    s.ingMem p { q with src := 0 } ecc (fun s r => s.txPush p r none 0) (q.replySr q.idx 0)
  else if q.request then (s.rxDone p q).txPush p (q.replySr q.idx BusStatus.decode.code) none 0
  else (s.dropPacket q).rxDone p q

/-- SOURCE_ROUTED_RECEIVE: forwarded, consumed, or answered UNREACHABLE. -/
def State.srReceive (s : State) (p : Nat) (ecc : List Ecc) : State :=
  match s.rxFirst p .route with
  | none => s
  | some q =>
    if q.hops ≤ q.idx then (s.undeliverable q p).rxDone p q
    else if q.idx + 1 = q.hops then s.srConsume p q ecc
    else s.srForward p q

def execSourceRoutedReceive (p : Nat) (ecc : List Ecc) (n : Noise) (s : State) : Host.Outcome State Fault Refusal :=
  .next ((s.disturb n).srReceive p ecc)

end Sys2Proof.Machine
end

