-- ==== Sys2Proof/Machine/DebugPort.lean ====
section
/-! DEFINITION. The debug port (R462–R466): transactions, the port registers, and the accesses of the
debug master. -/

namespace Sys2Proof.Machine

/-! ### The check of a transaction (R462) -/

/-- One bit into the CRC-8 with x^8 + x^2 + x + 1. -/
def crc8Bit (c b : Nat) : Nat :=
  if (c / 128 + b) % 2 = 1 then (2 * c % 256) ^^^ 7 else 2 * c % 256

/-- The low `n` bits of a value, most significant first. -/
def crc8 : Nat → Nat → Nat → Nat
  | 0, _, c => c
  | n + 1, v, c => crc8 n v (crc8Bit c (v / 2 ^ n % 2))

/-- The check of a command, and of a write's command with its data; of a reply's status and data. -/
def readCheck (opc reg : Nat) : Nat := crc8 9 (opc % 4 * 2 ^ 7 + reg % 2 ^ 7) 0xFF
def writeCheck (reg data : Nat) : Nat := crc8 32 data (crc8 9 (2 * 2 ^ 7 + reg % 2 ^ 7) 0xFF)
def replyCheck (data : Nat) : Nat := crc8 32 data (crc8 4 5 0xFF)

/-! ### The port registers (R463) -/

def State.modDp (s : State) (f : DpX → DpX) : State := { s with dp := f s.dp }

/-- The port registers as a read returns them. -/
def State.dpReg (s : State) (reg : Nat) : Nat :=
  let x := s.dp
  if reg = 0 then 0x7440 * 2 ^ 16 + (s.reg pgSeam (SEAM_DIEn_ID.DIE_ID.nth 0).off).toNat % 2 ^ 12
  else if reg = 1 then bit x.attached + 2 * bit x.locked + 4 * bit x.chkErr + 8 * bit x.busErr + 16 * x.err
    + 256 * bit x.acc.isSome
  else if reg = 2 then bit x.attached
  else if reg = 3 then x.addr % 2 ^ 32
  else if reg = 4 then x.addr / 2 ^ 32
  else if reg = 5 then x.data % 2 ^ 32
  else if reg = 6 then x.data / 2 ^ 32
  else if reg = 7 then 4 * bit x.size + 8 * bit x.inc
  else 0

/-- DP_CTL.CLR_ERR clears both latched errors. -/
def State.dpClear (s : State) : State := s.modDp fun x => { x with chkErr := false, busErr := false, err := 0 }

/-- DP_MCTL: SIZE and INC, and the access that OP starts. -/
def State.dpStart (s : State) (v : Nat) : State :=
  let s := s.modDp fun x => { x with size := maskBit v 2, inc := maskBit v 3 }
  let n := if s.dp.size then 8 else 4
  if v % 4 = 1 ∨ v % 4 = 2 then
    s.modDp fun x => { x with acc := some (v % 4 == 2, x.addr, n, x.data % 2 ^ (8 * n)), out := none }
  else s

/-- A write to a port register is performed. -/
def State.dpPut (s : State) (reg v : Nat) : State :=
  if reg = 2 then
    let s := if maskBit v 1 then s.dpClear else s
    if maskBit v 0 then s.dbgAttach else s.dbgDetach
  else if reg = 3 then s.modDp fun x => { x with addr := putBits x.addr 31 0 v }
  else if reg = 4 then s.modDp fun x => { x with addr := putBits x.addr 63 32 v }
  else if reg = 5 then s.modDp fun x => { x with data := putBits x.data 31 0 v }
  else if reg = 6 then s.modDp fun x => { x with data := putBits x.data 63 32 v }
  else if reg = 7 then s.dpStart v
  else s

/-! ### Transactions -/

/-- The judgement of a request that passed its check; `clr` for a write of CLR_ERR, which alone is taken
while an error is latched. -/
def State.dpJudge (s : State) (reg : Nat) (clr : Bool) : DpStatus :=
  if reg ≤ 1 then .done
  else if s.dp.locked then .reject
  else if (s.dp.chkErr || s.dp.busErr) && !clr then .reject
  else if s.dp.acc.isSome then .retry
  else .done

/-- A request fails its check. -/
def State.dpFail (s : State) : State :=
  { (s.modDp fun x => { x with chkErr := true }) with dpAnswer := some { status := .chkFail } }

/-- A transaction begins with its start pattern; another pattern, or a port that waits for a line reset,
gives no answer. In the shell's power-on reset DBG_IO floats and nothing is heard on it (R427, R489). -/
def State.dpBegin (s : State) (start : Nat) (f : State → State) : State :=
  if !s.tu.porDone || s.dp.deaf then { s with dpAnswer := none }
  else if start % 16 ≠ 10 then { (s.modDp fun x => { x with deaf := true }) with dpAnswer := none }
  else f s

/-- A read transaction: OPC 01; the reserved codes 00 and 11 fail. -/
def State.dpRead (s : State) (start opc reg check : Nat) : State :=
  s.dpBegin start fun s =>
    let reg := reg % 128
    if opc % 4 ≠ 1 ∨ check ≠ readCheck opc reg then s.dpFail
    else match s.dpJudge reg false with
      | .done => { s with dpAnswer := some ⟨.done, s.dpReg reg, replyCheck (s.dpReg reg)⟩ }
      | st => { s with dpAnswer := some { status := st } }

def execDpRead (start opc reg check : Nat) (s : State) : Host.Outcome State Fault Refusal :=
  .next (if opc % 4 = 2 then s else s.dpRead start opc reg check)

/-- A write transaction. -/
def State.dpWrite (s : State) (start reg data check : Nat) : State :=
  s.dpBegin start fun s =>
    let reg := reg % 128
    let data := data % 2 ^ 32
    if check ≠ writeCheck reg data then s.dpFail
    else match s.dpJudge reg (reg == 2 && maskBit data 1) with
      | .done => { s.dpPut reg data with dpAnswer := some { status := .done } }
      | st => { s with dpAnswer := some { status := st } }

def execDpWrite (start reg data check : Nat) (s : State) : Host.Outcome State Fault Refusal :=
  .next (s.dpWrite start reg data check)

/-- DP_LINE_RESET: a request being received ends, and the port listens again, once the shell has left its power-on
reset (R427). -/
def execDpLineReset (s : State) : Host.Outcome State Fault Refusal :=
  .next { (s.modDp fun x => { x with deaf := x.deaf && !s.tu.porDone }) with dpAnswer := none }

/-- A well-formed write transaction of a register. -/
def State.dpSend (s : State) (reg data : Nat) : State := s.dpWrite 10 reg data (writeCheck reg data)

def execDpAttach (s : State) : Host.Outcome State Fault Refusal := .next (s.dpSend 2 1)

def execDpDetach (s : State) : Host.Outcome State Fault Refusal := .next (s.dpSend 2 0)

/-- DP_CLR_ERR: ATTACH is written as it stands. -/
def execDpClrErr (s : State) : Host.Outcome State Fault Refusal := .next (s.dpSend 2 (2 + bit s.dp.attached))

/-- The word of DP_MCTL. -/
def mctl (op : Nat) (size inc : Bool) : Nat := op + 4 * bit size + 8 * bit inc

def execDpMemRead (size inc : Bool) (s : State) : Host.Outcome State Fault Refusal :=
  .next (s.dpSend 7 (mctl 1 size inc))

def execDpMemWrite (size inc : Bool) (s : State) : Host.Outcome State Fault Refusal :=
  .next (s.dpSend 7 (mctl 2 size inc))

/-! ### The debug master (R464) -/

/-- A read of the control space goes through the peek alias. -/
def peekOf (a : Nat) : Nat := if 0x0C0000000000 ≤ a ∧ a < 0x0C0001000000 then a + 2 ^ 24 else a

/-- The access completes: BUSY clears, an error is latched, data comes into DP_DATA, ADDR advances. -/
def State.dpFinish (s : State) (write : Bool) (n code data : Nat) : State :=
  s.modDp fun x => { x with
    acc := none, out := none, busErr := code != 0, err := code,
    data := if write || code != 0 then x.data else if n = 8 then data % 2 ^ 64 else putBits x.data 31 0 data,
    addr := if x.inc then (x.addr + n) % 2 ^ 64 else x.addr }

/-- The access of the debug master is issued. -/
def State.dpIssue (s : State) (write : Bool) (ga n data : Nat) (ecc : List Ecc) : State :=
  match s.global ga with
  | .bad => s.dpFinish write n BusStatus.decode.code 0
  | .here a =>
    match s.bus { init := 1, op := bit write, addr := if write then a else peekOf a, n := n, data := data, ecc := ecc } with
    | (none, s) => s
    | (some (st, d), s) => s.dpFinish write n st.code d
  | .there dev a =>
    match s.sendRemote 1 s.fresh n
      { typ := bit write, len := n - 1, addr := if write then a else peekOf a, dst := dev, data := if write then data else 0, ncol := if write then 1 else 0 } with
    | (.wait, s) => s
    | (.out, t) => ({ t with fresh := t.fresh + 1 } : State).modDp fun x => { x with out := some s.fresh }
    | (.stop st, s) => s.dpFinish write n st.code 0

/-- DP_ACCESS_DONE: the access in progress proceeds to its response. -/
def State.dpAccess (s : State) (ecc : List Ecc) : State :=
  match s.dp.acc with
  | none => s
  | some (w, ga, n, d) =>
    if s.dp.out.isNone then s.dpIssue w ga n d ecc
    else match s.takeAnswer 1 n with
      | none => s
      | some (a, t) => if s.dp.out = some a.num then t.dpFinish w n a.status a.data else t

def execDpAccessDone (ecc : List Ecc) (n : Noise) (s : State) : Host.Outcome State Fault Refusal :=
  .next ((s.disturb n).dpAccess ecc)

end Sys2Proof.Machine
end

