-- ==== Sys2Proof/Machine/Mbx.lean ====
section
/-! DEFINITION. The mailbox commands (R454–R459), the release and readmission of dies (R11, R14,
R17–R20, R27, R429), and the training of DRAM channels by firmware (R261–R263, R430). -/

namespace Sys2Proof.Machine

/-! ### The frame of a command -/

/-- The message in the command buffer, its first byte lowest. -/
def State.mbxMsg (s : State) : Nat := s.rdWords pgMbx MBX_CMDk.DATA 64
def State.mbxCmd (s : State) : Nat := s.rd pgMbx (MBX_CMDk.DATA.nth 0) % 2 ^ 8
def State.mbxLen (s : State) : Nat := s.rd pgMbx (MBX_CMDk.DATA.nth 0) / 2 ^ 16

/-- `n` bytes of the payload from a byte on. -/
def State.pay (s : State) (off n : Nat) : Nat := s.mbxMsg / 2 ^ (8 * (8 + off)) % 2 ^ (8 * n)

/-- The reply is written, which is the final state of the command. -/
def State.mbxDone (s : State) (st : Nat) (payload : Nat := 0) (len : Nat := 0) : State :=
  (s.mbxReply st payload len).evDone pgMbx

def stOk : Nat := 0
def stBadCmd : Nat := 1
def stBadLen : Nat := 2
def stBadArg : Nat := 3
def stRefused : Nat := 4
def stNoSlot : Nat := 5
def stVerify : Nat := 6
def stFlash : Nat := 9

/-- A command is in progress and firmware serves it. -/
def State.mbxServes (s : State) : Bool := s.on pgMbx MBX_STAT.BUSY && s.fwRuns

/-- The command of a number is served: its length is checked, then it takes effect and is answered. -/
def State.serve (s : State) (cmd : Nat) (lenOk : Nat → Bool) (f : State → State) : State :=
  if !s.mbxServes || s.mbxCmd != cmd then s
  else if !lenOk s.mbxLen then s.mbxDone stBadLen
  else f s

/-- A command that writes the store: where the flash fails it has no effect. -/
def State.stored (s : State) (err : Bool) (f : State → State) : State :=
  if err then s.mbxDone stFlash else (f s).mbxDone stOk

/-- The commands of R456. -/
def mbxListed (cmd : Nat) : Bool := decide (1 ≤ cmd ∧ cmd ≤ 0x13)

/-- BAD_CMD: an unlisted command is answered so. -/
def execBadCmd (s : State) : Host.Outcome State Fault Refusal :=
  .next (if s.mbxServes && !mbxListed s.mbxCmd then s.mbxDone stBadCmd else s)

/-! ### GET_INFO, DRAM_REPORT -/

def State.getInfo (s : State) : State :=
  s.mbxDone stOk (packBytes [(4, (s.reg pgHub HUB_BOOT.STATUS.off).toNat), (4, s.rd pgHub HUB_FW_VER.VER),
    (4, s.store.fwMin), (4, s.rd pgCfg CFG_SVN_MIN.SVN)]) 16

def execGetInfo (s : State) : Host.Outcome State Fault Refusal :=
  .next (s.serve 0x01 (· == 0) State.getInfo)

/-- DRC_STAT of channels 0–7. -/
def State.dramStats (s : State) : Nat :=
  packBytes ((List.range 8).map fun k => (4, (s.reg (pgDrc k) DRC_STAT.STATE.off).toNat))

def execDramReport (s : State) : Host.Outcome State Fault Refusal :=
  .next (s.serve 0x04 (· == 0) fun s =>
    if s.hub.first then s.mbxDone stOk s.dramStats 32 else s.mbxDone stRefused)

/-! ### DRAM bring-up (R261–R263, R430) -/

/-- Firmware writes a register of a channel's page. -/
def State.fwWrite (s : State) (pg off v : Nat) : State :=
  (s.ctlWrite (0x0C0000000000 + pg * 2 ^ 12 + off) 4 v 2 0).2

/-- A module meets R259 by itself, and is rated for the timing bin that its channel applies (R260; DEDUCED
for a module that is slower than the bin, which R261 refuses). -/
def dimmFits (bin : Nat) (m : Dimm) : Bool :=
  m.registered && m.width == 4 && m.chips == 10 && decide (bin ≤ m.speed)

/-- The timing bin and the credits of a channel with so many DIMMs (R260). -/
def State.chanRate (s : State) (n : Nat) : Nat × Nat := if n = 1 ∧ s.cap 4 = true then (6400, 1024) else (4400, 682)

/-- The word of DRC_GEOM for a channel's modules: with two, a rank bit more selects the DIMM (DEDUCED from
R269). -/
def chanGeom (m : Dimm) (n : Nat) : Nat :=
  let g := m.geom % 2 ^ 16
  if n = 2 then putBits (putBits g 10 8 (bitsOf g 10 8 + 1)) 16 16 1 else g

/-- Firmware takes up a channel with the modules that it finds: it is empty, refused, or accepted and sent to
TRAIN (R261). Two DIMMs have one geometry and one speed bin (R259). -/
def State.chanStart (s : State) (spd : List Dimm) (k : Nat) : State :=
  let pg := pgDrc k
  let dimm (j : Nat) := spd.find? fun m => m.ch == k && m.pos == j
  let ms := (dimm 0).toList ++ (dimm 1).toList
  let s := s.wr pg DRC_STAT.DIMMS (bit (dimm 0).isSome + 2 * bit (dimm 1).isSome)
  let (bin, credits) := s.chanRate ms.length
  match ms with
  | [] => s
  | m :: rest =>
    if ms.all (dimmFits bin) && rest.all (fun n => n.geom == m.geom && n.speed == m.speed)
        && (rest.isEmpty || s.cap 5) then
      ((s.wr pg DRC_CAP.CREDITS credits).fwWrite pg 0x48 (chanGeom m ms.length)).fwWrite pg 0x40 2
    else (s.wr pg DRC_STAT.REFUSED 1).ev pg 18

/-- A channel trains, or waits for the end of its refresh interval to enter TRAIN. -/
def State.willTrain (s : State) (k : Nat) : Bool :=
  (s.drc k).training
    || (s.rd (pgDrc k) DRC_STAT.STATE == 1 && s.rdStaged (pgDrc k) DRC_CTL.TARGET == 2)

/-- The notice DRAM_DONE goes once no channel is in training (R262, R430). -/
def State.dramNote (s : State) : State :=
  if (List.range 8).any s.willTrain then s else s.note 0x81 s.dramStats 32

/-- The credits that refresh and maintenance take (R263). -/
def rsvOf (credits trfc : Nat) : Nat := max 128 ((credits * trfc + 24959) / 24960 + 8)

/-- DRAM_TRAIN_END: training of a channel ends, with the tRFC1 of its modules in G. -/
def State.trainEnd (s : State) (k : Nat) (ok : Bool) (trfc : Nat) : State :=
  let pg := pgDrc k
  if !s.fwRuns || !(s.drc k).training || s.rd pg DRC_STAT.STATE != 2 then s
  else
    let s := s.setDrc k { s.drc k with training := false }
    let s :=
      if ok then
        let s := s.wr pg DRC_STAT.TRAIN_OK 1
        (s.fwWrite pg 0x4C (rsvOf (s.rd pg DRC_CAP.CREDITS) trfc * 2 ^ 16)).fwWrite pg 0x40 3
      else (s.wr pg DRC_STAT.TRAIN_FAIL 1).ev pg 14
    s.dramNote

def execDramTrainEnd (k : Nat) (ok : Bool) (trfc : Nat) (s : State) : Host.Outcome State Fault Refusal :=
  .next (if k < 8 then s.trainEnd k ok trfc else s)

/-! ### Release (R11, R14, R17, R20, R429) -/

/-- The type of a die in the minimum-revision table: selvage, panel, guest. -/
def dieType (d : Nat) : Nat := if d = 0 then 0 else if d ≤ 4 then 1 else 2

/-- A revision in the order of R17: letter first, then digit. -/
def revKey (letter digit : Nat) : Nat := letter * 16 + digit

/-- The die's revision lies below its entry. -/
def State.tooOld (s : State) (d : Nat) : Bool :=
  let m := s.store.minRev.getD (dieType d) (0, 0)
  decide (revKey (s.rd pgSeam (SEAM_DIEn_ID.REV_LETTER.nth d)) (s.rd pgSeam (SEAM_DIEn_ID.REV_DIGIT.nth d))
    < revKey m.1 m.2)

/-- Its straps fail (R11). -/
def State.strapBad (s : State) (d : Nat) : Bool :=
  (s.die d).dieId % 8 != d || (s.die d).pkgVar != (s.die 0).pkgVar

/-- Why a die is not admitted: 5 it never answered, 1 its straps, 2 its revision, 5 it is lost and its
heartbeat is not back; 0 where it passes. DESIGN CHOICE: the spec orders R11 and R17 nowhere for one die, so a die
that fails both is refused for its straps alone and sets no REV_REFUSED. -/
def State.dieReason (s : State) (d : Nat) : Nat :=
  let x := s.die d
  if !x.answered then 5 else if s.strapBad d then 1 else if s.tooOld d then 2
  else if x.lost && x.liveSince.isNone then 5 else 0

def State.setReason (s : State) (d r : Nat) : State :=
  { s with hub := { s.hub with reasons := s.hub.reasons.setD d 0 r } }

/-- A refusal is recorded; a die refused for its straps or its revision is declared lost (R475). -/
def State.dieRefuse (s : State) (d r : Nat) : State :=
  let s := s.setReason d r
  if r = 1 then (s.wr pgSeam SEAM_STAT.STRAP_ERR 1).dieLost d
  else if r = 2 then (s.wr pgSeam SEAM_STAT.REV_REFUSED 1).dieLost d
  else s

/-- The dies that a release may concern: the panels, and the fitted sites. -/
def State.candidates (s : State) : List Nat := [1, 2, 3, 4, 5, 6].filter fun d => panelOk d || s.fitted d

/-- The checks of R11 and R17 on every die. -/
def State.dieChecks (s : State) : State :=
  s.candidates.foldl (fun s d =>
    let r := if (s.die d).lost then 5 else s.dieReason d
    if r = 0 then s.setReason d 0 else s.dieRefuse d r) s

/-- The dies that no reason refuses. -/
def State.admitted (s : State) : List Nat := s.candidates.filter fun d => s.hub.reasons.getD d 0 == 0

/-- The intersection of the capability words of the selvage die and the admitted dies (R14). -/
def State.capJoin (s : State) : Nat :=
  s.admitted.foldl (fun m d => m &&& s.rd pgSeam (SEAM_DIEn_CAP.CAP.nth d))
    (s.rd pgSeam (SEAM_DIEn_CAP.CAP.nth 0))

/-- The network-mode bits of the four panel–panel joins. -/
def State.roleNets (s : State) : List Nat :=
  [s.rd pgSeam SEAM_ROLE_E12.NET, s.rd pgSeam SEAM_ROLE_E34.NET, s.rd pgSeam SEAM_ROLE_E13.NET,
   s.rd pgSeam SEAM_ROLE_E24.NET]

/-- A role set that R20 rejects. -/
def State.rolesBad (s : State) : Bool :=
  (s.roleNets.any fun n => (List.range 4).any fun k => !maskBit n k && !maskBit n (k + 4))
    || ((List.range 4).any fun p => s.rd pgSeam SEAM_ROLE_SEL.PANEL / 2 ^ (4 * p) % 4 != 3)
    || ((List.range 2).any fun t => s.fitted (5 + t) && s.rd pgSeam SEAM_ROLE_SEL.SITE / 2 ^ (4 * t) % 4 != 3)
    || (!s.cap 8 && s.roleNets.any (· != 0xFF))

/-- R17 for the selvage die itself: one below its entry is refused. -/
def State.selvageCheck (s : State) : State :=
  if s.tooOld 0 then (s.setReason 0 2).wr pgSeam SEAM_STAT.REV_REFUSED 1 else s

/-- No version of the package network is common to the dies (R14). -/
def State.noVersion (s : State) : Bool := bitsOf (s.rd pgSeam SEAM_CAP_EFF.CAP) 23 16 == 0

/-- R20: a rejected role set is recorded, and refuses every admitted die. -/
def State.roleCheck (s : State) : State :=
  if s.rolesBad then
    let s := (s.wr pgSeam SEAM_STAT.ROLE_LOCKED 1).wr pgSeam SEAM_STAT.STRAP_ERR 1
    s.admitted.foldl (fun s d => s.setReason d 4) s
  else s

/-- The checks of the first release: its steps R11, R17, R14 and R20, each of which is applied whatever the
others find. The second part says whether dies may be released. -/
def State.firstChecks (s : State) : State × Bool :=
  let s := s.dieChecks.selvageCheck
  let s := s.wr pgSeam SEAM_CAP_EFF.CAP s.capJoin
  let s := if s.noVersion then s.wr pgSeam SEAM_STAT.REV_REFUSED 1 else s
  let bad := s.tooOld 0 || s.noVersion || s.rolesBad
  let s := s.roleCheck
  if bad then ({ s with hub := { s.hub with barred := true } }, false)
  else
    let s := if s.cap 11 then s
      else (s.admitted.filter (5 ≤ ·)).foldl (fun s d => s.setReason d 3) s
    ({ s with hub := { s.hub with first := true } }, true)

/-- Firmware switches the clocks of R429's step 3 on. -/
def State.relClocks (s : State) (ds : List Nat) : State :=
  let s := ((s.clkEnWrite pgCfg 1).clkEnWrite pgLin 1).clkEnWrite pgMap 1
  (ds.filter panelOk).foldl (fun s p =>
    (((s.clkEnWrite (pgDrc (2 * (p - 1))) 1).clkEnWrite (pgDrc (2 * (p - 1) + 1)) 1).clkEnWrite
      (pgNoc p) 1).clkEnWrite (pgDarn p) 1) s

/-- Dies are released: SEAM_RELEASE, the clocks, and the channels of the panels among them. -/
def State.releaseDies (s : State) (ds : List Nat) (spd : List Dimm) : State :=
  let s := s.seamRelease 2 (ds.foldl (fun m d => m + 2 ^ d) 0)
  let s := s.relClocks ds
  let s := ((List.range 8).filter fun k => ds.contains (k / 2 + 1)).foldl (·.chanStart spd) s
  s.dramNote

/-- The payload of a RELEASE or READMIT reply: 9 bytes. -/
def State.relReply (s : State) : State :=
  let rs := (List.range 7).map fun d => s.hub.reasons.getD d 0
  let refused := (List.range 7).foldl (fun m d => if rs.getD d 0 = 0 then m else m + 2 ^ d) 0
  s.mbxDone stOk (packBytes ([(1, s.rd pgSeam SEAM_PKG.RELEASED), (1, refused)] ++ rs.map fun r => (1, r))) 9

/-- Admitted dies that are not released yet. -/
def State.unreleased (s : State) : List Nat :=
  s.admitted.filter fun d => !(s.die d).lost && !s.released d

/-- The first release waits until JUDGED is 1 and every present panel has locked its multiplier or is
lost (R429). -/
def State.releaseReady (s : State) : Bool :=
  s.hub.first || s.hub.barred
    || (s.on pgClk CLK_ROOT_STAT.JUDGED && [1, 2, 3, 4].all fun p =>
        !maskBit (s.rd pgSeam SEAM_PKG.PRESENT) p || (s.die p).lost || s.on (pgClkPnl p) CLK_PNL_STAT.MULT_LOCK)

/-- RELEASE. -/
def State.release (s : State) (spd : List Dimm) : State :=
  if !s.releaseReady then s
  else if s.hub.barred then s.relReply
  else
    let (s, go) := if s.hub.first then (s, true) else s.firstChecks
    if go then (s.releaseDies s.unreleased spd).relReply else s.relReply

def execRelease (spd : List Dimm) (s : State) : Host.Outcome State Fault Refusal :=
  .next (s.serve 0x02 (· == 0) (·.release spd))

/-- A lost die comes back under its own checks and those of R18. -/
def State.readmitDie (s : State) (d : Nat) (spd : List Dimm) : State :=
  let cap := s.rd pgSeam (SEAM_DIEn_CAP.CAP.nth d)
  let eff := s.rd pgSeam SEAM_CAP_EFF.CAP
  let r := s.dieReason d
  if r = 5 then (s.setReason d 5).relReply
  else if r = 1 then ((s.setReason d 1).wr pgSeam SEAM_STAT.STRAP_ERR 1).relReply
  else if r = 2 ∨ cap &&& eff ≠ eff ∨ (5 ≤ d ∧ !s.cap 11) then
    ((s.setReason d (if r = 2 then 2 else 3)).wr pgSeam SEAM_STAT.REV_REFUSED 1).relReply
  else
    let s := ((s.setReason d 0).setDie d { s.die d with lost := false }).panelCal d
    let s := (s.dieBit SEAM_PKG.RELEASED d false).dieBit SEAM_PKG.UP d true
    let s :=
      if panelOk d && s.tu.everJudged then
        let s := (s.wrCov (pgClkPnl d) PAGE_CTL.CLK_EN 1).wr (pgClkPnl d) CLK_PNL_STAT.REF_OK 1
        s.setDie d { s.die d with refAt := some s.now }
      else s
    (s.releaseDies [d] spd).relReply

/-- READMIT of a die that is lost, once the first release has been made (R27). -/
def State.readmit (s : State) (spd : List Dimm) : State :=
  let d := s.pay 0 1
  if d = 0 ∨ 6 < d then s.mbxDone stBadArg
  else if !s.hub.first || !(s.die d).lost then s.mbxDone stRefused
  else s.readmitDie d spd

def execReadmit (spd : List Dimm) (s : State) : Host.Outcome State Fault Refusal :=
  .next (s.serve 0x03 (· == 1) (·.readmit spd))

/-! ### Keys and minima (R456, R458) -/

/-- CFG_PK_STAT follows the store. -/
def State.pkSync (s : State) : State :=
  (s.wr pgCfg CFG_PK_STAT.VALID s.store.pkValid).wr pgCfg CFG_PK_STAT.REVOKED s.store.pkRevoked

/-- SIGKEY_SET. -/
def State.sigkeySet (s : State) (err : Bool) : State :=
  let k := s.pay 0 1
  if 4 ≤ k then s.mbxDone stBadArg
  else if maskBit s.store.pkValid k || maskBit s.store.pkRevoked k then s.mbxDone stRefused
  else s.stored err fun s =>
    let st := { s.store with pkValid := maskSet s.store.pkValid k true, digests := s.store.digests.put k (s.pay 1 48) }
    ({ s with store := st } : State).pkSync

def execSigkeySet (err : Bool) (s : State) : Host.Outcome State Fault Refusal :=
  .next (s.serve 0x05 (· == 49) (·.sigkeySet err))

/-- SIGKEY_REVOKE. -/
def State.sigkeyRevoke (s : State) (err : Bool) : State :=
  let k := s.pay 0 1
  if 4 ≤ k then s.mbxDone stBadArg
  else s.stored err fun s =>
    ({ s with store := { s.store with pkRevoked := maskSet s.store.pkRevoked k true } } : State).pkSync

def execSigkeyRevoke (err : Bool) (s : State) : Host.Outcome State Fault Refusal :=
  .next (s.serve 0x06 (· == 1) (·.sigkeyRevoke err))

/-- KEY_IMPORT: a FREE slot becomes HELD with the unwrapped stream key. -/
def State.keyImport (s : State) : State :=
  match s.takeSlot 3 with
  | none => s.mbxDone stNoSlot
  | some (k, t) =>
    match keyUnwrap (s.pay 0 96) (s.pay 96 40) with
    | none => s.mbxDone stVerify
    | some key => (t.setSlot k ⟨3, key % 2 ^ 256, 0⟩).mbxDone stOk k 1

def execKeyImport (s : State) : Host.Outcome State Fault Refusal :=
  .next (s.serve 0x07 (· == 136) State.keyImport)

/-- KEY_DROP. -/
def State.keyDrop (s : State) : State :=
  let k := s.pay 0 1
  if 64 ≤ k then s.mbxDone stBadArg
  else if (s.slot k).state ≠ 3 then s.mbxDone stRefused
  else (s.freeSlot k).mbxDone stOk

def execKeyDrop (s : State) : Host.Outcome State Fault Refusal :=
  .next (s.serve 0x08 (· == 1) State.keyDrop)

/-- SVN_RAISE: the register takes the value as a write of it would. -/
def State.svnRaise (s : State) (err : Bool) : State :=
  let v := s.pay 0 4
  if v < s.rd pgCfg CFG_SVN_MIN.SVN then s.mbxDone stRefused
  else s.stored err fun s =>
    ({ s with store := { s.store with svnMin := v } } : State).regWrite pgCfg 0x50 v 2 0

def execSvnRaise (err : Bool) (s : State) : Host.Outcome State Fault Refusal :=
  .next (s.serve 0x09 (· == 4) (·.svnRaise err))

/-- MINREV_RAISE. -/
def State.minrevRaise (s : State) (err : Bool) : State :=
  let t := s.pay 0 1
  let l := s.pay 1 1
  let d := s.pay 2 1
  let m := s.store.minRev.getD t (0, 0)
  if 2 < t ∨ l = 0 ∨ 26 < l ∨ 9 < d then s.mbxDone stBadArg
  else if revKey l d < revKey m.1 m.2 then s.mbxDone stRefused
  else s.stored err fun s =>
    { s with store := { s.store with minRev := s.store.minRev.put t (l, d) } }

def execMinrevRaise (err : Bool) (s : State) : Host.Outcome State Fault Refusal :=
  .next (s.serve 0x0A (· == 3) (·.minrevRaise err))

/-! ### Firmware images (R457) -/

/-- The inactive image holds data from an offset on; at offset 0 it is erased first, and what erased
flash reads as is open. -/
def State.imageWrite (s : State) (off n data : Nat) : State :=
  let i := s.spareImage
  let (old, s) := if off = 0 then (Config.freeNat s.fresh, { s with fresh := s.fresh + 1 }) else (s.image i, s)
  { s with store := { s.store with
      images := s.store.images.put i (putBits old (8 * (off + n) - 1) (8 * off) data),
      stale := if s.store.stale.contains i then s.store.stale else i :: s.store.stale, wrEnd := some (off + n) } }

/-- The sequence of writes is broken: the inactive image is invalid. -/
def State.imageSpoil (s : State) : State :=
  let i := s.spareImage
  { s with store := { s.store with
      stale := if s.store.stale.contains i then s.store.stale else i :: s.store.stale, wrEnd := none } }

/-- FW_WRITE. -/
def State.fwWriteCmd (s : State) (err : Bool) : State :=
  let off := s.pay 0 4
  let n := s.mbxLen - 4
  if (off ≠ 0 ∧ s.store.wrEnd ≠ some off) ∨ 0x600000 < off + n then s.mbxDone stBadArg
  else if err then s.imageSpoil.mbxDone stFlash
  else (s.imageWrite off n (s.pay 4 n)).mbxDone stOk

def execFwWrite (err : Bool) (s : State) : Host.Outcome State Fault Refusal :=
  .next (s.serve 0x0B (fun n => decide (5 ≤ n ∧ n ≤ 244)) (·.fwWriteCmd err))

/-- FW_COMMIT: the inactive image is verified and becomes the preferred one. -/
def State.fwCommit (s : State) (err : Bool) : State :=
  let i := s.spareImage
  let whole := !s.store.stale.contains i || s.store.wrEnd.isSome
  if !(whole && Config.imageOk (s.image i)
      && decide (s.store.fwMin ≤ Config.imageSvn (s.image i) % 2 ^ 32)) then s.mbxDone stVerify
  else s.stored err fun s =>
    { s with store := { s.store with pref := i, stale := s.store.stale.erase i, wrEnd := none } }

def execFwCommit (err : Bool) (s : State) : Host.Outcome State Fault Refusal :=
  .next (s.serve 0x0C (· == 0) (·.fwCommit err))

/-- FW_CONFIRM: the stored minimum rises to the SVN of the image that runs. -/
def execFwConfirm (err : Bool) (s : State) : Host.Outcome State Fault Refusal :=
  .next (s.serve 0x0D (· == 0) (·.stored err fun s =>
    { s with store := { s.store with fwMin := max s.store.fwMin s.hub.svn } }))

/-! ### Chunks (R456) -/

/-- Chunk `c` of a text of some bytes: the total, then up to 240 bytes. -/
def State.chunk (s : State) (total data : Nat) : State :=
  let c := s.pay 0 2
  if total ≤ 240 * c ∧ c ≠ 0 then s.mbxDone stBadArg
  else
    let n := min 240 (total - 240 * c)
    s.mbxDone stOk (packBytes [(2, total), (n, data / 2 ^ (8 * 240 * c))]) (2 + n)

def execGetCert (s : State) : Host.Outcome State Fault Refusal :=
  .next (s.serve 0x0E (· == 2) fun s => s.chunk (min Config.certLen 2048) Config.cert)

def execGetCrash (s : State) : Host.Outcome State Fault Refusal :=
  .next (s.serve 0x0F (· == 2) fun s =>
    match s.store.crash with
    | some (n, data) => s.chunk n data
    | none => s.chunk 0 0)

/-- What firmware has added to its log since the log was last read: a free text, which may be empty; the ring keeps the
newest 64 KB. What firmware logs is open. -/
def State.logGrow (s : State) : State :=
  let (n, s) := s.draw 16
  let (v, s) := s.draw (8 * n)
  let len := s.store.log.1 + n
  let data := s.store.log.2 + v * 2 ^ (8 * s.store.log.1)
  let past := len - 0x10000
  { s with store := { s.store with log := (len - past, data / 2 ^ (8 * past)) } }

/-- GET_LOG: a chunk of the log that the store holds, oldest first. DESIGN CHOICE: firmware may have added to it before
any chunk is taken. -/
def State.getLog (s : State) : State :=
  let s := s.logGrow
  s.chunk s.store.log.1 s.store.log.2

def execGetLog (s : State) : Host.Outcome State Fault Refusal :=
  .next (s.serve 0x10 (· == 2) State.getLog)

def execClearCrash (err : Bool) (s : State) : Host.Outcome State Fault Refusal :=
  .next (s.serve 0x11 (· == 0) (·.stored err fun s =>
    { s with store := { s.store with crash := none } }))

/-! ### DEBUG_LOCK, RESET_PACKAGE -/

/-- DEBUG_LOCK: a lock is refused while anything is halted, and detaches a debugger (R465). -/
def State.debugLock (s : State) (err : Bool) : State :=
  let v := s.pay 0 1
  if 1 < v then s.mbxDone stBadArg
  else if v = 1 ∧ s.anyHalted then s.mbxDone stRefused
  else s.stored err fun s =>
    let s : State := { s with store := { s.store with lock := v == 1 }, dp := { s.dp with locked := v == 1 } }
    if v = 1 then s.dbgDetach else s

def execDebugLock (err : Bool) (s : State) : Host.Outcome State Fault Refusal :=
  .next (s.serve 0x12 (· == 1) (·.debugLock err))

/-- RESET_PACKAGE: the reply is written, and a reset of the package is ordered. -/
def execResetPackage (s : State) : Host.Outcome State Fault Refusal :=
  .next (s.serve 0x13 (· == 0) fun s =>
    ({ s with hub := { s.hub with resetDue := true } } : State).mbxDone stOk)

end Sys2Proof.Machine
end

