-- ==== Sys2Proof/Machine/ShuArith.lean ====
section
/-! DEFINITION. The P-format instructions of the shuttle engines (R244–R246). -/

namespace Sys2Proof.Machine

/-- The instruction is the P-format operation `op`. -/
def isPar (op : Nat) : ShuInstr → Bool
  | .par o _ _ _ _ _ => o == op
  | _ => false

/-- A parallel move at its slot: the memory it leaves in `x`, with its load held back; `s` is the
engine at the start of the instruction (R216, R246). -/
def EngX.parMove (x s : EngX) : Option ParMove → EngX
  | none => x
  | some m =>
    let a := s.get (cP m.ptr)
    if m.store then x.store a (s.word m.reg).1
    else x.writeLate m.reg (x.load a)

/-- The pointer steps of both moves: slot 0, then slot 1 (R219). -/
def EngX.parPost (x : EngX) : Option ParMove → EngX
  | none => x
  | some m => x.post m.ptr m.step

/-- A move that stores a saturated value. -/
def EngX.parSat (x : EngX) : Option ParMove → Bool
  | some m => m.store && (x.word m.reg).2
  | none => false

/-- A load that names accumulator `d`. -/
def loadsAcc (d : Nat) : Option ParMove → Bool
  | some m => !m.store && m.reg == 8 + d
  | none => false

/-- The first source as an accumulator value (R245). -/
def EngX.parSrc (x : EngX) (s1 : Nat) : Nat :=
  if s1 < 8 then accOfWord (x.get s1) else x.get s1

/-- One P-format instruction: `f` gives the result and the flags from SR, the accumulator, the
source and the two multiplier words. `mul` marks the multiplies, `keeps` the operations that never
write D. -/
def State.parRun (s : State) (e : Nat) (mul keeps : Bool) (f : Nat → Nat → Nat → Nat → Nat → AccRes)
    (i : ShuInstr) : State :=
  match i with
  | .par _ d s1 s2 m0 m1 =>
    if (mul && decide (8 ≤ s1)) || (!keeps && (loadsAcc d m0 || loadsAcc d m1)) then s.engEnd e 4
    else
      let x := s.eng e
      let r := f x.sr (x.get (cA d)) (x.parSrc s1) (x.get s1) (x.get s2)
      let y := (x.parMove x m0).parMove x m1
      let y := (y.parPost m0).parPost m1
      let y := match r.acc with
        | some a => y.set (cA d) a
        | none => y
      let y := y.setSr (if x.parSat m0 || x.parSat m1 then maskSet r.sr fS true else r.sr)
      s.engNext e y x.late 1
  | _ => s

def execXfer (e stalls : Nat) (ecc : List Ecc) (s : State) : Host.Outcome State Fault Refusal :=
  .next (s.engRun e stalls ecc (isPar 0) fun i s =>
    s.parRun e false true (fun sr _ _ _ _ => ⟨none, sr⟩) i)

def execMul (e stalls : Nat) (ecc : List Ecc) (s : State) : Host.Outcome State Fault Refusal :=
  .next (s.engRun e stalls ecc (isPar 1) fun i s =>
    s.parRun e true false (fun sr _ _ x y => accMul sr (twice x y)) i)

def execMuln (e stalls : Nat) (ecc : List Ecc) (s : State) : Host.Outcome State Fault Refusal :=
  .next (s.engRun e stalls ecc (isPar 2) fun i s =>
    s.parRun e true false (fun sr _ _ x y => accMul sr (-twice x y)) i)

def execMadd (e stalls : Nat) (ecc : List Ecc) (s : State) : Host.Outcome State Fault Refusal :=
  .next (s.engRun e stalls ecc (isPar 3) fun i s =>
    s.parRun e true false (fun sr d _ x y => accAdd sr d (unsign 56 (twice x y))) i)

def execMsub (e stalls : Nat) (ecc : List Ecc) (s : State) : Host.Outcome State Fault Refusal :=
  .next (s.engRun e stalls ecc (isPar 4) fun i s =>
    s.parRun e true false (fun sr d _ x y => accSub sr d (unsign 56 (twice x y))) i)

def execAdd (e stalls : Nat) (ecc : List Ecc) (s : State) : Host.Outcome State Fault Refusal :=
  .next (s.engRun e stalls ecc (isPar 5) fun i s =>
    s.parRun e false false (fun sr d a _ _ => accAdd sr d a) i)

def execSub (e stalls : Nat) (ecc : List Ecc) (s : State) : Host.Outcome State Fault Refusal :=
  .next (s.engRun e stalls ecc (isPar 6) fun i s =>
    s.parRun e false false (fun sr d a _ _ => accSub sr d a) i)

def execZero (e stalls : Nat) (ecc : List Ecc) (s : State) : Host.Outcome State Fault Refusal :=
  .next (s.engRun e stalls ecc (isPar 7) fun i s =>
    s.parRun e false false (fun sr _ _ _ _ => accZero sr) i)

def execCmp (e stalls : Nat) (ecc : List Ecc) (s : State) : Host.Outcome State Fault Refusal :=
  .next (s.engRun e stalls ecc (isPar 8) fun i s =>
    s.parRun e false true (fun sr d a _ _ => accCmp sr d a) i)

def execCopy (e stalls : Nat) (ecc : List Ecc) (s : State) : Host.Outcome State Fault Refusal :=
  .next (s.engRun e stalls ecc (isPar 9) fun i s =>
    s.parRun e false false (fun sr _ a _ _ => accCopy sr a) i)

def execNeg (e stalls : Nat) (ecc : List Ecc) (s : State) : Host.Outcome State Fault Refusal :=
  .next (s.engRun e stalls ecc (isPar 0xA) fun i s =>
    s.parRun e false false (fun sr d _ _ _ => accNeg sr d) i)

def execAbs (e stalls : Nat) (ecc : List Ecc) (s : State) : Host.Outcome State Fault Refusal :=
  .next (s.engRun e stalls ecc (isPar 0xB) fun i s =>
    s.parRun e false false (fun sr d _ _ _ => accAbs sr d) i)

def execShl (e stalls : Nat) (ecc : List Ecc) (s : State) : Host.Outcome State Fault Refusal :=
  .next (s.engRun e stalls ecc (isPar 0xC) fun i s =>
    s.parRun e false false (fun sr d _ _ _ => accShl sr d) i)

def execShr (e stalls : Nat) (ecc : List Ecc) (s : State) : Host.Outcome State Fault Refusal :=
  .next (s.engRun e stalls ecc (isPar 0xD) fun i s =>
    s.parRun e false false (fun sr d _ _ _ => accShr sr d) i)

def execMax (e stalls : Nat) (ecc : List Ecc) (s : State) : Host.Outcome State Fault Refusal :=
  .next (s.engRun e stalls ecc (isPar 0xE) fun i s =>
    s.parRun e false false (fun sr d a _ _ => accMax sr d a) i)

end Sys2Proof.Machine
end

