-- ==== Sys2Proof/Machine/Dispatch.lean ====
section
/-! DEFINITION. One arm for each command, each a call of its meaning. -/

namespace Sys2Proof.Machine

def exec (i : Instr) (s : State) : Host.Outcome State Fault Refusal :=
  match i with
  | .registerWrite addr width value init src stall upset => Sys2Proof.Machine.execRegisterWrite addr width value init src stall upset s
  | .rcRegisterRead addr width init src stall => Sys2Proof.Machine.execRcRegisterRead addr width init src stall s
  | .stalledAccessComplete ix => Sys2Proof.Machine.execStalledAccessComplete ix s
  | .pageSoftReset pg => Sys2Proof.Machine.execPageSoftReset pg s
  | .softResetDone pg => Sys2Proof.Machine.execSoftResetDone pg s
  | .pageCommitNow pg bad => Sys2Proof.Machine.execPageCommitNow pg bad s
  | .pageAbort pg => Sys2Proof.Machine.execPageAbort pg s
  | .pageDiscard pg => Sys2Proof.Machine.execPageDiscard pg s
  | .pageClkEnWrite pg en => Sys2Proof.Machine.execPageClkEnWrite pg en s
  | .budgetPeriodBoundary bad => Sys2Proof.Machine.execBudgetPeriodBoundary bad s
  | .crcPassStart pg off flip => Sys2Proof.Machine.execCrcPassStart pg off flip s
  | .crcPassEnd pg => Sys2Proof.Machine.execCrcPassEnd pg s
  | .crcCommit pg => Sys2Proof.Machine.execCrcCommit pg s
  | .almPendClear v => Sys2Proof.Machine.execAlmPendClear v s
  | .almClearLog => Sys2Proof.Machine.execAlmClearLog s
  | .shellPorEnd => Sys2Proof.Machine.execShellPorEnd s
  | .diePorEnd d answers dieId pkgVar letter digit typ cap => Sys2Proof.Machine.execDiePorEnd d answers dieId pkgVar letter digit typ cap s
  | .firmwareStart => Sys2Proof.Machine.execFirmwareStart s
  | .fwStartTimeout => Sys2Proof.Machine.execFwStartTimeout s
  | .hubWdogExpire => Sys2Proof.Machine.execHubWdogExpire s
  | .refSignalQualify p eyes => Sys2Proof.Machine.execRefSignalQualify p eyes s
  | .judgeWindowEnd count held => Sys2Proof.Machine.execJudgeWindowEnd count held s
  | .judgeTimeout => Sys2Proof.Machine.execJudgeTimeout s
  | .panelMultLock p => Sys2Proof.Machine.execPanelMultLock p s
  | .panelMultTimeout p => Sys2Proof.Machine.execPanelMultTimeout p s
  | .beaconStart p => Sys2Proof.Machine.execBeaconStart p s
  | .bcnReceive p c t2 t3 => Sys2Proof.Machine.execBcnReceive p c t2 t3 s
  | .brpReceive p c t4 => Sys2Proof.Machine.execBrpReceive p c t4 s
  | .beaconTimeout p => Sys2Proof.Machine.execBeaconTimeout p s
  | .parentDriftMeasured drift => Sys2Proof.Machine.execParentDriftMeasured drift s
  | .switchRetry => Sys2Proof.Machine.execSwitchRetry s
  | .parentSignalLoss => Sys2Proof.Machine.execParentSignalLoss s
  | .parentSignalReturn => Sys2Proof.Machine.execParentSignalReturn s
  | .holdoverExpiry => Sys2Proof.Machine.execHoldoverExpiry s
  | .clockRecovery p eyes => Sys2Proof.Machine.execClockRecovery p eyes s
  | .ungate => Sys2Proof.Machine.execUngate s
  | .launchAdd pick => Sys2Proof.Machine.execLaunchAdd pick s
  | .launchCancel ix gen => Sys2Proof.Machine.execLaunchCancel ix gen s
  | .launchRead ix gen => Sys2Proof.Machine.execLaunchRead ix gen s
  | .launchCommit ix => Sys2Proof.Machine.execLaunchCommit ix s
  | .launchRelease ix => Sys2Proof.Machine.execLaunchRelease ix s
  | .launchSnapshot ix => Sys2Proof.Machine.execLaunchSnapshot ix s
  | .launchStartSeq ix => Sys2Proof.Machine.execLaunchStartSeq ix s
  | .launchEvent ix => Sys2Proof.Machine.execLaunchEvent ix s
  | .launchMissedFree => Sys2Proof.Machine.execLaunchMissedFree s
  | .seamRoleWrite off v => Sys2Proof.Machine.execSeamRoleWrite off v s
  | .seamReleaseWrite init v => Sys2Proof.Machine.execSeamReleaseWrite init v s
  | .heartbeatMiss d => Sys2Proof.Machine.execHeartbeatMiss d s
  | .seamReqToLostDie d => Sys2Proof.Machine.execSeamReqToLostDie d s
  | .seamLateResponse d => Sys2Proof.Machine.execSeamLateResponse d s
  | .detourLoad es => Sys2Proof.Machine.execDetourLoad es s
  | .detourWithdraw es => Sys2Proof.Machine.execDetourWithdraw es s
  | .selvageReset => Sys2Proof.Machine.execSelvageReset s
  | .recordDecode l => Sys2Proof.Machine.execRecordDecode l s
  | .cycleIssue l bad tab wave => Sys2Proof.Machine.execCycleIssue l bad tab wave s
  | .failVectorDeliver b ls => Sys2Proof.Machine.execFailVectorDeliver b ls s
  | .branchResolve l => Sys2Proof.Machine.execBranchResolve l s
  | .waitExpire l => Sys2Proof.Machine.execWaitExpire l s
  | .maskArrives b => Sys2Proof.Machine.execMaskArrives b s
  | .seqArm b => Sys2Proof.Machine.execSeqArm b s
  | .seqReady l => Sys2Proof.Machine.execSeqReady l s
  | .startNow b => Sys2Proof.Machine.execStartNow b s
  | .seqPendingStart l => Sys2Proof.Machine.execSeqPendingStart l s
  | .partnerLostDeclare b => Sys2Proof.Machine.execPartnerLostDeclare b s
  | .walkerSegmentRequest l => Sys2Proof.Machine.execWalkerSegmentRequest l s
  | .segmentFetchReturn l seg e => Sys2Proof.Machine.execSegmentFetchReturn l seg e s
  | .partnerProbe l k => Sys2Proof.Machine.execPartnerProbe l k s
  | .probeTimeout l k => Sys2Proof.Machine.execProbeTimeout l k s
  | .waveWrite b => Sys2Proof.Machine.execWaveWrite b s
  | .waveWriteDone b => Sys2Proof.Machine.execWaveWriteDone b s
  | .waveRead b => Sys2Proof.Machine.execWaveRead b s
  | .waveReadDone b e => Sys2Proof.Machine.execWaveReadDone b e s
  | .tsFifoPop b => Sys2Proof.Machine.execTsFifoPop b s
  | .calExchange b failed => Sys2Proof.Machine.execCalExchange b failed s
  | .calStale b => Sys2Proof.Machine.execCalStale b s
  | .wftTblWrite b v => Sys2Proof.Machine.execWftTblWrite b v s
  | .wftTblRead b e => Sys2Proof.Machine.execWftTblRead b e s
  | .catMaskClear p hi v => Sys2Proof.Machine.execCatMaskClear p hi v s
  | .catMaskSet p hi v => Sys2Proof.Machine.execCatMaskSet p hi v s
  | .cacheWriteback p => Sys2Proof.Machine.execCacheWriteback p s
  | .mergeAck p e => Sys2Proof.Machine.execMergeAck p e s
  | .flush p => Sys2Proof.Machine.execFlush p s
  | .clearSites p => Sys2Proof.Machine.execClearSites p s
  | .clearTally p => Sys2Proof.Machine.execClearTally p s
  | .clearCounters p => Sys2Proof.Machine.execClearCounters p s
  | .catCmdDone p => Sys2Proof.Machine.execCatCmdDone p s
  | .spoolPush h init dev cell first last => Sys2Proof.Machine.execSpoolPush h init dev cell first last s
  | .spoolPop h init e => Sys2Proof.Machine.execSpoolPop h init e s
  | .spoolFlush h init => Sys2Proof.Machine.execSpoolFlush h init s
  | .splOpPush p h init dev first last => Sys2Proof.Machine.execSplOpPush p h init dev first last s
  | .splOpPop p h init e => Sys2Proof.Machine.execSplOpPop p h init e s
  | .engineStart e => Sys2Proof.Machine.execEngineStart e s
  | .engineKill e => Sys2Proof.Machine.execEngineKill e s
  | .wdogKick e => Sys2Proof.Machine.execWdogKick e s
  | .doorbellRing e => Sys2Proof.Machine.execDoorbellRing e s
  | .intPendClear e v => Sys2Proof.Machine.execIntPendClear e v s
  | .interruptTake e stalls => Sys2Proof.Machine.execInterruptTake e stalls s
  | .timerExpire e => Sys2Proof.Machine.execTimerExpire e s
  | .wdogExpire e => Sys2Proof.Machine.execWdogExpire e s
  | .fetchGo e dir => Sys2Proof.Machine.execFetchGo e dir s
  | .fetchResponse e k ecc n => Sys2Proof.Machine.execFetchResponse e k ecc n s
  | .clusterMemGrant e stalls ecc => Sys2Proof.Machine.execClusterMemGrant e stalls ecc s
  | .lockGrant e stalls => Sys2Proof.Machine.execLockGrant e stalls s
  | .ondieMemAccess init dev op addr n data ecc => Sys2Proof.Machine.execOndieMemAccess init dev op addr n data ecc s
  | .xfer e stalls ecc => Sys2Proof.Machine.execXfer e stalls ecc s
  | .mul e stalls ecc => Sys2Proof.Machine.execMul e stalls ecc s
  | .muln e stalls ecc => Sys2Proof.Machine.execMuln e stalls ecc s
  | .madd e stalls ecc => Sys2Proof.Machine.execMadd e stalls ecc s
  | .msub e stalls ecc => Sys2Proof.Machine.execMsub e stalls ecc s
  | .add e stalls ecc => Sys2Proof.Machine.execAdd e stalls ecc s
  | .sub e stalls ecc => Sys2Proof.Machine.execSub e stalls ecc s
  | .zero e stalls ecc => Sys2Proof.Machine.execZero e stalls ecc s
  | .cmp e stalls ecc => Sys2Proof.Machine.execCmp e stalls ecc s
  | .copy e stalls ecc => Sys2Proof.Machine.execCopy e stalls ecc s
  | .neg e stalls ecc => Sys2Proof.Machine.execNeg e stalls ecc s
  | .abs e stalls ecc => Sys2Proof.Machine.execAbs e stalls ecc s
  | .shl e stalls ecc => Sys2Proof.Machine.execShl e stalls ecc s
  | .shr e stalls ecc => Sys2Proof.Machine.execShr e stalls ecc s
  | .max e stalls ecc => Sys2Proof.Machine.execMax e stalls ecc s
  | .move e stalls ecc => Sys2Proof.Machine.execMove e stalls ecc s
  | .movi e stalls ecc => Sys2Proof.Machine.execMovi e stalls ecc s
  | .adda e stalls ecc => Sys2Proof.Machine.execAdda e stalls ecc s
  | .ldm e stalls ecc => Sys2Proof.Machine.execLdm e stalls ecc s
  | .stm e stalls ecc => Sys2Proof.Machine.execStm e stalls ecc s
  | .ldc e stalls ecc => Sys2Proof.Machine.execLdc e stalls ecc s
  | .stc e stalls ecc => Sys2Proof.Machine.execStc e stalls ecc s
  | .pioRead e stalls ecc => Sys2Proof.Machine.execPioRead e stalls ecc s
  | .pioWrite e stalls ecc => Sys2Proof.Machine.execPioWrite e stalls ecc s
  | .bra e stalls ecc => Sys2Proof.Machine.execBra e stalls ecc s
  | .call e stalls ecc => Sys2Proof.Machine.execCall e stalls ecc s
  | .ret e stalls ecc => Sys2Proof.Machine.execRet e stalls ecc s
  | .rti e stalls ecc => Sys2Proof.Machine.execRti e stalls ecc s
  | .rptn e stalls ecc => Sys2Proof.Machine.execRptn e stalls ecc s
  | .loop e stalls ecc => Sys2Proof.Machine.execLoop e stalls ecc s
  | .lpop e stalls ecc => Sys2Proof.Machine.execLpop e stalls ecc s
  | .stop e stalls ecc => Sys2Proof.Machine.execStop e stalls ecc s
  | .kick e stalls ecc => Sys2Proof.Machine.execKick e stalls ecc s
  | .signal e stalls ecc => Sys2Proof.Machine.execSignal e stalls ecc s
  | .lock e stalls ecc => Sys2Proof.Machine.execLock e stalls ecc s
  | .unlock e stalls ecc => Sys2Proof.Machine.execUnlock e stalls ecc s
  | .waiti e stalls ecc => Sys2Proof.Machine.execWaiti e stalls ecc s
  | .spush e stalls ecc => Sys2Proof.Machine.execSpush e stalls ecc s
  | .spop e stalls ecc => Sys2Proof.Machine.execSpop e stalls ecc s
  | .spflush e stalls ecc => Sys2Proof.Machine.execSpflush e stalls ecc s
  | .spushResponse e stalls => Sys2Proof.Machine.execSpushResponse e stalls s
  | .spopResponse e stalls ecc => Sys2Proof.Machine.execSpopResponse e stalls ecc s
  | .dramRead init dev raw addr len hint e => Sys2Proof.Machine.execDramRead init dev raw addr len hint e s
  | .dramWrite init dev raw addr len value hint e => Sys2Proof.Machine.execDramWrite init dev raw addr len value hint e s
  | .dramMerge init dev raw addr len value hint e => Sys2Proof.Machine.execDramMerge init dev raw addr len value hint e s
  | .neighbourRefresh k => Sys2Proof.Machine.execNeighbourRefresh k s
  | .scrubRead k e => Sys2Proof.Machine.execScrubRead k e s
  | .openRowIdleClose k bank => Sys2Proof.Machine.execOpenRowIdleClose k bank s
  | .refreshIntervalEnd k hot bad => Sys2Proof.Machine.execRefreshIntervalEnd k hot bad s
  | .hammerTallyClear k => Sys2Proof.Machine.execHammerTallyClear k s
  | .dramTrainEnd k ok trfc => Sys2Proof.Machine.execDramTrainEnd k ok trfc s
  | .drcClearLog k => Sys2Proof.Machine.execDrcClearLog k s
  | .drcClearCounts k => Sys2Proof.Machine.execDrcClearCounts k s
  | .flipArm k sub => Sys2Proof.Machine.execFlipArm k sub s
  | .enable r => Sys2Proof.Machine.execEnable r s
  | .rekey r => Sys2Proof.Machine.execRekey r s
  | .disable r => Sys2Proof.Machine.execDisable r s
  | .sweepGroup r e => Sys2Proof.Machine.execSweepGroup r e s
  | .fenceAck r unit => Sys2Proof.Machine.execFenceAck r unit s
  | .nocTblWrite d v => Sys2Proof.Machine.execNocTblWrite d v s
  | .nocTblRead d => Sys2Proof.Machine.execNocTblRead d s
  | .nocSwitch d => Sys2Proof.Machine.execNocSwitch d s
  | .nocVersionResume init => Sys2Proof.Machine.execNocVersionResume init s
  | .nocClrStats d => Sys2Proof.Machine.execNocClrStats d s
  | .routerDisable d v => Sys2Proof.Machine.execRouterDisable d v s
  | .routerPowerDown p l => Sys2Proof.Machine.execRouterPowerDown p l s
  | .guestRequest site out init dev op ddev addr len data hint n ecc => Sys2Proof.Machine.execGuestRequest site out init dev op ddev addr len data hint n ecc s
  | .restore site => Sys2Proof.Machine.execRestore site s
  | .fabricPortRequest ix op addr len be data spf opn => Sys2Proof.Machine.execFabricPortRequest ix op addr len be data spf opn s
  | .fabricPortResponse ix k take ecc n => Sys2Proof.Machine.execFabricPortResponse ix k take ecc n s
  | .fabricStreamSend ix data => Sys2Proof.Machine.execFabricStreamSend ix data s
  | .streamPacketReceive ix kelef => Sys2Proof.Machine.execStreamPacketReceive ix kelef s
  | .fabricStreamTake ix => Sys2Proof.Machine.execFabricStreamTake ix s
  | .serialRxByte ix v bad => Sys2Proof.Machine.execSerialRxByte ix v bad s
  | .klfPortEnable p en => Sys2Proof.Machine.execKlfPortEnable p en s
  | .retrain p => Sys2Proof.Machine.execRetrain p s
  | .laneSignalDetect q l => Sys2Proof.Machine.execLaneSignalDetect q l s
  | .laneSignalLoss q l => Sys2Proof.Machine.execLaneSignalLoss q l s
  | .laneLock q l eyes => Sys2Proof.Machine.execLaneLock q l eyes s
  | .laneLockLoss q l => Sys2Proof.Machine.execLaneLockLoss q l s
  | .klfAlignDone p skew => Sys2Proof.Machine.execKlfAlignDone p skew s
  | .trnReceive p dev port order => Sys2Proof.Machine.execTrnReceive p dev port order s
  | .klfParamDone p => Sys2Proof.Machine.execKlfParamDone p s
  | .klfTrainTimeout p => Sys2Proof.Machine.execKlfTrainTimeout p s
  | .klfDownQuietEnd p => Sys2Proof.Machine.execKlfDownQuietEnd p s
  | .idlInsert p => Sys2Proof.Machine.execIdlInsert p s
  | .lnkSend p => Sys2Proof.Machine.execLnkSend p s
  | .lnkReceive p c => Sys2Proof.Machine.execLnkReceive p c s
  | .frameSend p vc => Sys2Proof.Machine.execFrameSend p vc s
  | .frameReceive p h ds e => Sys2Proof.Machine.execFrameReceive p h ds e s
  | .replayTimeout p => Sys2Proof.Machine.execReplayTimeout p s
  | .sourceRoutedReceive p ecc n => Sys2Proof.Machine.execSourceRoutedReceive p ecc n s
  | .klfRequestIngress p ecc n => Sys2Proof.Machine.execKlfRequestIngress p ecc n s
  | .klfRespReceive p => Sys2Proof.Machine.execKlfRespReceive p s
  | .klfRspTimeout t => Sys2Proof.Machine.execKlfRspTimeout t s
  | .klfStreamReceive p => Sys2Proof.Machine.execKlfStreamReceive p s
  | .probe p => Sys2Proof.Machine.execProbe p s
  | .probeResponse l k => Sys2Proof.Machine.execProbeResponse l k s
  | .runend p => Sys2Proof.Machine.execRunend p s
  | .bcastReceive p => Sys2Proof.Machine.execBcastReceive p s
  | .devidWrite v => Sys2Proof.Machine.execDevidWrite v s
  | .rtWrite v hit => Sys2Proof.Machine.execRtWrite v hit s
  | .rtRead => Sys2Proof.Machine.execRtRead s
  | .failedClear m => Sys2Proof.Machine.execFailedClear m s
  | .lanePllRelock q => Sys2Proof.Machine.execLanePllRelock q s
  | .lanePowerMoveDone q => Sys2Proof.Machine.execLanePowerMoveDone q s
  | .scanPoint q l phase volt dwell => Sys2Proof.Machine.execScanPoint q l phase volt dwell s
  | .scanSweep q l phase volt dwell => Sys2Proof.Machine.execScanSweep q l phase volt dwell s
  | .scanEnd q l counts n => Sys2Proof.Machine.execScanEnd q l counts n s
  | .cfgStreamPacket => Sys2Proof.Machine.execCfgStreamPacket s
  | .cfgHeaderVerified => Sys2Proof.Machine.execCfgHeaderVerified s
  | .cfgBlockProcess => Sys2Proof.Machine.execCfgBlockProcess s
  | .cfgStreamTimeout => Sys2Proof.Machine.execCfgStreamTimeout s
  | .clrErr => Sys2Proof.Machine.execClrErr s
  | .releaseStage r => Sys2Proof.Machine.execReleaseStage r s
  | .darnFrameVisit p flips chk e upset => Sys2Proof.Machine.execDarnFrameVisit p flips chk e upset s
  | .darnHeartbeat p => Sys2Proof.Machine.execDarnHeartbeat p s
  | .darnHeartbeatMiss p => Sys2Proof.Machine.execDarnHeartbeatMiss p s
  | .domainTransitionDone d => Sys2Proof.Machine.execDomainTransitionDone d s
  | .brownOut d kind x => Sys2Proof.Machine.execBrownOut d kind x s
  | .tempSample ts => Sys2Proof.Machine.execTempSample ts s
  | .napSample sd ts volts vin => Sys2Proof.Machine.execNapSample sd ts volts vin s
  | .attGo => Sys2Proof.Machine.execAttGo s
  | .attReportReady => Sys2Proof.Machine.execAttReportReady s
  | .getInfo => Sys2Proof.Machine.execGetInfo s
  | .release spd => Sys2Proof.Machine.execRelease spd s
  | .readmit spd => Sys2Proof.Machine.execReadmit spd s
  | .dramReport => Sys2Proof.Machine.execDramReport s
  | .sigkeySet err => Sys2Proof.Machine.execSigkeySet err s
  | .sigkeyRevoke err => Sys2Proof.Machine.execSigkeyRevoke err s
  | .keyImport => Sys2Proof.Machine.execKeyImport s
  | .keyDrop => Sys2Proof.Machine.execKeyDrop s
  | .svnRaise err => Sys2Proof.Machine.execSvnRaise err s
  | .minrevRaise err => Sys2Proof.Machine.execMinrevRaise err s
  | .fwWrite err => Sys2Proof.Machine.execFwWrite err s
  | .fwCommit err => Sys2Proof.Machine.execFwCommit err s
  | .fwConfirm err => Sys2Proof.Machine.execFwConfirm err s
  | .getCert => Sys2Proof.Machine.execGetCert s
  | .getCrash => Sys2Proof.Machine.execGetCrash s
  | .getLog => Sys2Proof.Machine.execGetLog s
  | .clearCrash err => Sys2Proof.Machine.execClearCrash err s
  | .debugLock err => Sys2Proof.Machine.execDebugLock err s
  | .resetPackage => Sys2Proof.Machine.execResetPackage s
  | .noteAck => Sys2Proof.Machine.execNoteAck s
  | .moverGo m => Sys2Proof.Machine.execMoverGo m s
  | .moverStop m => Sys2Proof.Machine.execMoverStop m s
  | .moverResponse m k ecc n => Sys2Proof.Machine.execMoverResponse m k ecc n s
  | .dpRead start opc reg check => Sys2Proof.Machine.execDpRead start opc reg check s
  | .dpWrite start reg data check => Sys2Proof.Machine.execDpWrite start reg data check s
  | .dpLineReset => Sys2Proof.Machine.execDpLineReset s
  | .dpAttach => Sys2Proof.Machine.execDpAttach s
  | .dpDetach => Sys2Proof.Machine.execDpDetach s
  | .dpClrErr => Sys2Proof.Machine.execDpClrErr s
  | .dpMemRead size inc => Sys2Proof.Machine.execDpMemRead size inc s
  | .dpMemWrite size inc => Sys2Proof.Machine.execDpMemWrite size inc s
  | .dpAccessDone ecc n => Sys2Proof.Machine.execDpAccessDone ecc n s
  | .shuHalt init stepInt => Sys2Proof.Machine.execShuHalt init stepInt s
  | .shuHaltForce e => Sys2Proof.Machine.execShuHaltForce e s
  | .shuStep init stepInt => Sys2Proof.Machine.execShuStep init stepInt s
  | .shuResume init stepInt => Sys2Proof.Machine.execShuResume init stepInt s
  | .shuRvalWrite init hi v => Sys2Proof.Machine.execShuRvalWrite init hi v s
  | .seqHalt init => Sys2Proof.Machine.execSeqHalt init s
  | .seqStep init => Sys2Proof.Machine.execSeqStep init s
  | .seqResume init => Sys2Proof.Machine.execSeqResume init s
  | .seqResumeStart l => Sys2Proof.Machine.execSeqResumeStart l s
  | .idle8GBoundary b bad => Sys2Proof.Machine.execIdle8GBoundary b bad s
  | .undefinedInstruction e stalls ecc => Sys2Proof.Machine.execUndefinedInstruction e stalls ecc s
  | .badCmd => Sys2Proof.Machine.execBadCmd s
  | .blockLockAcquire q l => Sys2Proof.Machine.execBlockLockAcquire q l s
  | .blockLockLost q l => Sys2Proof.Machine.execBlockLockLost q l s
  | .klfSkewExceeded p skew => Sys2Proof.Machine.execKlfSkewExceeded p skew s
  | .ctlColumnDiscard p c => Sys2Proof.Machine.execCtlColumnDiscard p c s
  | .routerRestoreDone p l => Sys2Proof.Machine.execRouterRestoreDone p l s
  | .heartbeatReturn d => Sys2Proof.Machine.execHeartbeatReturn d s
  | .tmrFix p => Sys2Proof.Machine.execTmrFix p s
  | .tclkEdge p put get seam tx rx seen => Sys2Proof.Machine.execTclkEdge p put get seam tx rx seen s
  | .serialTxByte ix => Sys2Proof.Machine.execSerialTxByte ix s

end Sys2Proof.Machine
end

