-- ==== Sys2Proof/Machine/Ticks.lean ====
section
/-! DEFINITION. The tick of the clock when no command waits. -/

namespace Sys2Proof.Machine

/-- One G of fabric time passes while the time unit's clock runs (R1, R68, R84); nothing else happens by itself, since
everything that falls due at a time is a command of its own. -/
def State.tick (s : State) : State := if s.clocksOnFor pgTime then { s with now := s.now + 1 } else s

end Sys2Proof.Machine
end

