-- ==== Sys2Proof/Safety.lean ====
section
/-! DEFINITION. What counts as a safe step, and the vocabulary of the statements: a command that completes,
and what it leaves unchanged. -/

namespace Sys2Proof.Machine

/-- The machine stops at no command that waits: the step answers a next state. -/
def safeStep (s : State) : Prop := ∃ t, step s = .next t

/-- A run of `n` steps is safe: every one of them answers a next state. -/
def safeRun : Nat → State → Prop
  | 0, _ => True
  | n + 1, s => ∃ t, step s = .next t ∧ safeRun n t

/-- The command completes in this state, and the state that it leaves has the property. -/
def Completes (c : Instr) (s : State) (post : State → Prop) : Prop := ∃ t, exec c s = .next t ∧ post t

/-- Every register outside the exceptions holds in `t` the word that it holds in `s`. -/
def SameRegs (s t : State) (but : Nat → Nat → Prop) : Prop :=
  ∀ pg off, off < 2 ^ 20 → ¬ but pg off → t.reg pg off = s.reg pg off

/-- The registers that a raise of the hub alarm may change: PAGE_STAT, HUB_ALM_PEND, HUB_ALM_LEVEL and
HUB_ALM_LOG_LEVEL of the alarm page (R476, R478, R480). -/
def AlarmReg (pg off : Nat) : Prop := pg = pgAlm ∧ (off = 0x08 ∨ off = 0x40 ∨ off = 0x48 ∨ off = 0x4C)

/-- An access reaches a register of a page: the shell has left its power-on reset, and the page answers (R33, R55). -/
abbrev Opens (s : State) (pg off : Nat) : Prop := s.tu.porDone = true ∧ s.pageCheck pg off = none

/-- `t` is `s` but for the answer to an access, and for what the die of its initiator counts of it (R313). -/
def CountedFrom (s t : State) : Prop :=
  t = { s with nocs := t.nocs, fresh := t.fresh, resp := t.resp }
    ∧ ∀ d, t.noc d = { s.noc d with stats := (t.noc d).stats }

/-- The access was answered OK, with no data, or with the data given. -/
def AnsweredOk (t : State) (data : Nat := 0) : Prop := t.resp = ⟨.ok, data, false, true, 0, 0⟩

/-- The mailbox command that ran in `s` has been answered in `t` with a status and a payload of `len` bytes: BUSY is 0,
REPLY 1 and DONE set; the reply repeats the command's first two bytes (R455, R459). -/
def RepliedWith (s t : State) (st payload len : Nat) : Prop :=
  t.on pgMbx MBX_STAT.BUSY = false ∧ t.on pgMbx MBX_STAT.REPLY = true ∧ t.rd pgMbx PAGE_LEVEL.BUSY = 0
    ∧ t.rd pgMbx (MBX_RSPk.DATA.nth 0) = s.rd pgMbx (MBX_CMDk.DATA.nth 0) % 2 ^ 16 + len * 2 ^ 16
    ∧ t.rd pgMbx (MBX_RSPk.DATA.nth 1) = st
    ∧ (∀ k, 2 ≤ k → k < 64 → t.rd pgMbx (MBX_RSPk.DATA.nth k)
        = payload % 2 ^ (8 * len) / 2 ^ (32 * (k - 2)) % 2 ^ 32)
    ∧ maskBit (t.reg pgMbx 0x08).toNat 6 = true

/-! ### Kelef links and lanes -/

/-- An UP port takes the columns that reach it: its block and its quad run, and EN is 1 (R56, R333, R380). -/
abbrev Hears (s : State) (p : Nat) : Prop :=
  s.portRuns p = true ∧ s.quadActive p = true ∧ s.on (pgKlf p) KLF_CTL.EN = true ∧ s.klfUp p = true

/-- A quad's lane can lock: the quad is ACTIVE on its way nowhere else, its PLL is locked, and its lanes run. -/
abbrev CanLock (s : State) (q : Nat) : Prop :=
  s.laneRuns q = true ∧ s.quadActive q = true ∧ (s.quad q).relock = false ∧ s.tu.porDone = true

/-- The columns that a port sends end with these; only IDL columns come before them (R331). -/
def Sends (t : State) (p : Nat) (cs : List Column) : Prop :=
  ∃ w, (t.port p).wire = w ++ cs ∧ ∀ c ∈ w, c = idlColumn

/-! ### Lost dies and detours (R22–R27) -/

/-- A die is lost, and what R22 records of it: its UP bit is 0, DIE_LOST and SEAM_LOSS_TIME hold the loss, and the DIE
class of the hub alarm is raised. -/
def LostAt (t : State) (d time : Nat) : Prop :=
  (t.die d).lost = true ∧ maskBit (t.rd pgSeam SEAM_PKG.UP) d = false
    ∧ maskBit (t.rd pgSeam SEAM_STAT.DIE_LOST) d = true
    ∧ t.rdPair pgSeam SEAM_LOSS_TIME_LO.TIME SEAM_LOSS_TIME_HI.TIME = time
    ∧ maskBit (t.rd pgAlm HUB_ALM_PEND.CLASS) 2 = true

/-- The work of a lost panel is lost (R26): its runs have ended, its catch cache, spools, engines and both DRAM channels
hold nothing, its base is EMPTY; the other panels' channels, spools, catch units and engines, and the time unit, the
launch table, the hub's state and the store are as they were. -/
def PanelGone (s t : State) (p : Nat) : Prop :=
  (∀ b, b < 16 → b / 4 + 1 = p → t.hasRun b = false)
    ∧ (t.cat p).lines = [] ∧ (t.spl p).queues = [] ∧ (t.spl p).store = [] ∧ t.baseState p = 0
    ∧ (∀ e, e < 256 → if e / 64 + 1 = p then t.eng e = { fetOut := (t.eng e).fetOut } else t.eng e = s.eng e)
    ∧ (∀ k, k < 8 → if k / 2 + 1 = p then (t.drc k).lines = [] else t.drc k = s.drc k)
    ∧ (∀ q, panelOk q = true → q ≠ p → t.cat q = s.cat q ∧ t.spl q = s.spl q)
    ∧ (∀ e, e ≠ p → t.die e = s.die e)
    ∧ t.tu = s.tu ∧ t.launch = s.launch ∧ t.hub = s.hub ∧ t.store = s.store ∧ t.dp = s.dp ∧ t.pending = s.pending

/-- The entry that a list of detours gives a router for a destination: the last one that names them, on a die that is
not lost; 7, dimension order, where none does (R314). The selvage die has one router. -/
def State.detourEntry (s : State) (es : List (Nat × Nat × Nat × Nat)) (e r dest : Nat) : Nat :=
  if (s.die e).lost then 7
  else ((es.reverse.find? fun x => x.1 == e && (if e = 0 then 0 else x.2.1 % 16) == r && x.2.2.1 % 65 == dest).map
    (·.2.2.2 % 8)).getD 7

/-- The tables of the other version are the given detours, a switch to them is asked for, and those in force are as
they were (R315). -/
def DetoursStand (s t : State) (es : List (Nat × Nat × Nat × Nat)) : Prop :=
  t.rd (pgNoc 0) NOC_VER.PENDING = 1 ∧ t.netBank = s.netBank
    ∧ (∀ e r k, e < 5 → r < 16 → k < 65 →
        (t.noc e).tbl.getD (tblKey (1 - s.netBank) r k) 7 = s.detourEntry es e r k)
    ∧ ∀ e r k, r < 16 → k < 128 →
        (t.noc e).tbl.getD (tblKey s.netBank r k) 7 = (s.noc e).tbl.getD (tblKey s.netBank r k) 7

/-! ### What a delivered vector leaves in a catch unit (R177–R193) -/

/-- What the failing lanes of a site of a vector add to counter `k` of the tally memory: their number to the row's
counter, one each to the counters of their columns; nothing where the site has no tallies or a bad format (R192). -/
def State.tallyHits (s : State) (p i lanes : Nat) (g : VecTag) (k : Nat) : Nat :=
  let f (r : Fld) := s.rd (pgCat p) (r.nth i)
  let byX := f CAT_S_TALLY.ROW_AX == 0
  let zt := g.z % 2 ^ f CAT_S_TALLY.TZB
  let row := f CAT_S_TROW.BASE + zt * 2 ^ f CAT_S_TALLY.RB + (if byX then g.x else g.y) % 2 ^ f CAT_S_TALLY.RB
  let col (c : Nat) := f CAT_S_TCOL.BASE
    + (zt * 2 ^ f CAT_S_TALLY.TCB + (if byX then g.y else g.x) % 2 ^ f CAT_S_TALLY.TCB) * 2 ^ f CAT_S_TALLY.LB
    + c % 2 ^ f CAT_S_TALLY.LB
  if f CAT_S_CFG.TALLY_EN = 0 ∨ maskBit (s.cat p).bad i = true then 0
  else (if k = row then (lanesOf lanes).length else 0) + ((lanesOf lanes).filter fun c => col c == k).length

/-- The first-fail record of a site holds this vector and these lanes (R180). -/
def FirstFailIs (t : State) (p i lanes : Nat) (v : CatVec) : Prop :=
  let f (r : Fld) := t.rd (pgCat p) (r.nth i)
  let two (lo hi : Fld) := t.rdPair (pgCat p) (lo.nth i) (hi.nth i)
  two CAT_S_FF_CYC_LO.CYCLE CAT_S_FF_CYC_HI.CYCLE = v.n % 2 ^ 48
    ∧ f CAT_S_FF_VADDR.VADDR = v.tag.vaddr % 2 ^ 26 ∧ f CAT_S_FF_VADDR.BANK = v.bank % 4
    ∧ f CAT_S_FF_VADDR.SUSPECT = bit v.tag.suspect ∧ f CAT_S_FF_VADDR.VALID = 1
    ∧ f CAT_S_FF_X.VALUE = v.tag.x % 2 ^ 24 ∧ f CAT_S_FF_Y.VALUE = v.tag.y % 2 ^ 24 ∧ f CAT_S_FF_Z.VALUE = v.tag.z % 2 ^ 8
    ∧ two CAT_S_FF_LANES_LO.LANES CAT_S_FF_LANES_HI.LANES = lanes
    ∧ two CAT_S_FF_TIME_LO.TIME CAT_S_FF_TIME_HI.TIME = v.time % 2 ^ 64

/-- A site's policy masks it at the vector (R179): at its first failing vector, or at the MASK_ATth. -/
def State.masksAt (s : State) (p i : Nat) : Prop :=
  (s.rd (pgCat p) (CAT_S_CFG.MASK_MODE.nth i) = 1 ∧ s.rd (pgCat p) (CAT_S_STAT.FAILED.nth i) = 0)
    ∨ (s.rd (pgCat p) (CAT_S_CFG.MASK_MODE.nth i) = 2
      ∧ min (s.rd (pgCat p) (CAT_S_NFAIL.COUNT.nth i) + 1) (2 ^ 32 - 1)
          = max 1 (s.rd (pgCat p) (CAT_S_LIMITS.MASK_AT.nth i)))

/-- A vector that fails these lanes of a site has reached its unit: NFAIL counts it; FAILED and, of the first, the
first-fail record hold it; the site is masked where its policy asks for it; every map bit stands in its line of the cache. -/
def SiteCaught (s t : State) (p i lanes : Nat) (v : CatVec) : Prop :=
  let mask (u : State) := maskBit (u.rdPair (pgCat p) CAT_MASK_LO.MASK CAT_MASK_HI.MASK) i
  t.rd (pgCat p) (CAT_S_NFAIL.COUNT.nth i) = min (s.rd (pgCat p) (CAT_S_NFAIL.COUNT.nth i) + 1) (2 ^ 32 - 1)
    ∧ t.rd (pgCat p) (CAT_S_STAT.FAILED.nth i) = 1
    ∧ (s.rd (pgCat p) (CAT_S_STAT.FAILED.nth i) = 0 → FirstFailIs t p i lanes v)
    ∧ (s.rd (pgCat p) (CAT_S_STAT.FAILED.nth i) = 1 →
        ∀ k, k < 10 → t.reg (pgCat p) (0x3010 + 0x40 * i + 4 * k) = s.reg (pgCat p) (0x3010 + 0x40 * i + 4 * k))
    ∧ (s.masksAt p i → mask t = true) ∧ (¬ s.masksAt p i → mask t = mask s)
    ∧ (s.mapOff p i = false → (s.cat p).lines.length + 4096 ≤ 65536 → ∀ c, maskBit lanes c = true → c < 64 →
        ∃ l, (t.cat p).lines.find (s.mapBit p i v.tag.x v.tag.y v.tag.z c).1 = some l
          ∧ maskBit l.bits (s.mapBit p i v.tag.x v.tag.y v.tag.z c).2 = true)

/-- A vector that does not fail a site leaves its count, record and mask. -/
def SiteSpared (s t : State) (p i : Nat) : Prop :=
  t.rd (pgCat p) (CAT_S_NFAIL.COUNT.nth i) = s.rd (pgCat p) (CAT_S_NFAIL.COUNT.nth i)
    ∧ t.rd (pgCat p) (CAT_S_STAT.FAILED.nth i) = s.rd (pgCat p) (CAT_S_STAT.FAILED.nth i)
    ∧ (∀ k, k < 10 → t.reg (pgCat p) (0x3010 + 0x40 * i + 4 * k) = s.reg (pgCat p) (0x3010 + 0x40 * i + 4 * k))
    ∧ maskBit (t.rdPair (pgCat p) CAT_MASK_LO.MASK CAT_MASK_HI.MASK) i
        = maskBit (s.rdPair (pgCat p) CAT_MASK_LO.MASK CAT_MASK_HI.MASK) i

/-- A site logs its failing vectors: all of them, or the first LOG_MAX (R181). -/
def State.logsNow (s : State) (p i : Nat) : Prop :=
  s.rd (pgCat p) (CAT_S_CFG.LOG.nth i) = 2
    ∨ (s.rd (pgCat p) (CAT_S_CFG.LOG.nth i) = 1
      ∧ (s.cat p).logged.getD i 0 < s.rd (pgCat p) (CAT_S_LIMITS.LOG_MAX.nth i))

/-- The unit takes nothing of a vector: every register of its page but PAGE_STAT and CAT_VEC_LOST, and its cache,
tallies and log records, are as they were. -/
def UnitSpared (s t : State) (p : Nat) : Prop :=
  (∀ off, off ≠ 0x08 → off ≠ 0x80 → off < 2 ^ 20 → t.reg (pgCat p) off = s.reg (pgCat p) off)
    ∧ (t.cat p).lines = (s.cat p).lines ∧ (t.cat p).tally = (s.cat p).tally ∧ (t.cat p).logq = (s.cat p).logq

/-! ### Shuttle engines -/

/-- The engine executes this instruction next: the word at PC decodes to it, nothing comes first, it may stand
where it stands, and no debugger waits for the boundary after it (R231, R255, R467). -/
def State.engAt (s : State) (e : Nat) (i : ShuInstr) : Prop :=
  (s.eng e).instr = some i ∧ s.engGo e = true ∧ (s.eng e).misplaced i = none
    ∧ (s.eng e).haltAt = none ∧ (s.eng e).stepping = false

/-- The engine after the moves and the pointer steps of a P-format instruction. -/
def EngX.parBase (x : EngX) (m0 m1 : Option ParMove) : EngX :=
  ((((x.parMove x m0).parMove x m1)).parPost m0).parPost m1

/-- The first source of a P-format operation as a number of 2^-47ths: a word counts 2^24 (R245). -/
def EngX.srcNum (x : EngX) (s1 : Nat) : Int :=
  if s1 < 8 then signed 24 (x.get s1) * 2 ^ 24 else signed 56 (x.get s1)

/-- SR of `y` holds these flags for the result `a`, and the interrupt mask and LK of `x`; S is sticky (R214). -/
def FlagsAre (x y : EngX) (a : Nat) (c v s : Bool) : Prop :=
  maskBit y.sr fC = c ∧ maskBit y.sr fV = v ∧ maskBit y.sr fZ = (a == 0)
    ∧ maskBit y.sr fN = decide (signed 56 a < 0)
    ∧ maskBit y.sr fG = decide (signed 56 a < -2 ^ 47 ∨ 2 ^ 47 ≤ signed 56 a)
    ∧ maskBit y.sr fS = (maskBit x.sr fS || s) ∧ y.sr / 2 ^ 6 = x.sr / 2 ^ 6

/-- The P-format instruction has completed, with at most `n` stall cycles before it (R217): the moves and steps of `m0` and `m1` happened, D
holds `acc`, the flags are those of the result `res`, and nothing else of the engine changed. -/
def ParDone (s t : State) (e n d : Nat) (m0 m1 : Option ParMove) (acc res : Nat) (c v sticky : Bool) : Prop :=
  ∃ y : EngX, t = (s.slotStall e n).engNext e y (s.eng e).late 1
    ∧ y = { ((s.slotStall e n).eng e).parBase m0 m1 with r := y.r }
    ∧ (∀ k, k ≠ cA d → k ≠ cSR → y.get k = ((s.eng e).parBase m0 m1).get k)
    ∧ y.get (cA d) = acc
    ∧ FlagsAre (s.eng e) y res c v ((v && sticky) || (s.eng e).parSat m0 || (s.eng e).parSat m1)

end Sys2Proof.Machine
end

