-- ==== Sys2Proof/Certificates/Slice0/Obligations.lean ====
section
/-! DEFINITION. The statements about the device, for the provers. -/

open Sys2Proof Sys2Proof.Machine

/-! ### The machine as a whole -/

/-- The command at the front of the queue runs with the queue's rest. -/
def Obligations.StepRunsTheFrontCommand : Prop :=
  ∀ (s : State) (c : Instr) (rest : List Instr), s.pending = c :: rest →
    step s = exec c { s with pending := rest }

/-- The queue is first in, first out and nothing enters it from inside: a step takes the front command away and
leaves the commands behind it exactly as they are. -/
def Obligations.EveryStepTakesOneCommand : Prop :=
  ∀ s t : State, step s = .next t → t.pending = s.pending.tail

/-- No command of the device ends in a fault or a refusal, in any state. -/
def Obligations.EveryStepAnswersANextState : Prop := ∀ s : State, safeStep s

/-- With no command waiting, one G of fabric time passes while the clock of the time unit runs and nothing else
happens (the model's own choice, log entry 1). -/
def Obligations.IdleStepIsOneTick : Prop :=
  ∀ s : State, s.pending = [] →
    step s = .next (if s.on pgClk CLK_ROOT_STAT.JUDGED && (!s.on pgClk CLK_ROOT_STAT.GATED || !s.tu.dark)
      then { s with now := s.now + 1 } else s)

/-! ### Register pages -/

/-- R47: an unstalled 32-bit write that the page accepts gives the RW fields of a plain register its new values at
once and leaves its other bits; a covered register's write leaves ARMED at 0 (R50). The register is one with no
effect of its own and no RWS field, in a page with nothing pending. R40, R41: a write of a register whose fields are
all RWS goes to its shadow, joins the pending set, and leaves the applied value. The first write of a set latches
the boundary kind; the set here waits (its kind is not 3, the page is neither a spool's nor PWR). States completion
(Completes c s post: exec c s = next t for a t with post t, under the conditions on the state and the operands named
before it) of 1 command: registerWrite (REGISTER_WRITE). -/
def Obligations.RegisterWritesApplyOrWait : Prop :=
  (∀ (s : State) (addr value init src pg off : Nat),
    s.tu.porDone = true → siteOf addr = none → ctlPlace addr = some (pg, off, false) → s.ctlCheck true addr 4 init = none →
    hasReg pg (s.homeOff pg off) = true → 0x40 ≤ s.homeOff pg off → s.homeOff pg off < 2 ^ 20 →
    ¬ (pg = pgSeam ∧ roleOff (s.homeOff pg off) = true) → ¬ (pg = pgKlfRt ∧ s.homeOff pg off = 0x40) →
    s.writeRefusal pg (s.homeOff pg off) (s.portBits pg (s.homeOff pg off) (value % 2 ^ 32)) = none →
    (∀ u : State, u.writeOp pg (s.homeOff pg off) (s.portBits pg (s.homeOff pg off) (value % 2 ^ 32)) init
      (srcDev init src) = none) →
    ¬ AlarmReg pg (s.homeOff pg off) → s.on pg PAGE_PEND.PENDING = false → rwsMask pg (s.homeOff pg off) = 0 →
    Completes (.registerWrite addr 4 value init src false false) s fun t =>
      t.reg pg (s.homeOff pg off)
          = merge (typeMask pg (s.homeOff pg off) (· == .rw)) (s.reg pg (s.homeOff pg off))
              (BitVec.ofNat 32 (s.portBits pg (s.homeOff pg off) (value % 2 ^ 32)))
        ∧ (covered pg (s.homeOff pg off) = true → t.rd pg PAGE_LEVEL.ARMED = 0)
        ∧ AnsweredOk t ∧ t.shadow = s.shadow)
  ∧ (∀ (s : State) (addr value init src pg off : Nat),
    s.tu.porDone = true → siteOf addr = none → ctlPlace addr = some (pg, off, false) → s.ctlCheck true addr 4 init = none →
    hasReg pg (s.homeOff pg off) = true → 0x40 ≤ s.homeOff pg off → s.homeOff pg off < 2 ^ 20 →
    pg ≠ pgSeam → pg ≠ pgKlfRt → pg ≠ pgPwr → nativeOf pg ≠ .spool → ¬ AlarmReg pg (s.homeOff pg off) →
    s.writeRefusal pg (s.homeOff pg off) (value % 2 ^ 32) = none →
    (∀ u : State, u.writeOp pg (s.homeOff pg off) (value % 2 ^ 32) init (srcDev init src) = none
      ∧ u.wrote pg (s.homeOff pg off) (value % 2 ^ 32) = u) →
    rwsMask pg (s.homeOff pg off) ≠ 0 → typeMask pg (s.homeOff pg off) (· == .rw) = 0 →
    (if s.on pg PAGE_PEND.PENDING then s.rd pg PAGE_PEND.KIND else s.rd pg PAGE_BNDRY.KIND) ≠ 3 →
    Completes (.registerWrite addr 4 value init src false false) s fun t =>
      t.shadow.find (regKey pg (s.homeOff pg off)) = some (BitVec.ofNat 32 (value % 2 ^ 32))
        ∧ (∀ k, k ≠ regKey pg (s.homeOff pg off) → t.shadow.find k = s.shadow.find k)
        ∧ t.reg pg (s.homeOff pg off) = s.reg pg (s.homeOff pg off)
        ∧ t.rd pg PAGE_PEND.PENDING = 1
        ∧ t.rd pg PAGE_PEND.KIND
            = (if s.on pg PAGE_PEND.PENDING then s.rd pg PAGE_PEND.KIND else s.rd pg PAGE_BNDRY.KIND)
        ∧ AnsweredOk t)

/-- R58: a read of a register with RC fields returns its value and clears exactly those fields; through the peek
alias it clears nothing and changes nothing but the answer and what R313 counts of the access (R36). R54, R55: an
access to a clocked register may be stalled, and then changes nothing yet; when it completes, it takes effect
entirely, as the access does that was never stalled. One whose block was lost to it while it waited has no effect
and is answered with the status noted for it; R313 counts the access. States completion (Completes c s post: exec c
s = next t for a t with post t, under the conditions on the state and the operands named before it) of 3 commands:
rcRegisterRead (RC_REGISTER_READ), registerWrite (REGISTER_WRITE), stalledAccessComplete (STALLED_ACCESS_COMPLETE). -/
def Obligations.AccessesReadClearAndComplete : Prop :=
  (∀ (s : State) (addr init src pg off : Nat) (peek : Bool),
    s.tu.porDone = true → siteOf addr = none → ctlPlace addr = some (pg, off, peek) → s.ctlCheck false addr 4 init = none →
    (peek = true → Completes (.rcRegisterRead addr 4 init src false) s fun t =>
      CountedFrom s t ∧ t.resp = ⟨.ok, s.value pg off, false, true, 0, 0⟩)
    ∧ (peek = false →
      ¬ (pageKind pg ∈ [some .noc, some .klfRt, some .wft, some .edg] ∧ off ∈ [0x4C, 0x54, 0x104, 0x10C]) →
      Completes (.rcRegisterRead addr 4 init src false) s fun t =>
        CountedFrom { s with regs := t.regs } t ∧ t.resp = ⟨.ok, s.value pg off, false, true, 0, 0⟩
          ∧ t.reg pg (s.homeOff pg off)
              = s.reg pg (s.homeOff pg off) &&& ~~~ typeMask pg (s.homeOff pg off) (· == .rc)
          ∧ (∀ k, k ≠ regKey pg (s.homeOff pg off) → t.regs.find k = s.regs.find k)))
  ∧ ((∀ (s : State) (addr width value init src : Nat), s.tu.porDone = true → siteOf addr = none → s.ctlCheck true addr width init = none →
    canStall addr = true → Completes (.registerWrite addr width value init src true false) s fun t =>
      t = { s with stalls := s.stalls ++ [⟨addr, width, true, value, init, src, false, none⟩] })
  ∧ (∀ (s : State) (i : Nat) (x : Stall), s.tu.porDone = true → s.stalls[i]? = some x → siteOf x.addr = none → s.stallEnd x = none →
    ({ s with stalls := s.stalls.eraseIdx i } : State).ctlCheck x.write x.addr x.width x.init = none →
    ∃ u, exec (if x.write then .registerWrite x.addr x.width x.value x.init x.src false x.upset
          else .rcRegisterRead x.addr x.width x.init x.src false) { s with stalls := s.stalls.eraseIdx i } = .next u
      ∧ Completes (.stalledAccessComplete i) s fun t => t = u)
  ∧ (∀ (s : State) (i : Nat) (x : Stall) (e : BusStatus), s.stalls[i]? = some x → x.stop = some e → e ≠ .dieDown →
    Completes (.stalledAccessComplete i) s fun t =>
      CountedFrom { s with stalls := s.stalls.eraseIdx i } t ∧ t.resp = ⟨e, 0, false, true, 0, 0⟩))

/-- R36: a read through the peek alias returns the data that the normal read of the same register returns at that
moment, and changes nothing but the answer; a write through it is answered DECODE and changes nothing. R313 counts
either access. States completion (Completes c s post: exec c s = next t for a t with post t, under the conditions on
the state and the operands named before it) of 2 commands: rcRegisterRead (RC_REGISTER_READ), registerWrite
(REGISTER_WRITE). -/
def Obligations.PeekAliasHasNoSideEffect : Prop :=
  ∀ (s : State) (a n init src : Nat), 0x0C0001000000 ≤ a → a < 0x0C0002000000 → siteOf a = none →
    (n = 4 ∨ n = 8) → a % n = 0 →
    s.tu.porDone = true →
    ((∀ pg off, ctlPlace a = some (pg, off, true) → s.pageCheck pg off = none →
        ∃ d, Completes (.rcRegisterRead a n init src false) s (fun t =>
            CountedFrom s t ∧ t.resp = ⟨.ok, d, false, true, 0, 0⟩)
          ∧ Completes (.rcRegisterRead (a - 0x1000000) n init src false) s fun u =>
              u.resp = ⟨.ok, d, false, true, 0, 0⟩)
      ∧ ∀ v, Completes (.registerWrite a n v init src false false) s fun t =>
          CountedFrom s t ∧ t.resp = ⟨.decode, 0, false, true, 0, 0⟩)

/-- R45, R41, R46: COMMIT_NOW applies the pending set whatever its kind. On a page with no rule of its own for the
application, every register of the page reads its staged value, PENDING, KIND and COUNT return to 0, LAST_KIND
records 4, SEQ counts and APPLIED sets; a shadow with a parity error discards the whole set. R45: DISCARD drops the
pending set, the applied values stay, and SEQ and APPLIED do not move; DISCARD and COMMIT_NOW with nothing pending
do nothing. States completion (Completes c s post: exec c s = next t for a t with post t, under the conditions on
the state and the operands named before it) of 2 commands: pageCommitNow (PAGE_COMMIT_NOW), pageDiscard
(PAGE_DISCARD). -/
def Obligations.PendingSetIsAppliedOrDropped : Prop :=
  (∀ (s : State) (pg : Nat), Opens s pg 0x04 → s.on pg PAGE_PEND.PENDING = true →
    pageKind pg ∈ [some .seq, some .wft, some .clkPnl, some .hub, some .mbx, some .noc, some .shu,
      some .klfCom, some .klfLink] → pg ≠ pgGov →
    ((s.page pg).upset = false → Completes (.pageCommitNow pg false) s fun t =>
        (∀ off, 0x40 ≤ off → off < 2 ^ 20 → t.reg pg off = s.staged pg off)
        ∧ t.rd pg PAGE_PEND.PENDING = 0 ∧ t.rd pg PAGE_PEND.KIND = 0 ∧ t.rd pg PAGE_PEND.COUNT = 0
        ∧ t.rd pg PAGE_PEND.LAST_KIND = 4 ∧ t.rd pg PAGE_PEND.SEQ = (s.rd pg PAGE_PEND.SEQ + 1) % 256
        ∧ t.rd pg PAGE_STAT.APPLIED = 1 ∧ t.pendingSet pg = [] ∧ AnsweredOk t)
    ∧ (∀ bad, bad = true ∨ (s.page pg).upset = true → Completes (.pageCommitNow pg bad) s fun t =>
        (∀ off, 0x40 ≤ off → off < 2 ^ 20 → t.reg pg off = s.reg pg off)
        ∧ t.rd pg PAGE_PEND.PENDING = 0 ∧ t.rd pg PAGE_PEND.KIND = 0 ∧ t.rd pg PAGE_PEND.COUNT = 0
        ∧ t.rd pg PAGE_STAT.SHADOW_ERR = 1 ∧ t.pendingSet pg = [] ∧ AnsweredOk t))
  ∧ (∀ (s : State) (pg : Nat), Opens s pg 0x04 →
    Completes (.pageDiscard pg) s (fun t =>
      t = { s with regs := t.regs, shadow := t.shadow, pages := t.pages, resp := t.resp } ∧ AnsweredOk t
        ∧ (s.on pg PAGE_PEND.PENDING = true →
            t.rd pg PAGE_PEND.PENDING = 0 ∧ t.rd pg PAGE_PEND.KIND = 0 ∧ t.rd pg PAGE_PEND.COUNT = 0
              ∧ t.rd pg PAGE_PEND.SEQ = s.rd pg PAGE_PEND.SEQ
              ∧ t.pendingSet pg = [])
        ∧ (s.on pg PAGE_PEND.PENDING = false → t.regs = s.regs ∧ t.shadow = s.shadow ∧ t.pages = s.pages)
        ∧ SameRegs s t fun p o => p = pg ∧ o = 0x10)
    ∧ (s.on pg PAGE_PEND.PENDING = false → ∀ bad, Completes (.pageCommitNow pg bad) s fun t =>
        t = { s with resp := t.resp } ∧ AnsweredOk t))

/-- R57: a soft reset returns a block's registers to their reset values, discards the pending set, clears ARMED and
reads as in progress; its end clears SOFT_RESET and IN_RESET and nothing else, but that a panel's CLK page shows the
package reference again where it is present (the model’s choice, log entry 30). The block registers are stated for
the pages that keep none of them (weft, DRAM map, governor). States completion (Completes c s post: exec c s = next
t for a t with post t, under the conditions on the state and the operands named before it) of 2 commands:
pageSoftReset (PAGE_SOFT_RESET), softResetDone (SOFT_RESET_DONE). -/
def Obligations.SoftResetReturnsTheBlock : Prop :=
  (∀ (s : State) (pg : Nat), Opens s pg 0x04 →
    Completes (.pageSoftReset pg) s fun t =>
      t.rd pg PAGE_CTL.SOFT_RESET = 1 ∧ t.rd pg PAGE_LEVEL.IN_RESET = 1 ∧ t.rd pg PAGE_LEVEL.ARMED = 0
        ∧ t.rd pg PAGE_LEVEL.CRC_BAD = 0 ∧ t.rd pg PAGE_PEND.PENDING = 0 ∧ t.rd pg PAGE_PEND.COUNT = 0
        ∧ t.pendingSet pg = [] ∧ AnsweredOk t
        ∧ (pageKind pg ∈ [some .wft, some .drcMap, some .gov] →
            ∀ off, 0x40 ≤ off → off < 2 ^ 20 → t.reg pg off = BitVec.ofNat 32 (resetNat pg off)))
  ∧ (∀ (s : State) (pg : Nat), s.on pg PAGE_CTL.SOFT_RESET = true →
    pageKind pg = some .clkPnl → (s.die (pg / 512)).refAt.isSome = true →
    Completes (.softResetDone pg) s fun t =>
      t.rd pg PAGE_CTL.SOFT_RESET = 0 ∧ t.rd pg PAGE_LEVEL.IN_RESET = 0 ∧ t.rd pg CLK_PNL_STAT.REF_OK = 1
        ∧ t = { s with regs := t.regs, dies := t.dies })
  ∧ (∀ (s : State) (pg : Nat), s.on pg PAGE_CTL.SOFT_RESET = true →
    ¬ (pageKind pg = some .clkPnl ∧ (s.die (pg / 512)).refAt.isSome = true) →
    Completes (.softResetDone pg) s fun t =>
      t.rd pg PAGE_CTL.SOFT_RESET = 0 ∧ t.rd pg PAGE_LEVEL.IN_RESET = 0
        ∧ t.rd pg PAGE_CTL.CLK_EN = s.rd pg PAGE_CTL.CLK_EN ∧ t = { s with regs := t.regs }
        ∧ SameRegs s t fun p o => p = pg ∧ (o = 0x04 ∨ o = 0x0C))

/-- R59: an abort accepted while the page is not busy has no effect and sets neither DONE nor ABORTED; accepted
while a waveform read runs it ends that read, reports it aborted, and leaves the bank's waveform memory. R50: a
write of PAGE_CTL.CLK_EN disarms exactly where it changes the bit. States completion (Completes c s post: exec c s =
next t for a t with post t, under the conditions on the state and the operands named before it) of 2 commands:
pageAbort (PAGE_ABORT), pageClkEnWrite (PAGE_CLK_EN_WRITE). -/
def Obligations.PageControlStrobes : Prop :=
  (∀ (s : State) (pg : Nat), Opens s pg 0x04 → maskBit (s.pageLevel pg) 5 = false →
    Completes (.pageAbort pg) s fun t => t = { s with resp := t.resp } ∧ AnsweredOk t)
  ∧ (∀ (s : State) (b ts wv ch : Nat), b < 16 → Opens s (pgEdg b) 0x04 →
    (s.bank b).op = some (.read ts wv ch) →
    Completes (.pageAbort (pgEdg b)) s fun t =>
      t.bank b = { s.bank b with op := none } ∧ t.rd (pgEdg b) EDG_WAVE_STAT.STATUS = 6
        ∧ maskBit (t.reg (pgEdg b) 0x08).toNat 7 = true
        ∧ maskBit (t.reg (pgEdg b) 0x08).toNat 6 = maskBit (s.reg (pgEdg b) 0x08).toNat 6 ∧ AnsweredOk t)
  ∧ (∀ (s : State) (pg : Nat) (en : Bool), Opens s pg 0x04 → s.on pg PAGE_PEND.PENDING = false →
    Completes (.pageClkEnWrite pg en) s fun t =>
      t.rd pg PAGE_CTL.CLK_EN = bit en ∧ AnsweredOk t
        ∧ (s.rd pg PAGE_CTL.CLK_EN = bit en → t = { s with resp := t.resp })
        ∧ (s.rd pg PAGE_CTL.CLK_EN ≠ bit en → t.rd pg PAGE_LEVEL.ARMED = 0
            ∧ (pg ≠ pgAlm → s.on pg PAGE_LEVEL.ARMED = true → t.rd pg PAGE_STAT.DISARMED = 1)))

/-- R49, R52: a periodic pass starts on a page whose passes run and that runs none, and COMMIT starts a pass of its
own at once; both passes start now. R473: an upset that has flipped counted bits of an applied register stays in it,
and the block runs on the upset value. R49, R51, R52: a pass that no write met gives PAGE_CRC_NOW the CRC of the
covered registers. A commit whose conditions held copies it to PAGE_CRC_REF and arms the page; one whose conditions
did not keeps the reference and sets COMMIT_REFUSED. A pass completed while CHECK_EN and ARMED are 1 is compared,
and a mismatch sets CRC_MISMATCH and CRC_BAD. States completion (Completes c s post: exec c s = next t for a t with
post t, under the conditions on the state and the operands named before it) of 3 commands: crcPassStart
(CRC_PASS_START), crcCommit (CRC_COMMIT), crcPassEnd (CRC_PASS_END). -/
def Obligations.CrcPassesStartAndEnd : Prop :=
  ((∀ (s : State) (pg : Nat), s.crcRuns pg = true → (s.page pg).pass = none →
    Completes (.crcPassStart pg 0 0) s fun t =>
      t = { s with pages := t.pages } ∧ t.page pg = { s.page pg with pass := some ⟨s.now, false, true, false⟩, lastStart := s.now }
        ∧ ∀ p, p ≠ pg → t.page p = s.page p)
  ∧ (∀ (s : State) (pg off flip : Nat), covered pg off = true → Completes (.crcPassStart pg off flip) s fun t =>
      t.reg pg off = s.reg pg off ^^^ (BitVec.ofNat 32 flip &&& coverMask pg off)
        ∧ SameRegs s t (fun p o => p = pg ∧ o = off) ∧ t = { s with regs := t.regs, pages := t.pages })
  ∧ (∀ (s : State) (pg : Nat), Opens s pg 0x20 → s.crcRuns pg = true → (s.page pg).pass = none →
    Completes (.crcCommit pg) s fun t =>
      t.page pg = { s.page pg with pass := some ⟨s.now, true, !s.on pg PAGE_PEND.PENDING, false⟩, lastStart := s.now }
        ∧ t.rd pg PAGE_CRC_CTL.COMMIT = 1 ∧ t.rd pg PAGE_CRC_REF.REF = s.rd pg PAGE_CRC_REF.REF
        ∧ AnsweredOk t ∧ t = { s with regs := t.regs, pages := t.pages, resp := t.resp }))
  ∧ (∀ (s : State) (pg : Nat) (p : CrcPass), pg ≠ pgAlm → s.crcRuns pg = true → (s.page pg).pass = some p →
    p.touched = false →
    Completes (.crcPassEnd pg) s fun t =>
      t.rd pg PAGE_CRC_NOW.NOW = s.pageCrc pg % 2 ^ 32 ∧ (t.page pg).pass = none
        ∧ (p.commit = true → p.clean = true → s.on pg PAGE_PEND.PENDING = false →
            t.rd pg PAGE_CRC_REF.REF = s.pageCrc pg % 2 ^ 32 ∧ t.rd pg PAGE_LEVEL.ARMED = 1
              ∧ t.rd pg PAGE_CRC_CTL.COMMIT = 0)
        ∧ (p.commit = true → (p.clean = false ∨ s.on pg PAGE_PEND.PENDING = true) →
            t.rd pg PAGE_CRC_REF.REF = s.rd pg PAGE_CRC_REF.REF ∧ t.rd pg PAGE_STAT.COMMIT_REFUSED = 1
              ∧ t.rd pg PAGE_LEVEL.ARMED = s.rd pg PAGE_LEVEL.ARMED ∧ t.rd pg PAGE_CRC_CTL.COMMIT = 0)
        ∧ (p.commit = false → t.rd pg PAGE_CRC_REF.REF = s.rd pg PAGE_CRC_REF.REF
            ∧ t.rd pg PAGE_LEVEL.ARMED = s.rd pg PAGE_LEVEL.ARMED)
        ∧ (p.commit = false → s.on pg PAGE_CRC_CTL.CHECK_EN = true → s.on pg PAGE_LEVEL.ARMED = true →
            t.rd pg PAGE_LEVEL.CRC_BAD = bit (s.pageCrc pg % 2 ^ 32 != s.rd pg PAGE_CRC_REF.REF)
              ∧ (s.pageCrc pg % 2 ^ 32 ≠ s.rd pg PAGE_CRC_REF.REF → t.rd pg PAGE_STAT.CRC_MISMATCH = 1))
        ∧ (s.on pg PAGE_CRC_CTL.CHECK_EN = false → t.rd pg PAGE_LEVEL.CRC_BAD = s.rd pg PAGE_LEVEL.CRC_BAD))

/-- R42, R318, R322: a budget-period boundary comes at the coming multiple of 16,384 G, the present instant where it
is one not yet taken; every initiator's balance becomes its budget plus its debt, and the window budgets of the
patch sites start anew. Stated where no pending set applies at that boundary, no write-back or SPL_OP operation
waits, and no state that a debugger kept has to be taken. R100, R173: the SEQ, WFT and EDG pages of a sequencer
without a run have a boundary at the next multiple of 8 G, where what waits on the SEQ page applies. States
completion (Completes c s post: exec c s = next t for a t with post t, under the conditions on the state and the
operands named before it) of 2 commands: budgetPeriodBoundary (BUDGET_PERIOD_BOUNDARY), idle8GBoundary
(IDLE_8G_BOUNDARY). -/
def Obligations.BoundariesComeAtTheirMultiples : Prop :=
  (∀ (s : State) (bad : List Nat), s.clocksOn = true → s.launchDue (boundaryAt 16384 s.now s.tu.periodAt) = false →
    s.pendingPages.filter (fun pg => ({ s with now := boundaryAt 16384 s.now s.tu.periodAt } : State).periodSet pg) = [] →
    (∀ k, k < 8 → (s.drc k).wback = []) → (∀ p, 1 ≤ p → p < 5 → (s.spl p).host = []) → (∀ d, d < 145 → s.on pgPwr (PWR_Dd.EMUL.nth d) = false) →
    Completes (.budgetPeriodBoundary bad) s fun t =>
      t.now = boundaryAt 16384 s.now s.tu.periodAt
        ∧ (∀ i c, i ∈ govInits → c < 10 → t.balance i c = (s.budget i c : Int) + min (s.balance i c) 0)
        ∧ (∀ e ∈ t.pats, e.2.used = []))
  ∧ (∀ (s : State) (b : Nat), b < 16 → s.hasRun b = false → s.nativeWaits (pgSeq b) = true →
    (s.page (pgSeq b)).upset = false → Completes (.idle8GBoundary b []) s fun t =>
      t.now = ceilTo 8 s.now ∧ t.rd (pgSeq b) PAGE_PEND.PENDING = 0
        ∧ t.rd (pgSeq b) PAGE_PEND.LAST_KIND = 0
        ∧ t.reg (pgSeq b) SEQ_COND_MASK.MASK.off = s.staged (pgSeq b) SEQ_COND_MASK.MASK.off)

/-- R477, R478: writing 1 to bits of HUB_ALM_PEND clears those classes, but not BOOT while its condition holds; the
level of ALARM_N follows the classes that are left and enabled. R476: CLEAR_LOG empties the log and its counts, and
withdraws no class. States completion (Completes c s post: exec c s = next t for a t with post t, under the
conditions on the state and the operands named before it) of 2 commands: almPendClear (ALM_PEND_CLEAR), almClearLog
(ALM_CLEAR_LOG). -/
def Obligations.AlarmPageCommands : Prop :=
  (∀ (s : State) (v : Nat), Opens s pgAlm 0x40 →
    Completes (.almPendClear v) s fun t =>
      (∀ c, c < 7 → maskBit (t.rd pgAlm HUB_ALM_PEND.CLASS) c
          = (maskBit (s.rd pgAlm HUB_ALM_PEND.CLASS) c
              && (!maskBit v c || (c == 5 && s.on pgAlm HUB_ALM_LEVEL.BOOT))))
        ∧ t.rd pgAlm HUB_ALM_LEVEL.PIN
            = bit ((t.rd pgAlm HUB_ALM_PEND.CLASS &&& (s.reg pgAlm HUB_ALM_PIN_EN.PAGE.off).toNat % 128) != 0
                || s.on pgAlm HUB_ALM_LEVEL.BOOT)
        ∧ t.alarms = s.alarms ∧ AnsweredOk t ∧ t = { s with regs := t.regs, pins := t.pins, resp := t.resp })
  ∧ (∀ s : State, Opens s pgAlm 0x54 →
    Completes .almClearLog s fun t =>
      t.alarms = [] ∧ t.rd pgAlm HUB_ALM_LOG_LEVEL.COUNT = 0 ∧ t.rd pgAlm HUB_ALM_LOG_LEVEL.REPEATS = 0
        ∧ t.rd pgAlm HUB_ALM_LOG_LEVEL.LOST = 0
        ∧ t.rd pgAlm HUB_ALM_PEND.CLASS = s.rd pgAlm HUB_ALM_PEND.CLASS ∧ AnsweredOk t
        ∧ t = { s with regs := t.regs, alarms := t.alarms, resp := t.resp })

/-! ### Dies, straps, roles, release and the package reset -/

/-- R427: the end of the shell's power-on reset drives CONF_DONE, CONF_ERR_N, THERM_N and ALARM_N, and the debug
port takes the stored lock. R11: the selvage die's straps name the package variant, and a DIE_ID that is not 0 or a
reserved outline is a fault of the wiring, which raises BOOT. R9, R12: a panel or fitted site that answers is
recorded with what it reports and is present and up; one that does not answer is lost, as R22 has it. A second
report changes nothing. R19: before the write that first releases a die a role register takes its RW fields; after
it a write is ignored and sets ROLE_LOCKED. R33: SEAM_RELEASE releases the named dies that are present and not lost,
for initiator 0x02 alone, shows their bits in REL, and withdraws no release. States completion (Completes c s post:
exec c s = next t for a t with post t, under the conditions on the state and the operands named before it) of 4
commands: shellPorEnd (SHELL_POR_END), diePorEnd (DIE_POR_END), seamRoleWrite (SEAM_ROLE_WRITE), seamReleaseWrite
(SEAM_RELEASE_WRITE). -/
def Obligations.DiesReportAndAreReleased : Prop :=
  ((∀ s : State, s.tu.porDone = false →
    Completes .shellPorEnd s fun t => t.tu.porDone = true ∧ t.dp.locked = s.store.lock
      ∧ t.pins.confDone = some false ∧ t.pins.confErrN = some false ∧ t.pins.thermN = some false
      ∧ t.pins.alarmN.isSome = true)
  ∧ (∀ (s : State) (dieId pkgVar letter digit typ cap : Nat), (s.die 0).porDone = false →
    Completes (.diePorEnd 0 true dieId pkgVar letter digit typ cap) s fun t =>
      t.rd pgSeam SEAM_PKG.PKG_VAR = pkgVar % 16 ∧ t.rd pgSeam (SEAM_DIEn_ID.VALID.nth 0) = 1
        ∧ t.rd pgSeam (SEAM_DIEn_CAP.CAP.nth 0) = cap % 2 ^ 32 ∧ (t.die 0).answered = true
        ∧ (dieId % 8 ≠ 0 ∨ pkgVar / 4 % 4 ≠ 0 → t.hub.wiring = true ∧ t.on pgAlm HUB_ALM_LEVEL.BOOT = true)
        ∧ (dieId % 8 = 0 → pkgVar / 4 % 4 = 0 → t.hub = s.hub))
  ∧ (∀ (s : State) (d dieId pkgVar letter digit typ cap : Nat), panelOk d = true ∨ s.fitted d = true →
      (s.die d).porDone = false →
    Completes (.diePorEnd d true dieId pkgVar letter digit typ cap) s fun t =>
      t = { s with regs := t.regs, dies := t.dies, banks := t.banks, pages := t.pages }
        ∧ (s.tu.everJudged = true → panelOk d = true → t.on (pgClkPnl d) PAGE_CTL.CLK_EN = true)
        ∧ t.rd pgSeam (SEAM_DIEn_ID.DIE_ID.nth d) = dieId % 8
        ∧ t.rd pgSeam (SEAM_DIEn_ID.DIE_TYPE.nth d) = typ % 16
        ∧ t.rd pgSeam (SEAM_DIEn_ID.REV_LETTER.nth d) = letter % 32
        ∧ t.rd pgSeam (SEAM_DIEn_ID.REV_DIGIT.nth d) = digit % 16
        ∧ t.rd pgSeam (SEAM_DIEn_ID.PKG_VAR.nth d) = pkgVar % 16
        ∧ t.rd pgSeam (SEAM_DIEn_ID.VALID.nth d) = 1
        ∧ t.rd pgSeam (SEAM_DIEn_CAP.CAP.nth d) = cap % 2 ^ 32
        ∧ maskBit (t.rd pgSeam SEAM_PKG.PRESENT) d = true ∧ maskBit (t.rd pgSeam SEAM_PKG.UP) d = true
        ∧ (∀ e, e ≠ d → maskBit (t.rd pgSeam SEAM_PKG.UP) e = maskBit (s.rd pgSeam SEAM_PKG.UP) e)
        ∧ (t.die d).answered = true ∧ ∀ e, e ≠ d → t.die e = s.die e)
  ∧ (∀ (s : State) (d dieId pkgVar letter digit typ cap : Nat), panelOk d = true ∨ s.fitted d = true →
      (s.die d).porDone = false → (s.die d).lost = false →
    Completes (.diePorEnd d false dieId pkgVar letter digit typ cap) s fun t =>
      LostAt t d s.time)
  ∧ (∀ (s : State) (d dieId pkgVar letter digit typ cap : Nat), (s.die d).porDone = true →
    ∀ a, Completes (.diePorEnd d a dieId pkgVar letter digit typ cap) s fun t => t = s))
  ∧ ((∀ (s : State) (off v : Nat), roleOff off = true → Opens s pgSeam off →
    (s.hub.locked = false → s.hub.reasons = [] → Completes (.seamRoleWrite off v) s fun t =>
      t.reg pgSeam off = merge (typeMask pgSeam off (· == .rw)) (s.reg pgSeam off) (BitVec.ofNat 32 v)
        ∧ t.rd pgSeam PAGE_LEVEL.ARMED = 0 ∧ AnsweredOk t)
    ∧ (s.hub.locked = true → Completes (.seamRoleWrite off v) s fun t =>
      t.reg pgSeam off = s.reg pgSeam off ∧ t.rd pgSeam SEAM_STAT.ROLE_LOCKED = 1 ∧ AnsweredOk t
        ∧ t = { s with regs := t.regs, resp := t.resp }))
  ∧ (∀ (s : State) (v : Nat), Opens s pgSeam 0x48 →
    Completes (.seamReleaseWrite 2 v) s fun t =>
      (∀ d, d < 7 → maskBit (t.rd pgSeam SEAM_PKG.RELEASED) d
            = (s.released d || (maskBit v d && maskBit (s.rd pgSeam SEAM_PKG.PRESENT) d && !(s.die d).lost))
          ∧ maskBit (t.rd pgSeam SEAM_RELEASE.REL) d
            = (maskBit (s.rd pgSeam SEAM_RELEASE.REL) d || (t.released d && !s.released d)))
        ∧ ((∃ d, d < 7 ∧ t.released d = true ∧ s.released d = false) → t.hub.locked = true)
        ∧ AnsweredOk t ∧ t.dies = s.dies)
  ∧ (∀ (s : State) (init v : Nat), Opens s pgSeam 0x48 → init ≠ 2 →
    Completes (.seamReleaseWrite init v) s fun t => t = { s with resp := t.resp } ∧ AnsweredOk t))

/-- R22: a panel or a site whose heartbeat is missed, and a panel whose multiplier does not lock within 1,280,000 G
of its reference (R65), is declared lost: its UP bit clears, DIE_LOST and SEAM_LOSS_TIME record it, and the DIE
class of the hub alarm is raised; of a panel everything that it held is lost besides, and the other panels keep what
they hold (R26). A die that is lost already is no longer live (R27). R23: a request to a lost die is answered
DIE_DOWN and counted; a response that comes late is sunk. R27: the heartbeat of a lost die that returns sets its UP
bit again and leaves it lost. States completion (Completes c s post: exec c s = next t for a t with post t, under
the conditions on the state and the operands named before it) of 5 commands: heartbeatMiss (HEARTBEAT_MISS),
panelMultTimeout (PANEL_MULT_TIMEOUT), seamReqToLostDie (SEAM_REQ_TO_LOST_DIE), seamLateResponse
(SEAM_LATE_RESPONSE), heartbeatReturn (HEARTBEAT_RETURN). -/
def Obligations.LostDiesAreRecordedAndAnswered : Prop :=
  ((∀ (s : State) (d : Nat), s.fitted d = true → panelOk d = false → (s.die d).lost = false →
      (s.die d).answered = true → Completes (.heartbeatMiss d) s fun t =>
        LostAt t d s.time ∧ t = { s with regs := t.regs, dies := t.dies, alarms := t.alarms, pins := t.pins }
          ∧ ∀ e, e ≠ d → t.die e = s.die e)
  ∧ (∀ (s : State) (d : Nat), panelOk d = true → (s.die d).lost = false → (s.die d).answered = true →
      Completes (.heartbeatMiss d) s fun t => LostAt t d s.time ∧ t.now = s.now ∧ PanelGone s t d)
  ∧ (∀ (s : State) (d t0 : Nat), panelOk d = true → (s.die d).lost = false → (s.die d).refAt = some t0 →
      s.on (pgClkPnl d) CLK_PNL_STAT.REF_OK = true → s.on (pgClkPnl d) CLK_PNL_STAT.MULT_LOCK = false →
      Completes (.panelMultTimeout d) s fun t =>
        t.now = (if s.clocksOn then max s.now (t0 + 1280000) else s.now) ∧ LostAt t d t.time ∧ PanelGone s t d)
  ∧ (∀ (s : State) (d : Nat), panelOk d = true ∨ s.fitted d = true → (s.die d).lost = true →
      Completes (.heartbeatMiss d) s fun t =>
        t = { s with regs := t.regs, dies := t.dies } ∧ (t.die d).liveSince = none ∧ (t.die d).lost = true
          ∧ maskBit (t.rd pgSeam SEAM_PKG.UP) d = false))
  ∧ (∀ (s : State) (d : Nat), 1 ≤ d → d < 7 → (s.die d).lost = true →
    Completes (.seamReqToLostDie d) s (fun t => t.resp = ⟨.dieDown, 0, false, true, 0, 0⟩
        ∧ t.rd pgSeam (SEAM_DDn.COUNT.nth d) = min (s.rd pgSeam (SEAM_DDn.COUNT.nth d) + 1) (2 ^ 32 - 1)
        ∧ t = { s with regs := t.regs, resp := t.resp })
    ∧ Completes (.seamLateResponse d) s (fun t => t = s)
    ∧ (panelOk d = true ∨ s.fitted d = true → (s.die d).liveSince = none →
        Completes (.heartbeatReturn d) s fun t =>
          maskBit (t.rd pgSeam SEAM_PKG.UP) d = true ∧ (t.die d).lost = true ∧ (t.die d).liveSince = some s.now
            ∧ t = { s with regs := t.regs, dies := t.dies }))

/-- R25, R27, R21: with firmware running and no switch outstanding, detours that lead around lost panels, or around
links that stream groups remove, are loaded: they stand in the tables of the other version, and a switch to it is
asked for. Once a lost panel has been readmitted and live for 12,800,000 G its detours are withdrawn the same way:
the other version then holds what firmware writes without them. The tables in force do not change before the switch.
States completion (Completes c s post: exec c s = next t for a t with post t, under the conditions on the state and
the operands named before it) of 2 commands: detourLoad (DETOUR_LOAD), detourWithdraw (DETOUR_WITHDRAW). -/
def Obligations.DetoursAreLoadedAndWithdrawn : Prop :=
  ∀ (s : State) (es : List (Nat × Nat × Nat × Nat)), s.detourReady = true → s.detoursLead es = true →
    (∀ p, panelOk p = true → (s.die p).lost = true → (s.die p).detour = false →
      Completes (.detourLoad es) s fun t => (t.die p).detour = true ∧ (t.die p).lost = true ∧ DetoursStand s t es
        ∧ t = { s with regs := t.regs, dies := t.dies, nocs := t.nocs, hub := t.hub })
    ∧ (s.linksOpen = true → Completes (.detourLoad es) s fun t => t.hub.linkDetour = true ∧ DetoursStand s t es
        ∧ t = { s with regs := t.regs, dies := t.dies, nocs := t.nocs, hub := t.hub })
    ∧ (∀ p t0, panelOk p = true → (s.die p).lost = false → (s.die p).detour = true → (s.die p).liveSince = some t0 →
        t0 + 12800000 ≤ s.now →
      Completes (.detourWithdraw es) s fun t => (t.die p).detour = false ∧ (t.die p).lost = false
        ∧ DetoursStand s t es ∧ t = { s with regs := t.regs, dies := t.dies, nocs := t.nocs })

/-- R29: a reset of the selvage die resets every die, and clocked state is lost in every one: every register of
every page is back at its reset value, the root PLL is unlocked, the Kelef ports are down and train anew, the device
has no ID, the clocks stop; the launch table, banks, sequencers, weft tables, catch units, spools, engines and
clusters, key slots and regions, network interfaces and detour tables, governor, patch sites, routing tables, quads,
configuration memories and darners, logic, fabric and serial ports, power controller, hub controller, movers, SRAM
and debug port are as after power-on. Every DRAM channel has lost its contents; only the persistent store stays
(R449; log entry 14). States completion (Completes c s post: exec c s = next t for a t with post t, under the
conditions on the state and the operands named before it) of 1 command: selvageReset (SELVAGE_RESET). -/
def Obligations.SelvageResetResetsThePackage : Prop :=
  ∀ s : State, Completes .selvageReset s fun t =>
    t.store = s.store ∧ (∀ pg off, t.reg pg off = State.reset.reg pg off) ∧ t.shadow = [] ∧ t.alarms = []
      ∧ t.dies = State.reset.dies ∧ t.on pgClk CLK_ROOT_STAT.PLL_LOCK = false ∧ t.hasDev = false
      ∧ (∀ p, p < 16 → t.rd (pgKlf p) KLF_STAT.STATE = 0 ∧ t.port p = {} ∧ t.beacon p = {})
      ∧ t.clocksOn = false ∧ t.now = 0 ∧ t.pending = s.pending
      ∧ (∀ k, k < 8 → t.drc k = { epoch := (s.drc k).epoch + 1 })
      ∧ (∀ b, b < 16 → t.seq b = {} ∧ t.bank b = {} ∧ t.hasRun b = false) ∧ t.weftTab = [] ∧ t.launch = []
      ∧ (∀ p, p < 5 → t.cat p = {} ∧ t.spl p = {} ∧ t.noc p = {} ∧ t.darn p = {})
      ∧ (∀ e, t.eng e = {}) ∧ (∀ c, t.clu c = {}) ∧ (∀ q, t.quad q = {}) ∧ (∀ i, t.ser i = {}) ∧ (∀ i, t.fab i = {})
      ∧ t.slots = [] ∧ t.regions = [] ∧ t.govBal = [] ∧ t.pats = [] ∧ t.rt = [] ∧ t.rtHit = [] ∧ t.egr = []
      ∧ t.answers = [] ∧ t.sinks = [] ∧ t.uclks = [] ∧ t.logics = [] ∧ t.cfg = {} ∧ t.pow = {} ∧ t.hub = {}
      ∧ t.movers = [] ∧ t.sram = [] ∧ t.tu = {} ∧ t.stalls = [] ∧ t.dp = {} ∧ t.dpAnswer = none ∧ t.pins = {}

/-- R450, R451: the boot ROM starts the preferred image if it passes, else the other as the fallback, else none;
with none, and when the bound for the start passes, the BOOT condition of the alarm holds (R475). R451, R459: the
expiry of the hub's watchdog leaves a crash record and ends a mailbox command in progress as RESTARTED; the same
image, which passes its checks again, starts again and RESTARTS counts, but after three restarts within
128,000,000,000 G no firmware runs any more and BOOT is raised. An image that fails the checks is not run (the
model's choice, log entry 97). States completion (Completes c s post: exec c s = next t for a t with post t, under
the conditions on the state and the operands named before it) of 3 commands: firmwareStart (FIRMWARE_START),
fwStartTimeout (FW_START_TIMEOUT), hubWdogExpire (HUB_WDOG_EXPIRE). -/
def Obligations.HubBootsAndRestarts : Prop :=
  (∀ s : State, s.tu.porDone = true → s.rd pgHub HUB_BOOT.STATUS = 0 →
    (s.imagePasses (s.store.pref % 2) = true → Completes .firmwareStart s fun t =>
      t.rd pgHub HUB_BOOT.STATUS = 1 ∧ t.rd pgHub HUB_BOOT.IMAGE = s.store.pref % 2
        ∧ t.rd pgHub HUB_BOOT.FALLBACK = 0 ∧ t.rd pgHub HUB_BOOT.FW_RUN = 1
        ∧ t.rd pgCfg CFG_SVN_MIN.SVN = s.store.svnMin % 2 ^ 32)
    ∧ (s.imagePasses (s.store.pref % 2) = false → s.imagePasses (1 - s.store.pref % 2) = true →
      Completes .firmwareStart s fun t =>
        t.rd pgHub HUB_BOOT.STATUS = 1 ∧ t.rd pgHub HUB_BOOT.IMAGE = 1 - s.store.pref % 2
          ∧ t.rd pgHub HUB_BOOT.FALLBACK = 1 ∧ t.rd pgHub HUB_BOOT.FW_RUN = 1)
    ∧ (s.imagePasses (s.store.pref % 2) = false → s.imagePasses (1 - s.store.pref % 2) = false →
      Completes .firmwareStart s fun t => t.rd pgHub HUB_BOOT.STATUS = 2 ∧ t.rd pgHub HUB_BOOT.FW_RUN = s.rd pgHub HUB_BOOT.FW_RUN
        ∧ t.rd pgAlm HUB_ALM_LEVEL.BOOT = 1 ∧ maskBit (t.rd pgAlm HUB_ALM_PEND.CLASS) 5 = true)
    ∧ Completes .fwStartTimeout s (fun t => t.rd pgAlm HUB_ALM_LEVEL.BOOT = 1
        ∧ maskBit (t.rd pgAlm HUB_ALM_PEND.CLASS) 5 = true
        ∧ t = { s with regs := t.regs, alarms := t.alarms, pins := t.pins }))
  ∧ ((∀ s : State, s.fwRuns = true → s.on pgMbx MBX_STAT.BUSY = true → Completes .hubWdogExpire s fun t =>
      t.store.crash.isSome = true ∧ t.on pgMbx MBX_STAT.BUSY = false ∧ t.on pgMbx MBX_STAT.REPLY = true
        ∧ t.rd pgMbx (MBX_RSPk.DATA.nth 1) = 8 ∧ maskBit (t.reg pgMbx 0x08).toNat 7 = true)
  ∧ ∀ s : State, s.fwRuns = true → s.on pgMbx MBX_STAT.BUSY = false →
    (s.on pgMbx MBX_STAT.NOTE = true ∨ s.on pgMbx MBX_CFG.NOTE_EV = false) →
    (s.imagePasses (s.rd pgHub HUB_BOOT.IMAGE) = true →
      (s.hub.restarts.filter fun t => decide (s.now < t + 128000000000)).length < 3 →
      Completes .hubWdogExpire s fun t =>
        t.store.crash.isSome = true ∧ t.rd pgHub HUB_BOOT.STATUS = 1
          ∧ t.rd pgHub HUB_BOOT.RESTARTS = min (s.rd pgHub HUB_BOOT.RESTARTS + 1) 255
          ∧ t.hub.restarts = (s.hub.restarts.filter fun t => decide (s.now < t + 128000000000)) ++ [s.now])
    ∧ (s.imagePasses (s.rd pgHub HUB_BOOT.IMAGE) = false →
      (s.hub.restarts.filter fun t => decide (s.now < t + 128000000000)).length < 3 →
      Completes .hubWdogExpire s fun t =>
        t.store.crash.isSome = true ∧ t.rd pgHub HUB_BOOT.STATUS = 2 ∧ t.rd pgHub HUB_BOOT.FW_RUN = 0
          ∧ t.rd pgAlm HUB_ALM_LEVEL.BOOT = 1)
    ∧ (3 ≤ (s.hub.restarts.filter fun t => decide (s.now < t + 128000000000)).length →
      Completes .hubWdogExpire s fun t =>
        t.store.crash.isSome = true ∧ t.rd pgHub HUB_BOOT.STATUS = 3 ∧ t.rd pgHub HUB_BOOT.FW_RUN = 0
          ∧ t.rd pgAlm HUB_ALM_LEVEL.BOOT = 1))

/-! ### Fabric time -/

/-- R62–R65: a port whose lane 0 has signal and lock qualifies, and the shell takes a qualifying port as its
reference if it has none. A window passes when the detector held and the count is within ±500 ppm of 32,768; it
counts in WINDOWS, one that fails starts the count again, and the sixteenth in a row sets JUDGED. After sixty-four
windows without a judgement JUDGE_FAIL sets, the reference moves on to the next port that qualifies, if there is
one, and WINDOWS is 0. R65: the multiplier of a panel that has the package reference locks to it. States completion
(Completes c s post: exec c s = next t for a t with post t, under the conditions on the state and the operands named
before it) of 4 commands: refSignalQualify (REF_SIGNAL_QUALIFY), judgeWindowEnd (JUDGE_WINDOW_END), judgeTimeout
(JUDGE_TIMEOUT), panelMultLock (PANEL_MULT_LOCK). -/
def Obligations.ReferenceIsJudged : Prop :=
  (∀ (s : State) (p : Nat) (eyes : List Nat), p < 16 → s.implemented (pgKlf p) = true → CanLock s p →
    Completes (.refSignalQualify p eyes) s fun t =>
      t.rd (pgLane p) (LANE_STATl.SD.nth 0) = 1 ∧ t.rd (pgLane p) (LANE_STATl.LOCK.nth 0) = 1 ∧ t.tu.hasRef = true
        ∧ (s.tu.hasRef = false → t.refQualifies (t.rd pgClk CLK_ROOT_STAT.REF_PORT) = true
            ∧ t.rd pgClk CLK_ROOT_STAT.WINDOWS = 0)
        ∧ (s.tu.hasRef = true → t.rd pgClk CLK_ROOT_STAT.REF_PORT = s.rd pgClk CLK_ROOT_STAT.REF_PORT))
  ∧ (∀ (s : State) (count : Nat) (held : Bool), s.tu.hasRef = true → s.on pgClk CLK_ROOT_STAT.JUDGED = false →
      s.tu.tried < 64 →
    Completes (.judgeWindowEnd count held) s fun t =>
      t.tu.tried = s.tu.tried + 1 ∧ t.rd pgClk CLK_ROOT_STAT.PLL_LOCK = bit held
        ∧ ((held = false ∨ count < 32752 ∨ 32784 < count) → t.rd pgClk CLK_ROOT_STAT.WINDOWS = 0
            ∧ t.rd pgClk CLK_ROOT_STAT.JUDGED = 0)
        ∧ (held = true → 32752 ≤ count → count ≤ 32784 → s.rd pgClk CLK_ROOT_STAT.WINDOWS < 15 →
            t.rd pgClk CLK_ROOT_STAT.WINDOWS = s.rd pgClk CLK_ROOT_STAT.WINDOWS + 1
              ∧ t.rd pgClk CLK_ROOT_STAT.JUDGED = 0)
        ∧ (held = true → 32752 ≤ count → count ≤ 32784 → s.rd pgClk CLK_ROOT_STAT.WINDOWS = 15 →
            t.rd pgClk CLK_ROOT_STAT.JUDGED = 1))
  ∧ (∀ s : State, s.tu.hasRef = true → s.on pgClk CLK_ROOT_STAT.JUDGED = false → 64 ≤ s.tu.tried →
    Completes .judgeTimeout s fun t =>
      maskBit (t.reg pgClk 0x08).toNat 8 = true ∧ t.rd pgClk CLK_ROOT_STAT.JUDGED = 0
        ∧ t.rd pgClk CLK_ROOT_STAT.WINDOWS = 0
        ∧ (∀ q, s.nextRef 16 (s.rd pgClk CLK_ROOT_STAT.REF_PORT) = some q → t.rd pgClk CLK_ROOT_STAT.REF_PORT = q)
        ∧ t.tu.hasRef = (s.nextRef 16 (s.rd pgClk CLK_ROOT_STAT.REF_PORT)).isSome ∧ t.tu.tried = 0)
  ∧ (∀ (s : State) (p : Nat), panelOk p = true → s.on (pgClkPnl p) CLK_PNL_STAT.REF_OK = true →
      (s.die p).lost = false →
    Completes (.panelMultLock p) s fun t =>
      t.rd (pgClkPnl p) CLK_PNL_STAT.MULT_LOCK = 1
        ∧ t = { s with regs := t.regs })

/-- R70, R71, R343: the next beacon exchange of a trained port starts when its interval has passed, with the
device's own time as t1, and a BCN column carries its number; a BCN column is answered with a BRP column of the same
number, T2, T3 and the device's VALID, SUSPECT and DEPTH; the BRP column that carries the number of the exchange in
flight gives the port's forward delay ((t4 − t1) − (t3 − t2) + ASYM)/2 where that is whole and ends the exchange,
another one does nothing; a timeout abandons the exchange 12,800 G after its start. R76, R81, R82: a measured drift
of at most 16 VS moves the reference and the active parent to the new port and ends holdover; a larger one ends the
attempt: the parent stays, a refused alternate is not tried again in this holdover, and a deliberate switch starts
again 128,000 G after its last attempt once its port qualifies. States completion (Completes c s post: exec c s =
next t for a t with post t, under the conditions on the state and the operands named before it) of 6 commands:
beaconStart (BEACON_START), bcnReceive (BCN_RECEIVE), brpReceive (BRP_RECEIVE), beaconTimeout (BEACON_TIMEOUT),
parentDriftMeasured (PARENT_DRIFT_MEASURED), switchRetry (SWITCH_RETRY). -/
def Obligations.TimeTransferAndParentSwitch : Prop :=
  ((∀ (s : State) (p : Nat), p < 16 → s.klfUp p = true → s.portRuns p = true →
    Completes (.beaconStart p) s fun t => ∃ q,
      t.now = s.beaconDue p
        ∧ t.beacon p = { s.beacon p with last := some t.now, t1 := some (t.now * 256), seq := q }
        ∧ Sends t p [ctlColumn .bcn q] ∧ (∀ r, r ≠ p → t.beacon r = s.beacon r ∧ t.port r = s.port r)
        ∧ t = { s with now := t.now, fresh := t.fresh, beacons := t.beacons, ports := t.ports })
  ∧ (∀ (s : State) (p t2 t3 : Nat) (l c : Column), Hears s p → c = s.colRx p l → c.isCtl = true →
      ctlKind c = some .bcn → s.now ≤ t2 / 256 → t2 ≤ t3 → t3 ≤ t2 + 64 * 33 * 256 →
    Completes (.bcnReceive p l t2 t3) s fun t => t.now = t3 / 256
      ∧ Sends t p [ctlColumn .brp (brpPayload c.payload t2 t3
          (if s.on pgTime TIME_STAT.VALID then s.rd pgTime TIME_STAT.DEPTH else 63) (s.on pgTime TIME_STAT.VALID)
          (s.on pgTime TIME_STAT.SUSPECT))]
        ∧ t = { s with now := t.now, ports := t.ports } ∧ ∀ q, q ≠ p → t.port q = s.port q)
  ∧ (∀ (s : State) (p t1 t4 : Nat) (l c : Column), Hears s p → c = s.colRx p l → c.isCtl = true →
      ctlKind c = some .brp → (s.beacon p).t1 = some t1 →
    (bitsOf c.payload 15 0 = (s.beacon p).seq → t4 ≤ t1 + 12800 * 256 →
      ((((t4 : Int) - t1) - ((bitsOf c.payload 159 88 : Int) - bitsOf c.payload 87 16)
          + signed 16 (s.rd pgTime (TIME_TRIMp.ASYM.nth p))) % 2 = 0) →
      Completes (.brpReceive p l t4) s fun t =>
        (t.beacon p).t1 = none
          ∧ (t.beacon p).reply = some ⟨maskBit c.payload 166, maskBit c.payload 167, bitsOf c.payload 165 160⟩
          ∧ t.rd pgTime (TIME_DELAYp.VALID.nth p) = 1
          ∧ t.rd pgTime (TIME_DELAYp.DFWD.nth p)
              = unsign 24 ((((t4 : Int) - t1) - ((bitsOf c.payload 159 88 : Int) - bitsOf c.payload 87 16)
                  + signed 16 (s.rd pgTime (TIME_TRIMp.ASYM.nth p))) / 2))
    ∧ (bitsOf c.payload 15 0 ≠ (s.beacon p).seq → Completes (.brpReceive p l t4) s fun t => t = s))
  ∧ (∀ (s : State) (p t1 : Nat), (s.beacon p).t1 = some t1 → s.clocksOnFor (pgKlf p) = true →
    Completes (.beaconTimeout p) s fun t =>
      t.beacon p = { s.beacon p with t1 := none } ∧ t.now = max s.now (t1 / 256 + 12800)
        ∧ t = { s with now := t.now, beacons := t.beacons }))
  ∧ ((∀ (s : State) (w : SwitchX) (drift : Nat), s.tu.switch = some w → w.port < 16 →
      s.clocksOnFor pgTime = true →
    (drift ≤ 16 → Completes (.parentDriftMeasured drift) s fun t =>
      t.rd pgTime TIME_STAT.ACTIVE_PORT = w.port ∧ t.rd pgClk CLK_ROOT_STAT.REF_PORT = w.port
        ∧ t.rd pgTime TIME_STAT.HOLDOVER = 0 ∧ t.rd pgClk CLK_ROOT_STAT.HOLDOVER = 0
        ∧ t.rd pgTime TIME_STAT.ALT_ACTIVE = bit (w.kind == .alternate)
        ∧ t.tu.switch = none ∧ t.now = max s.now (w.since + 25600) ∧ maskBit (t.reg pgTime 0x08).toNat 9 = true)
    ∧ (16 < drift → w.kind = .deliberate → Completes (.parentDriftMeasured drift) s fun t =>
      t.now = max s.now (w.since + 25600)
        ∧ t = { s with now := t.now, tu := { s.tu with switch := none, triedAt := t.now } })
    ∧ (16 < drift → w.kind = .back → Completes (.parentDriftMeasured drift) s fun t =>
      t.now = max s.now (w.since + 25600) ∧ t = { s with now := t.now, tu := { s.tu with switch := none } })
    ∧ (16 < drift → w.kind = .alternate → Completes (.parentDriftMeasured drift) s fun t =>
      t.now = max s.now (w.since + 25600) ∧ t.tu.alt = none ∧ t.rd pgTime TIME_STAT.HOLDOVER = 1
        ∧ t.rd pgTime TIME_STAT.ACTIVE_PORT = s.rd pgTime TIME_STAT.ACTIVE_PORT
        ∧ t.rd pgClk CLK_ROOT_STAT.REF_PORT = s.rd pgClk CLK_ROOT_STAT.REF_PORT))
  ∧ (∀ (s : State) (p : Nat), s.tu.wish = some p → s.tu.switch = none → s.clocksOnFor pgTime = true →
      s.parentOk p = true →
    Completes .switchRetry s fun t => t.now = max s.now (s.tu.triedAt + 128000)
      ∧ t = { s with now := t.now, tu := { s.tu with triedAt := t.now, switch := some ⟨p, .deliberate, t.now⟩ } }))

/-- R78, R80–R82: loss of the parent's signal starts holdover, which begins now, and opens a suspect window that
starts 12,800 G back unless one is open; as the primary's signal returns, a switch starts: to the alternate that
TIME_PARENT named at the loss where it qualifies and ALT_EN is 1, back to the primary where there is none. R83, R84:
holdover of 1,280,000 G on the held clock withdraws the clocks and time is no longer valid; a signal that returns
starts a new judgement on its port; UNGATE starts the clocks again, and is refused unless JUDGED and VALID are both
1. States completion (Completes c s post: exec c s = next t for a t with post t, under the conditions on the state
and the operands named before it) of 5 commands: parentSignalLoss (PARENT_SIGNAL_LOSS), parentSignalReturn
(PARENT_SIGNAL_RETURN), holdoverExpiry (HOLDOVER_EXPIRY), clockRecovery (CLOCK_RECOVERY), ungate (UNGATE). -/
def Obligations.HoldoverAndClockLoss : Prop :=
  ((∀ s : State, s.clocksOnFor pgTime = true → s.on pgTime TIME_STAT.HOLDOVER = false → s.on pgClk CLK_ROOT_STAT.HOLDOVER = false →
    Completes .parentSignalLoss s fun t =>
      t.rd pgTime TIME_STAT.HOLDOVER = 1 ∧ t.rd pgClk CLK_ROOT_STAT.HOLDOVER = 1 ∧ t.tu.holdStart = s.now
        ∧ t.rd pgTime TIME_STAT.SUSPECT = 1
        ∧ (s.on pgTime TIME_STAT.SUSPECT = false →
            t.rdPair pgTime TIME_SUSP_START_LO.TIME TIME_SUSP_START_HI.TIME = (s.now - 12800) % 2 ^ 64
              ∧ t.rdPair pgTime TIME_SUSP_END_LO.TIME TIME_SUSP_END_HI.TIME = 2 ^ 64 - 1))
  ∧ (∀ s : State, s.on pgTime TIME_STAT.HOLDOVER = true → s.on pgClk CLK_ROOT_STAT.HOLDOVER = true →
      s.clocksOnFor pgTime = true → s.tu.switch = none → s.rd pgTime TIME_PARENT.PRIMARY < 16 → s.tu.porDone = true →
      s.quadState (s.rd pgTime TIME_PARENT.PRIMARY) < 2 → (s.quad (s.rd pgTime TIME_PARENT.PRIMARY)).move ≠ some 2 →
      s.on (pgLane (s.rd pgTime TIME_PARENT.PRIMARY)) (LANE_STATl.SD.nth 0) = false →
    (s.tu.alt = none → Completes .parentSignalReturn s fun t =>
      t.tu.switch = some ⟨s.rd pgTime TIME_PARENT.PRIMARY, .back, s.now⟩
        ∧ t.rd (pgLane (s.rd pgTime TIME_PARENT.PRIMARY)) (LANE_STATl.SD.nth 0) = 1)
    ∧ (∀ a, s.tu.alt = some a → a < 16 → s.on pgTime TIME_PARENT.ALT_EN = true → s.parentOk a = true → a ≠ s.rd pgTime TIME_PARENT.PRIMARY →
      Completes .parentSignalReturn s fun t => t.tu.switch = some ⟨a, .alternate, s.now⟩)))
  ∧ ((∀ s : State, s.on pgClk CLK_ROOT_STAT.HOLDOVER = true → s.tu.dark = false →
    Completes .holdoverExpiry s fun t => s.tu.holdStart + 1280000 ≤ t.now ∧
      t.rd pgClk CLK_ROOT_STAT.GATED = 1 ∧ t.rd pgTime TIME_STAT.VALID = 0 ∧ t.rd pgTime TIME_STAT.DEPTH = 63
        ∧ (∀ pg, t.clocksOnFor pg = false)
        ∧ maskBit (t.rd pgAlm HUB_ALM_PEND.CLASS) 3 = true)
  ∧ (∀ (s : State) (eyes : List Nat), s.tu.dark = true → s.portOk (s.rd pgTime TIME_PARENT.PRIMARY) = true →
      CanLock s (s.rd pgTime TIME_PARENT.PRIMARY) →
    Completes (.clockRecovery (s.rd pgTime TIME_PARENT.PRIMARY) eyes) s fun t =>
      t.rd pgClk CLK_ROOT_STAT.JUDGED = 0 ∧ t.rd pgClk CLK_ROOT_STAT.GATED = s.rd pgClk CLK_ROOT_STAT.GATED
        ∧ t.rd pgTime TIME_STAT.HOLDOVER = 0 ∧ t.tu.hasRef = true ∧ t.tu.stepped = false
        ∧ t.rd pgClk CLK_ROOT_STAT.REF_PORT = s.rd pgTime TIME_PARENT.PRIMARY)
  ∧ (∀ s : State, Opens s pgClk 0x48 →
    (s.on pgClk CLK_ROOT_STAT.JUDGED = true → s.on pgTime TIME_STAT.VALID = true →
      Completes .ungate s fun t => t.rd pgClk CLK_ROOT_STAT.GATED = 0 ∧ t.clocksOn = true ∧ AnsweredOk t)
    ∧ (s.on pgClk CLK_ROOT_STAT.JUDGED = false ∨ s.on pgTime TIME_STAT.VALID = false →
      Completes .ungate s fun t => t.rd pgClk CLK_ROOT_STAT.GATED = s.rd pgClk CLK_ROOT_STAT.GATED
        ∧ maskBit (t.reg pgClk 0x08).toNat 11 = true ∧ AnsweredOk t)))

/-- R87, R89: ADD takes a free slot for the staged entry and gives it the slot's next generation, refusing an action
that does not exist (4), then while time is invalid (7), a T that is no multiple of 8 (3), a T that is too near (2),
and when every slot is held (1, with PAGE_STAT bit 16); a refused ADD shows INDEX and GEN 0 (the model's choice, log
entry 147). CANCEL and READ find an entry by slot and generation, CANCEL frees its slot, READ shows it in the
staging registers; an entry that fired is reported so (6), any other that is gone as gone (5). R90: once firing is
possible, every entry whose T has passed is freed, counted in MISSED and reported, and none fires. States completion
(Completes c s post: exec c s = next t for a t with post t, under the conditions on the state and the operands named
before it) of 4 commands: launchAdd (LAUNCH_ADD), launchCancel (LAUNCH_CANCEL), launchRead (LAUNCH_READ),
launchMissedFree (LAUNCH_MISSED_FREE). -/
def Obligations.LaunchTableCommandsAndMisses : Prop :=
  ((∀ (s : State) (pick : Nat), Opens s pgTime 0x110 →
    1 ≤ s.rd pgTime TIME_LNCH_ACT.ACTION → s.rd pgTime TIME_LNCH_ACT.ACTION ≤ 5 →
    s.on pgTime TIME_STAT.VALID = true → s.rdPair pgTime TIME_LNCH_T_LO.T TIME_LNCH_T_HI.T % 8 = 0 →
    s.time + 2048 ≤ s.rdPair pgTime TIME_LNCH_T_LO.T TIME_LNCH_T_HI.T →
    ∀ i, s.launchSlotFor pick = some i → i < 1024 →
    Completes (.launchAdd pick) s fun t =>
      (s.lslot i).ent = none
        ∧ t.lslot i = ⟨some ⟨s.rdPair pgTime TIME_LNCH_T_LO.T TIME_LNCH_T_HI.T, s.rd pgTime TIME_LNCH_ACT.ACTION,
            s.on pgTime TIME_LNCH_ACT.FULL_LOAD, s.rd pgTime TIME_LNCH_ACT.EVENT, s.rd pgTime TIME_LNCH_ARG.ARG,
            ((s.lslot i).gen + 1) % 64⟩, ((s.lslot i).gen + 1) % 64, false, true⟩
        ∧ t.rd pgTime TIME_LNCH_RES.STATUS = 0 ∧ t.rd pgTime TIME_LNCH_RES.INDEX = i
        ∧ t.rd pgTime TIME_LNCH_RES.GEN = ((s.lslot i).gen + 1) % 64
        ∧ (∀ j, j ≠ i → t.lslot j = s.lslot j) ∧ AnsweredOk t
        ∧ t = { s with regs := t.regs, launch := t.launch, resp := t.resp })
  ∧ (∀ (s : State) (pick st : Nat), Opens s pgTime 0x110 →
    (let act := s.rd pgTime TIME_LNCH_ACT.ACTION
     let time := s.rdPair pgTime TIME_LNCH_T_LO.T TIME_LNCH_T_HI.T
     if act = 0 ∨ 5 < act then st = 4
     else if s.on pgTime TIME_STAT.VALID = false then st = 7
     else if time % 8 ≠ 0 then st = 3
     else if time < s.time + 2048 then st = 2
     else st = 1 ∧ ∀ i, i < 1024 → (s.lslot i).ent.isSome = true) →
    Completes (.launchAdd pick) s fun t => t.launch = s.launch ∧ t.rd pgTime TIME_LNCH_RES.STATUS = st
      ∧ t.rd pgTime TIME_LNCH_RES.INDEX = 0 ∧ t.rd pgTime TIME_LNCH_RES.GEN = 0 ∧ AnsweredOk t
      ∧ (st = 1 → maskBit (t.reg pgTime 0x08).toNat 16 = true)
      ∧ (st ≠ 1 → t = { s with regs := t.regs, resp := t.resp }))
  ∧ (∀ (s : State) (i gen : Nat), i < 1024 → gen < 64 → Opens s pgTime 0x110 →
    (∀ e, (s.lslot i).ent = some e → e.gen = gen →
      Completes (.launchCancel i gen) s (fun t => (t.lslot i).ent = none ∧ (t.lslot i).fired = false
        ∧ (t.lslot i).gen = (s.lslot i).gen ∧ t.rd pgTime TIME_LNCH_RES.STATUS = 0 ∧ AnsweredOk t
        ∧ ∀ j, j ≠ i → t.lslot j = s.lslot j)
      ∧ Completes (.launchRead i gen) s (fun t => t.launch = s.launch ∧ t.rd pgTime TIME_LNCH_RES.STATUS = 0
        ∧ t.rdPair pgTime TIME_LNCH_T_LO.T TIME_LNCH_T_HI.T = e.t % 2 ^ 64
        ∧ t.rd pgTime TIME_LNCH_ACT.ACTION = e.action % 8 ∧ t.rd pgTime TIME_LNCH_ARG.ARG = e.arg % 2 ^ 32
        ∧ AnsweredOk t))
    ∧ (∀ e, (s.lslot i).ent = some e → e.gen ≠ gen →
      Completes (.launchCancel i gen) s (fun t => t.launch = s.launch ∧ t.rd pgTime TIME_LNCH_RES.STATUS = 5
        ∧ AnsweredOk t)
      ∧ Completes (.launchRead i gen) s (fun t => t.launch = s.launch ∧ t.rd pgTime TIME_LNCH_RES.STATUS = 5
        ∧ t = { s with regs := t.regs, resp := t.resp } ∧ AnsweredOk t))
    ∧ ((s.lslot i).ent = none →
      Completes (.launchCancel i gen) s (fun t => t.launch = s.launch ∧ AnsweredOk t
        ∧ t.rd pgTime TIME_LNCH_RES.STATUS
            = if (s.lslot i).used && (s.lslot i).fired && (s.lslot i).gen == gen then 6 else 5)
      ∧ Completes (.launchRead i gen) s (fun t => t.launch = s.launch ∧ AnsweredOk t
        ∧ t.rd pgTime TIME_LNCH_RES.STATUS
            = if (s.lslot i).used && (s.lslot i).fired && (s.lslot i).gen == gen then 6 else 5))))
  ∧ (∀ s : State, s.launchOn = true → (s.launchEnts.filter fun e => decide (e.2.t < s.time)) ≠ [] →
    Completes .launchMissedFree s fun t =>
      (∀ i e, (s.lslot i).ent = some e → e.t < s.time → (t.lslot i).ent = none ∧ (t.lslot i).fired = false)
        ∧ (∀ i, (∀ x ∈ s.launchEnts, x.1 = i → s.time ≤ x.2.t) → t.lslot i = s.lslot i)
        ∧ t.rd pgTime TIME_LNCH_USED.MISSED = min (s.rd pgTime TIME_LNCH_USED.MISSED
            + (s.launchEnts.filter fun e => decide (e.2.t < s.time)).length) (2 ^ 16 - 1)
        ∧ maskBit (t.reg pgTime 0x08).toNat 14 = true
        ∧ t = { s with regs := t.regs, launch := t.launch, alarms := t.alarms, pins := t.pins })

/-- R88, R79, R42, R86: the next entry to fire does so at its T: its slot is freed as fired, and its own action
follows on the state that this leaves, where a fire in a suspect window is flagged. States completion (Completes c s
post: exec c s = next t for a t with post t, under the conditions on the state and the operands named before it) of
5 commands: launchStartSeq (LAUNCH_START_SEQ), launchCommit (LAUNCH_COMMIT), launchRelease (LAUNCH_RELEASE),
launchSnapshot (LAUNCH_SNAPSHOT), launchEvent (LAUNCH_EVENT). -/
def Obligations.LaunchEntriesFire : Prop :=
  ∀ (s : State) (i a : Nat) (e : LaunchEnt), s.launchNext i a = some e →
    ∃ u : State, u.now = max s.now e.t ∧ (u.lslot i).ent = none ∧ (u.lslot i).fired = true
      ∧ (∀ j, j ≠ i → u.lslot j = s.lslot j)
      ∧ (s.on pgTime TIME_STAT.SUSPECT = true → maskBit (u.reg pgTime 0x08).toNat 15 = true)
      ∧ u = { s with now := u.now, regs := u.regs, launch := u.launch, alarms := u.alarms, pins := u.pins }
      ∧ (a = 1 → Completes (.launchStartSeq i) s fun t => t = u.launchStart e.arg e.t)
      ∧ (a = 2 → Completes (.launchCommit i) s fun t => t = u.launchCommit e.arg)
      ∧ (a = 3 → Completes (.launchRelease i) s fun t =>
          t = if u.running pgCfg then u.cfgRelease e.fullLoad e.arg e.t else u)
      ∧ (a = 4 → (maskBit e.arg 0 = true → s.snapWaits e.t = false) →
          Completes (.launchSnapshot i) s fun t => t = u.launchSnap e.arg
          ∧ (e.arg = 2 → ∀ l, l < 16 → s.running (pgSeq l) = true →
              t.rd (pgSeq l) SEQ_SNAP_CYC_LO.COUNT = s.rd (pgSeq l) SEQ_CYCLE_LO.COUNT
                ∧ t.rd (pgSeq l) SEQ_SNAP_CYC_HI.COUNT = s.rd (pgSeq l) SEQ_CYCLE_HI.COUNT))
      ∧ (a = 5 → e.event < 16 → Completes (.launchEvent i) s fun t =>
          maskBit (t.rd pgTime TIME_EVT.EVT) e.event = true
            ∧ ∀ k, k < 16 → k ≠ e.event → maskBit (t.rd pgTime TIME_EVT.EVT) k = maskBit (s.rd pgTime TIME_EVT.EVT) k)

/-! ### Banks, sequencers and weft generators -/

/-- R144: ARM of an idle sequencer latches the program base and the start offset, shows ARMED and busy, clears the
run's flags and starts the walker; of a busy one it is refused with ARM_REFUSED. Once 64 segments of the walk are
present, or the walker has paused with nothing outstanding, the sequencer is READY. R145, R146: START_NOW of a ready
sequencer is taken for the first multiple of 8 G at least 2,048 G on, and refused otherwise; at its time the run
begins with cycle 0 there, F clear, and its partners as the page names them. A pending start that finds a run which
began at another time leaves it and sets START_REFUSED. States completion (Completes c s post: exec c s = next t for
a t with post t, under the conditions on the state and the operands named before it) of 4 commands: seqArm
(SEQ_ARM), seqReady (SEQ_READY), startNow (START_NOW), seqPendingStart (SEQ_PENDING_START). -/
def Obligations.SequencersArmAndStart : Prop :=
  ((∀ (s : State) (b : Nat), b < 16 → Opens s (pgSeq b) 0x40 →
    (s.isMember b = false → s.seqBusy b = false → Completes (.seqArm b) s fun t =>
      t.rd (pgSeq b) SEQ_RUN.STATE = 1 ∧ t.rd (pgSeq b) PAGE_LEVEL.BUSY = 1 ∧ t.reg (pgSeq b) 0x64 = 0
        ∧ (t.seq b).base = s.rdPair (pgSeq b) SEQ_PROG_BASE_LO.BASE SEQ_PROG_BASE_HI.BASE
        ∧ (t.seq b).nextOff = some (s.rd (pgSeq b) SEQ_START.OFFSET)
        ∧ (t.seq b).walk.active = true ∧ (t.seq b).loops = [] ∧ (t.seq b).calls = [] ∧ (t.seq b).f = false
        ∧ (t.seq b).run = (s.seq b).run ∧ AnsweredOk t)
    ∧ ((s.isMember b = true ∨ s.seqBusy b = true) → Completes (.seqArm b) s fun t =>
      maskBit (t.reg (pgSeq b) 0x08).toNat 10 = true ∧ t.seqs = s.seqs
        ∧ t.rd (pgSeq b) SEQ_RUN.STATE = s.rd (pgSeq b) SEQ_RUN.STATE ∧ AnsweredOk t))
  ∧ (∀ (s : State) (l : Nat), l < 16 → s.leader l = l → s.rd (pgSeq l) SEQ_RUN.STATE = 1 →
      s.running (pgSeq l) = true →
      (64 ≤ (s.seq l).reachedNow ∨ ((s.seq l).paused (s.members l).length = true ∧ (∀ q ∈ (s.seq l).walk.reqs, q.sink = true)
          ∧ ((s.seq l).walk.wanted = [] ∨ (s.seq l).room (s.members l).length = none))) →
    Completes (.seqReady l) s fun t => t.rd (pgSeq l) SEQ_RUN.STATE = 2 ∧ t = { s with regs := t.regs }))
  ∧ ((∀ (s : State) (b : Nat), b < 16 → Opens s (pgSeq b) 0x40 →
    (s.rd (pgSeq (s.leader b)) SEQ_RUN.STATE = 2 → (s.seq (s.leader b)).pendStart = none →
      Completes (.startNow b) s fun t =>
        t.seq (s.leader b) = { s.seq (s.leader b) with pendStart := some (ceilTo 8 (s.now + 2048), b) }
          ∧ t = { s with seqs := t.seqs, resp := t.resp } ∧ AnsweredOk t)
    ∧ (¬ (s.rd (pgSeq (s.leader b)) SEQ_RUN.STATE = 2 ∧ (s.seq (s.leader b)).pendStart = none) →
      Completes (.startNow b) s fun t =>
        maskBit (t.reg (pgSeq b) 0x08).toNat 9 = true ∧ t.seqs = s.seqs ∧ AnsweredOk t))
  ∧ (∀ (s : State) (l t0 b : Nat), l < 16 → s.leader l = l → (s.seq l).pendStart = some (t0, b) →
      s.running (pgSeq l) = true → s.rd (pgSeq l) SEQ_RUN.STATE = 2 → (∀ m ∈ s.members l, (s.bank m).held = false) →
      s.launchStarts l t0 = false →
    Completes (.seqPendingStart l) s fun t =>
      t.rd (pgSeq l) SEQ_RUN.STATE = 3 ∧ t.hasRun l = true
        ∧ t.rdPair (pgSeq l) SEQ_RUN_T_LO.TIME SEQ_RUN_T_HI.TIME = t0 % 2 ^ 64
        ∧ t.rdPair (pgSeq l) SEQ_CYCLE_LO.COUNT SEQ_CYCLE_HI.COUNT = 0
        ∧ (t.seq l).run = (s.seq l).run + 1 ∧ (t.seq l).n = 0 ∧ (t.seq l).sNext = t0 * 256 ∧ (t.seq l).f = false
        ∧ (t.seq l).partners = s.partnersOf l t0 ∧ (t.seq l).pendStart = none
        ∧ maskBit (t.reg (pgSeq l) 0x08).toNat 8 = true ∧ t.now = max s.now t0)
  ∧ (∀ (s : State) (l t0 b : Nat), l < 16 → b < 16 → (s.seq l).pendStart = some (t0, b) → s.running (pgSeq l) = true →
      s.launchStarts l t0 = false → s.hasRun l = true → s.leader l = l →
      s.rdPair (pgSeq l) SEQ_RUN_T_LO.TIME SEQ_RUN_T_HI.TIME ≠ t0 →
    Completes (.seqPendingStart l) s fun t =>
      maskBit (t.reg (pgSeq b) 0x08).toNat 9 = true ∧ t.seq l = { s.seq l with pendStart := none }
        ∧ t.rd (pgSeq l) SEQ_RUN.STATE = s.rd (pgSeq l) SEQ_RUN.STATE ∧ t.banks = s.banks))

/-- R137, R140: the walker of an active walk requests the next segment that it wants, of at most 32 lines, when a
slot of the buffer is free; a segment whose lines return in their turn is no longer out and is held, with the data
of its lines, poisoned where a line was answered NO_BUDGET or fails. States completion (Completes c s post: exec c s
= next t for a t with post t, under the conditions on the state and the operands named before it) of 2 commands:
walkerSegmentRequest (WALKER_SEGMENT_REQUEST), segmentFetchReturn (SEGMENT_FETCH_RETURN). -/
def Obligations.WalkerFetchesSegments : Prop :=
  (∀ (s : State) (l g : Nat) (rest : List Nat), l < 16 → s.running (pgSeq l) = true → (s.seq l).walk.active = true →
      (∀ q ∈ (s.seq l).walk.reqs, q.lines = 32) → (s.seq l).walk.wanted = g :: rest →
      (s.seq l).segs.length + ((s.seq l).walk.reqs.filter fun q => !q.sink).length < 256 * (s.members l).length →
    Completes (.walkerSegmentRequest l) s fun t =>
      (t.seq l).walk.wanted = rest ∧ (t.seq l).segs = (s.seq l).segs
        ∧ (∃ q ∈ (t.seq l).walk.reqs, q.seg = g ∧ q.lines ≤ 32)
        ∧ ∀ k, k ≠ l → t.seq k = s.seq k)
  ∧ (∀ (s : State) (l seg : Nat) (q : SegReq), l < 16 →
      (s.seq l).walk.reqs.find? (fun q => q.seg == seg && q.lines == 32) = some q → q.sink = false →
      s.segFirst l seg = true → s.segWaits l q = none → (s.seq l).walk.active = true →
    Completes (.segmentFetchReturn l seg []) s fun t =>
      (t.seq l).walk.reqs = (s.seq l).walk.reqs.erase q
        ∧ ∃ g, (t.seq l).segs.find seg = some g
          ∧ (g.data, g.poisoned) = (q.sent.foldl (fun (acc : (Nat × Bool) × State) i => acc.2.segLine l seg i acc.1)
              ((0, !q.missed.isEmpty), s)).1
          ∧ (q.missed ≠ [] → g.poisoned = true)
          ∧ ∀ i rest, q.sent = i :: rest → (s.memGo (dramAt (seqInit l) (seg * 2048 + 64 * i)) .read).1.1 ≠ .ok →
              g.poisoned = true)

/-- R126, R129, R138: the record due next is decoded from the buffer: a well-formed one that the stacks allow and
whose timing sets are enabled joins the records ahead, and the way, the loops and the calls are those of R128; a
malformed one, or one that breaks a stack or names a disabled set, stops the run before it with cause 4. R132, R134:
a branch reads F at its resolution time, 72 G after the last delivery of its cycle, and goes on at its argument
where F is as its code asks, at the next record otherwise; a wait ends at its time, and what follows it stands as it
was decoded. States completion (Completes c s post: exec c s = next t for a t with post t, under the conditions on
the state and the operands named before it) of 3 commands: recordDecode (RECORD_DECODE), branchResolve
(BRANCH_RESOLVE), waitExpire (WAIT_EXPIRE). -/
def Obligations.RecordsAreDecodedAndBranchesResolve : Prop :=
  (∀ (s : State) (l off v : Nat), l < 16 → s.leader l = l → s.hasRun l = true → s.running (pgSeq l) = true →
    s.decodeDue l = true → (s.seq l).nextOff = some off →
    (s.seq l).fetch (s.members l).length off = .data v →
    ((recOf (s.members l).length off v).malformed = false →
      (recOf (s.members l).length off v).stackBad (s.seq l) = false →
      s.tsetOff l (recOf (s.members l).length off v) = false →
      Completes (.recordDecode l) s fun t =>
        (t.seq l).ahead = (s.seq l).ahead ++ [recOf (s.members l).length off v]
          ∧ ((t.seq l).nextOff, (t.seq l).loops, (t.seq l).calls)
              = (recOf (s.members l).length off v).follow (s.seq l).loops (s.seq l).calls
          ∧ t = { s with regs := t.regs, seqs := t.seqs })
    ∧ (((recOf (s.members l).length off v).malformed = true
        ∨ (recOf (s.members l).length off v).stackBad (s.seq l) = true
        ∨ s.tsetOff l (recOf (s.members l).length off v) = true) → (s.seq l).n ≠ 0 →
      Completes (.recordDecode l) s fun t =>
        (t.seq l).stop = some (4, off) ∧ (t.seq l).nextOff = none ∧ (t.seq l).ahead = (s.seq l).ahead
          ∧ maskBit (t.reg (pgSeq l) 0x08).toNat 12 = true))
  ∧ ((∀ (s : State) (l tm : Nat) (r : Rec), l < 16 → (s.seq l).openOp = some r → r.op = 6 ∨ r.op = 7 →
      s.branchTime l = some tm → tm ≤ (s.seq l).sNext → s.hasRun l = true →
    Completes (.branchResolve l) s fun t =>
      (t.seq l).resolved = true
        ∧ (t.seq l).nextOff = some (if (s.seq l).f = (r.op == 6) then r.arg else r.next)
        ∧ (t.seq l).f = (s.seq l).f ∧ t.now = max s.now (tm / 256)
        ∧ t = { s with seqs := t.seqs, now := t.now })
  ∧ (∀ (s : State) (l : Nat) (r : Rec), l < 16 → (s.seq l).openOp = some r → r.op = 9 →
      s.waitTime l r ≤ (s.seq l).sNext → s.hasRun l = true →
    Completes (.waitExpire l) s fun t =>
      (t.seq l).resolved = true ∧ (t.seq l).nextOff = (s.seq l).nextOff ∧ (t.seq l).ahead = (s.seq l).ahead
        ∧ t.now = max s.now (s.waitTime l r / 256) ∧ t = { s with seqs := t.seqs, now := t.now }))

/-- R98, R99, R124, R136: at the boundary of a run with nothing left to decide, the next cycle is issued on the
leader's own time: it starts where the last one ended, lasts the period of its timing set, which is the PERIOD of
that set in EDG_PERIODt and one, in VS, as it stands after what waited for the boundary, and counts. With a cause
gathered, the run ends there instead: STATE is IDLE, CAUSE the first of the causes in the order of R147, and the
page is no longer busy. States completion (Completes c s post: exec c s = next t for a t with post t, under the
conditions on the state and the operands named before it) of 1 command: cycleIssue (CYCLE_ISSUE). -/
def Obligations.CyclesFollowEachOther : Prop :=
  ∀ (s : State) (l : Nat) (tab : List Ecc) (wave : List (Nat × Ecc)), l < 16 → s.leader l = l → s.hasRun l = true →
    s.running (pgSeq l) = true → (s.seq l).halted = false → (s.seq l).haltReq = false → (s.seq l).openOp = none →
    s.decodeDue l = false →
    (∀ r kind j first, (s.seq l).finals = [] → (s.seq l).pick = some (r, kind, j, first) →
      (((s.members l).foldl (fun u b => u.bankBoundary [] b (s.seq l).sNext) (s.weftEnd l)).cycleFaults l
          (r.tsets.getD j 0) tab wave).1 = [] →
      Completes (.cycleIssue l [] tab wave) s fun t =>
        (t.seq l).n = (s.seq l).n + 1 ∧ (t.seq l).sCur = (s.seq l).sNext
          ∧ (t.seq l).pCur = t.rd (pgEdg l) (EDG_PERIODt.PERIOD.nth (r.tsets.getD j 0)) + 1
          ∧ (s.rd (pgEdg l) PAGE_PEND.PENDING = 0 →
              (t.seq l).pCur = s.rd (pgEdg l) (EDG_PERIODt.PERIOD.nth (r.tsets.getD j 0)) + 1)
          ∧ (t.seq l).sNext = (s.seq l).sNext + (t.seq l).pCur
          ∧ t.rdPair (pgSeq l) SEQ_CYCLE_LO.COUNT SEQ_CYCLE_HI.COUNT = ((s.seq l).n + 1) % 2 ^ 48
          ∧ t.rd (pgSeq l) SEQ_ADDR.OFFSET = r.off % 2 ^ 24 ∧ t.rd (pgSeq l) SEQ_ADDR.INDEX = j % 4
          ∧ t.now = max s.now ((s.seq l).sNext / 256))
    ∧ ((s.seq l).finals ≠ [] → Completes (.cycleIssue l [] tab wave) s fun t =>
        t = (s.modSeq l fun x => { x with causes := x.finals }).endRun l ∧ t.hasRun l = false
          ∧ t.rd (pgSeq l) SEQ_RUN.STATE = 0 ∧ t.rd (pgSeq l) SEQ_RUN.CAUSE = causeOf (s.seq l).finals
          ∧ t.rd (pgSeq l) PAGE_LEVEL.BUSY = 0 ∧ t.now = max s.now ((s.seq l).sNext / 256))

/-- R113, R150, R175: a bank delivers its oldest vector, in the order of the deliveries of its panel (R176), once
nothing of its cycle is left to judge: the vector leaves the queue and the time is its delivery. R97, R179: a site
mask reaches the bank as the catch unit's page has it, a removal 32 G after it was written. R113, R131, R175–R184,
R192: a compared vector of a sequencer alone reaches F, with the failing channels that SEQ_COND_MASK names, and the
catch unit of its panel: the fail counters of the failing channels count; every site that it fails counts it, keeps
it as its first where it is, is masked by its policy and has the bits of its failing lanes in the cache; the others
are left; the tallies take their rows and columns; and the sites that log put their records in the unit's queue to
their spools, in whose order they leave. A vector that is not compared leaves F and the unit; a part of a gang's
vector waits there for the others; with the unit's clock off the vector is lost and counted. R151, R346: a declared
loss of a partner flags the run and leaves it going; a probe of a partner on this device, a late or failed answer,
and the end of a probe's time, flag it where the partner is lost or has ended other than by HALT. States completion
(Completes c s post: exec c s = next t for a t with post t, under the conditions on the state and the operands named
before it) of 6 commands: failVectorDeliver (FAIL_VECTOR_DELIVER), maskArrives (MASK_ARRIVES), partnerLostDeclare
(PARTNER_LOST_DECLARE), partnerProbe (PARTNER_PROBE), probeTimeout (PROBE_TIMEOUT), probeResponse (PROBE_RESPONSE). -/
def Obligations.VectorsMasksAndPartnerLoss : Prop :=
  ((∀ (s : State) (b : Nat) (v : Vec) (rest : List Vec), b < 16 → s.running (pgEdg b) = true →
      (s.bank b).vecs = v :: rest →
      ((s.seq (v.gang.headD b)).run ≠ v.run ∨ v.n + 1 ≠ (s.seq (v.gang.headD b)).n ∨ (s.bank b).spills = []) →
      s.vecTurn b ((s.bank b).delivery v) = true →
    ∀ ls, Completes (.failVectorDeliver b ls) s fun t =>
      (t.bank b).vecs = rest ∧ (t.bank b).lastD = (s.bank b).delivery v
        ∧ t.now = max s.now ((s.bank b).delivery v / 256)
        ∧ ∀ k, k ≠ b → t.bank k = s.bank k)
  ∧ (∀ (s : State) (b : Nat), b < 16 →
    Completes (.maskArrives b) s fun t =>
      (∀ i, i < 64 → maskBit (t.bank b).maskIn i
          = (maskBit (s.rdPair (pgCat (b / 4 + 1)) CAT_MASK_LO.MASK CAT_MASK_HI.MASK) i
            || (maskBit (s.bank b).maskIn i
              && decide (t.now < (s.cats.getD (b / 4 + 1) {}).unmaskAt.getD i 0 + 32))))
        ∧ s.now ≤ t.now ∧ (t.bank b).maskAct = (s.bank b).maskAct ∧ t = { s with banks := t.banks, now := t.now }
        ∧ (∀ k, k ≠ b → t.bank k = s.bank k)
        ∧ ∀ i, i < 64 → maskBit (s.rdPair (pgCat (b / 4 + 1)) CAT_MASK_LO.MASK CAT_MASK_HI.MASK) i = true →
            maskBit (s.bank b).maskIn i = false → t.now = s.now))
  ∧ (∀ (s : State) (b : Nat) (v : Vec) (rest : List Vec), b < 16 → s.running (pgEdg b) = true →
    (s.bank b).vecs = v :: rest → v.iter = 0 →
    ((s.seq (v.gang.headD b)).run ≠ v.run ∨ v.n + 1 ≠ (s.seq (v.gang.headD b)).n ∨ (s.bank b).spills = []) →
    s.vecTurn b ((s.bank b).delivery v) = true →
    ∀ (ls : List CmpLevel) (p fails : Nat) (w : CatVec), p = b / 4 + 1 → fails = ((s.bank b).see ls).failBits v →
    w = ⟨v.n, v.tag, v.gang.headD b % 4, (s.bank b).delivery v / 256, v.run⟩ →
    (v.compared = true → v.gang = [b] → (s.cat p).gang = [] →
      Completes (.failVectorDeliver b ls) s fun t =>
        (t.seq b).f = ((s.seq b).f || decide ((s.seq b).run = v.run ∧ fails &&& s.rd (pgSeq b) SEQ_COND_MASK.MASK ≠ 0))
          ∧ (s.running (pgCat p) = true →
            (∀ n, n < 64 → t.rdPair (pgCat p) (CAT_FCNTn_LO.COUNT.nth n) (CAT_FCNTn_HI.COUNT.nth n)
              = if n / 16 = b % 4 ∧ maskBit fails (n % 16) = true then
                  min (s.rdPair (pgCat p) (CAT_FCNTn_LO.COUNT.nth n) (CAT_FCNTn_HI.COUNT.nth n) + 1) (2 ^ 48 - 1)
                else s.rdPair (pgCat p) (CAT_FCNTn_LO.COUNT.nth n) (CAT_FCNTn_HI.COUNT.nth n))
            ∧ (∀ i, i < 64 →
                if s.siteLanes p i (vecChans [(b, fails)] true) = 0 then SiteSpared s t p i
                else SiteCaught s t p i (s.siteLanes p i (vecChans [(b, fails)] true)) w)
            ∧ ((s.cat p).op = none → ∀ k,
                (t.cat p).tally.getD k 0
                  = if ((List.range 64).map fun i => s.tallyHits p i (s.siteLanes p i (vecChans [(b, fails)] true)) v.tag k).sum = 0
                    then (s.cat p).tally.getD k 0
                    else min ((s.cat p).tally.getD k 0
                      + ((List.range 64).map fun i => s.tallyHits p i (s.siteLanes p i (vecChans [(b, fails)] true)) v.tag k).sum) 65535)
            ∧ ((s.noc p).paused.contains (catInit p) = true → (s.noc p).deferred = [] →
                ∃ es, (t.cat p).logq = (s.cat p).logq ++ es
                  ∧ ∀ i, i < 64 → s.siteLanes p i (vecChans [(b, fails)] true) ≠ 0 → s.logsNow p i →
                    (s.rd (pgCat p) (CAT_S_CFG.SPOOL.nth i),
                      logRecord w i (s.siteLanes p i (vecChans [(b, fails)] true))
                        (!s.on (pgCat p) (CAT_S_STAT.FAILED.nth i)) (s.mapOff p i)) ∈ es)
            ∧ (v.tag.suspect = true → ∀ i n, i < 64 → n / 16 = b % 4 → n < 64 → s.on (pgCat p) (CAT_CHMAPn.EN.nth n) = true →
                s.rd (pgCat p) (CAT_CHMAPn.SITE.nth n) = i → t.rd (pgCat p) (CAT_S_STAT.SUSPECT.nth i) = 1))
          ∧ (s.running (pgCat p) = false → UnitSpared s t p ∧ (t.cat p).lost = true
            ∧ t.rd (pgCat p) CAT_VEC_LOST.COUNT = min (s.rd (pgCat p) CAT_VEC_LOST.COUNT + 1) (2 ^ 32 - 1)))
    ∧ (v.compared = false → Completes (.failVectorDeliver b ls) s fun t =>
        t.cats = s.cats ∧ UnitSpared s t p ∧ ∀ l, (t.seq l).f = (s.seq l).f)
    ∧ (v.compared = true → 2 ≤ v.gang.length → (s.cat p).gang = [] → Completes (.failVectorDeliver b ls) s fun t =>
        UnitSpared s t p ∧ (t.cat p).gang = [⟨v.gang.headD b, v.run, v.n, [(b, fails)]⟩]
          ∧ (t.seq (v.gang.headD b)).f = ((s.seq (v.gang.headD b)).f
              || decide ((s.seq (v.gang.headD b)).run = v.run
                ∧ fails &&& s.rd (pgSeq (v.gang.headD b)) SEQ_COND_MASK.MASK ≠ 0))))
  ∧ ((∀ (s : State) (b : Nat), b < 16 → Opens s (pgSeq b) 0x40 → s.leader b = b → s.hasRun b = true →
    Completes (.partnerLostDeclare b) s fun t =>
      t.rd (pgSeq b) SEQ_RUN_FLAGS.PARTNER_LOST = 1 ∧ t.rd (pgSeq b) SEQ_RUN.STATE = 3
        ∧ maskBit (t.reg (pgSeq b) 0x08).toNat 13 = true ∧ t.seqs = s.seqs ∧ AnsweredOk t)
  ∧ (∀ (s : State) (l k : Nat) (p : Partner), l < 16 → s.leader l = l → (s.seq l).partners[k]? = some p →
      s.hasRun l = true → p.dev = s.ownDev →
    Completes (.partnerProbe l k) s fun t => t.now = max s.now p.due
      ∧ (t.seq l).partners[k]? = some { p with probe := none, due := max s.now p.due + 128000, stalls := false }
      ∧ (((s.die (p.seq / 4 + 1)).lost = true ∨ 2 ≤ bitsOf (s.probeWord p.seq) 7 4 ∨ p.probe.isSome = true) →
          t.rd (pgSeq l) SEQ_RUN_FLAGS.PARTNER_LOST = 1)
      ∧ ((s.die (p.seq / 4 + 1)).lost = false → bitsOf (s.probeWord p.seq) 7 4 < 2 → p.probe = none →
          t = { s with seqs := t.seqs, now := t.now }))
  ∧ (∀ (s : State) (l k t0 : Nat), l < 16 → s.leader l = l →
      (s.seq l).partners[k]?.bind (·.probe) = some t0 → s.hasRun l = true →
    Completes (.probeTimeout l k) s (fun t =>
      t.rd (pgSeq l) SEQ_RUN_FLAGS.PARTNER_LOST = 1 ∧ (t.seq l).partners[k]?.bind (·.probe) = none
        ∧ t.now = max s.now (t0 + 128000))
    ∧ ∀ a, s.answers.find? (fun a => a.init == 0 && a.num == l * 16 + k) = some a →
        Completes (.probeResponse l k) s fun t =>
          t.answers = s.answers.erase a ∧ (t.seq l).partners[k]?.bind (·.probe) = none
            ∧ ((a.status ≠ 0 ∨ 2 ≤ bitsOf a.data 7 4) → t.rd (pgSeq l) SEQ_RUN_FLAGS.PARTNER_LOST = 1)
            ∧ (a.status = 0 → bitsOf a.data 7 4 < 2 →
                t.rd (pgSeq l) SEQ_RUN_FLAGS.PARTNER_LOST = s.rd (pgSeq l) SEQ_RUN_FLAGS.PARTNER_LOST)))

/-- R114–R117: OP 1 of EDG_WAVE_CMD checks the staged words: a fault shows in STATUS and EVENT with DONE and writes
nothing; a sound one with an empty mask is done at once, another is copied to every channel of the mask by the time
that the command is done. OP 2 reads one waveform into the staging registers; a word of it with an uncorrectable
error counts, and reads as what the memory then holds. A command given while one runs changes nothing but its event.
States completion (Completes c s post: exec c s = next t for a t with post t, under the conditions on the state and
the operands named before it) of 4 commands: waveWrite (WAVE_WRITE), waveRead (WAVE_READ), waveWriteDone
(WAVE_WRITE_DONE), waveReadDone (WAVE_READ_DONE). -/
def Obligations.WaveformCommands : Prop :=
  (∀ (s : State) (b : Nat), b < 16 → Opens s (pgEdg b) 0x108 →
    ((s.bank b).op.isSome = true →
      Completes (.waveWrite b) s (fun t => maskBit (t.reg (pgEdg b) 0x08).toNat 17 = true ∧ t.banks = s.banks ∧ AnsweredOk t)
      ∧ Completes (.waveRead b) s fun t =>
          maskBit (t.reg (pgEdg b) 0x08).toNat 17 = true ∧ t.banks = s.banks ∧ AnsweredOk t)
    ∧ ((s.bank b).op = none →
      (∀ st i, s.waveCheck b (s.staging b) = some (st, i) → Completes (.waveWrite b) s fun t =>
        t.rd (pgEdg b) EDG_WAVE_STAT.STATUS = st ∧ t.rd (pgEdg b) EDG_WAVE_STAT.EVENT = i
          ∧ t.rd (pgEdg b) EDG_WAVE_STAT.DONE_MASK = 0 ∧ maskBit (t.reg (pgEdg b) 0x08).toNat 6 = true
          ∧ t.banks = s.banks ∧ AnsweredOk t)
      ∧ (s.waveCheck b (s.staging b) = none → s.rd (pgEdg b) EDG_WAVE_CHMASK.MASK ≠ 0 → Completes (.waveWrite b) s fun t =>
          t.bank b = { s.bank b with op := some (.write (s.rd (pgEdg b) EDG_WAVE_SEL.TSET)
              (s.rd (pgEdg b) EDG_WAVE_SEL.WAVE) (s.rd (pgEdg b) EDG_WAVE_CHMASK.MASK) (s.staging b) 0) }
            ∧ t.rd (pgEdg b) EDG_WAVE_STAT.STATUS = 0 ∧ (∀ k, k ≠ b → t.bank k = s.bank k) ∧ AnsweredOk t)
      ∧ (s.waveCheck b (s.staging b) = none → s.rd (pgEdg b) EDG_WAVE_CHMASK.MASK = 0 → Completes (.waveWrite b) s fun t =>
          t.banks = s.banks ∧ t.rd (pgEdg b) EDG_WAVE_STAT.STATUS = 0 ∧ t.rd (pgEdg b) EDG_WAVE_STAT.DONE_MASK = 0
            ∧ maskBit (t.reg (pgEdg b) 0x08).toNat 6 = true ∧ AnsweredOk t)
      ∧ Completes (.waveRead b) s fun t =>
          t.bank b = { s.bank b with op := some (.read (s.rd (pgEdg b) EDG_WAVE_SEL.TSET)
              (s.rd (pgEdg b) EDG_WAVE_SEL.WAVE) (s.rd (pgEdg b) EDG_WAVE_SEL.CH)) }
            ∧ t = { s with banks := t.banks, resp := t.resp } ∧ AnsweredOk t))
  ∧ (∀ (s : State) (b ts wv mask k0 : Nat) (ws : List Nat), b < 16 → s.running (pgEdg b) = true →
      (s.bank b).op = some (.write ts wv mask ws k0) → ts < 32 → wv < 16 →
    Completes (.waveWriteDone b) s fun t =>
      (t.bank b).op = none ∧ t.rd (pgEdg b) EDG_WAVE_STAT.DONE_MASK = mask % 2 ^ 16
        ∧ (∀ c k, c < 16 → k < 16 → maskBit mask c = true → (t.bank b).waveWord c ts wv k = ws.getD k 0)
        ∧ (∀ c k ts' wv', c < 16 → k < 16 → ts' < 32 → wv' < 16 →
            (maskBit mask c = false ∨ ts' ≠ ts ∨ wv' ≠ wv) →
            (t.bank b).waveWord c ts' wv' k = (s.bank b).waveWord c ts' wv' k)
        ∧ maskBit (t.reg (pgEdg b) 0x08).toNat 6 = true ∧ (∀ k, k ≠ b → t.bank k = s.bank k))
  ∧ (∀ (s : State) (b ts wv c : Nat) (es : List Ecc), b < 16 → s.running (pgEdg b) = true →
      (s.bank b).op = some (.read ts wv c) →
    Completes (.waveReadDone b es) s fun t =>
      t.bank b = { s.bank b with op := none, wave := (t.bank b).wave }
        ∧ (∀ k, k < 16 → t.rdPair (pgEdg b) (EDG_WAVE_EVk_LO.WORD.nth k) (EDG_WAVE_EVk_HI.WORD.nth k)
            = (t.bank b).waveWord c ts wv k % 2 ^ 64)
        ∧ (∀ k, k < 16 → es.getD k .clean ≠ .fatal →
            (t.bank b).waveWord c ts wv k = (s.bank b).waveWord c ts wv k)
        ∧ t.rd (pgEdg b) EDG_WAVE_STAT.STATUS = 0 ∧ maskBit (t.reg (pgEdg b) 0x08).toNat 6 = true
        ∧ ((∃ k, k < 16 ∧ es.getD k .clean = .fatal) → t.rd (pgEdg b) EDG_ECC.FATAL = 1)
        ∧ ((∀ k, k < 16 → es.getD k .clean ≠ .fatal) →
            (t.bank b).wave = (s.bank b).wave ∧ t.rd (pgEdg b) EDG_ECC.FATAL = s.rd (pgEdg b) EDG_ECC.FATAL))

/-- R108, R122: a read of EDG_TS_FIFO returns the oldest record and removes it, and 0 of an empty queue. R118, R120:
an exchange, 1,280,000 G after the last one, changes the active copy of every line of a bank but those whose other
copy failed, whose channels are marked; a line that has gone too long without calibration sets its event once. Both
times leave out the jumps of the count at alignments (log entry 131). R167–R169: a write of WFT_TBL_DATA puts the
low bits of its word into the entry that WFT_TBL_ADDR selects and leaves every other entry; a read returns it, or
what an entry with an uncorrectable error then holds. Either advances INDEX with AUTOINC, within the eight low bits
in the topology table. A write while the sequencer is busy is refused; with TBL 3 there is no entry. That a refused
write leaves INDEX, and that INDEX advances with TBL 3, are the model's choices (log entries 148, 149). States
completion (Completes c s post: exec c s = next t for a t with post t, under the conditions on the state and the
operands named before it) of 5 commands: tsFifoPop (TS_FIFO_POP), calExchange (CAL_EXCHANGE), calStale (CAL_STALE),
wftTblWrite (WFT_TBL_WRITE), wftTblRead (WFT_TBL_READ). -/
def Obligations.StampsCalibrationAndWeftTables : Prop :=
  ((∀ (s : State) (b : Nat), b < 16 → Opens s (pgEdg b) 0x300 →
    Completes (.tsFifoPop b) s fun t =>
      t.bank b = { s.bank b with tsq := (s.bank b).tsq.tail } ∧ AnsweredOk t ((s.bank b).tsq.headD 0)
        ∧ ((s.bank b).tsq.length ≤ 256 → t.rd (pgEdg b) EDG_TS_LEVEL.COUNT = (s.bank b).tsq.tail.length)
        ∧ (∀ k, k ≠ b → t.bank k = s.bank k) ∧ t = { s with banks := t.banks, regs := t.regs, resp := t.resp })
  ∧ (∀ (s : State) (b failed : Nat), b < 16 → s.pageDomain (pgEdg b) = 0 → (s.die (b / 4 + 1)).lost = false →
      s.clocksOnFor (pgEdg b) = true →
    Completes (.calExchange b failed) s fun t =>
      t.now = s.now + ((s.bank b).calDue - s.elapsed) ∧ (t.bank b).calDue = t.elapsed + 1280000
        ∧ (∀ i, i < 48 → maskBit (t.bank b).copies i = (maskBit (s.bank b).copies i ^^ !maskBit failed i))
        ∧ (∀ i, i < 48 → (t.bank b).lastCal.getD i 0
            = if maskBit failed i then (s.bank b).lastCal.getD i 0 else t.elapsed)
        ∧ (∀ i, i < 48 → maskBit failed i = true → t.rd (pgEdg b) (EDG_CHn_STAT.CAL_FAIL.nth (i / 3)) = 1)
        ∧ ((t.bank b).stale = true → 5120000 ≤ t.calAge b)
        ∧ (t.bank b).wave = (s.bank b).wave ∧ t = { s with banks := t.banks, regs := t.regs, now := t.now })
  ∧ (∀ (s : State) (b : Nat), b < 16 → 5120000 ≤ s.calAge b → (s.bank b).stale = false →
    Completes (.calStale b) s fun t =>
      t.bank b = { s.bank b with stale := true } ∧ maskBit (t.reg (pgEdg b) 0x08).toNat 14 = true
        ∧ ∀ k, k ≠ b → t.bank k = s.bank k))
  ∧ ((∀ (s : State) (b v : Nat), b < 16 → Opens s (pgWft b) 0x104 → s.seqBusy b = false →
    Completes (.wftTblWrite b v) s fun t =>
      (s.rd (pgWft b) WFT_TBL_ADDR.TBL = 3 → t.weftTab = s.weftTab)
        ∧ (s.rd (pgWft b) WFT_TBL_ADDR.TBL ≠ 3 →
            t.weftEntry b (s.weftSel b).1 (s.weftSel b).2
                = (if s.rd (pgWft b) WFT_TBL_ADDR.TBL = 2 then v % 4 else v % 4096)
              ∧ ∀ k, k ≠ weftKey b (s.weftSel b).1 (s.weftSel b).2 → t.weftTab.find k = s.weftTab.find k)
        ∧ t.rd (pgWft b) WFT_TBL_ADDR.INDEX
            = (if s.on (pgWft b) WFT_TBL_ADDR.AUTOINC = false then s.rd (pgWft b) WFT_TBL_ADDR.INDEX
              else if s.rd (pgWft b) WFT_TBL_ADDR.TBL = 2 then
                s.rd (pgWft b) WFT_TBL_ADDR.INDEX / 256 * 256 + (s.rd (pgWft b) WFT_TBL_ADDR.INDEX + 1) % 256
              else (s.rd (pgWft b) WFT_TBL_ADDR.INDEX + 1) % 4096)
        ∧ AnsweredOk t ∧ t = { s with weftTab := t.weftTab, regs := t.regs, resp := t.resp })
  ∧ (∀ (s : State) (b v : Nat), b < 16 → Opens s (pgWft b) 0x104 → s.seqBusy b = true →
    Completes (.wftTblWrite b v) s fun t =>
      t.weftTab = s.weftTab ∧ t.reg (pgWft b) WFT_TBL_ADDR.INDEX.off = s.reg (pgWft b) WFT_TBL_ADDR.INDEX.off
        ∧ maskBit (t.reg (pgWft b) 0x08).toNat 8 = true ∧ AnsweredOk t)
  ∧ (∀ (s : State) (b : Nat) (e : Ecc), b < 16 → Opens s (pgWft b) 0x104 →
    Completes (.wftTblRead b e) s fun t =>
      AnsweredOk t (if s.rd (pgWft b) WFT_TBL_ADDR.TBL = 3 then 0 else t.weftEntry b (s.weftSel b).1 (s.weftSel b).2)
        ∧ (e ≠ .fatal → t.weftTab = s.weftTab)
        ∧ (∀ k, k ≠ weftKey b (s.weftSel b).1 (s.weftSel b).2 → t.weftTab.find k = s.weftTab.find k)
        ∧ (s.on (pgWft b) WFT_TBL_ADDR.AUTOINC = false →
            t.rd (pgWft b) WFT_TBL_ADDR.INDEX = s.rd (pgWft b) WFT_TBL_ADDR.INDEX)
        ∧ (s.on (pgWft b) WFT_TBL_ADDR.AUTOINC = true → s.rd (pgWft b) WFT_TBL_ADDR.TBL ≠ 2 →
            t.rd (pgWft b) WFT_TBL_ADDR.INDEX = (s.rd (pgWft b) WFT_TBL_ADDR.INDEX + 1) % 4096)
        ∧ (s.on (pgWft b) WFT_TBL_ADDR.AUTOINC = true → s.rd (pgWft b) WFT_TBL_ADDR.TBL = 2 →
            t.rd (pgWft b) WFT_TBL_ADDR.INDEX
              = s.rd (pgWft b) WFT_TBL_ADDR.INDEX / 256 * 256 + (s.rd (pgWft b) WFT_TBL_ADDR.INDEX + 1) % 256)
        ∧ (e = .fatal → s.rd (pgWft b) WFT_TBL_ADDR.TBL ≠ 3 → t.rd (pgWft b) WFT_ECC.FATAL = 1)))

/-- R179: writes to the set and clear registers of a panel's site masks mask and unmask exactly the sites that they
name, in the mask and in the sites' status. R189, R194: the commands of a catch unit start when none runs, the
clearing ones only with idle sequencers; refused, they change nothing but STATUS and the event. When a clearing
command is done its counters, sites or tallies are 0 and the unit is idle with DONE. R185, R188: a write-back sends
the bits of the line that goes next; the merge's acknowledgement frees the line that has no new bits; LINE_EXHAUSTED
leaves the line with its bits, to go again in another budget period; any other error drops them and marks the site.
States completion (Completes c s post: exec c s = next t for a t with post t, under the conditions on the state and
the operands named before it) of 9 commands: catMaskSet (CAT_MASK_SET), catMaskClear (CAT_MASK_CLEAR), flush
(FLUSH), clearSites (CLEAR_SITES), clearTally (CLEAR_TALLY), clearCounters (CLEAR_COUNTERS), catCmdDone
(CAT_CMD_DONE), cacheWriteback (CACHE_WRITEBACK), mergeAck (MERGE_ACK). -/
def Obligations.CatchUnitCommands : Prop :=
  (∀ (s : State) (p v : Nat) (hi : Bool), panelOk p = true → Opens s (pgCat p) 0x70 →
    (Completes (.catMaskSet p hi v) s fun t =>
      (∀ k, k < 32 → maskBit (t.rd (pgCat p) (if hi then CAT_MASK_HI.MASK else CAT_MASK_LO.MASK)) k
          = (maskBit (s.rd (pgCat p) (if hi then CAT_MASK_HI.MASK else CAT_MASK_LO.MASK)) k || maskBit v k))
        ∧ t.rd (pgCat p) (if hi then CAT_MASK_LO.MASK else CAT_MASK_HI.MASK)
            = s.rd (pgCat p) (if hi then CAT_MASK_LO.MASK else CAT_MASK_HI.MASK)
        ∧ (∀ i, i < 64 → t.rd (pgCat p) (CAT_S_STAT.MASKED.nth i)
            = if i ∈ sitesOf hi v then 1 else s.rd (pgCat p) (CAT_S_STAT.MASKED.nth i))
        ∧ (sitesOf hi v ≠ [] → maskBit (t.reg (pgCat p) 0x08).toNat 13 = true)
        ∧ AnsweredOk t ∧ t.cats = s.cats)
    ∧ Completes (.catMaskClear p hi v) s fun t =>
      (∀ k, k < 32 → maskBit (t.rd (pgCat p) (if hi then CAT_MASK_HI.MASK else CAT_MASK_LO.MASK)) k
          = (maskBit (s.rd (pgCat p) (if hi then CAT_MASK_HI.MASK else CAT_MASK_LO.MASK)) k && !maskBit v k))
        ∧ t.rd (pgCat p) (if hi then CAT_MASK_LO.MASK else CAT_MASK_HI.MASK)
            = s.rd (pgCat p) (if hi then CAT_MASK_LO.MASK else CAT_MASK_HI.MASK)
        ∧ (∀ i, i < 64 → t.rd (pgCat p) (CAT_S_STAT.MASKED.nth i)
            = if i ∈ sitesOf hi v then 0 else s.rd (pgCat p) (CAT_S_STAT.MASKED.nth i))
        ∧ (∀ i ∈ sitesOf hi v, maskBit (s.rdPair (pgCat p) CAT_MASK_LO.MASK CAT_MASK_HI.MASK) i = true →
            (t.cat p).unmaskAt.getD i 0 = s.now)
        ∧ AnsweredOk t ∧ t = { s with regs := t.regs, cats := t.cats, resp := t.resp })
  ∧ ((∀ (s : State) (p : Nat), panelOk p = true → Opens s (pgCat p) 0x40 →
    ((s.cat p).op = none →
      Completes (.flush p) s (fun t => ((s.cat p).lines ≠ [] →
        (t.cat p) = { s.cat p with op := some (.flush ((s.cat p).lines.map fun e => (e.1, e.2.bits ||| e.2.sent))) }
          ∧ t.rd (pgCat p) PAGE_LEVEL.BUSY = 1
          ∧ t.rd (pgCat p) CAT_CMD_STAT.LEFT = (s.cat p).lines.length % 2 ^ 20) ∧ AnsweredOk t)
      ∧ (s.panelBusy p = false →
        Completes (.clearSites p) s (fun t =>
          t.cat p = { s.cat p with op := some (.clearSites (s.rdPair (pgCat p) CAT_CMD_SITES_LO.SITES CAT_CMD_SITES_HI.SITES)) }
            ∧ t.rd (pgCat p) PAGE_LEVEL.BUSY = 1 ∧ t.rd (pgCat p) CAT_CMD_STAT.STATUS = 0 ∧ AnsweredOk t)
        ∧ Completes (.clearTally p) s (fun t =>
          t.cat p = { s.cat p with op := some (.clearTally (s.rd (pgCat p) CAT_TCLR_BASE.VALUE % 2 ^ 20)
              (min (s.rd (pgCat p) CAT_TCLR_BASE.VALUE % 2 ^ 20 + s.rd (pgCat p) CAT_TCLR_LEN.VALUE) (2 ^ 20))), paceAt := s.now }
            ∧ t.rd (pgCat p) PAGE_LEVEL.BUSY = 1 ∧ t.rd (pgCat p) CAT_CMD_STAT.STATUS = 0 ∧ AnsweredOk t)
        ∧ Completes (.clearCounters p) s fun t =>
          t.cat p = { s.cat p with op := some .clearCounters }
            ∧ t.rd (pgCat p) PAGE_LEVEL.BUSY = 1 ∧ t.rd (pgCat p) CAT_CMD_STAT.STATUS = 0 ∧ AnsweredOk t)
      ∧ (s.panelBusy p = true → ∀ c ∈ [Instr.clearSites p, .clearTally p, .clearCounters p], Completes c s fun t =>
          t.cats = s.cats ∧ t.rd (pgCat p) CAT_CMD_STAT.STATUS = 1
            ∧ maskBit (t.reg (pgCat p) 0x08).toNat 14 = true ∧ AnsweredOk t))
    ∧ ((s.cat p).op.isSome = true → ∀ c ∈ [Instr.flush p, .clearSites p, .clearTally p, .clearCounters p],
        Completes c s fun t => t.cats = s.cats ∧ maskBit (t.reg (pgCat p) 0x08).toNat 14 = true ∧ AnsweredOk t))
  ∧ (∀ (s : State) (p : Nat), panelOk p = true → s.running (pgCat p) = true →
    (∀ lo hi, (s.cat p).op = some (.clearTally lo hi) → Completes (.catCmdDone p) s fun t =>
      t.cat p = { s.cat p with op := none, tally := (s.cat p).tally.clear lo hi }
        ∧ (∀ k, lo ≤ k → k < hi → (t.cat p).tally.getD k 0 = 0)
        ∧ t.now = max s.now ((s.cat p).paceAt / 8 * 8 + ceilTo 8 (hi - lo))
        ∧ t.rd (pgCat p) PAGE_LEVEL.BUSY = 0 ∧ maskBit (t.reg (pgCat p) 0x08).toNat 6 = true)
    ∧ ((s.cat p).op = some .clearCounters → Completes (.catCmdDone p) s fun t =>
      t.cat p = { s.cat p with op := none }
        ∧ (∀ n, n < 64 → t.rdPair (pgCat p) (CAT_FCNTn_LO.COUNT.nth n) (CAT_FCNTn_HI.COUNT.nth n) = 0)
        ∧ t.rd (pgCat p) CAT_CACHE_PEAK.LINES = 0 ∧ t.rd (pgCat p) PAGE_LEVEL.BUSY = 0
        ∧ maskBit (t.reg (pgCat p) 0x08).toNat 6 = true)
    ∧ (∀ m, (s.cat p).op = some (.clearSites m) → Completes (.catCmdDone p) s fun t =>
      (t.cat p).op = none
        ∧ (∀ i, i < 64 → maskBit m i = true → t.rd (pgCat p) (CAT_S_STAT.MASKED.nth i) = 0
            ∧ t.reg (pgCat p) (0x3000 + 0x40 * i) = 0)
        ∧ t.rd (pgCat p) PAGE_LEVEL.BUSY = 0 ∧ maskBit (t.reg (pgCat p) 0x08).toNat 6 = true))
  ∧ (∀ (s u : State) (p a : Nat) (l : CatLine), panelOk p = true → s.running (pgCat p) = true →
      s.nextMerge p = some (a, l) → (s.cat p).logq = [] →
      s.memSend ⟨catInit p, 0, false, a, false⟩ (.merge l.bits) 64 = (.go, u) →
    Completes (.cacheWriteback p) s fun t =>
      (t.cat p).lines.find a = some { l with out := true, sent := l.bits, bits := 0 }
        ∧ (t.cat p).flight = (s.cat p).flight ++ [(a, l.bits, false)] ∧ ∀ k, k ≠ p → t.cat k = s.cat k)
  ∧ (∀ (s : State) (p a bits : Nat) (rest : List (Nat × Nat × Bool)) (l : CatLine), panelOk p = true →
      (s.cat p).flight = (a, bits, false) :: rest → s.memWaits ⟨catInit p, 0, false, a, false⟩ = none →
      s.running (pgCat p) = true → (s.cat p).lines.find a = some l → l.out = true → l.site < 64 →
      ∀ st, st = ((s.setCat p { s.cat p with flight := rest }).memGo ⟨catInit p, 0, false, a, false⟩ (.merge bits)).1.1 →
    Completes (.mergeAck p []) s fun t =>
      (t.cat p).flight = rest
        ∧ (st = .ok → (t.cat p).lines.find a
            = if l.bits = 0 then none else some { l with out := false, sent := 0, retry := none })
        ∧ (st = .lineExhausted → ∃ n, (t.cat p).lines.find a
            = some { l with out := false, bits := l.bits ||| l.sent, sent := 0, retry := some n })
        ∧ (st ≠ .ok → st ≠ .lineExhausted →
            (t.cat p).lines.find a = none ∧ t.rd (pgCat p) (CAT_S_STAT.MAP_ERR.nth l.site) = 1)))

/-! ### Shuttle engines -/

/-- R239, R244–R252: the word of every instruction that the formats admit decodes to that instruction, with every
operand at every value; and every word that decodes is the word of its instruction, so no bit of a word is dropped. -/
def Obligations.ShuttleWordsAndInstructionsAgree : Prop :=
  (∀ i : ShuInstr, i.wf = true → encodeShu i < 2 ^ 48 ∧ decodeShu (encodeShu i) = some i)
  ∧ (∀ (w : Nat) (i : ShuInstr), w < 2 ^ 48 → decodeShu w = some i → i.wf = true ∧ encodeShu i = w)

/-- R213, R214, R245, R246: the result and the flags of every accumulator operation, as numbers: 2·x·y for the
multiplies, wrapped to 56 bits with V, the carry or borrow in C, S set by an overflow but for CMP; the two parallel
moves read the engine as the instruction found it. A multiply of an accumulator, and a parallel load into D of an
operation that writes D, end the run with cause 4. States completion (Completes c s post: exec c s = next t for a t
with post t, under the conditions on the state and the operands named before it) of 15 commands: xfer (XFER), cmp
(CMP), mul (MUL), muln (MULN), madd (MADD), msub (MSUB), add (ADD), sub (SUB), zero (ZERO), copy (COPY), neg (NEG),
abs (ABS), shl (SHL), shr (SHR), max (MAX). -/
def Obligations.AccumulatorOperations : Prop :=
  (∀ (s : State) (e n op d s1 s2 : Nat) (m0 m1 : Option ParMove), s.engAt e (.par op d s1 s2 m0 m1) →
    let x := s.eng e
    let D : Int := signed 56 (x.get (cA d))
    let A : Int := x.srcNum s1
    let P : Int := 2 * signed 24 (x.get s1) * signed 24 (x.get s2)
    (op = 0 → Completes (.xfer e n []) s fun t => ∃ y : EngX,
      t = (s.slotStall e n).engNext e y x.late 1 ∧ y = { ((s.slotStall e n).eng e).parBase m0 m1 with r := y.r }
        ∧ (∀ k, k ≠ cSR → y.get k = (x.parBase m0 m1).get k)
        ∧ y.sr = if x.parSat m0 || x.parSat m1 then maskSet x.sr fS true else x.sr)
    ∧ (op = 8 → Completes (.cmp e n []) s fun t =>
        ParDone s t e n d m0 m1 ((x.parBase m0 m1).get (cA d)) (unsign 56 (D - A))
          (decide (unsign 56 D < unsign 56 A)) (decide (D - A < -2 ^ 55 ∨ 2 ^ 55 ≤ D - A)) false)
    ∧ (loadsAcc d m0 = false → loadsAcc d m1 = false →
      (op = 1 → s1 < 8 → Completes (.mul e n []) s fun t =>
        ParDone s t e n d m0 m1 (unsign 56 P) (unsign 56 P) false false true)
      ∧ (op = 2 → s1 < 8 → Completes (.muln e n []) s fun t =>
        ParDone s t e n d m0 m1 (unsign 56 (-P)) (unsign 56 (-P)) false false true)
      ∧ (op = 3 → s1 < 8 → Completes (.madd e n []) s fun t =>
        ParDone s t e n d m0 m1 (unsign 56 (D + P)) (unsign 56 (D + P))
          (decide (2 ^ 56 ≤ unsign 56 D + unsign 56 P)) (decide (D + P < -2 ^ 55 ∨ 2 ^ 55 ≤ D + P)) true)
      ∧ (op = 4 → s1 < 8 → Completes (.msub e n []) s fun t =>
        ParDone s t e n d m0 m1 (unsign 56 (D - P)) (unsign 56 (D - P))
          (decide (unsign 56 D < unsign 56 P)) (decide (D - P < -2 ^ 55 ∨ 2 ^ 55 ≤ D - P)) true)
      ∧ (op = 5 → Completes (.add e n []) s fun t =>
        ParDone s t e n d m0 m1 (unsign 56 (D + A)) (unsign 56 (D + A))
          (decide (2 ^ 56 ≤ unsign 56 D + unsign 56 A)) (decide (D + A < -2 ^ 55 ∨ 2 ^ 55 ≤ D + A)) true)
      ∧ (op = 6 → Completes (.sub e n []) s fun t =>
        ParDone s t e n d m0 m1 (unsign 56 (D - A)) (unsign 56 (D - A))
          (decide (unsign 56 D < unsign 56 A)) (decide (D - A < -2 ^ 55 ∨ 2 ^ 55 ≤ D - A)) true)
      ∧ (op = 7 → Completes (.zero e n []) s fun t => ParDone s t e n d m0 m1 0 0 false false true)
      ∧ (op = 9 → Completes (.copy e n []) s fun t =>
        ParDone s t e n d m0 m1 (unsign 56 A) (unsign 56 A) false false true)
      ∧ (op = 0xA → Completes (.neg e n []) s fun t =>
        ParDone s t e n d m0 m1 (unsign 56 (-D)) (unsign 56 (-D)) (decide (D ≠ 0)) (decide (D = -2 ^ 55)) true)
      ∧ (op = 0xB → Completes (.abs e n []) s fun t =>
        ParDone s t e n d m0 m1 (unsign 56 (D.natAbs : Int)) (unsign 56 (D.natAbs : Int)) false (decide (D = -2 ^ 55)) true)
      ∧ (op = 0xC → Completes (.shl e n []) s fun t =>
        ParDone s t e n d m0 m1 (unsign 56 (2 * D)) (unsign 56 (2 * D)) (decide (D < 0))
          (decide (2 * D < -2 ^ 55 ∨ 2 ^ 55 ≤ 2 * D)) true)
      ∧ (op = 0xD → Completes (.shr e n []) s fun t =>
        ParDone s t e n d m0 m1 (unsign 56 (D / 2)) (unsign 56 (D / 2)) (decide (D % 2 = 1)) false true)
      ∧ (op = 0xE → Completes (.max e n []) s fun t =>
        ParDone s t e n d m0 m1 (if D < A then unsign 56 A else x.get (cA d))
          (if D < A then unsign 56 A else x.get (cA d)) (decide (D < A)) false true)))
  ∧ (∀ (s : State) (e n op d s1 s2 : Nat) (m0 m1 : Option ParMove) (c : Nat → Nat → List Ecc → Instr),
      (op, c) ∈ [(1, Instr.mul), (2, .muln), (3, .madd), (4, .msub), (5, .add), (6, .sub), (7, .zero), (9, .copy), (0xA, .neg),
        (0xB, .abs), (0xC, .shl), (0xD, .shr), (0xE, .max)] →
      s.engAt e (.par op d s1 s2 m0 m1) → ((op ≤ 4 ∧ 8 ≤ s1) ∨ loadsAcc d m0 = true ∨ loadsAcc d m1 = true) →
    Completes (c e n []) s fun t => t = (s.slotStall e n).engEnd e 4)

/-- R241, R247–R249, R219–R221: the moves of the R format. A value goes between registers as a word, whole only
between accumulators; addressing registers and loaded words take their new value one instruction late; LDM and STM
access the data word at the pointer and step it; ADDA steps addressing registers only. LDC and STC wait for the
cluster's bank, noting whether another engine's lock or another engine at the bank holds them up, and the grant in
the bank's turn moves the part of the word that SIZE names; PIO acts as a host access does, on the page's CRC too.
States completion (Completes c s post: exec c s = next t for a t with post t, under the conditions on the state and
the operands named before it) of 10 commands: move (MOVE), movi (MOVI), adda (ADDA), ldm (LDM), stm (STM), ldc
(LDC), stc (STC), pioRead (PIO_READ), pioWrite (PIO_WRITE), clusterMemGrant (CLUSTER_MEM_GRANT). -/
def Obligations.MovesLoadsAndStores : Prop :=
  (∀ (s : State) (e n : Nat), let x := s.eng e
    let u := s.slotStall e n
    let w := u.eng e
    (∀ d c, s.engAt e (.move d c) →
      (8 ≤ d ∧ d < 12 ∧ 8 ≤ c ∧ c < 12 → Completes (.move e n []) s fun t => ∃ y : EngX,
        t = u.engNext e y x.late 1 ∧ y = { w with r := y.r } ∧ y.get d = x.get c
          ∧ ∀ k, k ≠ d → y.get k = x.get k)
      ∧ (¬ (8 ≤ d ∧ d < 12 ∧ 8 ≤ c ∧ c < 12) → Completes (.move e n []) s fun t =>
        t = u.engNext e ((w.take c).2.write d (x.word c).1) x.late 1))
    ∧ (∀ d v, s.engAt e (.movi d v) → Completes (.movi e n []) s fun t => ∃ y : EngX,
        t = u.engNext e y x.late 1 ∧ y = w.write d v
          ∧ (d < 8 → y.get d = v % 2 ^ 24 ∧ y.late = x.late)
          ∧ (8 ≤ d → d < 12 → signed 56 (y.get d) = signed 24 v * 2 ^ 24 ∧ y.late = x.late)
          ∧ (0x18 ≤ d → d < 0x38 → y.r = x.r ∧ y.late = x.late ++ [(d, v, false)]))
    ∧ (∀ d circ v, s.engAt e (.adda d circ v) →
        (0x18 ≤ d → d < 0x38 → circ = false → Completes (.adda e n []) s fun t =>
          t = u.engNext e { w with late := x.late ++ [(d, (x.get d + v) % 65536, false)] } x.late 1)
        ∧ (0x18 ≤ d → d < 0x20 → circ = true → Completes (.adda e n []) s fun t =>
          t = u.engNext e { w with late := x.late ++ [(d, x.stepped (d - 0x18) (x.get d) (signed 16 v), false)] } x.late 1)
        ∧ ((d < 0x18 ∨ 0x38 ≤ d ∨ (circ = true ∧ 0x20 ≤ d)) → Completes (.adda e n []) s fun t => t = u.engEnd e 4))
    ∧ (∀ r p c, s.engAt e (.mem false r p c) → Completes (.ldm e n []) s fun t =>
        t = u.engNext e { w.post p c with late := x.late ++ [(r, x.load (x.get (cP p)), true)] } x.late 1
          ∧ (t.eng e).late = [(r, x.load (x.get (cP p)), true)] ∧ (t.eng e).data = x.data)
    ∧ (∀ r p c, s.engAt e (.mem true r p c) → Completes (.stm e n []) s fun t =>
        (t.eng e).load (x.get (cP p)) = (x.word r).1 % 2 ^ 24
          ∧ (∀ a, a < 65536 → a ≠ x.get (cP p) % 65536 → (t.eng e).load a = x.load a)
          ∧ (∀ k, k ≠ e → t.eng k = s.eng k) ∧ t = { s with engs := t.engs })
    ∧ (∀ r p c z, s.engAt e (.clu false r p c z) → Completes (.ldc e n []) s fun t =>
        t.eng e = { w with wait := some (.mem (.clu false r p c z)), contend := !s.cluOpen e, got := []
                           crowd := (List.range 16).any fun i => i != e % 16 && s.bankWants (e / 16 * 16 + i) (x.cluAddr p % 16) }
          ∧ t = { s with engs := t.engs } ∧ ∀ k, k ≠ e → t.eng k = s.eng k)
    ∧ (∀ r p c z, s.engAt e (.clu true r p c z) → Completes (.stc e n []) s fun t =>
        t.eng e = { w with wait := some (.mem (.clu true r p c z)), contend := !s.cluOpen e, got := []
                           crowd := (List.range 16).any fun i => i != e % 16 && s.bankWants (e / 16 * 16 + i) (x.cluAddr p % 16) }
          ∧ t = { s with engs := t.engs } ∧ ∀ k, k ≠ e → t.eng k = s.eng k)
    ∧ (∀ r per, s.engAt e (.pio false r per) → Completes (.pioRead e n []) s fun t =>
        t = u.engNext e (w.write r (u.pioRead e per)) x.late 1)
    ∧ (∀ r per, s.engAt e (.pio true r per) → Completes (.pioWrite e n []) s fun t =>
        ∃ v : State, v = ((u.setEng e (w.take r).2).pioWrite e per (x.word r).1).crcSee u (pgEng e)
          ∧ t = v.engNext e (v.eng e) x.late 1))
  ∧ (∀ (s : State) (e n r p c z : Nat) (st : Bool), (s.eng e).wait = some (.mem (.clu st r p c z)) → e < 256 →
      s.engState e = 1 → s.running (pgEng e) = true → s.cluOpen e = true → (s.eng e).haltAt = none →
      s.bankTurn (e / 16) (e % 16) ((s.eng e).cluAddr p % 16) = true →
    (st = false → Completes (.clusterMemGrant e n []) s fun t =>
      t = (s.bankServe (e / 16) (e % 16) [(s.eng e).cluAddr p % 16]).engNext e (((s.eng e).post p c).write r
          (if z = 0 then s.cluSeen e ((s.eng e).cluAddr p) % 2 ^ 24
          else if z = 1 then s.cluSeen e ((s.eng e).cluAddr p) % 2 ^ 16
          else s.cluSeen e ((s.eng e).cluAddr p) / 2 ^ 16 % 2 ^ 16)) (s.eng e).late ((s.eng e).memStalls n + 1))
    ∧ (st = true → (s.eng e).locked = false → Completes (.clusterMemGrant e n []) s fun t =>
      (z = 0 → t.cluWord (e / 16) ((s.eng e).cluAddr p) = unsign 32 (signed 24 ((s.eng e).word r).1))
        ∧ (z = 1 → t.cluWord (e / 16) ((s.eng e).cluAddr p) % 2 ^ 16 = ((s.eng e).word r).1 % 2 ^ 16
          ∧ t.cluWord (e / 16) ((s.eng e).cluAddr p) / 2 ^ 16 = s.cluWord (e / 16) ((s.eng e).cluAddr p) / 2 ^ 16 % 2 ^ 16)
        ∧ (2 ≤ z → t.cluWord (e / 16) ((s.eng e).cluAddr p) / 2 ^ 16 = ((s.eng e).word r).1 % 2 ^ 16
          ∧ t.cluWord (e / 16) ((s.eng e).cluAddr p) % 2 ^ 16 = s.cluWord (e / 16) ((s.eng e).cluAddr p) % 2 ^ 16)
        ∧ (∀ a, a % 524288 ≠ (s.eng e).cluAddr p % 524288 → t.cluWord (e / 16) a = s.cluWord (e / 16) a))
    ∧ (st = true → (s.eng e).locked = true → Completes (.clusterMemGrant e n []) s fun t =>
      (t.eng e).lockBuf = (s.eng e).lockBuf ++ [.store ((s.eng e).cluAddr p) (stcParts z ((s.eng e).word r).1).1
          (stcParts z ((s.eng e).word r).1).2]
        ∧ ∀ a, t.cluWord (e / 16) a = s.cluWord (e / 16) a))

/-- R243, R250, R251, R255–R257: a branch goes on in its two delay slots and then at its target, or at its address +
3; CALL saves the return address with SR and RET and RTI take it back; a full or empty stack ends the run with cause
5. RPTN and LOOP begin their repetitions, or skip them with COUNT 0. After a plain instruction PC goes on as the
repetition, the delay slots and the innermost loop have it. States completion (Completes c s post: exec c s = next t
for a t with post t, under the conditions on the state and the operands named before it) of 8 commands: bra (BRA),
call (CALL), ret (RET), rti (RTI), rptn (RPTN), loop (LOOP), lpop (LPOP), movi (MOVI). -/
def Obligations.FlowOfControl : Prop :=
  ∀ (s : State) (e n : Nat), let x := s.eng e
    let u := s.slotStall e n
    let goes (t : State) (target : Nat) : Prop :=
      (t.eng e).pc = (x.pc + 1) % 2 ^ 14 ∧ (t.eng e).br = some (2, target) ∧ (t.eng e).loops = x.loops
        ∧ (∀ k, k ≠ e → t.eng k = s.eng k) ∧ t = { s with engs := t.engs }
    (∀ c g, s.engAt e (.bra c g) → Completes (.bra e n []) s fun t =>
      goes t (if condHolds c x.sr then g else (x.pc + 3) % 2 ^ 14) ∧ (t.eng e).calls = x.calls)
    ∧ (∀ c g, s.engAt e (.call c g) →
      (condHolds c x.sr = true → x.calls.length < 16 → Completes (.call e n []) s fun t =>
        goes t g ∧ (t.eng e).calls = ((x.pc + 3) % 2 ^ 14, x.sr) :: x.calls)
      ∧ (condHolds c x.sr = true → 16 ≤ x.calls.length → Completes (.call e n []) s fun t => t = u.engEnd e 5)
      ∧ (condHolds c x.sr = false → Completes (.call e n []) s fun t =>
        goes t ((x.pc + 3) % 2 ^ 14) ∧ (t.eng e).calls = x.calls))
    ∧ (∀ c, s.engAt e (.ret c) →
      (∀ g sr rest, condHolds c x.sr = true → x.calls = (g, sr) :: rest → Completes (.ret e n []) s fun t =>
        goes t g ∧ (t.eng e).calls = rest)
      ∧ (condHolds c x.sr = true → x.calls = [] → Completes (.ret e n []) s fun t => t = u.engEnd e 5)
      ∧ (condHolds c x.sr = false → Completes (.ret e n []) s fun t =>
        goes t ((x.pc + 3) % 2 ^ 14) ∧ (t.eng e).calls = x.calls))
    ∧ (s.engAt e .rti →
      (∀ g sr rest, x.calls = (g, sr) :: rest → Completes (.rti e n []) s fun t =>
        goes t g ∧ (t.eng e).calls = rest ∧ (x.late = [] → (t.eng e).sr = maskSet sr fLK x.locked))
      ∧ (x.calls = [] → Completes (.rti e n []) s fun t => t = u.engEnd e 5))
    ∧ (∀ c, s.engAt e (.rptn c) → Completes (.rptn e n []) s fun t =>
      ((x.immReg 16 c).1 = 0 → (t.eng e).pc = (x.pc + 2) % 2 ^ 14 ∧ (t.eng e).rpt = x.rpt)
        ∧ ((x.immReg 16 c).1 ≠ 0 → (t.eng e).pc = (x.pc + 1) % 2 ^ 14 ∧ (t.eng e).rpt = some (x.immReg 16 c).1)
        ∧ t = { s with engs := t.engs })
    ∧ (∀ g c, s.engAt e (.loop g c) →
      ((x.immReg 16 c).1 = 0 → Completes (.loop e n []) s fun t =>
        (t.eng e).pc = (g + 1) % 2 ^ 14 ∧ (t.eng e).loops = x.loops ∧ t = { s with engs := t.engs })
      ∧ ((x.immReg 16 c).1 ≠ 0 → x.loops.length < 4 → Completes (.loop e n []) s fun t =>
        (t.eng e).pc = (x.pc + 1) % 2 ^ 14
          ∧ (t.eng e).loops = ((x.pc + 1) % 2 ^ 14, g, (x.immReg 16 c).1) :: x.loops ∧ t = { s with engs := t.engs })
      ∧ ((x.immReg 16 c).1 ≠ 0 → 4 ≤ x.loops.length → Completes (.loop e n []) s fun t => t = u.engEnd e 5))
    ∧ (s.engAt e .lpop →
      (∀ l rest, x.loops = l :: rest → (∀ k ∈ rest, k.2.1 ≠ x.pc) → Completes (.lpop e n []) s fun t =>
        (t.eng e).loops = rest ∧ (t.eng e).pc = (x.pc + 1) % 2 ^ 14 ∧ t = { s with engs := t.engs })
      ∧ (x.loops = [] → Completes (.lpop e n []) s fun t => t = u.engEnd e 5))
    ∧ (∀ d v, s.engAt e (.movi d v) → Completes (.movi e n []) s fun t =>
      (∀ k, x.rpt = some (k + 2) → (t.eng e).pc = x.pc ∧ (t.eng e).rpt = some (k + 1))
        ∧ ((∀ k, x.rpt ≠ some (k + 2)) → (t.eng e).rpt = none
          ∧ (∀ k g, x.br = some (k + 2, g) → (t.eng e).pc = (x.pc + 1) % 2 ^ 14 ∧ (t.eng e).br = some (k + 1, g))
          ∧ (∀ g, x.br = some (1, g) → (t.eng e).pc = g ∧ (t.eng e).br = none)
          ∧ (x.br = none → x.loops = [] → (t.eng e).pc = (x.pc + 1) % 2 ^ 14)
          ∧ (∀ a k rest, x.br = none → x.loops = (a, x.pc, k + 2) :: rest →
              (t.eng e).pc = a ∧ (t.eng e).loops = (a, x.pc, k + 1) :: rest)
          ∧ (∀ a z k rest, x.br = none → x.loops = (a, z, k) :: rest → z ≠ x.pc →
              (t.eng e).pc = (x.pc + 1) % 2 ^ 14 ∧ (t.eng e).loops = x.loops)))

/-- R225–R228, R233, R235, R239, R252, R253: STOP ends the run with cause 1 and an undefined word with cause 4; KICK
reloads the watchdog; SIGNAL pends bit 4 of an engine of the cluster; WAITI waits. LOCK takes the free lock or waits
its turn; UNLOCK lets the stores that were held back be seen by all, sends the pushes, and frees the lock. SPUSH
waits for the bank and SPOP for its answer; the answers give the push status, or the cell with its status word.
States completion (Completes c s post: exec c s = next t for a t with post t, under the conditions on the state and
the operands named before it) of 13 commands: stop (STOP), undefinedInstruction (UNDEFINED_INSTRUCTION), kick
(KICK), signal (SIGNAL), waiti (WAITI), lock (LOCK), lockGrant (LOCK_GRANT), unlock (UNLOCK), spush (SPUSH), spop
(SPOP), spflush (SPFLUSH), spushResponse (SPUSH_RESPONSE), spopResponse (SPOP_RESPONSE). -/
def Obligations.SystemInstructions : Prop :=
  (∀ (s : State) (e n : Nat), let x := s.eng e
    let c := e / 16
    (s.engAt e .halt → Completes (.stop e n []) s fun t =>
      t.engState e = 2 ∧ t.eRd e SHU_En_STAT.CAUSE = 1 ∧ maskBit (t.reg (pgShu c) 0x08).toNat 6 = true)
    ∧ (x.instr = none → s.engGo e = true → Completes (.undefinedInstruction e n []) s fun t =>
      t.engState e = 2 ∧ t.eRd e SHU_En_STAT.CAUSE = 4 ∧ maskBit (t.reg (pgShu c) 0x08).toNat 8 = true)
    ∧ (s.engAt e .kick → Completes (.kick e n []) s fun t =>
      (t.eng e).wd = 0 ∧ (t.eng e).wdAt = x.cyc + x.slotCycles n ∧ t = { s with engs := t.engs } ∧ ∀ k, k ≠ e → t.eng k = s.eng k)
    ∧ (∀ j, s.engAt e (.signal j) → j < 16 → Completes (.signal e n []) s fun t =>
      t.eRd (16 * c + j) SHU_En_INT_PEND.PEND = maskSet (s.eRd (16 * c + j) SHU_En_INT_PEND.PEND) 4 true
        ∧ t = { s with engs := t.engs, regs := t.regs })
    ∧ (s.engAt e .waiti → Completes (.waiti e n []) s fun t =>
      t.eng e = { (s.slotStall e n).eng e with wait := some .irq, contend := !s.cluOpen e, got := [], crowd := false } ∧ t = { s with engs := t.engs })
    ∧ (s.engAt e .lock → (s.clu c).owner = none → s.lockNext c = none → Completes (.lock e n []) s fun t =>
      (t.clu c).owner = some (e % 16) ∧ (t.eng e).locked = true ∧ (t.eng e).lockPc = x.pc ∧ (t.eng e).lockBuf = []
        ∧ (t.eng e).lockCnt = 0 ∧ t.rd (pgShu c) SHU_CL_LOCK.HELD = 1 ∧ t.rd (pgShu c) SHU_CL_LOCK.OWNER = e % 16)
    ∧ (s.engAt e .lock → ((s.clu c).owner ≠ none ∨ s.lockNext c ≠ none) → Completes (.lock e n []) s fun t =>
      (t.eng e).wait = some .lock ∧ (t.eng e).pc = x.pc ∧ t.clus = s.clus)
    ∧ (e < 256 → s.running (pgShu c) = true → s.engState e = 1 → (s.clu c).owner = none → s.lockNext c = some (e % 16) →
      Completes (.lockGrant e n) s fun t =>
        (t.clu c).owner = some (e % 16) ∧ (t.eng e).locked = true ∧ (t.eng e).wait = none ∧ (t.eng e).lockPc = x.pc)
    ∧ (s.engAt e .unlock → (∀ a m v, .store a m v ∈ x.lockBuf → a < 524288) → (s.clu c).owed = [] →
      Completes (.unlock e n []) s fun t => (∀ a, a < 524288 → t.cluWord c a = s.cluSeen e a)
        ∧ (((t.clu c).owner = none ∧ (t.eng e).locked = false ∧ (t.eng e).lockBuf = [] ∧ (t.eng e).wait = none)
          ∨ ((t.clu c).owner = (s.clu c).owner ∧ (t.eng e).lockBuf ≠ [] ∧ (t.eng e).wait = some .unlock
            ∧ (t.eng e).pc = x.pc))
        ∧ ((∀ h f l cell, .push h f l cell ∉ x.lockBuf) → (t.eng e).lockBuf = [])
        ∧ (4 ≤ s.spOut e → (∃ h f l cell, .push h f l cell ∈ x.lockBuf) → (t.eng e).wait = some .unlock))
    ∧ (∀ p k f l h, s.engAt e (.spush p k f l h) → Completes (.spush e n []) s fun t =>
      t.eng e = { (s.slotStall e n).eng e with
            wait := some (.mem (.spush p k f l h)), contend := !s.cluOpen e, got := []
            crowd := (List.range 16).any fun i =>
              i != e % 16 && (x.cellAddrs p).any fun a => s.bankWants (e / 16 * 16 + i) (a % 16) }
        ∧ t = { s with engs := t.engs })
    ∧ (∀ p k d h, s.engAt e (.spop p k d h) → Completes (.spop e n []) s fun t =>
      (t.eng e).wait = some (.pop (.spop p k d h)) ∧ (t.eng e).pc = x.pc
        ∧ (∃ o, ⟨e % 16, (x.immReg 13 h).1, .pop, false, o⟩ ∈ (t.clu c).sps) ∧ ∀ k, k ≠ e → t.eng k = s.eng k)
    ∧ (∀ h, s.engAt e (.spflush h) → Completes (.spflush e n []) s fun t =>
        (t.eng e).wait = none ∧ (∀ k, k ≠ e → t.eng k = s.eng k)
          ∧ ∀ v, (s.clu c).sps = [] → ((s.clu c).owner = none ∨ (s.clu c).owner = some (e % 16)) →
              s.spIssue (cluInit c) (spFlush (x.immReg 13 h).1) = (.go, v) →
            (t.clu c).sps = [] ∧ t.spls = (v.spoolFlush (x.immReg 13 h).1 (cluInit c)).2.spls))
  ∧ (∀ (s : State) (e : Nat) (r : SpReq) (rest : List SpReq), e < 256 → s.running (pgShu (e / 16)) = true →
      (s.clu (e / 16)).sps = r :: rest → r.eng = e % 16 → r.sink = false → r.out = true →
      (∀ q ∈ rest, q.op ≠ .flush ∧ q.out = true) → s.spCircles (cluInit (e / 16)) r.h = false →
    (∀ f l cell n, r.op = .push f l cell → (s.eng e).wait = none →
      Completes (.spushResponse e n) s fun t =>
        ∃ a u, (s.setClu (e / 16) { s.clu (e / 16) with sps := rest }).spoolPush r.h (cluInit (e / 16)) 0 cell f l = (a, u)
          ∧ (a.status = .ok → (t.eng e).lastPush = a.st ∧ (t.eng e).loss = ((s.eng e).loss || a.st != 0))
          ∧ (a.status ≠ .ok → (t.eng e).loss = true)
          ∧ t.spls = u.spls ∧ (t.clu (e / 16)).sps = rest)
    ∧ (∀ (n p k d : Nat) (h : ImmReg) (a : SpRes) (u : State), r.op = .pop → (s.eng e).wait = some (.pop (.spop p k d h)) →
      (s.setClu (e / 16) { s.clu (e / 16) with sps := rest }).spoolPop r.h (cluInit (e / 16)) .clean = (a, u) →
      a.status = .ok → a.st = 0 → ((s.eng e).locked = true ∨ (s.eng e).lockBuf = []) → s.cluOpen e = true →
      (s.eng e).haltAt = none →
      Completes (.spopResponse e n .clean) s fun t =>
        t.spls = u.spls ∧ (t.clu (e / 16)).sps = rest ∧ (t.eng e).wait = none
          ∧ ∀ j, j < 16 → t.cluSeen e (((s.eng e).cellAddrs p).getD j 0) = bitsOf a.cell (32 * j + 31) (32 * j)))

/-- R229–R236: START begins the run of an idle or stopped engine at its entry, and is refused of a running one; KILL
aborts the run and the transfer of its channel. A kick reloads the watchdog, the doorbell pends bit 0, and a write
of SHU_En_INT_PEND clears the sources that it names. The lowest eligible interrupt is taken at a boundary: PC and SR
are saved, PC is 8 k and the mask is k. The timer pends bit 1 and reloads; the watchdog ends the run with cause 3.
States completion (Completes c s post: exec c s = next t for a t with post t, under the conditions on the state and
the operands named before it) of 8 commands: engineStart (ENGINE_START), engineKill (ENGINE_KILL), wdogKick
(WDOG_KICK), doorbellRing (DOORBELL_RING), intPendClear (INT_PEND_CLEAR), interruptTake (INTERRUPT_TAKE),
timerExpire (TIMER_EXPIRE), wdogExpire (WDOG_EXPIRE). -/
def Obligations.EngineCommandsAndEvents : Prop :=
  ∀ (s : State) (e : Nat), e < 256 → let x := s.eng e
    (Opens s (pgEng e) 0x400 →
      (s.engState e % 2 = 0 → Completes (.engineStart e) s fun t =>
        t.engState e = 1 ∧ (t.eng e).pc = s.eRd e SHU_En_ENTRY.PC ∧ (t.eng e).calls = [] ∧ (t.eng e).loops = []
          ∧ (t.eng e).sr = 0x800 ∧ (t.eng e).get cMR = 0 ∧ (t.eng e).cyc = 0 ∧ (t.eng e).data = x.data
          ∧ (∀ k, k < 0x38 → (t.eng e).get k = x.get k) ∧ t.eRd e SHU_En_STAT.CAUSE = 0 ∧ AnsweredOk t)
      ∧ (s.engState e % 2 = 1 → Completes (.engineStart e) s fun t =>
        t.eRd e SHU_En_STAT.START_REFUSED = 1 ∧ maskBit (t.reg (pgEng e) 0x08).toNat 14 = true ∧ t.engs = s.engs
          ∧ AnsweredOk t)
      ∧ Completes (.engineKill e) s (fun t =>
        (s.engState e % 2 = 1 → t.engState e = 2 ∧ t.eRd e SHU_En_STAT.CAUSE = 2
          ∧ maskBit (t.reg (pgEng e) 0x08).toNat 7 = true)
          ∧ (s.engState e % 2 = 0 → t.engState e = s.engState e)
          ∧ (t.eng e).fet = none
          ∧ (x.fet ≠ none → t.eRd e SHU_Fi_STAT.STATUS = 2 ∧ t.eRd e SHU_Fi_STAT.ERR = 7) ∧ AnsweredOk t)
      ∧ Completes (.wdogKick e) s fun t =>
        t.eng e = { x with wd := 0, wdAt := x.cyc } ∧ t = { s with engs := t.engs, resp := t.resp } ∧ AnsweredOk t)
    ∧ (Opens s (pgEng e) 0x418 → Completes (.doorbellRing e) s fun t =>
        t.eRd e SHU_En_INT_PEND.PEND = maskSet (s.eRd e SHU_En_INT_PEND.PEND) 0 true ∧ AnsweredOk t
          ∧ t = { s with regs := t.regs, resp := t.resp })
    ∧ (∀ v, Opens s (pgEng e) 0x414 → Completes (.intPendClear e v) s fun t =>
        (∀ k, k < 7 → maskBit (t.eRd e SHU_En_INT_PEND.PEND) k
          = (maskBit (s.eRd e SHU_En_INT_PEND.PEND) k && !maskBit v k)) ∧ AnsweredOk t
          ∧ t = { s with regs := t.regs, resp := t.resp })
    ∧ (∀ n k, s.engIrq e = some k → s.engState e = 1 → s.running (pgEng e) = true → x.timerDue = false →
        s.wdogDue e = false → x.stepping = false → x.haltAt = none → Completes (.interruptTake e n) s fun t =>
      let y := if x.wait = some .irq then x.advancePc.settleLate x.late else x
      (t.eng e).pc = 8 * k ∧ bitsOf (t.eng e).sr 11 8 = k ∧ (t.eng e).calls = (y.pc, y.sr) :: x.calls
        ∧ (t.eng e).loops = y.loops ∧ (x.wait ≠ some .irq → y = x)
        ∧ (x.wait = some .irq → (∀ l ∈ x.loops, l.2.1 ≠ x.pc) → y.pc = (x.pc + 1) % 2 ^ 14)
        ∧ (t.eng e).wait = none
        ∧ (k ≠ 3 → t.eRd e SHU_En_INT_PEND.PEND = maskSet (s.eRd e SHU_En_INT_PEND.PEND) k false)
        ∧ (k = 3 → t.regs = s.regs))
    ∧ (∀ d, x.tmr = some d → s.engState e = 1 → s.running (pgEng e) = true → (x.timerDue = true ∨ x.wait ≠ none) →
        Completes (.timerExpire e) s fun t =>
      t.eRd e SHU_En_INT_PEND.PEND = maskSet (s.eRd e SHU_En_INT_PEND.PEND) 1 true
        ∧ (t.eng e).tmr = (if s.eRd e SHU_En_TIMER_RELOAD.VALUE = 0 then none
            else some (d + s.eRd e SHU_En_TIMER_RELOAD.VALUE))
        ∧ (t.eng e).pc = x.pc ∧ d ≤ (t.eng e).cyc)
    ∧ (s.engState e = 1 → s.running (pgEng e) = true → s.eRd e SHU_En_WDOG.PERIOD ≠ 0 →
        (s.wdogDue e = true ∨ x.wait ≠ none) → Completes (.wdogExpire e) s fun t =>
      t.engState e = 2 ∧ t.eRd e SHU_En_STAT.CAUSE = 3 ∧ maskBit (t.reg (pgEng e) 0x08).toNat 9 = true
        ∧ (t.eng e).wait = none)

/-- R222, R223: GO of an idle channel whose source and stride are whole words starts the transfer that its registers
describe; otherwise it is refused with its event. An answered read of a transfer that is wholly issued puts its
words at the destination and counts them; the last answer ends the transfer, with FETCH pending. R30, R32: an access
to an on-die memory is answered with the status and data of its target; one that reaches a word of an engine's data
memory reads it, or writes it and no other word. States completion (Completes c s post: exec c s = next t for a t
with post t, under the conditions on the state and the operands named before it) of 3 commands: fetchGo (FETCH_GO),
fetchResponse (FETCH_RESPONSE), ondieMemAccess (ONDIE_MEM_ACCESS). -/
def Obligations.FetchChannelsMoveWords : Prop :=
  (∀ (s : State) (e dir : Nat), e < 256 → Opens s (pgEng e) 0x814 →
    let src := s.rdPair (pgEng e) (SHU_Fi_SRC_LO.ADDR.nth (e % 16)) (SHU_Fi_SRC_HI.ADDR.nth (e % 16))
    let idle := (s.eng e).fet = none ∧ src % 4 = 0 ∧ s.eRd e SHU_Fi_STRIDE.BYTES % 4 = 0
    (idle → Completes (.fetchGo e dir) s fun t =>
      t.eng e = { s.eng e with fet := some ⟨src, s.eRd e SHU_Fi_DST.WORD, s.eRd e SHU_Fi_DST.DSPACE == 1,
          s.eRd e SHU_Fi_SIZE.LEN, s.eRd e SHU_Fi_SIZE.ROWS, s.eRd e SHU_Fi_STRIDE.BYTES, dir % 2 == 1, 0, 0, 0⟩ }
        ∧ t.eRd e SHU_Fi_STAT.STATUS = 1 ∧ t.eRd e SHU_Fi_STAT.ERR = 0 ∧ t.eRd e SHU_Fi_MOVED.WORDS = 0
        ∧ t.rd (pgEng e) PAGE_LEVEL.BUSY = 1 ∧ AnsweredOk t)
    ∧ (¬ idle → Completes (.fetchGo e dir) s fun t =>
      maskBit (t.reg (pgEng e) 0x08).toNat 15 = true ∧ t.engs = s.engs
        ∧ t.eRd e SHU_Fi_STAT.STATUS = s.eRd e SHU_Fi_STAT.STATUS ∧ AnsweredOk t))
  ∧ (∀ (s u : State) (e k v : Nat) (g : FetX) (f : FetReq) (ecc : List Ecc), e < 256 → s.running (pgEng e) = true →
      (s.die (e / 64 + 1)).lost = false → s.engState e ≠ 3 → (∀ i, i < 16 → s.fetCan (16 * (e / 16) + i) = none) →
      (s.eng e).fet = some g → g.issued = true → (s.eng e).fetOut[k]? = some f → f.sink = false → f.out = false →
      f.dspace = true → f.words ≤ 16 → s.busFirst (s.fetBus e f []) = true →
      (s.modEng e fun x => { x with fetOut := x.fetOut.eraseIdx k }).busServe (s.fetBus e f ecc) = (some (.ok, v), u) →
      u.eng e = { s.eng e with fetOut := (s.eng e).fetOut.eraseIdx k } → u.running (pgEng e) = true →
      (∀ i, i < 16 → u.fetCan (16 * (e / 16) + i) = none) →
    Completes (.fetchResponse e k ecc []) s fun t =>
      (∀ j, j < f.words → (t.eng e).load (f.dst + f.at0 + j) = bitsOf v (32 * j + 31) (32 * j) % 2 ^ 24)
        ∧ t.eRd e SHU_Fi_MOVED.WORDS = (g.done + f.words) % 2 ^ 32
        ∧ ((∃ r ∈ (s.eng e).fetOut.eraseIdx k, r.sink = false) →
            (t.eng e).fet = some { g with done := g.done + f.words }
              ∧ (t.eng e).fetOut = (s.eng e).fetOut.eraseIdx k)
        ∧ ((∀ r ∈ (s.eng e).fetOut.eraseIdx k, r.sink = true) → (t.eng e).fet = none
            ∧ t.eRd e SHU_Fi_STAT.STATUS = 2 ∧ maskBit (t.eRd e SHU_En_INT_PEND.PEND) 2 = true))
  ∧ (∀ (s u : State) (init dev op addr n data v : Nat) (ecc : List Ecc) (d : Nat) (b : BusStatus), initListed init = true →
      op < 3 → busDie addr = some (d, false) →
      s.bus { init := init, dev := srcDev init dev, op := op, addr := addr, n := n, data := data, ecc := ecc }
        = (some (b, v), u) →
    Completes (.ondieMemAccess init dev op addr n data ecc) s fun t => t = { u with resp := ⟨b, v, false, true, 0, 0⟩ })
  ∧ (∀ (s : State) (init p off op data : Nat) (r : BusReq), initListed init = true → panelOk p = true → off % 4 = 0 →
      off < 2 ^ 24 → op < 2 →
      r = { init := init, op := op, addr := 0x080000000000 + 2 ^ 27 * p + off, n := 4, data := data } →
      s.circles init p (busRouter r.addr) = false →
      ∀ u, s.send init [] (r.net p) = (.go, u) → u.way init p (busRouter r.addr) = none → u.dieCheck p = none →
      u.pageCheck (pgShu (4 * (p - 1) + off / 2 ^ 22)) 0x40 = none →
    Completes (.ondieMemAccess init 0 op r.addr 4 data []) s fun t =>
      (op = 0 → AnsweredOk t ((s.eng (64 * (p - 1) + off / 2 ^ 18)).load (off % 2 ^ 18 / 4) % 2 ^ 32)
        ∧ ∀ e a, (t.eng e).load a = (s.eng e).load a)
      ∧ (op = 1 → AnsweredOk t ∧ (t.eng (64 * (p - 1) + off / 2 ^ 18)).load (off % 2 ^ 18 / 4) = data % 2 ^ 24
        ∧ ∀ e a, a < 65536 → (e ≠ 64 * (p - 1) + off / 2 ^ 18 ∨ a ≠ off % 2 ^ 18 / 4) → (t.eng e).load a = (s.eng e).load a))

/-! ### Spools -/

/-- R199–R203, R206, R207: a one-cell item that is pushed to an enabled queue with room joins its tail and takes a
cell of the pool; a pop returns the first cell of the head with FIRST and LAST and returns the cell to the pool, or
EMPTY; a flush empties the queue. SPL_OP does the same for the host, at its own manager or over the network at
another's, and reports in SPL_OP_RES and SPL_CELL; one that is not admitted to the network waits. States completion
(Completes c s post: exec c s = next t for a t with post t, under the conditions on the state and the operands named
before it) of 5 commands: spoolPush (SPOOL_PUSH), spoolPop (SPOOL_POP), spoolFlush (SPOOL_FLUSH), splOpPush
(SPL_OP_PUSH), splOpPop (SPL_OP_POP). -/
def Obligations.SpoolOperations : Prop :=
  (∀ (s : State) (h init dev cell : Nat), let p := handlePanel h
    let q := handleQueue h
    initListed init = true → s.on (pgSpl p) (SPL_Q_CFG.EN.nth q) = true →
      (∃ u, s.spIssue init (spPush h dev cell true true) = (.go, u) ∧ u.splCheck h init = none) →
      (s.spl p).openOf q init (if init = 8 then dev else 0) = none → s.splFull p q (s.splLimit p q) = none →
    Completes (.spoolPush h init dev cell true true) s fun t =>
      (∃ k, ((t.spl p).queue q).items = ((s.spl p).queue q).items ++ [.cells [⟨k, cell % 2 ^ 512⟩] false]
          ∧ t.poolCell p k = cell % 2 ^ 512)
        ∧ t.splCells p q = s.splCells p q + 1
        ∧ t.rd (pgSpl p) SPL_POOL_FREE.FREE = s.rd (pgSpl p) SPL_POOL_FREE.FREE - 1
        ∧ (∀ k, k ≠ q → (t.spl p).queue k = (s.spl p).queue k) ∧ (∀ k, k ≠ p → t.spl k = s.spl k)
        ∧ t.resp = ⟨.ok, 0, false, true, 0, 0⟩)
  ∧ (∀ (s : State) (h init : Nat), let p := handlePanel h
    let q := handleQueue h
    initListed init = true →
    (s.on (pgSpl p) (SPL_Q_CFG.EN.nth q) = true → ((s.spl p).queue q).flushed = false →
      (∃ u, s.spIssue init (spPop h) = (.go, u) ∧ u.splCheck h init = none) →
      (((s.spl p).queue q).items = [] → Completes (.spoolPop h init .clean) s fun t =>
        t.resp = ⟨.ok, 0, false, true, 1, 0⟩ ∧ t.spls = s.spls ∧ ∀ off, t.reg (pgSpl p) off = s.reg (pgSpl p) off)
      ∧ (∀ c cs mid rest, ((s.spl p).queue q).items = .cells (c :: cs) mid :: rest →
        Completes (.spoolPop h init .clean) s fun t =>
          t.resp = ⟨.ok, c.data, false, true, 0, bit (!mid) + 2 * bit cs.isEmpty⟩
            ∧ ((t.spl p).queue q).items = (if cs.isEmpty then rest else .cells cs true :: rest)
            ∧ t.splCells p q = s.splCells p q - 1))
    ∧ ((∃ u, s.spIssue init (spFlush h) = (.go, u) ∧ u.splCheck h init = none) → Completes (.spoolFlush h init) s fun t =>
        ((t.spl p).queue q).items = [] ∧ ((t.spl p).queue q).mark = none ∧ t.splCells p q = 0
          ∧ (∀ o ∈ (t.spl p).opens, o.queue ≠ q) ∧ t.resp = ⟨.ok, 0, false, true, 0, 0⟩))
  ∧ (∀ (s u v : State) (p h init dev : Nat) (first last : Bool) (r : SpRes), panelOk p = true →
      Opens s (pgSpl p) 0x140 → (s.spl p).host = [] → v = s.setSpl p { s.spl p with host := [] } →
    (handlePanel h = p → v.splPush p (handleQueue h) init dev (s.portCell p) first last = (r, u) →
      Completes (.splOpPush p h init dev first last) s fun t =>
        t.rd (pgSpl p) SPL_OP_RES.STATUS = r.st % 8 ∧ t.spls = u.spls ∧ AnsweredOk t)
    ∧ (handlePanel h ≠ p →
        (v.splHost p ⟨true, h, init, dev, s.portCell p, first, last⟩ .clean = (some r, u) → r.status = .ok →
          Completes (.splOpPush p h init dev first last) s fun t =>
            t.rd (pgSpl p) SPL_OP_RES.STATUS = r.st % 8 ∧ t.spls = u.spls ∧ AnsweredOk t)
        ∧ (v.splHost p ⟨true, h, init, dev, s.portCell p, first, last⟩ .clean = (none, u) →
          Completes (.splOpPush p h init dev first last) s fun t =>
            (t.spl p).host = (u.spl p).host ++ [⟨true, h, init, dev, s.portCell p, first, last⟩]
              ∧ (∀ k, k ≠ p → t.spl k = u.spl k) ∧ AnsweredOk t))
    ∧ ((if handlePanel h = p then v.splPop p (handleQueue h) .clean = (r, u)
        else v.splHost p ⟨false, h, init, 0, 0, false, false⟩ .clean = (some r, u)) → r.status = .ok →
      Completes (.splOpPop p h init .clean) s fun t =>
        t.rd (pgSpl p) SPL_OP_RES.STATUS = r.st % 8 ∧ t.rd (pgSpl p) SPL_OP_RES.FIRST = r.spf % 2
          ∧ t.rd (pgSpl p) SPL_OP_RES.LAST = r.spf / 2 % 2 ∧ t.rd (pgSpl p) SPL_OP_RES.MARKER = r.spf / 4 % 2
          ∧ (r.st = 0 → ∀ k, k < 16 → t.rd (pgSpl p) (SPL_CELLk.DATA.nth k) = bitsOf r.cell (32 * k + 31) (32 * k))
          ∧ t.spls = u.spls ∧ AnsweredOk t))

/-! ### Memory -/

/-- R276, R277: a stored codeword reads clean; with any one of its ten symbols changed in any way it is corrected to
what was stored, naming the chip; with the changed symbol's chip erased it is rebuilt. -/
def Obligations.OneSymbolErrorIsCorrected : Prop :=
  ∀ d : Nat, d < 2 ^ 64 →
    decodeCw none (encodeCw d) = (.clean, encodeCw d) ∧ encodeCw d % 2 ^ 64 = d ∧ encodeCw d < 2 ^ 80
    ∧ ∀ j e : Nat, j < 10 → 0 < e → e < 256 →
        decodeCw none (fixSym (encodeCw d) j e) = (.corrected j, encodeCw d)
          ∧ decodeCw (some j) (fixSym (encodeCw d) j e) = (.rebuilt, encodeCw d)

/-- R267, R270, R277, R289, R309: a request to unlined bytes that is admitted and reaches its channel is answered
there: a read returns the bytes of its decoded line, or ECC where a codeword is uncorrectable; a full-line write
stores the encoded data; a merge stores the line ORed with its data. A request in the plain view of an enabled
region by an initiator outside its access list is DENIED and touches no channel. States completion (Completes c s
post: exec c s = next t for a t with post t, under the conditions on the state and the operands named before it) of
3 commands: dramRead (DRAM_READ), dramWrite (DRAM_WRITE), dramMerge (DRAM_MERGE). -/
def Obligations.DramRequests : Prop :=
  ∀ (s u : State) (init dev addr len value k ca : Nat) (raw hint : Bool), memReqOk init addr len = true →
    let q : MemReq := ⟨init, dev, raw, addr, hint⟩
    s.memWaits q = none → s.memCircles init addr = false → u.memWay init addr = none →
    (u.regionOf addr = none → u.reach addr init = .ok (k, ca) →
      let l := decodeLine (u.erased k (u.place k ca)) (u.rawLine k (ca / 64))
      (s.memSend q .read len = (.go, u) → Completes (.dramRead init dev raw addr len hint []) s fun t =>
        (anyBad l = false → AnsweredOk t (sliceLine (lineData l) (addr % 64) len))
          ∧ (anyBad l = true → t.resp = ⟨.ecc, 0, false, true, 0, 0⟩))
      ∧ (len = 64 → addr % 64 = 0 → u.on (pgDrc k) DRC_FLIP_CTL.ARMED = false →
          s.memSend q (.write (value % 2 ^ 512) (2 ^ 64 - 1)) 64 = (.go, u) →
        Completes (.dramWrite init dev raw addr len value hint []) s fun t =>
          t.rawLine k (ca / 64) = encodeLine (value % 2 ^ 512) ∧ AnsweredOk t
            ∧ ∀ a, a ≠ ca / 64 → t.rawLine k a = u.rawLine k a)
      ∧ (anyBad l = false → u.on (pgDrc k) DRC_FLIP_CTL.ARMED = false →
          s.memSend q (.merge (value % 2 ^ (8 * len) * 2 ^ (8 * (addr % 64)))) len = (.go, u) →
        Completes (.dramMerge init dev raw addr len value hint []) s fun t =>
          t.rawLine k (ca / 64)
              = encodeLine ((lineData l ||| value % 2 ^ (8 * len) * 2 ^ (8 * (addr % 64))) % 2 ^ 512)
            ∧ AnsweredOk t ∧ ∀ a, a ≠ ca / 64 → t.rawLine k a = u.rawLine k a))
    ∧ (∀ r, u.regionOf addr = some r → raw = false → (neverPlain init = true ∨ u.aclMatch r init dev = false) →
        let denied (t : State) : Prop := t.resp = ⟨.denied, 0, false, true, 0, 0⟩ ∧ t.drcs = u.drcs
        (s.memSend q .read len = (.go, u) → Completes (.dramRead init dev raw addr len hint []) s denied)
        ∧ (s.memSend q (.write (placeBytes (addr % 64) len value).1 (placeBytes (addr % 64) len value).2) len = (.go, u) →
            Completes (.dramWrite init dev raw addr len value hint []) s denied)
        ∧ (s.memSend q (.merge (placeBytes (addr % 64) len value).1) len = (.go, u) →
            Completes (.dramMerge init dev raw addr len value hint []) s denied))

/-- R262, R265, R271–R273, R279, R281, R282: what a channel does by itself and on command: a queued neighbour
refresh runs and closes its bank's row; the scrubber goes on to the next line and starts again at the end; an idle
row closes; a refresh interval ends at its multiple; the tallies clear; training ends in TRAIN_OK or TRAIN_FAIL; the
log and the counts clear; a flip is armed. States completion (Completes c s post: exec c s = next t for a t with
post t, under the conditions on the state and the operands named before it) of 9 commands: neighbourRefresh
(NEIGHBOUR_REFRESH), scrubRead (SCRUB_READ), openRowIdleClose (OPEN_ROW_IDLE_CLOSE), refreshIntervalEnd
(REFRESH_INTERVAL_END), hammerTallyClear (HAMMER_TALLY_CLEAR), dramTrainEnd (DRAM_TRAIN_END), drcClearLog
(DRC_CLEAR_LOG), drcClearCounts (DRC_CLEAR_COUNTS), flipArm (FLIP_ARM). -/
def Obligations.ChannelMaintenance : Prop :=
  ∀ (s : State) (k : Nat), k < 8 →
    (∀ u bank row rest, (s.drc k).nbr = (bank, row) :: rest → s.running (pgDrc k) = true →
        2 ≤ s.rd (pgDrc k) DRC_STAT.STATE → s.rd (pgDrc k) DRC_STAT.STATE ≤ 5 → s.send 0x85 [(k, 1)] (s.drcNet k 0 0) = (.go, u) →
      Completes (.neighbourRefresh k) s fun t =>
        (∃ more, (t.drc k).nbr = rest ++ more) ∧ (t.drc k).rows.find bank = none ∧ (t.drc k).lines = (s.drc k).lines)
    ∧ (∀ u, s.running (pgDrc k) = true → 3 ≤ s.rd (pgDrc k) DRC_STAT.STATE → s.rd (pgDrc k) DRC_STAT.STATE ≤ 5 →
        s.on (pgDrc k) DRC_ECC_CFG.SCRUB_EN = true → (s.drc k).nbr = [] → s.send 0x86 [(k, 1)] (s.drcNet k (s.drc k).scrub 0) = (.go, u) →
      Completes (.scrubRead k []) s fun t =>
        (t.drc k).scrub = (if s.capacity k ≤ (s.drc k).scrub + 64 then 0 else (s.drc k).scrub + 64)
          ∧ t.rd (pgDrc k) DRC_SCRUB.PASSES = (if s.capacity k ≤ (s.drc k).scrub + 64
              then (s.rd (pgDrc k) DRC_SCRUB.PASSES + 1) % 2 ^ 16 else s.rd (pgDrc k) DRC_SCRUB.PASSES))
    ∧ (∀ bank row since, (s.drc k).rows.find bank = some (row, since) → Completes (.openRowIdleClose k bank) s fun t =>
        (t.drc k).rows.find bank = none ∧ (∀ b, b ≠ bank → (t.drc k).rows.find b = (s.drc k).rows.find b)
          ∧ t.now = max s.now (since + 64 * max 1 (s.rd (pgDrc k) DRC_OPEN.IDLE)) ∧ t.regs = s.regs)
    ∧ (∀ hot, s.clocksOn = true → (s.die (k / 2 + 1)).lost = false → s.pageDomain (pgDrc k) = 0 →
        s.on (pgDrc k) PAGE_PEND.PENDING = false → (s.drc k).marks = [] → Completes (.refreshIntervalEnd k hot []) s fun t =>
      t.now = boundaryAt (if s.on (pgDrc k) DRC_STAT.HOT then 24960 else 49920) s.now (s.drc k).intervalAt
        ∧ t.rd (pgDrc k) DRC_STAT.HOT = bit hot ∧ (t.drc k).intervals = (s.drc k).intervals + 1)
    ∧ (8192 ≤ (s.drc k).intervals → Completes (.hammerTallyClear k) s fun t =>
        t.drc k = { s.drc k with tally := [], corr := [], intervals := 0 } ∧ t = { s with drcs := t.drcs })
    ∧ (∀ ok trfc, s.fwRuns = true → (s.drc k).training = true → s.rd (pgDrc k) DRC_STAT.STATE = 2 →
        (if s.on (pgDrc k) PAGE_PEND.PENDING then s.rd (pgDrc k) PAGE_PEND.KIND
          else s.rd (pgDrc k) PAGE_BNDRY.KIND) ≠ 3 → Completes (.dramTrainEnd k ok trfc) s fun t =>
      (t.drc k).training = false ∧ t.rd (pgDrc k) DRC_STAT.STATE = 2
        ∧ (ok = true → t.rd (pgDrc k) DRC_STAT.TRAIN_OK = 1)
        ∧ (ok = false → t.rd (pgDrc k) DRC_STAT.TRAIN_FAIL = 1 ∧ maskBit (t.reg (pgDrc k) 0x08).toNat 14 = true))
    ∧ (Opens s (pgDrc k) 0x78 →
      Completes (.drcClearLog k) s (fun t => t.drc k = { s.drc k with log := [] }
        ∧ t.rd (pgDrc k) DRC_LOG_LEVEL.COUNT = 0 ∧ t.rd (pgDrc k) DRC_LOG_LEVEL.LOST = 0 ∧ AnsweredOk t)
      ∧ Completes (.drcClearCounts k) s fun t => t.rd (pgDrc k) DRC_ECC_CNT.COUNT = 0
        ∧ t.rd (pgDrc k) DRC_UE_CNT.COUNT = 0 ∧ t = { s with regs := t.regs, resp := t.resp } ∧ AnsweredOk t)
    ∧ (∀ sub, Opens s (pgDrc k) 0x10C → Completes (.flipArm k sub) s fun t =>
        t.rd (pgDrc k) DRC_FLIP_CTL.ARMED = 1 ∧ t.rd (pgDrc k) DRC_FLIP_CTL.SUB = sub % 2
          ∧ t = { s with regs := t.regs, resp := t.resp } ∧ AnsweredOk t)

/-- R294–R299: ENABLE of an OFF region with a place and a free key slot starts its INIT sweep under the new key;
REKEY of an ACTIVE one starts a roll in the other epoch, its old key kept; DISABLE retires its key under a fence;
each is refused with STATUS 1 in another state, and with an event while a command runs. A sweep that is admitted
goes on to the next group; the last acknowledgement of a fence zeroises the retiring keys. States completion
(Completes c s post: exec c s = next t for a t with post t, under the conditions on the state and the operands named
before it) of 5 commands: enable (ENABLE), rekey (REKEY), disable (DISABLE), sweepGroup (SWEEP_GROUP), fenceAck
(FENCE_ACK). -/
def Obligations.LinedRegionCommands : Prop :=
  (∀ (s : State) (r : Nat), r < 16 → Opens s pgLin 0x40 →
    (s.on pgLin PAGE_LEVEL.BUSY = true → ∀ c ∈ [Instr.enable r, .rekey r, .disable r], Completes c s fun t =>
      maskBit (t.reg pgLin 0x08).toNat 12 = true ∧ t.regions = s.regions ∧ t.slots = s.slots ∧ AnsweredOk t)
    ∧ (s.on pgLin PAGE_LEVEL.BUSY = false →
      (s.cap 6 = true → s.linState r = 0 → s.rd pgLin (LIN_Rr_SIZE.VALUE.nth r) ≠ 0 →
          s.rd pgLin (LIN_Rr_BASE.VALUE.nth r) + s.rd pgLin (LIN_Rr_SIZE.VALUE.nth r) ≤ 4096 →
          (∀ q, q < 16 → q ≠ r → s.linState q = 0) → (∃ k, k < 64 ∧ (s.slot k).state = 0) →
        Completes (.enable r) s fun t =>
          t.linState r = 1 ∧ t.rd pgLin (LIN_Rr_STAT.EPOCH.nth r) = 0
            ∧ t.lin r = { s.lin r with group := 0, base := s.rd pgLin (LIN_Rr_BASE.VALUE.nth r)
                                       size := s.rd pgLin (LIN_Rr_SIZE.VALUE.nth r) }
            ∧ (t.slot (t.rd pgLin (LIN_Rr_STAT.KEY_CUR.nth r))).state = 1
            ∧ (s.slot (t.rd pgLin (LIN_Rr_STAT.KEY_CUR.nth r))).state = 0
            ∧ t.rd pgLin PAGE_LEVEL.BUSY = 1 ∧ t.rd pgLin LIN_CMD_STAT.STATUS = 0
            ∧ t.rd pgLin LIN_CMD_STAT.REGION = r ∧ AnsweredOk t)
      ∧ (s.linState r ≠ 0 → s.cap 6 = true → Completes (.enable r) s fun t =>
          t.rd pgLin LIN_CMD_STAT.STATUS = 1 ∧ t.regions = s.regions ∧ t.slots = s.slots ∧ AnsweredOk t)
      ∧ (s.linState r = 2 → (∃ k, k < 64 ∧ (s.slot k).state = 0) → Completes (.rekey r) s fun t =>
          t.linState r = 3 ∧ t.rd pgLin (LIN_Rr_STAT.EPOCH.nth r) = 1 - s.rd pgLin (LIN_Rr_STAT.EPOCH.nth r)
            ∧ t.rd pgLin (LIN_Rr_STAT.KEY_OLD.nth r) = s.rd pgLin (LIN_Rr_STAT.KEY_CUR.nth r)
            ∧ t.rd pgLin (LIN_Rr_STAT.OLD_VALID.nth r) = 1 ∧ (t.lin r).group = 0
            ∧ t.rd pgLin LIN_CMD_STAT.STATUS = 0 ∧ maskBit (t.reg pgLin 0x08).toNat 6 = true ∧ AnsweredOk t)
      ∧ (s.linState r = 2 → (∃ k, k < 8 ∧ s.fenceLive (pgDrc k) (k / 2 + 1) = true) →
        Completes (.disable r) s fun t =>
          t.linState r = 5 ∧ (t.slot (s.rd pgLin (LIN_Rr_STAT.KEY_CUR.nth r))).state = 2
            ∧ (t.lin r).ctlOut = (List.range 8).filter (fun k => s.fenceLive (pgDrc k) (k / 2 + 1))
            ∧ t.rd pgLin LIN_CMD_STAT.STATUS = 0 ∧ maskBit (t.reg pgLin 0x08).toNat 6 = true ∧ AnsweredOk t)
      ∧ (s.linState r ≠ 2 → ∀ c ∈ [Instr.rekey r, .disable r], Completes c s fun t =>
          t.rd pgLin LIN_CMD_STAT.STATUS = 1 ∧ t.regions = s.regions ∧ t.slots = s.slots ∧ AnsweredOk t)))
  ∧ (∀ (s u : State) (r : Nat), r < 16 → s.linState r = 1 → s.clocksOn = true →
      s.linesWait 0x84 (sweepLines true (s.groupAt r (s.lin r).group).1 (s.groupAt r (s.lin r).group).2) = none →
      ((s.groupAt r (s.lin r).group).1 :: (s.groupAt r (s.lin r).group).2).any (s.memCircles 0x84) = false →
      s.sweepAdmit r ((s.sweepReqs r (s.groupAt r (s.lin r).group).1 (s.groupAt r (s.lin r).group).2).drop (s.lin r).paid)
          = (true, u) →
      (s.lin r).group + 1 < (s.lin r).size * 1835008 → (s.lin r).size ≤ 2048 →
    Completes (.sweepGroup r []) s fun t =>
      t.lin r = { s.lin r with group := (s.lin r).group + 1, paid := 0 } ∧ t.linState r = 1
        ∧ t.rd pgLin (LIN_Rr_SWEEP.LEFT.nth r) = (s.lin r).size * 1835008 - ((s.lin r).group + 1))
  ∧ (∀ (s : State) (r unit : Nat), r < 16 → unit < 8 → s.linState r = 5 → (s.lin r).ctlOut = [unit] →
      (s.lin r).catOut = [] → (s.lin r).splOut = [] → s.on pgLin (LIN_Rr_STAT.OLD_VALID.nth r) = false →
    Completes (.fenceAck r unit) s fun t =>
      t.linState r = 0 ∧ t.slot (s.rd pgLin (LIN_Rr_STAT.KEY_CUR.nth r)) = {}
        ∧ t.rd pgLin (LIN_Rr_STAT.FENCE.nth r) = 0 ∧ (t.lin r).ctlOut = [])

/-! ### Package network and tension governor -/

/-- After package reset every initiator's budget is that of R326's table, its balance equals its budget, and the
sums and the capacity of class 8 read as R326 says. -/
def Obligations.ResetBudgets : Prop :=
  (∀ init cls, init < 256 → cls < 10 →
    State.reset.budget init cls
        = (if init = 0x01 ∨ init = 0x02 ∨ init = 0x08 then 32
           else if (init = 0x84 ∨ init = 0x85) ∧ cls < 8 then 32
           else if init = 0x86 ∧ cls < 8 then 64 else 0)
      ∧ State.reset.balance init cls = State.reset.budget init cls)
    ∧ (∀ cls, cls < 10 → State.reset.rd pgGov (GOV_SUMc.SUM.nth cls) = if cls < 8 then 224 else 96)
    ∧ State.reset.rd pgGov GOV_CAP_KLF.CAP = 3712

/-- R314–R316, R327: a detour entry of the inactive bank takes the written code, and a read returns it; SWITCH waits
for the boundary; an initiator whose old-version requests are all answered issues again; CLR_STATS clears a die's
statistics. DISABLE drains a router, which then powers down and, enabled again, is restored. R318, R319: a request
to a guest die that the firewall stops is answered FIREWALL and counted; RESTORE ends the isolation. States
completion (Completes c s post: exec c s = next t for a t with post t, under the conditions on the state and the
operands named before it) of 10 commands: nocTblWrite (NOC_TBL_WRITE), nocTblRead (NOC_TBL_READ), nocSwitch
(NOC_SWITCH), nocClrStats (NOC_CLR_STATS), routerDisable (ROUTER_DISABLE), nocVersionResume (NOC_VERSION_RESUME),
routerPowerDown (ROUTER_POWER_DOWN), routerRestoreDone (ROUTER_RESTORE_DONE), restore (RESTORE), guestRequest
(GUEST_REQUEST). -/
def Obligations.NetworkAndGuestCommands : Prop :=
  (∀ (s : State) (d v : Nat), d < 5 →
    (Opens s (pgNoc d) 0x4C → s.rd (pgNoc d) NOC_TBL_ADDR.DEST ≤ 64 →
      (s.rd (pgNoc d) NOC_TBL_ADDR.BANK ≠ s.netBank → s.rd (pgNoc d) NOC_VER.OLD = 0 → Completes (.nocTblWrite d v) s fun t =>
        (t.noc d).tbl.getD (tblKey (s.rd (pgNoc d) NOC_TBL_ADDR.BANK) (s.nocRtr d) (s.rd (pgNoc d) NOC_TBL_ADDR.DEST)) 7 = v % 8
          ∧ (∀ j, j ≠ tblKey (s.rd (pgNoc d) NOC_TBL_ADDR.BANK) (s.nocRtr d) (s.rd (pgNoc d) NOC_TBL_ADDR.DEST) →
              (t.noc d).tbl.find j = (s.noc d).tbl.find j)
          ∧ t.rd (pgNoc d) NOC_TBL_ADDR.DEST = (if s.on (pgNoc d) NOC_TBL_ADDR.AUTOINC = false then
              s.rd (pgNoc d) NOC_TBL_ADDR.DEST else (s.rd (pgNoc d) NOC_TBL_ADDR.DEST + 1) % 65)
          ∧ AnsweredOk t)
      ∧ ((s.rd (pgNoc d) NOC_TBL_ADDR.BANK = s.netBank ∨ s.rd (pgNoc d) NOC_VER.OLD ≠ 0) →
        Completes (.nocTblWrite d v) s fun t =>
          t.nocs = s.nocs ∧ maskBit (t.reg (pgNoc d) 0x08).toNat 8 = true ∧ AnsweredOk t)
      ∧ Completes (.nocTblRead d) s fun t =>
          AnsweredOk t (s.nocPeek d) ∧ t.nocs = s.nocs
            ∧ t.rd (pgNoc d) NOC_TBL_ADDR.DEST = (if s.on (pgNoc d) NOC_TBL_ADDR.AUTOINC = false then
              s.rd (pgNoc d) NOC_TBL_ADDR.DEST else (s.rd (pgNoc d) NOC_TBL_ADDR.DEST + 1) % 65))
    ∧ (Opens s (pgNoc d) 0x44 → Completes (.nocSwitch d) s fun t =>
        t.rd (pgNoc 0) NOC_VER.PENDING = (if d = 0 then 1 else s.rd (pgNoc 0) NOC_VER.PENDING)
          ∧ t.netBank = s.netBank ∧ AnsweredOk t)
    ∧ (Opens s (pgNoc d) 0x40 → Completes (.nocClrStats d) s fun t =>
        t.noc d = { s.noc d with stats := [] }
          ∧ t.rd (pgNoc d) NOC_TAGS.PEAK = s.rd (pgNoc d) NOC_TAGS.USED ∧ AnsweredOk t)
    ∧ (Opens s (pgNoc d) 0x50 → Completes (.routerDisable d v) s fun t =>
        t.rd (pgNoc d) NOC_RTR_CTL.DISABLE = v % 2 ^ 16 ∧ t.rd (pgNoc d) PAGE_LEVEL.ARMED = 0
          ∧ (d ≠ 0 → ∀ l, l < 16 → maskBit (t.rd (pgNoc d) NOC_RTR_STAT.DRAINING) l
              = (maskBit (s.rd (pgNoc d) NOC_RTR_STAT.DRAINING) l
                  || (maskBit v l && !maskBit (s.rd (pgNoc d) NOC_RTR_STAT.OFF) l)))
          ∧ AnsweredOk t))
  ∧ (∀ (s : State) (init : Nat), (s.noc (initDie init)).old.getD init 0 = 0 → Completes (.nocVersionResume init) s fun t =>
      t.noc (initDie init) = { s.noc (initDie init) with paused := (s.noc (initDie init)).paused.erase init })
  ∧ (∀ (s : State) (p l : Nat), panelOk p = true → l < 16 →
    (maskBit (s.rd (pgNoc p) NOC_RTR_STAT.DRAINING) l = true → maskBit (s.rd (pgNoc p) NOC_RTR_CTL.DISABLE) l = true →
        s.oldInFlight = 0 → Completes (.routerPowerDown p l) s fun t =>
      maskBit (t.rd (pgNoc p) NOC_RTR_STAT.OFF) l = true ∧ maskBit (t.rd (pgNoc p) NOC_RTR_STAT.DRAINING) l = false
        ∧ t = { s with regs := t.regs })
    ∧ (maskBit (s.rd (pgNoc p) NOC_RTR_CTL.DISABLE) l = false → Completes (.routerRestoreDone p l) s fun t =>
      maskBit (t.rd (pgNoc p) NOC_RTR_STAT.OFF) l = false ∧ maskBit (t.rd (pgNoc p) NOC_RTR_STAT.DRAINING) l = false
        ∧ t = { s with regs := t.regs }))
  ∧ (∀ (s : State) (site : Nat), site = 5 ∨ site = 6 →
    (Opens s (pgPat site) 0x44 → Completes (.restore site) s fun t =>
        t.rd (pgPat site) PAT_VIOL.COUNT = 0 ∧ t.rd (pgPat site) PAT_VIOL.ISOLATED = 0
          ∧ t = { s with regs := t.regs, resp := t.resp } ∧ AnsweredOk t)
    ∧ (∀ u init dev op ddev addr len data hint ecc b v,
        (s.die site).lost = false → s.fitted site = true → s.cap 11 = true → op < 3 →
        (ddev % 4096 = 0xFFF ∨ ddev % 4096 = s.ownDev) → addr < 2 ^ 48 →
        (∀ w c, s.patJudge (pgPat site) 0 op addr len false = .error c →
          w = s.patViolation (pgPat site) 0 op addr c →
          Completes (.guestRequest site true init dev op ddev addr len data hint [] ecc) s fun t =>
            t = { w with resp := ⟨.firewall, 0, false, true, 0, 0⟩ })
        ∧ (∀ w, s.patJudge (pgPat site) 0 op addr len false = .ok w → s.patSpent site w = false →
          s.bus { init := siteInit site, op := op, addr := addr, n := len, data := data, hint := hint, ecc := ecc }
            = (some (b, v), u) →
          Completes (.guestRequest site true init dev op ddev addr len data hint [] ecc) s fun t =>
            t.resp = ⟨b, v, false, true, 0, 0⟩ ∧ t.regs = u.regs ∧ t.drcs = u.drcs)))

/-! ### Kelef ports, lanes and the fabric of devices -/

/-- R333, R334, R337, R361: every loss of a Kelef port leaves it DOWN with its cause and its silence of 12,800 G,
from EN, RETRAIN, signal, lock, skew, order or a timeout; an UP port sets its FAILED bit as well. An enabled port
trains: it leaves ALIGN with a skew of at most 256 UI, counts equal training columns, and enters UP with its partner
and full credits, when eight columns of its own have left. With nothing to send an UP port sends IDL columns; one
whose EN is 0 sends its lanes' patterns (R331, R379). A discarded control column breaks the row of training columns
and is counted (R332). States completion (Completes c s post: exec c s = next t for a t with post t, under the
conditions on the state and the operands named before it) of 10 commands: klfPortEnable (KLF_PORT_ENABLE), retrain
(RETRAIN), klfAlignDone (KLF_ALIGN_DONE), trnReceive (TRN_RECEIVE), klfParamDone (KLF_PARAM_DONE), klfTrainTimeout
(KLF_TRAIN_TIMEOUT), klfDownQuietEnd (KLF_DOWN_QUIET_END), klfSkewExceeded (KLF_SKEW_EXCEEDED), ctlColumnDiscard
(CTL_COLUMN_DISCARD), idlInsert (IDL_INSERT). -/
def Obligations.KelefPortsTrainAndFall : Prop :=
  ∀ (s : State) (p : Nat), p < 16 → s.portOk p = true →
    let pg := pgKlf p
    let st := s.rd pg KLF_STAT.STATE
    let fell (t : State) (cause : Nat) : Prop :=
      t.rd pg KLF_STAT.STATE = 0 ∧ t.rd pg KLF_DOWN.CAUSE = cause ∧ maskBit (t.reg pg 0x08).toNat 9 = true
        ∧ (st = 5 → maskBit (t.rd pgKlfRt KLF_FAILED.PORTS) p = true)
    let rests (t : State) : Prop := (t.port p).quiet = some (t.now + 12800)
    let runs := s.portRuns p = true
    (Opens s pg 0x40 →
      (st = 0 → (s.port p).quiet = none → s.quadActive p = true → s.laneRd p 0 LANE_STATl.SD = 0 →
        Completes (.klfPortEnable p true) s fun t =>
          t.rd pg KLF_STAT.STATE = 1 ∧ t.rd pg KLF_CTL.EN = 1 ∧ (t.port p).enter = s.now ∧ AnsweredOk t)
      ∧ (st = 0 → Completes (.klfPortEnable p false) s fun t =>
          t.rd pg KLF_STAT.STATE = 0 ∧ t.rd pg KLF_CTL.EN = 0 ∧ t.ports = s.ports ∧ AnsweredOk t)
      ∧ (st ≠ 0 → Completes (.klfPortEnable p false) s fun t =>
          fell t 6 ∧ rests t ∧ t.rd pg KLF_CTL.EN = 0 ∧ AnsweredOk t)
      ∧ (st = 5 → Completes (.retrain p) s fun t =>
          t.rd pg KLF_DOWN.CAUSE = 6 ∧ t.klfUp p = false ∧ (t.port p).quiet = none
            ∧ maskBit (t.rd pgKlfRt KLF_FAILED.PORTS) p = true ∧ AnsweredOk t)
      ∧ (st ≠ 5 → Completes (.retrain p) s fun t => t.ports = s.ports ∧ t.rd pg KLF_STAT.STATE = st ∧ AnsweredOk t))
    ∧ (∀ skew, runs → st = 3 →
        (skew ≤ 256 → Completes (.klfAlignDone p skew) s fun t =>
          t.rd pg KLF_STAT.STATE = 4 ∧ t.rd pg KLF_SKEW.UI = skew ∧ (t.port p).trn = 0 ∧ (t.port p).enter = s.now)
        ∧ (256 < skew → Completes (.klfAlignDone p skew) s fun t =>
          fell t 4 ∧ rests t ∧ t.rd pg KLF_SKEW.UI = min skew 511))
    ∧ (∀ dev port, runs → st = 4 →
        Completes (.trnReceive p dev port true) s (fun t =>
          (t.port p).trn = (if (s.port p).trn = 0 ∨ ((s.port p).pdev = dev % 2 ^ 12 ∧ (s.port p).pport = port % 16)
              then (s.port p).trn + 1 else 1)
            ∧ (t.port p).pdev = dev % 2 ^ 12 ∧ (t.port p).pport = port % 16 ∧ t = { s with ports := t.ports })
        ∧ Completes (.trnReceive p dev port false) s fun t => fell t 5 ∧ rests t)
    ∧ (runs → st = 4 → 8 ≤ (s.port p).trn → Completes (.klfParamDone p) s fun t =>
        t.rd pg KLF_STAT.STATE = 5 ∧ t.rd pg KLF_STAT.PARTNER_DEV = (s.port p).pdev % 2 ^ 12
          ∧ t.rd pg KLF_STAT.PARTNER_PORT = (s.port p).pport % 16
          ∧ (∀ v, v < 4 → t.rd pg (creditFld v) = vcAlloc v)
          ∧ (t.port p).nextSeq = 0 ∧ (t.port p).expect = 0 ∧ (t.port p).replay = []
          ∧ t.now = max s.now ((s.port p).enter + 8 * 33)
          ∧ maskBit (t.reg pg 0x08).toNat 8 = true)
    ∧ (runs → s.running pg = true → 2 ≤ st → st ≤ 4 → Completes (.klfTrainTimeout p) s fun t =>
        fell t 7 ∧ rests t ∧ t.now = max s.now ((s.port p).enter + 1280000))
    ∧ (∀ d, runs → s.running pg = true → (s.port p).quiet = some d → Completes (.klfDownQuietEnd p) s fun t =>
        (t.port p).quiet = none ∧ t.now = max s.now d
          ∧ (s.tu.porDone = true → st = 0 → s.on pg KLF_CTL.EN = true → s.quadActive p = true →
              s.laneRd p 0 LANE_STATl.SD = 0 → t.rd pg KLF_STAT.STATE = 1))
    ∧ (∀ skew, runs → st = 5 → 256 < skew → Completes (.klfSkewExceeded p skew) s fun t => fell t 4 ∧ rests t)
    ∧ (∀ c, runs → s.on pg KLF_CTL.EN = true → 3 ≤ st → ctlBad (s.colRx p c) = true →
        Completes (.ctlColumnDiscard p c) s fun t =>
        (t.port p).trn = 0 ∧ t.rd pg KLF_CTL_ERR.COUNT = satAdd 32 (s.rd pg KLF_CTL_ERR.COUNT) 1)
    ∧ (runs → st = 5 → Completes (.idlInsert p) s fun t => Sends t p [idlColumn] ∧ t = { s with ports := t.ports })
    ∧ (runs → st ≠ 5 → s.quadActive p = true → s.on pgClk CLK_ROOT_STAT.JUDGED = true → s.on pg KLF_CTL.EN = false →
        Completes (.idlInsert p) s fun t =>
          (t.port p).wire = [(s.patColumn p).1] ∧ t = { (s.patColumn p).2 with ports := t.ports })

/-- R377, R378, R380–R384: a lane's signal, lock and block lock set and clear as they come and go, with their
events, and take an UP Kelef port down; with ADAPT a lane that locks keeps the peaking of the widest eye, the lowest
on a tie; a quad's rate and power changes complete; a scan starts on an idle locked lane of an active quad or is
refused, and ends with the count. States completion (Completes c s post: exec c s = next t for a t with post t,
under the conditions on the state and the operands named before it) of 11 commands: laneSignalDetect
(LANE_SIGNAL_DETECT), laneSignalLoss (LANE_SIGNAL_LOSS), laneLock (LANE_LOCK), laneLockLoss (LANE_LOCK_LOSS),
blockLockAcquire (BLOCK_LOCK_ACQUIRE), blockLockLost (BLOCK_LOCK_LOST), scanEnd (SCAN_END), lanePllRelock
(LANE_PLL_RELOCK), lanePowerMoveDone (LANE_POWER_MOVE_DONE), scanPoint (SCAN_POINT), scanSweep (SCAN_SWEEP). -/
def Obligations.LanesAndScans : Prop :=
  (∀ (s : State) (q l : Nat), s.laneOk q l = true → q < 48 →
    let falls (t : State) (cause : Nat) : Prop :=
      q < 16 → s.klfUp q = true → s.portRuns q = true → t.rd (pgKlf q) KLF_STAT.STATE = 0 ∧ t.rd (pgKlf q) KLF_DOWN.CAUSE = cause
    (s.tu.porDone = true → s.quadState q < 2 → (s.quad q).move ≠ some 2 → Completes (.laneSignalDetect q l) s fun t =>
      t.laneRd q l LANE_STATl.SD = 1
        ∧ (16 ≤ q → s.on pgTime TIME_STAT.HOLDOVER = false → t = { s with regs := t.regs }))
    ∧ (s.laneRd q l LANE_STATl.SD = 1 → Completes (.laneSignalLoss q l) s fun t =>
      t.laneRd q l LANE_STATl.SD = 0 ∧ maskBit (t.reg (pgLane q) 0x08).toNat 9 = true ∧ falls t 1)
    ∧ (∀ eyes, CanLock s q → s.laneRd q l LANE_STATl.SD = 1 →
        s.laneRd q l LANE_STATl.LOCK = 0 → Completes (.laneLock q l eyes) s fun t =>
      t.laneRd q l LANE_STATl.LOCK = 1
        ∧ (s.laneRd q l LANE_RXl.ADAPT = 0 → t.laneRd q l LANE_STATl.PEAK_USED = s.laneRd q l LANE_RXl.PEAK % 16)
        ∧ (s.laneRd q l LANE_RXl.ADAPT = 1 → ∀ k, k < 16 →
            eyes.getD k 0 ≤ eyes.getD (t.laneRd q l LANE_STATl.PEAK_USED) 0
              ∧ (k < t.laneRd q l LANE_STATl.PEAK_USED →
                  eyes.getD k 0 < eyes.getD (t.laneRd q l LANE_STATl.PEAK_USED) 0)))
    ∧ (s.laneRd q l LANE_STATl.LOCK = 1 → Completes (.laneLockLoss q l) s fun t =>
      t.laneRd q l LANE_STATl.LOCK = 0 ∧ t.laneRd q l LANE_STATl.BLOCK_LOCK = 0
        ∧ maskBit (t.reg (pgLane q) 0x08).toNat 8 = true ∧ (t.quad q).scans.find l = none ∧ falls t 2)
    ∧ (s.laneRuns q = true → s.laneBlocks q = true → s.laneRd q l LANE_STATl.LOCK = 1 → Completes (.blockLockAcquire q l) s fun t =>
      t.laneRd q l LANE_STATl.BLOCK_LOCK = 1)
    ∧ (s.laneRd q l LANE_STATl.BLOCK_LOCK = 1 → Completes (.blockLockLost q l) s fun t =>
      t.laneRd q l LANE_STATl.BLOCK_LOCK = 0 ∧ falls t 2)
    ∧ (∀ x counts, s.laneRuns q = true → (s.quad q).scans.find l = some x → x.op = 1 → Completes (.scanEnd q l counts []) s fun t =>
      t.laneRd q l LANE_SCAN_ERRl.COUNT = min (counts.headD 0) (2 ^ 32 - 1)
        ∧ t.laneRd q l LANE_SCAN_STATl.STATUS = 2 ∧ (t.quad q).scans.find l = none
        ∧ t.now = max s.now (x.start + x.point) ∧ maskBit (t.reg (pgLane q) 0x08).toNat 6 = true))
  ∧ (∀ (s : State) (q : Nat), s.quadOk q = true → s.laneRuns q = true →
    Completes (.lanePllRelock q) s (fun t => t.quad q = { s.quad q with relock := false } ∧ t = { s with quads := t.quads })
    ∧ (∀ r, (s.quad q).move = some r → s.rd (pgLane q) LANE_PWR.REQ = r → 16 ≤ q → Completes (.lanePowerMoveDone q) s fun t =>
      t.rd (pgLane q) LANE_PWR.STATE = r ∧ t.rd (pgLane q) LANE_PWR.MOVING = 0
        ∧ t.quad q = { s.quad q with move := none } ∧ t = { s with regs := t.regs, quads := t.quads }))
  ∧ (∀ (s : State) (q l phase volt dwell : Nat), q < 48 → l < 4 → Opens s (pgLane q) 0x110 →
    ((s.quad q).scans.find l = none → s.laneRd q l LANE_STATl.LOCK = 1 → s.quadState q = 0 →
      Completes (.scanPoint q l phase volt dwell) s (fun t =>
        (∃ x, (t.quad q).scans.find l = some x ∧ x.op = 1 ∧ x.start = s.now)
          ∧ t.laneRd q l LANE_SCAN_STATl.STATUS = 1 ∧ t.laneRd q l LANE_SCAN_CTLl.PHASE = phase % 2 ^ 6
          ∧ t.rd (pgLane q) PAGE_LEVEL.BUSY = 1 ∧ AnsweredOk t)
      ∧ (s.laneRd q l LANE_SCAN_DSTl_LO.ADDR % 64 = 0 → Completes (.scanSweep q l phase volt dwell) s fun t =>
        (∃ x, (t.quad q).scans.find l = some x ∧ x.op = 2 ∧ x.start = s.now ∧ x.dst = s.scanDst q l)
          ∧ t.laneRd q l LANE_SCAN_STATl.STATUS = 1 ∧ t.rd (pgLane q) PAGE_LEVEL.BUSY = 1 ∧ AnsweredOk t))
    ∧ (((s.quad q).scans.find l ≠ none ∨ s.laneRd q l LANE_STATl.LOCK = 0 ∨ s.quadState q ≠ 0) →
      ∀ c ∈ [Instr.scanPoint q l phase volt dwell, .scanSweep q l phase volt dwell], Completes c s fun t =>
        maskBit (t.reg (pgLane q) 0x08).toNat 12 = true ∧ t.quads = s.quads ∧ AnsweredOk t))

/-- R335–R340: a packet survives its frame: link fields, header and data give back what was sent. The oldest packet
of a channel is sent under its credits and kept for replay; a frame due for replay goes first. A good frame in
sequence is expected no longer and acknowledged, a bad one asks once for a replay, a repeated one is acknowledged
again. A timeout makes every frame due, and too many without progress take the port down. A link column returns
credits and frees frames; a discarded column does only what a discarded column does. States completion (Completes c
s post: exec c s = next t for a t with post t, under the conditions on the state and the operands named before it)
of 8 commands: frameSend (FRAME_SEND), frameReceive (FRAME_RECEIVE), ctlColumnDiscard (CTL_COLUMN_DISCARD),
replayTimeout (REPLAY_TIMEOUT), lnkSend (LNK_SEND), lnkReceive (LNK_RECEIVE), bcnReceive (BCN_RECEIVE), brpReceive
(BRP_RECEIVE). -/
def Obligations.FramesAndCredits : Prop :=
  (∀ (k : Packet) (seq : Nat), k.typ < 16 → k.status < 16 → k.len < 256 → k.tag < 2 ^ 16 → k.addr < 2 ^ 48 → k.ncol < 16 →
      (k.ctl = true → k.typ = 6) → (if k.ncol = 0 then k.data = 0 else k.data < 2 ^ (8 * (k.len + 1))) →
      (k.sr = true → k.hops < 32 ∧ k.idx < 32 ∧ k.route < 2 ^ 96 ∧ k.dst = 0 ∧ k.src = 0 ∧ k.orig = 0 ∧ k.ttl = 255
        ∧ k.spf = 0 ∧ k.spst = 0 ∧ k.opn = false ∧ k.itime = 0) →
      (k.sr = false → k.hops = 0 ∧ k.idx = 0 ∧ k.route = 0 ∧ k.dst < 2 ^ 12 ∧ k.src < 2 ^ 12 ∧ k.orig < 256 ∧ k.ttl < 256
        ∧ k.spf < 8 ∧ k.spst < 8 ∧ k.itime < 2 ^ 32) →
    Packet.ofFrame (k.linkFields seq) k.header k.data = k ∧ k.linkFields seq % 2 ^ 12 = seq % 2 ^ 12 ∧ k.header < 2 ^ 192
      ∧ (k.data < 2 ^ (256 * k.ncol) → ∃ h ds, k.onWire seq = h :: ds ∧ ctlKind h = some .hdr ∧ frameGood h ds = true
          ∧ Packet.ofFrame (hdrLink h) (hdrHeader h) (dataOf ds) = k ∧ hdrLink h % 2 ^ 12 = seq % 2 ^ 12))
  ∧ (∀ (s : State) (p vc : Nat) (e : TxEnt), s.portRuns p = true → s.klfUp p = true → vc < 4 →
      (s.port p).replay.find? (·.due) = none → ((s.port p).txq.find? fun e => e.pkt.vc == vc) = some e →
      s.credited p e.pkt = true → (s.port p).held + e.pkt.cols ≤ 512 → (s.port p).replay.length < 256 →
    Completes (.frameSend p vc) s fun t =>
      (t.port p).replay = (s.port p).replay ++ [⟨(s.port p).nextSeq, e.pkt, s.now, false⟩]
        ∧ (t.port p).nextSeq = ((s.port p).nextSeq + 1) % 4096 ∧ (t.port p).txq = (s.port p).txq.erase e
        ∧ Sends t p (e.pkt.onWire (s.port p).nextSeq)
        ∧ t.rd (pgKlf p) (creditFld vc) = s.rd (pgKlf p) (creditFld vc) - e.pkt.cols)
  ∧ (∀ (s : State) (p vc : Nat) (f : KFrame), s.portRuns p = true → s.klfUp p = true → vc < 4 →
      (s.port p).replay.find? (·.due) = some f → s.credited p f.pkt = true → Completes (.frameSend p vc) s fun t =>
    Sends t p (f.pkt.onWire f.seq) ∧ (t.port p).txq = (s.port p).txq
      ∧ (∀ g ∈ (t.port p).replay, g.seq = f.seq → g.due = false)
      ∧ t.rd (pgKlf p) (creditFld f.pkt.vc) = s.rd (pgKlf p) (creditFld f.pkt.vc) - f.pkt.cols)
  ∧ (∀ (s : State) (p : Nat) (h0 : Column) (ds0 : List Column) (e : Ecc), Hears s p →
    let h := s.colRx p h0
    let ds := ds0.map (s.colRx p)
    h.isCtl = true → ctlKind h = some .hdr →
    let k := Packet.ofFrame (hdrLink h) (hdrHeader h) (dataOf ds)
    let seq := hdrLink h % 2 ^ 12
    (frameGood h ds = false → Completes (.frameReceive p h0 ds0 e) s fun t =>
      t.rd (pgKlf p) KLF_CRC_ERR.COUNT = satAdd 32 (s.rd (pgKlf p) KLF_CRC_ERR.COUNT) 1
        ∧ maskBit (t.reg (pgKlf p) 0x08).toNat 10 = true ∧ (t.port p).naked = true
        ∧ (t.port p).nakDue = ((s.port p).nakDue || !(s.port p).naked)
        ∧ (t.port p).expect = (s.port p).expect ∧ (t.port p).rx = (s.port p).rx)
    ∧ (frameGood h ds = true → seq = (s.port p).expect → Completes (.frameReceive p h0 ds0 e) s fun t =>
      (t.port p).expect = (seq + 1) % 4096 ∧ (t.port p).ackDue = true ∧ (t.port p).naked = false
        ∧ (k.typ < 11 → k.sr = true → (t.port p).rx = (s.port p).rx ++ [k]))
    ∧ (frameGood h ds = true → seq ≠ (s.port p).expect → ((s.port p).expect + 4096 - seq) % 4096 ≤ 2048 →
      Completes (.frameReceive p h0 ds0 e) s fun t =>
        (t.port p).ackDue = true ∧ (t.port p).expect = (s.port p).expect ∧ (t.port p).rx = (s.port p).rx)
    ∧ (frameGood h ds = true → 2048 < ((s.port p).expect + 4096 - seq) % 4096 →
      Completes (.frameReceive p h0 ds0 e) s fun t => (t.port p).naked = true
        ∧ (t.port p).nakDue = ((s.port p).nakDue || !(s.port p).naked)
        ∧ (t.port p).expect = (s.port p).expect ∧ (t.port p).rx = (s.port p).rx))
  ∧ (∀ (s : State) (p : Nat) (c : Column) (ds : List Column) (e : Ecc) (t2 t3 : Nat), Hears s p →
      ctlBad (s.colRx p c) = true →
    ∀ i ∈ [Instr.lnkReceive p c, .bcnReceive p c t2 t3, .brpReceive p c t3, .frameReceive p c ds e],
      exec i s = exec (.ctlColumnDiscard p c) s)
  ∧ (∀ (s : State) (p : Nat) (f : KFrame) (rest : List KFrame), s.portRuns p = true → s.klfUp p = true →
      (s.port p).replay = f :: rest →
    ((s.port p).mark ≠ some (s.port p).acked → Completes (.replayTimeout p) s fun t =>
      (t.port p).replay = (s.port p).replay.map (fun g => { g with due := true }) ∧ t.klfUp p = true
        ∧ t.now = max s.now (f.sentAt + 128 * max 1 (s.rd (pgKlf p) KLF_RETRY_CFG.ACK_TO))
        ∧ t.rd (pgKlf p) KLF_REPLAY.COUNT = satAdd 32 (s.rd (pgKlf p) KLF_REPLAY.COUNT) 1)
    ∧ ((s.port p).mark = some (s.port p).acked → max 1 (s.rd (pgKlf p) KLF_RETRY_CFG.LIMIT) ≤ (s.port p).stuck + 1 →
      Completes (.replayTimeout p) s fun t =>
        t.rd (pgKlf p) KLF_STAT.STATE = 0 ∧ t.rd (pgKlf p) KLF_DOWN.CAUSE = 3
          ∧ maskBit (t.rd pgKlfRt KLF_FAILED.PORTS) p = true))
  ∧ (∀ (s : State) (p : Nat), s.portRuns p = true → s.klfUp p = true →
    let now := 16 ≤ (s.port p).owe.foldl (· + ·) 0 ∨ (s.port p).nakDue = true
    now ∨ (s.port p).ackDue = true → Completes (.lnkSend p) s fun t =>
      Sends t p [ctlColumn .lnk (s.port p).lnkWord] ∧ (t.port p).lnkT = t.now ∧ (t.port p).ackDue = false
        ∧ (t.port p).nakDue = false ∧ (t.port p).owe = (s.port p).owe.map (· - 255)
        ∧ t = { s with ports := t.ports, now := t.now }
        ∧ (now → t.now = s.now) ∧ (¬ now → t.now = max s.now ((s.port p).lnkT + 2112)))
  ∧ (∀ (s : State) (p : Nat) (c0 : Column), Hears s p →
    let c := s.colRx p c0
    c.isCtl = true → ctlKind c = some .lnk → maskBit c.payload 13 = false → Completes (.lnkReceive p c0) s fun t =>
      (∀ v, v < 4 → t.rd (pgKlf p) (creditFld v)
          = min (vcAlloc v) (s.rd (pgKlf p) (creditFld v) + c.payload / 2 ^ (26 + 8 * v) % 256))
        ∧ t.port p = (if maskBit c.payload 12 then (s.port p).ack (c.payload % 2 ^ 12) else s.port p)
        ∧ t = { s with regs := t.regs, ports := t.ports })

/-- R340–R346, R348, R351, R357, R361, R363, R364: the next packet of its kind that a port holds is consumed: a
request is performed and answered to its source, a response goes to the initiator that holds its tag or is late, a
stream packet goes to its sink, a probe is answered with the run's state, or with DIE_DOWN where its die is lost, a
source-routed packet goes on along its route, unless the dateline rule stops it (R359), and a broadcast that does
not come from the tree's parent is dropped. A tag without a response is answered UNREACHABLE. The routing page takes
a device number once, entries where the table is open, and clears FAILED bits, but for that of a port that has left
UP in this very clock. States completion (Completes c s post: exec c s = next t for a t with post t, under the
conditions on the state and the operands named before it) of 12 commands: klfRespReceive (KLF_RESP_RECEIVE),
klfStreamReceive (KLF_STREAM_RECEIVE), probe (PROBE), runend (RUNEND), klfRequestIngress (KLF_REQUEST_INGRESS),
sourceRoutedReceive (SOURCE_ROUTED_RECEIVE), bcastReceive (BCAST_RECEIVE), klfRspTimeout (KLF_RSP_TIMEOUT),
devidWrite (DEVID_WRITE), rtWrite (RT_WRITE), rtRead (RT_READ), failedClear (FAILED_CLEAR). -/
def Obligations.PacketsAndRouting : Prop :=
  (∀ (s : State) (p : Nat) (q : Packet),
    (s.rxFirst p .resp = some q → ∀ x, s.egr.find (q.tag % 2 ^ 12) = some x →
        s.egrGen.getD (q.tag % 2 ^ 12) 0 = q.tag / 2 ^ 12 % 16 → Completes (.klfRespReceive p) s fun t =>
      t.answers = s.answers ++ [⟨x.init, x.num, q.status, q.unsure, q.spst, q.spf, if q.status = 0 then q.data else 0⟩]
        ∧ t.egr.find (q.tag % 2 ^ 12) = none ∧ (t.port p).rx = (s.port p).rx.erase q)
    ∧ (s.rxFirst p .resp = some q → (s.egr.find (q.tag % 2 ^ 12) = none
          ∨ s.egrGen.getD (q.tag % 2 ^ 12) 0 ≠ q.tag / 2 ^ 12 % 16) → Completes (.klfRespReceive p) s fun t =>
      t.answers = s.answers ∧ t.rd pgKlfCom KLF_LATE.COUNT = satAdd 32 (s.rd pgKlfCom KLF_LATE.COUNT) 1)
    ∧ (s.rxFirst p .stream = some q → 0x40 ≤ q.addr % 256 → q.addr % 256 < 0x80 →
        (s.sinks.getD (q.addr % 256) []).length < 64 → Completes (.klfStreamReceive p) s fun t =>
      t.sinks.getD (q.addr % 256) [] = s.sinks.getD (q.addr % 256) [] ++ [q] ∧ (t.port p).rx = (s.port p).rx.erase q)
    ∧ (s.rxFirst p .probe = some q → Completes (.probe p) s fun t => ∃ r : Packet, t = (s.rxDone p q).post r
        ∧ r.typ = 6 ∧ r.tag = q.tag ∧ r.dst = q.src ∧ r.ctl = true
        ∧ ((s.die (q.addr % 16 / 4 + 1)).lost = false → r.status = 0
            ∧ r.data % 2 ^ 32 = (s.reg (pgSeq (q.addr % 16)) SEQ_RUN.STATE.off).toNat)
        ∧ ((s.die (q.addr % 16 / 4 + 1)).lost = true → r.status = BusStatus.dieDown.code))
    ∧ (s.rxFirst p .runend = some q → Completes (.runend p) s fun t =>
        t = (s.rxDone p q).partnerEnded q.src (q.addr % 16))
    ∧ (∀ ecc st v u, s.rxFirst p .request = some q → q.typ ≤ 2 → (s.port p).ing = none → q.addr % 64 + q.len < 64 →
        s.bus (q.piece 0 ecc) = (some (st, v), u) → Completes (.klfRequestIngress p ecc []) s fun t =>
      let w := if q.typ ≠ 0 ∧ (busDie (q.piece 0 ecc).addr).any (·.2) = true then u.foreignWrite q.src else u
      t = ((w.modPort p fun y => { y with ing := none }).rxDone p q).post
        (q.answered (q.reply s.ownDev 0) (({} : IngX).after (q.len + 1) st v)))
    ∧ (∀ ecc u x v, s.rxFirst p .request = some q → 3 ≤ q.typ →
        let n := if q.typ = 3 then spPush (q.addr % 2 ^ 13) q.src q.data (maskBit q.spf 0) (maskBit q.spf 1)
          else if q.typ = 4 then spPop (q.addr % 2 ^ 13) else spFlush (q.addr % 2 ^ 13)
        s.spIssue 8 n = (.go, u) →
        (if q.typ = 3 then u.spoolPush (q.addr % 2 ^ 13) 8 q.src q.data (maskBit q.spf 0) (maskBit q.spf 1)
          else if q.typ = 4 then u.spoolPop (q.addr % 2 ^ 13) 8 (ecc.headD .clean)
          else u.spoolFlush (q.addr % 2 ^ 13) 8) = (x, v) → Completes (.klfRequestIngress p ecc []) s fun t =>
      ∃ r : Packet, t = ((v.spBack 8 n x).rxDone p q).post r ∧ r.typ = 6 ∧ r.tag = q.tag ∧ r.dst = q.src
        ∧ r.status = x.status.code ∧ r.spst = x.st ∧ r.spf = x.spf
        ∧ (q.typ = 4 → x.status = .ok → x.st = spOk ∨ x.st = spCellErr → r.data = x.cell ∧ r.len = 63))
    ∧ (s.rxFirst p .route = some q → q.idx + 1 < q.hops → s.portOk (routeAt q.route q.idx) = true →
        s.klfUp (routeAt q.route q.idx) = true →
      (s.turnOk p (routeAt q.route q.idx) = true → Completes (.sourceRoutedReceive p [] []) s fun t =>
        (t.port (routeAt q.route q.idx)).txq = (s.port (routeAt q.route q.idx)).txq
            ++ [⟨{ q with route := routePut q.route q.idx p, idx := q.idx + 1 }, some p, 0⟩]
          ∧ (t.port p).rx = (s.port p).rx.erase q)
      ∧ (s.turnOk p (routeAt q.route q.idx) = false → Completes (.sourceRoutedReceive p [] []) s fun t =>
        t.rd pgKlfRt KLF_TURN_ERR.COUNT = satAdd 32 (s.rd pgKlfRt KLF_TURN_ERR.COUNT) 1
          ∧ maskBit (t.reg pgKlfRt 0x08).toNat 12 = true ∧ (t.port p).rx = (s.port p).rx.erase q))
    ∧ (s.rxFirst p .bcast = some q → s.on pgKlfRt KLF_BCAST.UP_V = false → q.typ = 7 →
      Completes (.bcastReceive p) s fun t =>
        t.rd pgKlfRt KLF_BCAST_DROP.COUNT = satAdd 32 (s.rd pgKlfRt KLF_BCAST_DROP.COUNT) 1
          ∧ maskBit (t.reg pgKlfRt 0x08).toNat 13 = true ∧ (t.port p).rx = (s.port p).rx.erase q ∧ t.sinks = s.sinks)
    ∧ (s.rxFirst p .bcast = some q → s.sinkWaits q = false → s.on pgKlfRt KLF_BCAST.UP_V = true →
        s.rd pgKlfRt KLF_BCAST.UP_PORT = p → q.typ = 7 → s.rd pgKlfRt KLF_BCAST_FWD.FWD = 0 →
        maskBit (s.rd pgKlfRt KLF_BCAST.GROUPS) (bitsOf q.addr 10 8) = true →
      Completes (.bcastReceive p) s fun t =>
        t.sinks = (s.sinkPush q).sinks ∧ (t.port p).rx = (s.port p).rx.erase q))
  ∧ (∀ (s : State) (tag : Nat) (x : EgrX), s.egr.find tag = some x → Completes (.klfRspTimeout tag) s fun t =>
      t.answers = s.answers ++ [⟨x.init, x.num, BusStatus.unreachable.code, true, 0, 0, 0⟩] ∧ t.egr.find tag = none
        ∧ t.now = max s.now (x.issued + 12800 * max 1 (s.rd pgKlfCom KLF_RSP_TO.UNITS))
        ∧ maskBit (t.reg pgKlfCom 0x08).toNat 9 = true)
  ∧ (∀ (s : State) (v : Nat),
    (Opens s pgKlfRt 0x40 →
      (s.hasDev = false → v % 2 ^ 12 ≠ 0 → v % 2 ^ 12 ≠ 0xFFF → Completes (.devidWrite v) s fun t =>
        t.ownDev = v % 2 ^ 12 ∧ t.rd pgKlfRt KLF_DEVID.ASSIGNED = 1 ∧ maskBit (t.reg pgKlfRt 0x08).toNat 8 = true
          ∧ AnsweredOk t)
      ∧ (v % 2 ^ 12 = 0xFFF → Completes (.devidWrite v) s fun t =>
        t.ownDev = 0xFFF ∧ t.rd pgKlfRt KLF_DEVID.ASSIGNED = 0 ∧ t.ports = s.ports ∧ AnsweredOk t)
      ∧ ((v % 2 ^ 12 = 0 ∨ (s.hasDev = true ∧ v % 2 ^ 12 ≠ 0xFFF)) → Completes (.devidWrite v) s fun t =>
        t.ownDev = s.ownDev ∧ maskBit (t.reg pgKlfRt 0x08).toNat 9 = true ∧ t.ports = s.ports ∧ AnsweredOk t))
    ∧ (Opens s pgKlfRt 0x54 →
      let b := s.rd pgKlfRt KLF_RT_ADDR.BANK
      let i := s.rd pgKlfRt KLF_RT_ADDR.ID
      (∀ hit, Completes (.rtWrite v hit) s (fun t =>
        (s.rtOpen b i = true → rtPri (t.rtEntry b i) = v % 16 ∧ rtPriV (t.rtEntry b i) = maskBit v 4
            ∧ rtAlt (t.rtEntry b i) = v / 2 ^ 8 % 16 ∧ rtAltV (t.rtEntry b i) = maskBit v 12
            ∧ (hit = .clean → t.rtHit.getD (rtKey b i) 0 = 0)
            ∧ ∀ k, k ≠ rtKey b i → t.rt.find k = s.rt.find k)
          ∧ (s.rtOpen b i = false → t.rt = s.rt ∧ t.rtHit = s.rtHit ∧ maskBit (t.reg pgKlfRt 0x08).toNat 10 = true)
          ∧ t.rd pgKlfRt KLF_RT_ADDR.ID = (if s.on pgKlfRt KLF_RT_ADDR.AUTOINC then (i + 1) % 4096 else i)
          ∧ AnsweredOk t))
      ∧ Completes .rtRead s fun t => AnsweredOk t (s.rtEntry b i) ∧ t.rt = s.rt
          ∧ t.rd pgKlfRt KLF_RT_ADDR.ID = (if s.on pgKlfRt KLF_RT_ADDR.AUTOINC then (i + 1) % 4096 else i))
    ∧ (Opens s pgKlfRt 0x60 → Completes (.failedClear v) s fun t =>
      (∀ p, p < 16 → maskBit (t.rd pgKlfRt KLF_FAILED.PORTS) p = (maskBit (s.rd pgKlfRt KLF_FAILED.PORTS) p
          && (!maskBit v p || ((s.port p).fell == some s.now && !s.klfUp p && s.clocksOnFor pgKlfRt))))
        ∧ AnsweredOk t ∧ t = { s with regs := t.regs, resp := t.resp }))

/-! ### Logic fabric -/

/-- R317, R419–R424: a request of a fabric port that is ready takes a free tag and joins the port's queue, from
which it is issued; one of an unlisted operation is answered DECODE. When an issued request is performed its
response waits in the space of its tag; when the fabric takes it on RS the tag returns. A stream packet costs its
sender a credit, waits at the receiver, and gives the credit back when the fabric takes it, or when a router on its
way discards it. Serial entries are queued, or lost and counted when the queue is full, and sent oldest first. A
TCLK edge delivers the taps' windows and the words of the seam groups, moves the fabric's side of the serial queues,
and counts the raw lanes that had no word to send. States completion (Completes c s post: exec c s = next t for a t
with post t, under the conditions on the state and the operands named before it) of 8 commands: fabricPortRequest
(FABRIC_PORT_REQUEST), fabricPortResponse (FABRIC_PORT_RESPONSE), fabricStreamSend (FABRIC_STREAM_SEND),
streamPacketReceive (STREAM_PACKET_RECEIVE), fabricStreamTake (FABRIC_STREAM_TAKE), serialRxByte (SERIAL_RX_BYTE),
serialTxByte (SERIAL_TX_BYTE), tclkEdge (TCLK_EDGE). -/
def Obligations.FabricPortsAndSerials : Prop :=
  (∀ (s : State) (i op addr len be data spf : Nat) (opn : Bool), s.fabLive i = true → (s.fab i).ready = true →
      s.tagsFree (fabInit i) 1 = true →
    (Completes (.fabricPortRequest i op addr len be data spf opn) s fun t => ∃ (u : State) (r : FabReq),
      t = u.fabPump i ∧ u = { s with fabs := u.fabs, nocs := u.nocs, regs := u.regs }
        ∧ (u.fab i).queue = (s.fab i).queue ++ [r] ∧ r.tag < 1024
        ∧ (∀ y ∈ (s.fab i).queue, y.tag ≠ r.tag) ∧ (∀ y ∈ (s.fab i).wait, y.tag ≠ r.tag)
        ∧ r.op = op % 16 ∧ r.addr = addr % 2 ^ 64 ∧ r.len = len % 64 ∧ r.data = data % 2 ^ 512 ∧ r.opn = opn
        ∧ u.fabRd i FAB_PORTf_STAT.TAGS = (s.fab i).tags + 1)
    ∧ (6 ≤ op % 16 → (s.fab i).queue = [] → Completes (.fabricPortRequest i op addr len be data spf opn) s fun t =>
      (t.fab i).wait = (s.fab i).wait ++ [⟨(s.fab i).freeTag, BusStatus.decode.code, 0, 0, 0⟩] ∧ (t.fab i).queue = []))
  ∧ (∀ (s u : State) (i a dev : Nat) (r : FabReq) (ecc : List Ecc), i < 64 → s.running (pgFabOf i) = true →
      (s.die (i / 16 + 1)).lost = false → (s.answers.find? fun y => y.init == fabInit i) = none →
      (s.fab i).queue = [r] → r.gone = false → r.op ≤ 2 → s.fabHeld i = false →
    (s.global r.addr = .here a → a % 64 + (r.len + 1) ≤ 64 → s.busSend (r.bus i a []) = (.go, u) →
      Completes (.fabricPortResponse i 1 false ecc []) s fun t =>
        (t.fab i).queue = (u.fab i).queue.map fun y => if y.tag = r.tag then { y with gone := true, sent := none } else y)
    ∧ (s.global r.addr = .there dev a → s.sendRemote (fabInit i) s.fresh (r.len + 1) (r.packet dev a) = (.out, u) →
      Completes (.fabricPortResponse i 1 false ecc []) s fun t => (t.fab i).queue
        = (u.fab i).queue.map fun y => if y.tag = r.tag then { y with gone := true, sent := some s.fresh } else y))
  ∧ (∀ (s u : State) (i k : Nat) (r : FabReq) (ecc : List Ecc), i < 64 → (s.die (i / 16 + 1)).lost = false →
      (∀ y ∈ (s.fab i).queue, y.gone = true) →
    ((s.answers.find? fun y => y.init == fabInit i) = none →
        ((s.fab i).queue.filter fun y => y.gone && y.sent.isNone)[k]? = some r →
      (∀ st d, r.op ≤ 2 → s.busFirst (r.bus i (r.addr % 2 ^ 48) ecc) = true →
          s.busServe (r.bus i (r.addr % 2 ^ 48) ecc) = (some (st, d), u) → u.fabHeld i = false →
        Completes (.fabricPortResponse i k false ecc []) s fun t =>
          (t.fab i).wait = (u.fab i).wait ++ [⟨r.tag, st.code, 0, 0, d * 2 ^ (8 * (r.addr % 64))⟩]
            ∧ (t.fab i).queue = (u.fab i).queue.filter fun y => y.tag != r.tag)
      ∧ (∀ x, 3 ≤ r.op → s.spCircles (fabInit i) r.spool.addr = false → s.inTurn (fabInit i) r.spool.is = true →
          s.fabSpool i r ecc = (x, u) → (u.spBack (fabInit i) r.spool x).fabHeld i = false →
        Completes (.fabricPortResponse i k false ecc []) s fun t =>
          (t.fab i).wait = ((u.spBack (fabInit i) r.spool x).fab i).wait ++ [⟨r.tag, x.status.code, x.st, x.spf, x.cell⟩]
            ∧ ∀ y ∈ (t.fab i).queue, y.tag ≠ r.tag))
    ∧ (∀ y, s.takeAnswer (fabInit i) (s.fabBytes i) = some (y, u) →
        ((u.fab i).queue.find? fun q => q.sent == some y.num) = some r → u.fabHeld i = false →
      Completes (.fabricPortResponse i k false ecc []) s fun t =>
        (t.fab i).wait = (u.fab i).wait ++ [⟨r.tag, y.status, y.spst, y.spf, y.data * 2 ^ (8 * (r.addr % 64))⟩]
          ∧ (t.fab i).queue = (u.fab i).queue.filter fun q => q.tag != r.tag)
    ∧ (∀ w rest, (s.answers.find? fun y => y.init == fabInit i) = none → (s.fab i).queue = [] → s.fabLive i = true →
        (s.fab i).wait = w :: rest → Completes (.fabricPortResponse i k true ecc []) s fun t =>
      (t.fab i).rs = some w ∧ (t.fab i).wait = rest ∧ t.fabRd i FAB_PORTf_STAT.TAGS = rest.length % 2 ^ 11))
  ∧ (∀ (s : State) (i data d : Nat), s.fabLive i = true → s.fabRd i FAB_PORTf_CFG.STREAM = 1 →
      s.fabRd i FAB_PORTf_STAT.CREDITS ≠ 0 → (s.noc (i / 16 + 1)).paused.contains (0x40 + i) = false →
      s.fabDst i = some d → Completes (.fabricStreamSend i data) s fun t =>
    t.fabRd i FAB_PORTf_STAT.CREDITS = s.fabRd i FAB_PORTf_STAT.CREDITS - 1
      ∧ (t.fab d).air = (s.fab d).air ++ [⟨some i, 63, data % 2 ^ 512, some (s.streamHdr i d)⟩]
      ∧ ∀ k, k ≠ d → t.fab k = s.fab k)
  ∧ (∀ (s : State) (i : Nat), i < 64 → (s.fab i).sr.length < 64 →
    let back (t : State) (j : Nat) : Prop :=
      t.fabRd j FAB_PORTf_STAT.CREDITS = min 64 (s.fabRd j FAB_PORTf_STAT.CREDITS + 1)
    (∀ k rest h, (s.fab i).air = k :: rest → s.streamWay k = some (.arrives h) → s.fabHeld i = false →
        Completes (.streamPacketReceive i false) s fun t =>
      (t.fab i).sr = (s.fab i).sr ++ [{ k with hdr := some h }] ∧ (t.fab i).air = rest
        ∧ t.fabRd i FAB_PORTf_STAT.RXBUF = (s.fab i).sr.length + 1)
    ∧ (∀ k rest r j, (s.fab i).air = k :: rest → s.streamWay k = some (.stops r) → k.src = some j → j < 64 →
        Completes (.streamPacketReceive i false) s fun t => (t.fab i).sr = (s.fab i).sr ∧ (t.fab i).air = rest ∧ back t j)
    ∧ (∀ k rest h j, (s.fab i).air = k :: rest → s.streamWay k = some (.arrives h) → s.fabHeld i = true →
        k.src = some j → j < 64 → Completes (.streamPacketReceive i false) s fun t =>
      (t.fab i).sr = (s.fab i).sr ∧ (t.fab i).air = rest ∧ back t j)
    ∧ (∀ k rest, (s.fab i).air = k :: rest → s.streamWay k = some .circles →
        Completes (.streamPacketReceive i false) s fun t => t = s)
    ∧ (∀ q rest, s.sinks.getD (0x40 + i) [] = q :: rest → s.fabHeld i = false →
        Completes (.streamPacketReceive i true) s fun t =>
      (t.fab i).sr = (s.fab i).sr ++ [⟨none, q.len, q.data, none⟩] ∧ t.sinks.getD (0x40 + i) [] = rest))
  ∧ (∀ (s : State) (i j : Nat) (k : FabPkt) (rest : List FabPkt), s.fabLive i = true → (s.fab i).sr = k :: rest →
      k.src = some j → j < 64 → Completes (.fabricStreamTake i) s fun t =>
    (t.fab i).sr = rest ∧ (t.fab i).got = some k
      ∧ t.fabRd j FAB_PORTf_STAT.CREDITS = min 64 (s.fabRd j FAB_PORTf_STAT.CREDITS + 1))
  ∧ (∀ (s : State) (i v : Nat) (bad : Bool), s.serLive i = true →
    let mode := s.serRd i FAB_SPk_CFG.MODE
    let w := if mode = 3 then v % 2 ^ 9 else v % 2 ^ 8
    let queued (t : State) : Prop :=
      t.ser i = { s.ser i with rx := (s.ser i).rx ++ [w] } ∧ t.serRd i FAB_SPk_STAT.RXQ = (s.ser i).rx.length + 1
    let lost (t : State) : Prop := t.sers = s.sers
      ∧ t.serRd i FAB_SPk_STAT.RX_LOST = satAdd 16 (s.serRd i FAB_SPk_STAT.RX_LOST) 1
      ∧ maskBit (t.reg (pgFab (i / 4 + 1)) 0x08).toNat 10 = true
    let checked := bad = true ∧ mode = 1 ∧ s.serRd i FAB_SPk_CFG.PARITY = 1
    (¬ checked → (s.ser i).rx.length < 16 → Completes (.serialRxByte i v bad) s queued)
    ∧ (¬ checked → 16 ≤ (s.ser i).rx.length → Completes (.serialRxByte i v bad) s lost)
    ∧ (checked → Completes (.serialRxByte i v bad) s fun t => (t.sers = s.sers ∧ t.regs = s.regs)
        ∨ ((s.ser i).rx.length < 16 ∧ queued t) ∨ (16 ≤ (s.ser i).rx.length ∧ lost t))
    ∧ (∀ w rest, (s.ser i).tx = w :: rest → Completes (.serialTxByte i) s fun t =>
      t.ser i = { s.ser i with tx := rest, sent := some w, line := s.serWord i w, began := t.now }
        ∧ t.now = max s.now ((s.ser i).began
            + (s.serWord i w).length * serBit mode (s.serRd i FAB_SPk_CFG.DIV))))
  ∧ (∀ (s : State) (p : Nat), panelOk p = true → s.netRuns p 8 = true → (s.die p).lost = false →
    (∀ put get seam tx rx seen, Completes (.tclkEdge p put get seam tx rx seen) s fun t =>
      t.now = boundaryAt 32 s.now (s.die p).tclkAt ∧ (t.die p).tclkAt = t.now)
    ∧ ((s.darn p).frames = [] → Completes (.tclkEdge p [] [] [] [] [] []) s fun t =>
      (t.logic p).seam = (s.logic p).coming ∧ (t.logic p).coming = [] ∧ t.sers = s.sers
        ∧ t.rd (pgFab p) FAB_TX_UNDER.COUNT = satAdd 32 (s.rd (pgFab p) FAB_TX_UNDER.COUNT)
            ((List.range 32).filter fun l => s.laneLive p l && !s.laneBlocks (laneQuad p l)).length
        ∧ ((∃ l, l < 32 ∧ s.laneLive p l = true ∧ s.laneBlocks (laneQuad p l) = false) →
            maskBit (t.reg (pgFab p) 0x08).toNat 9 = true)
        ∧ ∀ i, i < 4 → s.on (pgEdg (4 * (p - 1) + i)) EDG_BANK_CFG.TS_TAP = true →
            s.tileHeld p (bankTile (4 * (p - 1) + i)) = false →
            (t.bank (4 * (p - 1) + i)).tap = some (t.now - 32, (s.bank (4 * (p - 1) + i)).window t.now))
    ∧ (∀ k v, k < 4 → (s.darn p).frames = [] → s.serLive (4 * (p - 1) + k) = true →
          s.serRd (4 * (p - 1) + k) FAB_SPk_CFG.CLK = 8 →
        ((s.ser (4 * (p - 1) + k)).tx.length < 16 → Completes (.tclkEdge p [(k, v)] [] [] [] [] []) s fun t =>
          (t.ser (4 * (p - 1) + k)).tx = (s.ser (4 * (p - 1) + k)).tx ++ [v % 2 ^ 10])
        ∧ ∀ w rest, (s.ser (4 * (p - 1) + k)).rx = w :: rest → Completes (.tclkEdge p [] [k] [] [] [] []) s fun t =>
          (t.ser (4 * (p - 1) + k)).rx = rest ∧ (t.ser (4 * (p - 1) + k)).got = some w))

/-! ### Configuration and power -/

/-- R390, R391, R394, R395, R398, R399: the first packet of a stream, with tag 0, begins it; the next in order is
appended; any other tag but 0 ends it with cause 11, and silence with cause 12. A header that fails a check ends the
stream with that check's cause and leaves every region as it was; one that passes makes its region, or the bases of
the released panels that are not lost, LOADING. CLR_ERR deasserts CONF_ERR_N. States completion (Completes c s post:
exec c s = next t for a t with post t, under the conditions on the state and the operands named before it) of 4
commands: cfgStreamPacket (CFG_STREAM_PACKET), cfgStreamTimeout (CFG_STREAM_TIMEOUT), cfgHeaderVerified
(CFG_HEADER_VERIFIED), clrErr (CLR_ERR). -/
def Obligations.StreamsBeginAndHeadersAreChecked : Prop :=
  (∀ (s : State) (k : Packet) (rest : List Packet), s.sinks.getD 0 [] = k :: rest → s.cfgFull = false →
    s.running pgCfg = true → s.on pgCfg CFG_CTL.STREAM_EN = true → s.hub.first = true →
    let n := k.len + 1
    (s.cfg.stream = none → k.tag = 0 → Completes .cfgStreamPacket s fun t =>
      t.cfg.stream = some { tag := 1, buf := k.data % 2 ^ (8 * n), len := n, last := s.now }
        ∧ t.rd pgCfg CFG_STAT.STATE = 1 ∧ t.rd pgCfg PAGE_LEVEL.BUSY = 1 ∧ t.rd pgCfg CFG_BLK.DONE = 0
        ∧ t = { s with regs := t.regs, cfg := t.cfg, sinks := s.sinks.setD 0 [] rest })
    ∧ (∀ x, s.cfg.stream = some x → k.tag = x.tag → Completes .cfgStreamPacket s fun t =>
      t.cfg.stream = some { x with tag := (k.tag + 1) % 2 ^ 16, buf := x.buf + k.data % 2 ^ (8 * n) * 2 ^ (8 * x.len), len := x.len + n, last := s.now }
        ∧ t = { s with cfg := t.cfg, sinks := s.sinks.setD 0 [] rest })
    ∧ (∀ x, s.cfg.stream = some x → k.tag ≠ x.tag → k.tag ≠ 0 → Completes .cfgStreamPacket s fun t =>
      t.cfg.stream = none ∧ t.rd pgCfg CFG_STAT.CAUSE = 11 ∧ t.rd pgCfg CFG_STAT.STATE = 0
        ∧ t.rd pgCfg CFG_STAT.ERR = 1 ∧ maskBit (t.reg pgCfg 0x08).toNat 6 = true))
  ∧ (∀ (s : State) (x : StreamX), s.cfg.stream = some x → s.running pgCfg = true → Completes .cfgStreamTimeout s fun t =>
      t.cfg.stream = none ∧ t.rd pgCfg CFG_STAT.CAUSE = 12 ∧ t.rd pgCfg CFG_STAT.STATE = 0
        ∧ t.now = max s.now (x.last + 1280000 * max 1 (s.rd pgCfg CFG_CTL.TIMEOUT)))
  ∧ (∀ (s : State) (x : StreamX) (h : Nat), s.cfg.stream = some x → s.running pgCfg = true →
      s.rd pgCfg CFG_STAT.STATE = 1 → 512 ≤ x.len → h = x.buf % 2 ^ 4096 →
    (∀ c, s.headerCause h = some c → Completes .cfgHeaderVerified s fun t =>
      t.cfg.stream = none ∧ t.rd pgCfg CFG_STAT.CAUSE = c ∧ t.rd pgCfg CFG_STAT.STATE = 0
        ∧ t.cfg.tiles = s.cfg.tiles ∧ (∀ r, r < 32 → t.regionState r = s.regionState r)
        ∧ ∀ p, panelOk p = true → t.baseState p = s.baseState p)
    ∧ (s.headerCause h = none → Completes .cfgHeaderVerified s fun t =>
      t.rd pgCfg CFG_STAT.STATE = 2 ∧ t.rd pgCfg CFG_BLK.NBLK = hdrAt h 8 4 ∧ t.rd pgCfg CFG_BLK.DONE = 0
        ∧ (maskBit (hdrAt h 6 2) 0 = false → t.regionState (hdrAt h 0xE 1) = 1
            ∧ ∀ p, panelOk p = true → t.regionTiles (hdrAt h 0xE 1) p = hdrAt h (0x30 + 8 * (p - 1)) 8)
        ∧ (maskBit (hdrAt h 6 2) 0 = true →
            (∀ r, r < 32 → t.regionState r = 0 ∧ ∀ p, panelOk p = true → t.regionTiles r p = 0)
            ∧ ∀ p, panelOk p = true → t.baseState p = if s.released p && !(s.die p).lost then 1 else s.baseState p)))
  ∧ (∀ s : State, Opens s pgCfg 0x40 → Completes .clrErr s fun t =>
      t.rd pgCfg CFG_STAT.ERR = 0 ∧ t.rd pgCfg PAGE_LEVEL.ARMED = 0
        ∧ t.pins.confErrN = s.pins.confErrN.map (fun _ => false) ∧ AnsweredOk t)

/-- R392, R393, R396, R397: a block whose hash is wrong, or one of whose records is, ends the stream with its cause
and writes nothing; a good one is written, and its trailer is the hash of the next. After the last block what the
stream wrote is LOADED, if the closing record is right. A frame for a panel that is lost or not released is counted
as skipped. R402: the stages of a release pass one after the other at their times. States completion (Completes c s
post: exec c s = next t for a t with post t, under the conditions on the state and the operands named before it) of
2 commands: cfgBlockProcess (CFG_BLOCK_PROCESS), releaseStage (RELEASE_STAGE). -/
def Obligations.BlocksAreCheckedAndLoaded : Prop :=
  (∀ (s : State) (x : StreamX) (b pl : Nat), s.cfg.stream = some x → s.running pgCfg = true → s.rd pgCfg CFG_STAT.STATE = 2 →
      65536 ≤ x.len → b = x.buf % 2 ^ 524288 →
      pl = (if x.enc then gcmOpen (s.slots.getD x.ekey {}).cipher x.iv (4093 * s.rd pgCfg CFG_BLK.DONE) 4093
          (hdrAt b 0 65488) else hdrAt b 0 65488) →
    (sha384 65536 b ≠ x.hash → Completes .cfgBlockProcess s fun t =>
      t.rd pgCfg CFG_STAT.CAUSE = 7 ∧ t.cfg.stream = none ∧ t.darns = s.darns)
    ∧ (∀ c, sha384 65536 b = x.hash → records (!x.full) x.mask pl 8187 0 = .error c →
      Completes .cfgBlockProcess s fun t =>
        t.rd pgCfg CFG_STAT.CAUSE = c ∧ t.cfg.stream = none ∧ t.darns = s.darns)
    ∧ (∀ ws, sha384 65536 b = x.hash → records (!x.full) x.mask pl 8187 0 = .ok ws →
      (∀ p i cls d, ws = [.frame p i cls d] →
        (s.released p = true → (s.die p).lost = false → Completes .cfgBlockProcess s fun t =>
          (t.darn p).frames.getD i {} = ⟨d, d, 0, cls, crc32 512 (s.unmasked p cls d)⟩
            ∧ (∀ j, j ≠ i → (t.darn p).frames.getD j {} = (s.darn p).frames.getD j {})
            ∧ ∀ q, q ≠ p → t.darn q = s.darn q)
        ∧ ((s.released p = false ∨ (s.die p).lost = true) → Completes .cfgBlockProcess s fun t =>
          t.rd pgCfg CFG_SKIPPED.COUNT = min (s.rd pgCfg CFG_SKIPPED.COUNT + 1) (2 ^ 32 - 1) ∧ t.darns = s.darns))
      ∧ (s.rd pgCfg CFG_BLK.DONE + 1 < s.rd pgCfg CFG_BLK.NBLK → Completes .cfgBlockProcess s fun t =>
        t.rd pgCfg CFG_BLK.DONE = s.rd pgCfg CFG_BLK.DONE + 1 ∧ t.rd pgCfg CFG_STAT.STATE = 2
          ∧ t.cfg.stream = some { x with buf := x.buf / 2 ^ 524288, len := x.len - 65536, hash := hdrAt b 65488 48, areas := x.areas ++ [hdrAt b 0 65488] })
      ∧ (s.rd pgCfg CFG_BLK.NBLK ≤ s.rd pgCfg CFG_BLK.DONE + 1 →
        (s.closeOk { x with areas := x.areas ++ [hdrAt b 0 65488] } (hdrAt b 65488 48) = true →
          Completes .cfgBlockProcess s fun t =>
            t.rd pgCfg CFG_STAT.STATE = 0 ∧ t.rd pgCfg CFG_STAT.CAUSE = 0 ∧ t.rd pgCfg CFG_STAT.ERR = 0
              ∧ t.cfg.stream = none ∧ maskBit (t.reg pgCfg 0x08).toNat 6 = true
              ∧ (x.full = false → x.region < 32 → t.regionState x.region = 2)
              ∧ (x.full = true → (∀ p ∈ x.panels, panelOk p = true) → ∀ p ∈ x.panels, t.baseState p = 2))
        ∧ (s.closeOk { x with areas := x.areas ++ [hdrAt b 0 65488] } (hdrAt b 65488 48) = false →
          Completes .cfgBlockProcess s fun t =>
            t.rd pgCfg CFG_STAT.CAUSE = 10 ∧ t.cfg.stream = none ∧ t.rd pgCfg CFG_STAT.ERR = 1))))
  ∧ (∀ (s : State) (r t0 k : Nat) (rest : List (Nat × Nat)), s.running pgCfg = true →
      s.cfg.stages.find r = some ((t0, k) :: rest) → k < 3 →
    Completes (.releaseStage r) s fun t =>
      t.now = max s.now t0 ∧ maskBit (t.cfg.passed.getD r 0) k = true
        ∧ (∀ j, j < 3 → j ≠ k → maskBit (t.cfg.passed.getD r 0) j = maskBit (s.cfg.passed.getD r 0) j)
        ∧ (rest ≠ [] → t.cfg.stages.find r = some rest) ∧ (rest = [] → t.cfg.stages.find r = none)
        ∧ t.cfg.tiles = s.cfg.tiles ∧ t.cfg.stream = s.cfg.stream)

/-- R403–R405, R408, R479: the visit of a frame lasts PACE cycles of 64 G, at least 24 of them, and goes on to the
next frame. A frame of a LOADED or RUNNING region that one upset has changed, and that the loader did not write in
this pass (R406), is corrected and counted; a frame that nothing changed is left, and so is one of which the word to
be repaired has changed since the darner read it. An uncorrectable table entry raises the alarm. The darner's
heartbeat counts and clears the hub's bit; a missed one sets it and raises the SCRUB class; a voted copy that was
rewritten is counted. States completion (Completes c s post: exec c s = next t for a t with post t, under the
conditions on the state and the operands named before it) of 4 commands: darnFrameVisit (DARN_FRAME_VISIT),
darnHeartbeat (DARN_HEARTBEAT), tmrFix (TMR_FIX), darnHeartbeatMiss (DARN_HEARTBEAT_MISS). -/
def Obligations.DarnerCorrectsFrames : Prop :=
  (∀ (s : State) (p : Nat), panelOk p = true → s.running (pgDarn p) = true → s.on (pgDarn p) DARN_CFG.EN = true →
      (s.die p).lost = false →
    let i := s.rd (pgDarn p) DARN_POS.FRAME
    let f := (s.darn p).frames.getD i {}
    let sound := ((s.darn p).read = none ∨ (s.darn p).read = some f) ∧ f.data = f.orig ∧ f.chk = 0 ∧ crc32 512 (s.unmasked p f.cls f.data) = f.gold
    (∀ flips chk e upset, Completes (.darnFrameVisit p flips chk e upset) s fun t =>
        t.rd (pgDarn p) DARN_POS.FRAME = (i + 1) % 2 ^ 17
          ∧ t.now = max s.now ((s.darn p).visit + 64 * max 24 (s.rd (pgDarn p) DARN_CFG.PACE))
          ∧ (∀ j, j ≠ i → (t.darn p).frames.getD j {} = (s.darn p).frames.getD j {}))
    ∧ (sound → i ≠ 131071 → ∀ upset, Completes (.darnFrameVisit p 0 0 .clean upset) s fun t =>
        (t.darn p).frames.getD i {} = f
          ∧ t.rd (pgDarn p) DARN_CORR.COUNT = s.rd (pgDarn p) DARN_CORR.COUNT
          ∧ t.rd (pgDarn p) DARN_MULTI.COUNT = s.rd (pgDarn p) DARN_MULTI.COUNT
          ∧ t = { s with regs := t.regs, darns := t.darns, now := t.now })
    ∧ (sound → s.scrubbed p (i / 2048) = true → i ∉ (s.darn p).newly → ∀ k upset, k < 4096 →
      (s.cap 7 = true → Completes (.darnFrameVisit p (2 ^ k) 0 .clean upset) s fun t =>
        (t.darn p).frames.getD i {} = f
          ∧ t.rd (pgDarn p) DARN_CORR.COUNT = min (s.rd (pgDarn p) DARN_CORR.COUNT + 1) (2 ^ 32 - 1)
          ∧ t.rd (pgDarn p) DARN_MULTI.COUNT = s.rd (pgDarn p) DARN_MULTI.COUNT
          ∧ t.rd (pgDarn p) DARN_LAST.FRAME = i ∧ t.rd (pgDarn p) DARN_LAST.KIND = 0
          ∧ t.rd (pgDarn p) DARN_LAST.BIT = k ∧ maskBit (t.reg (pgDarn p) 0x08).toNat 8 = true)
      ∧ (s.cap 7 = false → Completes (.darnFrameVisit p (2 ^ k) 0 .clean upset) s fun t =>
        t.rd (pgDarn p) DARN_MULTI.COUNT = min (s.rd (pgDarn p) DARN_MULTI.COUNT + 1) (2 ^ 32 - 1)
          ∧ t.rd (pgDarn p) DARN_CORR.COUNT = s.rd (pgDarn p) DARN_CORR.COUNT
          ∧ t.rd (pgDarn p) DARN_LAST.FRAME = i ∧ t.rd (pgDarn p) DARN_LAST.KIND = 3
          ∧ maskBit (t.rd pgAlm HUB_ALM_PEND.CLASS) 6 = true))
    ∧ (s.scrubbed p (i / 2048) = true → i ∉ (s.darn p).newly → s.cap 7 = true → ∀ r k upset, (s.darn p).read = some r →
        r.data ^^^ r.orig = 2 ^ k → k < 4096 → r.chk = 0 → crc32 512 (s.unmasked p r.cls (r.data ^^^ 2 ^ k)) = r.gold →
        f.data / 2 ^ (64 * (k / 64)) % 2 ^ 64 ≠ r.data / 2 ^ (64 * (k / 64)) % 2 ^ 64 →
      Completes (.darnFrameVisit p 0 0 .clean upset) s fun t =>
        (t.darn p).frames.getD i {} = f ∧ t.rd (pgDarn p) DARN_CORR.COUNT = s.rd (pgDarn p) DARN_CORR.COUNT)
    ∧ (s.scrubbed p (i / 2048) = true → i ∉ (s.darn p).newly → ∀ upset, Completes (.darnFrameVisit p 0 0 .fatal upset) s fun t =>
        t.rd (pgDarn p) DARN_TBL_ECC.FATAL = 1 ∧ maskBit (t.rd pgAlm HUB_ALM_PEND.CLASS) 6 = true)
    ∧ Completes (.darnHeartbeat p) s (fun t =>
        t.rd (pgDarn p) DARN_HB.COUNT = (s.rd (pgDarn p) DARN_HB.COUNT + 1) % 2 ^ 16
          ∧ maskBit (t.rd pgAlm HUB_ALM_HB.MISSED) (p - 1) = false
          ∧ t.now = max s.now ((s.darn p).beat + 128000)
          ∧ t = { s with regs := t.regs, darns := t.darns, now := t.now })
    ∧ Completes (.tmrFix p) s fun t =>
        t.rd (pgDarn p) DARN_TMR.FIX = min (s.rd (pgDarn p) DARN_TMR.FIX + 1) (2 ^ 16 - 1)
          ∧ maskBit (t.reg (pgDarn p) 0x08).toNat 10 = true)
  ∧ (∀ (s : State) (p : Nat), panelOk p = true → s.on (pgDarn p) DARN_CFG.EN = true → s.released p = true →
      (s.die p).lost = false → s.domState (32 * (p - 1)) ≠ 3 → maskBit (s.rd pgAlm HUB_ALM_HB.MISSED) (p - 1) = false →
    Completes (.darnHeartbeatMiss p) s fun t =>
      maskBit (t.rd pgAlm HUB_ALM_HB.MISSED) (p - 1) = true ∧ maskBit (t.rd pgAlm HUB_ALM_PEND.CLASS) 6 = true
        ∧ t.now = if s.clocksOnFor pgTime then max s.now ((s.darn p).beat + 12800000) else s.now)

/-- R437: the transition of a domain ends in the state that was asked for, a domain that went off loses what it
holds, page by page (every block register is back at its reset value, and no set is pending), and the request that
applied meanwhile is taken up. R441: a brown-out is recorded with its domain, kind and time, gives the domain state
3 and raises the POWER class; a panel's core takes the panel with it, any other domain what it holds, and the
selvage core resets the package. R444: the five temperatures are sampled, their peaks kept, and THERM follows the
limit and its hysteresis. R445: the first sample of nap only fills the reference; a later one whose signal detect
differs from it on a watched quad records that, and so does one with an output outside the window of its setpoint,
or VIN outside 1.8 V ± 5 %. States completion (Completes c s post: exec c s = next t for a t with post t, under the
conditions on the state and the operands named before it) of 5 commands: domainTransitionDone
(DOMAIN_TRANSITION_DONE), brownOut (BROWN_OUT), selvageReset (SELVAGE_RESET), tempSample (TEMP_SAMPLE), napSample
(NAP_SAMPLE). -/
def Obligations.PowerDomainsAndSamples : Prop :=
  (∀ (s : State) (d g : Nat), domListed d = true → s.pow.moves.find d = some g → g < 3 →
    let v := (domainPages d).foldl State.catPace { s with pow := { s.pow with moves := s.pow.moves.del d } }
    let was := s.rd pgPwr (PWR_Dd.STATE.nth d)
    let ends (w : State) : State := (((domainPages d).foldl State.catWake w).powAct d).powSync
    let off (w : State) : State := w.stallsStop .off fun pg _ => domainOf pg == d
    ∃ u : State, u.rd pgPwr (PWR_Dd.STATE.nth d) = g ∧ u.rd pgPwr (PWR_Dd.MOVING.nth d) = 0
      ∧ u = { v with regs := u.regs } ∧ (SameRegs v u fun p o => p = pgPwr ∧ o = 0x400 + 4 * d)
      ∧ (g = 0 → Completes (.domainTransitionDone d) s fun t =>
          let w := if 128 ≤ d ∧ d < 144 then u.klfToDetect (d - 128) else u
          t = ends ((if was = 2 then ((domBank d).map w.calFresh).getD w else w).domSettle d))
      ∧ (g = 1 → Completes (.domainTransitionDone d) s fun t => t = ends ((off u).retained d))
      ∧ (g = 2 → Completes (.domainTransitionDone d) s fun t => t = ends ((off u).domainLost d).fencesPrune))
  ∧ (∀ (s : State) (d : Nat), d < 128 → 6 ≤ d % 32 → s.domainLost d = (domainPages d).foldl State.pageLost s)
  ∧ (∀ (s : State) (pg off : Nat), pageKind pg ∈ [some .wft, some .cat, some .spl, some .shu, some .drc, some .lane] →
      0x40 ≤ off → off < 2 ^ 20 →
    (s.pageLost pg).reg pg off = BitVec.ofNat 32 (resetNat pg off) ∧ (s.pageLost pg).pendingSet pg = []
      ∧ (s.pageLost pg).rd pg PAGE_CTL.CLK_EN = 0)
  ∧ (∀ (s : State) (d : Nat), domListed d = true → d < 128 → domBank d = none → d % 32 ≠ 6 →
      s.pow.moves.find d = some 0 → s.rd pgPwr (PWR_Dd.REQ.nth d) = 0 →
    Completes (.domainTransitionDone d) s fun t =>
      t.rd pgPwr (PWR_Dd.STATE.nth d) = 0 ∧ t.rd pgPwr (PWR_Dd.MOVING.nth d) = 0 ∧ t.pow.moves.find d = none
        ∧ t = { s with regs := t.regs, pow := t.pow })
  ∧ (∀ (s : State) (d kind x : Nat), s.canBrown d kind x = false → Completes (.brownOut d kind x) s fun t => t = s)
  ∧ (∀ (s : State) (d kind x : Nat), s.canBrown d kind x = true → d ≠ 144 →
    ∃ u : State, u.rd pgPwr (PWR_Dd.STATE.nth d) = 3 ∧ u.rd pgPwr PWR_BROWN.DOMAIN = d
      ∧ u.rd pgPwr PWR_BROWN.KIND = kind
      ∧ u.rd pgPwr PWR_BROWN.COUNT = min (s.rd pgPwr PWR_BROWN.COUNT + 1) (2 ^ 16 - 1)
      ∧ u.rdPair pgPwr PWR_BROWN_T_LO.TIME PWR_BROWN_T_HI.TIME = s.time
      ∧ maskBit (u.reg pgPwr 0x08).toNat 9 = true ∧ maskBit (u.rd pgAlm HUB_ALM_PEND.CLASS) 4 = true
      ∧ u = { s with regs := u.regs, alarms := u.alarms, pins := u.pins, pow := u.pow }
      ∧ (domCore d = true → Completes (.brownOut d kind x) s fun t =>
          t = { u.dieLost (domDie d) with alarms := t.alarms })
      ∧ (domCore d = false → u.rd pgPwr (PWR_Dd.MOVING.nth d) = 0 ∧ u.pow.moves.find d = none
          ∧ u.rd pgPwr (PWR_Dd.EMUL.nth d) = 0 ∧ Completes (.brownOut d kind x) s fun t =>
            t = { (((u.domainLost d).fencesPrune).stallsStop .off fun pg _ => domainOf pg == d).powSync with
              alarms := t.alarms }))
  ∧ (∀ (s : State) (kind x : Nat), s.canBrown 144 kind x = true → exec (.brownOut 144 kind x) s = exec .selvageReset s)
  ∧ (∀ (s : State) (ts : List Int), s.tu.porDone = true → (∀ n, n < 5 → -128 ≤ ts.getD n 0 ∧ ts.getD n 0 < 128) →
    let was := maskBit (s.rd pgPwr PAGE_LEVEL.BLOCK) 1
    let lim : Int := s.rd pgPwr PWR_THERM.LIMIT
    let hyst : Int := s.rd pgPwr PWR_THERM.HYST
    Completes (.tempSample ts) s fun t =>
      (∀ n, n < 5 → signed 8 (t.rd pgPwr (PWR_TEMPn.TEMP.nth n)) = ts.getD n 0
        ∧ signed 8 (t.rd pgPwr (PWR_TEMPn.PEAK.nth n)) = (if s.pow.sampled.isSome then
            max (signed 8 (s.rd pgPwr (PWR_TEMPn.PEAK.nth n))) (ts.getD n 0) else ts.getD n 0))
        ∧ (maskBit (t.rd pgPwr PAGE_LEVEL.BLOCK) 1 = true
            ↔ ∃ n, n < 5 ∧ (if was then lim - hyst else lim) ≤ ts.getD n 0)
        ∧ (was = false → maskBit (t.rd pgPwr PAGE_LEVEL.BLOCK) 1 = true → maskBit (t.reg pgPwr 0x08).toNat 11 = true)
        ∧ t.pow.sampled = some t.now
        ∧ t.pins.thermN = s.pins.thermN.map (fun _ => maskBit (t.rd pgPwr PAGE_LEVEL.BLOCK) 1))
  ∧ (∀ (s : State) (sd : Nat) (ts : List Int) (vs : List (Nat × Nat)) (vin : Nat), s.tu.porDone = true →
      s.on pgPwr PWR_NAP_CFG.EN = true →
    (s.pow.napped = none → Completes (.napSample sd ts vs vin) s fun t =>
      t.pow.napped = some t.now ∧ t.rd pgPwr PWR_NAP_COUNT.COUNT = (s.rd pgPwr PWR_NAP_COUNT.COUNT + 1) % 2 ^ 32
        ∧ (∀ q, q < 48 → maskBit t.napRef q = (s.napQuads.contains q && maskBit sd q))
        ∧ t = { s with regs := t.regs, pow := t.pow })
    ∧ (∀ l, ∀ q ∈ s.napQuads, s.pow.napped = some l → maskBit sd q ≠ maskBit s.napRef q →
      Completes (.napSample sd ts vs vin) s fun t =>
        t.now = (if s.clocksOnFor pgTime then max s.now (l + s.napGap) else s.now) ∧ t.rd pgPwr PWR_NAP_EVT.SD = 1 ∧ maskBit t.napRef q = maskBit sd q ∧ maskBit (t.reg pgPwr 0x08).toNat 10 = true
          ∧ t.rd pgPwr PWR_NAP_COUNT.COUNT = (s.rd pgPwr PWR_NAP_COUNT.COUNT + 1) % 2 ^ 32)
    ∧ (∀ l, s.pow.napped = some l → (vin < 1710 ∨ 1890 < vin ∨ ∃ d mv, (d, mv) ∈ vs ∧ domListed d = true
          ∧ s.domState d = 0 ∧ (mv + 5 * s.rd pgPwr PWR_NAP_CFG.VTOL < s.setpoint d
            ∨ s.setpoint d + 5 * s.rd pgPwr PWR_NAP_CFG.VTOL < mv)) →
      Completes (.napSample sd ts vs vin) s fun t =>
        t.rd pgPwr PWR_NAP_EVT.VOLT = 1 ∧ maskBit (t.reg pgPwr 0x08).toNat 10 = true))

/-! ### Hub controller and debug -/

/-- R452, R453: a GO takes the nonce and BUSY sets, or is counted while a report is being signed; the report appears
with the next sequence number. R460: the acknowledgement of a notice frees the buffer for the next one. R461: a copy
of whole lines between ranges that do not overlap starts, any other GO ends in ERROR; STOP aborts it; each request
in flight is answered in turn; a line that was read is to be written, and a line that was written counts, the last
one ending the copy; an error response ends it with its code, and the bytes before the failing line. States
completion (Completes c s post: exec c s = next t for a t with post t, under the conditions on the state and the
operands named before it) of 6 commands: attGo (ATT_GO), attReportReady (ATT_REPORT_READY), noteAck (NOTE_ACK),
moverGo (MOVER_GO), moverStop (MOVER_STOP), moverResponse (MOVER_RESPONSE). -/
def Obligations.AttestationNoticesAndMovers : Prop :=
  (∀ s : State, Opens s pgHub 0xE0 →
    (s.on pgHub HUB_ATT_STAT.BUSY = false → Completes .attGo s fun t =>
      t.rd pgHub HUB_ATT_STAT.BUSY = 1 ∧ t.hub = { s.hub with signing := some (s.rdWords pgHub HUB_ATT_NONCEj.DATA 8) }
        ∧ AnsweredOk t ∧ t = { s with regs := t.regs, hub := t.hub, resp := t.resp })
    ∧ (s.on pgHub HUB_ATT_STAT.BUSY = true → Completes .attGo s fun t =>
      t.rd pgHub HUB_ATT_STAT.IGNORED = min (s.rd pgHub HUB_ATT_STAT.IGNORED + 1) 255 ∧ t.hub = s.hub ∧ AnsweredOk t))
  ∧ (∀ (s : State) (nonce : Nat), s.hub.signing = some nonce → Completes .attReportReady s fun t =>
      t.rd pgHub HUB_ATT_STAT.SEQ = (s.rd pgHub HUB_ATT_STAT.SEQ + 1) % 2 ^ 16 ∧ t.rd pgHub HUB_ATT_STAT.READY = 1
        ∧ t.rd pgHub HUB_ATT_STAT.BUSY = 0 ∧ t.hub = { s.hub with signing := none }
        ∧ t.rd pgHub (HUB_ATT_REPk.DATA.nth 0) = 0x7440A77E
        ∧ t = { s with regs := t.regs, hub := t.hub, fresh := t.fresh })
  ∧ (∀ s : State, Opens s pgMbx 0x4C →
    (s.hub.notes = [] → Completes .noteAck s fun t =>
      t.rd pgMbx MBX_STAT.NOTE = 0 ∧ AnsweredOk t ∧ t = { s with regs := t.regs, resp := t.resp })
    ∧ (∀ k n p r, s.hub.notes = (k, n, p) :: r → Completes .noteAck s fun t =>
      t.rd pgMbx MBX_STAT.NOTE = 1 ∧ t.hub.notes = r
        ∧ t.rd pgMbx (MBX_NOTEk.DATA.nth 0) = k % 2 ^ 8 + n % 2 ^ 16 * 2 ^ 16
        ∧ maskBit (t.reg pgMbx 0x08).toNat 9 = true ∧ AnsweredOk t))
  ∧ (∀ (s : State) (m : Nat), m < 4 →
    let src := s.rdPair pgHub (MVRm_SRC_LO.SRC.nth m) (MVRm_SRC_HI.SRC.nth m)
    let dst := s.rdPair pgHub (MVRm_DST_LO.DST.nth m) (MVRm_DST_HI.DST.nth m)
    let len := s.rd pgHub (MVRm_LEN.LEN.nth m)
    let run := (s.mover m).run
    let fits := run = false ∧ src % 64 = 0 ∧ dst % 64 = 0 ∧ len % 64 = 0 ∧ len ≠ 0 ∧ s.overlap src dst len = false
    (Opens s pgHub 0x214 →
      (fits → Completes (.moverGo m) s fun t =>
        t.mover m = { s.mover m with run := true, src := src, dst := dst, len := len, next := 0, done := 0 }
          ∧ t.rd pgHub (MVRm_STAT.STATUS.nth m) = 1 ∧ t.rd pgHub (MVRm_STAT.ERR.nth m) = 0
          ∧ t.rd pgHub (MVRm_MOVED.MOVED.nth m) = 0 ∧ t.rd pgHub PAGE_LEVEL.BUSY = 1 ∧ AnsweredOk t)
      ∧ (¬ fits → Completes (.moverGo m) s fun t =>
        t.rd pgHub (MVRm_STAT.STATUS.nth m) = 3 ∧ t.rd pgHub (MVRm_STAT.ERR.nth m) = 0 ∧ t.movers = s.movers
          ∧ AnsweredOk t)
      ∧ (run = true → Completes (.moverStop m) s fun t =>
        t.mover m = (s.mover m).halt ∧ t.rd pgHub (MVRm_STAT.STATUS.nth m) = 0
          ∧ maskBit (t.reg pgHub 0x08).toNat 7 = true ∧ AnsweredOk t)
      ∧ (run = false → Completes (.moverStop m) s fun t => t.movers = s.movers ∧ t.regs = s.regs ∧ AnsweredOk t))
    ∧ (∀ (u v : State) (k : Nat) (l : MovLine) (ecc : List Ecc), u = s.moverPump m → (u.mover m).lines[k]? = some l →
        l.sent = true → (l.sink = true ∨ u.running pgHub = true) →
      (∀ num a, l.out = some num → u.answers.find? (fun b => b.init == moverInit m && b.num == num) = some a →
          v = ({ u with answers := u.answers.erase a } : State).remoteBack (moverInit m) num 64 a →
        Completes (.moverResponse m k ecc []) s fun t => t = (v.moverAnswer m l a.status a.data).moverPump m)
      ∧ (∀ st d, l.out = none → u.busFirst (l.bus m (l.ga % 2 ^ 48) ecc) = true →
          u.busServe (l.bus m (l.ga % 2 ^ 48) ecc) = (some (st, d), v) →
        Completes (.moverResponse m k ecc []) s fun t => t = (v.moverAnswer m l st.code d).moverPump m))
    ∧ (∀ (l : MovLine) (c d : Nat),
      let t := s.moverAnswer m l c d
      let left := (s.mover m).lines.erase l
      (l.sink = true → t = s.setMover m { s.mover m with lines := left })
      ∧ (l.sink = false → c ≠ 0 → (t.mover m).run = false ∧ t.rd pgHub (MVRm_STAT.STATUS.nth m) = 3
          ∧ t.rd pgHub (MVRm_STAT.ERR.nth m) = c % 16 ∧ t.rd pgHub (MVRm_MOVED.MOVED.nth m) = l.pos % 2 ^ 32
          ∧ maskBit (t.reg pgHub 0x08).toNat 6 = true ∧ t.moverPump m = t)
      ∧ (l.sink = false → c = 0 → l.data = none → (s.mover m).run = true → t = s.setMover m { s.mover m with
          lines := (s.mover m).lines.map fun y => if y = l then
            ⟨l.pos, ((s.mover m).dst + l.pos) % 2 ^ 64, some (d % 2 ^ 512), false, none, false⟩ else y })
      ∧ (l.sink = false → c = 0 → l.data.isSome = true →
          t.rd pgHub (MVRm_MOVED.MOVED.nth m) = ((s.mover m).done + 64) % 2 ^ 32
          ∧ ((s.mover m).done + 64 < (s.mover m).len →
              t.mover m = { s.mover m with lines := left, done := (s.mover m).done + 64 })
          ∧ ((s.mover m).len ≤ (s.mover m).done + 64 → (t.mover m).run = false
              ∧ t.rd pgHub (MVRm_STAT.STATUS.nth m) = 2 ∧ maskBit (t.reg pgHub 0x08).toNat 6 = true
              ∧ t.moverPump m = t))))

/-- R455, R456: every command has its length; another length is answered BADLEN and does nothing, and a number that
is not listed is answered BADCMD. GET_INFO and DRAM_REPORT report registers; GET_CERT, GET_CRASH and GET_LOG return
a chunk of at most 240 bytes with the total, or BADARG beyond the end; the log is that of the store, with what
firmware has added to it, which is open. CLEAR_CRASH drops the crash record. RESET_PACKAGE is answered before the
reset that it orders. DEBUG_LOCK 0 unlocks; 1 is refused while anything is halted, and else locks the port and
detaches. States completion (Completes c s post: exec c s = next t for a t with post t, under the conditions on the
state and the operands named before it) of 20 commands: fwWrite (FW_WRITE), badCmd (BAD_CMD), getInfo (GET_INFO),
dramReport (DRAM_REPORT), getCert (GET_CERT), getCrash (GET_CRASH), getLog (GET_LOG), clearCrash (CLEAR_CRASH),
resetPackage (RESET_PACKAGE), debugLock (DEBUG_LOCK), release (RELEASE), readmit (READMIT), sigkeySet (SIGKEY_SET),
sigkeyRevoke (SIGKEY_REVOKE), keyImport (KEY_IMPORT), keyDrop (KEY_DROP), svnRaise (SVN_RAISE), minrevRaise
(MINREV_RAISE), fwCommit (FW_COMMIT), fwConfirm (FW_CONFIRM). -/
def Obligations.MailboxAnswersAndReports : Prop :=
  (∀ (s : State) (err : Bool) (spd : List Dimm), s.mbxServes = true →
    (∀ e ∈ [(Instr.getInfo, 0x01, 0), (.release spd, 0x02, 0), (.readmit spd, 0x03, 1), (.dramReport, 0x04, 0),
        (.sigkeySet err, 0x05, 49), (.sigkeyRevoke err, 0x06, 1), (.keyImport, 0x07, 136), (.keyDrop, 0x08, 1),
        (.svnRaise err, 0x09, 4), (.minrevRaise err, 0x0A, 3), (.fwCommit err, 0x0C, 0), (.fwConfirm err, 0x0D, 0),
        (.getCert, 0x0E, 2), (.getCrash, 0x0F, 2), (.getLog, 0x10, 2), (.clearCrash err, 0x11, 0),
        (.debugLock err, 0x12, 1), (.resetPackage, 0x13, 0)],
      s.mbxCmd = e.2.1 → s.mbxLen ≠ e.2.2 →
      Completes e.1 s fun t => RepliedWith s t 2 0 0 ∧ t = { s with regs := t.regs })
    ∧ (s.mbxCmd = 0x0B → (s.mbxLen < 5 ∨ 244 < s.mbxLen) → Completes (.fwWrite err) s fun t =>
        RepliedWith s t 2 0 0 ∧ t = { s with regs := t.regs })
    ∧ ((s.mbxCmd = 0 ∨ 0x13 < s.mbxCmd) → Completes .badCmd s fun t =>
        RepliedWith s t 1 0 0 ∧ t = { s with regs := t.regs }))
  ∧ (∀ s : State, s.mbxServes = true →
    (s.mbxCmd = 0x01 → s.mbxLen = 0 → Completes .getInfo s fun t =>
      RepliedWith s t 0 (packBytes [(4, (s.reg pgHub 0x40).toNat), (4, s.rd pgHub HUB_FW_VER.VER), (4, s.store.fwMin),
        (4, s.rd pgCfg CFG_SVN_MIN.SVN)]) 16 ∧ t = { s with regs := t.regs })
    ∧ (s.mbxCmd = 0x04 → s.mbxLen = 0 → Completes .dramReport s fun t =>
      RepliedWith s t (if s.hub.first then 0 else 4) (if s.hub.first then s.dramStats else 0) (if s.hub.first then 32 else 0)
        ∧ t = { s with regs := t.regs })
    ∧ (s.mbxLen = 2 → let c := s.pay 0 2
      (s.mbxCmd = 0x0E → let n := min Config.certLen 2048
        ((c = 0 ∨ 240 * c < n) → Completes .getCert s fun t =>
          RepliedWith s t 0 (packBytes [(2, n), (min 240 (n - 240 * c), Config.cert / 2 ^ (1920 * c))])
            (2 + min 240 (n - 240 * c)))
        ∧ (c ≠ 0 → n ≤ 240 * c → Completes .getCert s fun t => RepliedWith s t 3 0 0))
      ∧ (s.mbxCmd = 0x0F →
        (s.store.crash = none → c = 0 → Completes .getCrash s fun t => RepliedWith s t 0 0 2)
        ∧ (∀ n d, s.store.crash = some (n, d) → (c = 0 ∨ 240 * c < n) → Completes .getCrash s fun t =>
          RepliedWith s t 0 (packBytes [(2, n), (min 240 (n - 240 * c), d / 2 ^ (1920 * c))])
            (2 + min 240 (n - 240 * c))))
      ∧ (s.mbxCmd = 0x10 → ∃ m v n d, let old := s.store.log
        let past := old.1 + m - 0x10000
        n = old.1 + m - past ∧ d = (old.2 + v * 2 ^ (8 * old.1)) / 2 ^ (8 * past) ∧
        ((c = 0 ∨ 240 * c < n) → Completes .getLog s fun t => t.store = { s.store with log := (n, d) } ∧
          RepliedWith s t 0 (packBytes [(2, n), (min 240 (n - 240 * c), d / 2 ^ (1920 * c))])
            (2 + min 240 (n - 240 * c)))
        ∧ (c ≠ 0 → n ≤ 240 * c → Completes .getLog s fun t =>
          RepliedWith s t 3 0 0 ∧ t.store = { s.store with log := (n, d) })))
    ∧ (s.mbxCmd = 0x11 → s.mbxLen = 0 →
      Completes (.clearCrash false) s (fun t => RepliedWith s t 0 0 0
        ∧ t = { s with regs := t.regs, store := { s.store with crash := none } })
      ∧ Completes (.clearCrash true) s fun t => RepliedWith s t 9 0 0 ∧ t = { s with regs := t.regs })
    ∧ (s.mbxCmd = 0x13 → s.mbxLen = 0 → Completes .resetPackage s fun t => RepliedWith s t 0 0 0
        ∧ t = { s with regs := t.regs, hub := { s.hub with resetDue := true } })
    ∧ (s.mbxCmd = 0x12 → s.mbxLen = 1 →
      (s.pay 0 1 = 0 → Completes (.debugLock false) s fun t => RepliedWith s t 0 0 0
        ∧ t = { s with regs := t.regs, store := { s.store with lock := false }, dp := { s.dp with locked := false } })
      ∧ (s.pay 0 1 = 1 → s.anyHalted = true → Completes (.debugLock false) s fun t => RepliedWith s t 4 0 0
        ∧ t = { s with regs := t.regs })
      ∧ (s.pay 0 1 = 1 → s.anyHalted = false → Completes (.debugLock false) s fun t => RepliedWith s t 0 0 0
        ∧ t.store = { s.store with lock := true } ∧ t.dp = { s.dp with locked := true, attached := false })
      ∧ (1 < s.pay 0 1 → Completes (.debugLock false) s fun t => RepliedWith s t 3 0 0
        ∧ t = { s with regs := t.regs })))

/-- R456–R458: SIGKEY_SET provisions a key that is neither provisioned nor revoked; SIGKEY_REVOKE revokes one;
KEY_IMPORT holds an unwrapped stream key in a FREE slot and KEY_DROP frees a HELD one; SVN_RAISE and MINREV_RAISE
raise the minima and lower none; FW_WRITE writes the inactive image in order and leaves it invalid until FW_COMMIT
has verified it and prefers it; FW_CONFIRM raises the minimum to the image that runs. A flash that fails is answered
so and nothing of the command takes effect. States completion (Completes c s post: exec c s = next t for a t with
post t, under the conditions on the state and the operands named before it) of 9 commands: sigkeySet (SIGKEY_SET),
sigkeyRevoke (SIGKEY_REVOKE), keyImport (KEY_IMPORT), keyDrop (KEY_DROP), svnRaise (SVN_RAISE), minrevRaise
(MINREV_RAISE), fwWrite (FW_WRITE), fwCommit (FW_COMMIT), fwConfirm (FW_CONFIRM). -/
def Obligations.MailboxKeysMinimaAndImages : Prop :=
  ∀ s : State, s.mbxServes = true → let k := s.pay 0 1
    (s.mbxCmd = 0x05 → s.mbxLen = 49 →
      (4 ≤ k → ∀ err, Completes (.sigkeySet err) s fun t => RepliedWith s t 3 0 0 ∧ t = { s with regs := t.regs })
      ∧ (k < 4 → (maskBit s.store.pkValid k || maskBit s.store.pkRevoked k) = true → ∀ err,
        Completes (.sigkeySet err) s fun t => RepliedWith s t 4 0 0 ∧ t = { s with regs := t.regs })
      ∧ (k < 4 → (maskBit s.store.pkValid k || maskBit s.store.pkRevoked k) = false →
        Completes (.sigkeySet false) s (fun t => RepliedWith s t 0 0 0
          ∧ t.store = { s.store with pkValid := maskSet s.store.pkValid k true, digests := s.store.digests.put k (s.pay 1 48) }
          ∧ t.rd pgCfg CFG_PK_STAT.VALID = t.store.pkValid % 16 ∧ t = { s with regs := t.regs, store := t.store })
        ∧ Completes (.sigkeySet true) s fun t => RepliedWith s t 9 0 0 ∧ t = { s with regs := t.regs }))
    ∧ (s.mbxCmd = 0x06 → s.mbxLen = 1 → k < 4 → Completes (.sigkeyRevoke false) s fun t => RepliedWith s t 0 0 0
        ∧ t.store = { s.store with pkRevoked := maskSet s.store.pkRevoked k true }
        ∧ t.rd pgCfg CFG_PK_STAT.REVOKED = t.store.pkRevoked % 16 ∧ t = { s with regs := t.regs, store := t.store })
    ∧ (s.mbxCmd = 0x07 → s.mbxLen = 136 →
      ((∀ j, j < 64 → (s.slot j).state ≠ 0) → Completes .keyImport s fun t => RepliedWith s t 5 0 0
        ∧ t.slots = s.slots)
      ∧ ((∃ j, j < 64 ∧ (s.slot j).state = 0) →
        (keyUnwrap (s.pay 0 96) (s.pay 96 40) = none → Completes .keyImport s fun t => RepliedWith s t 6 0 0
          ∧ t.slots = s.slots)
        ∧ (∀ key, keyUnwrap (s.pay 0 96) (s.pay 96 40) = some key → Completes .keyImport s fun t =>
          ∃ j, j < 64 ∧ (s.slot j).state = 0 ∧ t.slot j = ⟨3, key % 2 ^ 256, 0⟩
            ∧ (∀ i, i ≠ j → t.slot i = s.slot i) ∧ RepliedWith s t 0 j 1)))
    ∧ (s.mbxCmd = 0x08 → s.mbxLen = 1 →
      (k < 64 → (s.slot k).state = 3 → Completes .keyDrop s fun t => RepliedWith s t 0 0 0 ∧ t.slot k = {}
        ∧ ∀ i, i ≠ k → t.slot i = s.slot i)
      ∧ (k < 64 → (s.slot k).state ≠ 3 → Completes .keyDrop s fun t => RepliedWith s t 4 0 0
        ∧ t = { s with regs := t.regs })
      ∧ (64 ≤ k → Completes .keyDrop s fun t => RepliedWith s t 3 0 0 ∧ t = { s with regs := t.regs }))
    ∧ (s.mbxCmd = 0x09 → s.mbxLen = 4 → let v := s.pay 0 4
      (v < s.rd pgCfg CFG_SVN_MIN.SVN → ∀ err, Completes (.svnRaise err) s fun t => RepliedWith s t 4 0 0
        ∧ t = { s with regs := t.regs } ∧ t.rd pgCfg CFG_SVN_MIN.SVN = s.rd pgCfg CFG_SVN_MIN.SVN)
      ∧ (s.rd pgCfg CFG_SVN_MIN.SVN ≤ v → Completes (.svnRaise false) s fun t => RepliedWith s t 0 0 0
        ∧ t.store = { s.store with svnMin := v } ∧ t.rd pgCfg CFG_SVN_MIN.SVN = v ∧ t.rd pgCfg PAGE_LEVEL.ARMED = 0))
    ∧ (s.mbxCmd = 0x0A → s.mbxLen = 3 → let l := s.pay 1 1
      let d := s.pay 2 1
      let m := s.store.minRev.getD k (0, 0)
      ((2 < k ∨ l = 0 ∨ 26 < l ∨ 9 < d) → ∀ err, Completes (.minrevRaise err) s fun t => RepliedWith s t 3 0 0
        ∧ t = { s with regs := t.regs })
      ∧ (k ≤ 2 → 1 ≤ l → l ≤ 26 → d ≤ 9 → m.1 * 16 + m.2 ≤ l * 16 + d → Completes (.minrevRaise false) s fun t =>
        RepliedWith s t 0 0 0
          ∧ t = { s with regs := t.regs, store := { s.store with minRev := s.store.minRev.put k (l, d) } })
      ∧ (k ≤ 2 → 1 ≤ l → l ≤ 26 → d ≤ 9 → l * 16 + d < m.1 * 16 + m.2 → ∀ err, Completes (.minrevRaise err) s fun t =>
        RepliedWith s t 4 0 0 ∧ t = { s with regs := t.regs }))
    ∧ (s.mbxCmd = 0x0B → 5 ≤ s.mbxLen → s.mbxLen ≤ 244 → let off := s.pay 0 4
      let n := s.mbxLen - 4
      let j := s.spareImage
      (((off ≠ 0 ∧ s.store.wrEnd ≠ some off) ∨ 0x600000 < off + n) → ∀ err, Completes (.fwWrite err) s fun t =>
        RepliedWith s t 3 0 0 ∧ t = { s with regs := t.regs })
      ∧ ((off = 0 ∨ s.store.wrEnd = some off) → off + n ≤ 0x600000 →
        Completes (.fwWrite false) s (fun t => RepliedWith s t 0 0 0
          ∧ t.image j / 2 ^ (8 * off) % 2 ^ (8 * n) = s.pay 4 n
          ∧ (off ≠ 0 → t.image j % 2 ^ (8 * off) = s.image j % 2 ^ (8 * off))
          ∧ t.store.wrEnd = some (off + n) ∧ t.store.stale.contains j = true
          ∧ (∀ i, i ≠ j → t.image i = s.image i) ∧ t = { s with regs := t.regs, store := t.store, fresh := t.fresh })
        ∧ Completes (.fwWrite true) s fun t => RepliedWith s t 9 0 0 ∧ t.store.wrEnd = none
          ∧ t.store.stale.contains j = true ∧ t.store.images = s.store.images))
    ∧ (s.mbxCmd = 0x0C → s.mbxLen = 0 → let j := s.spareImage
      let good := (s.store.stale.contains j = false ∨ s.store.wrEnd.isSome = true) ∧ Config.imageOk (s.image j) = true
        ∧ s.store.fwMin ≤ Config.imageSvn (s.image j) % 2 ^ 32
      (good → Completes (.fwCommit false) s fun t => RepliedWith s t 0 0 0
        ∧ t = { s with regs := t.regs, store := { s.store with pref := j, stale := s.store.stale.erase j, wrEnd := none } })
      ∧ (¬ good → ∀ err, Completes (.fwCommit err) s fun t => RepliedWith s t 6 0 0 ∧ t = { s with regs := t.regs }))
    ∧ (s.mbxCmd = 0x0D → s.mbxLen = 0 → Completes (.fwConfirm false) s fun t => RepliedWith s t 0 0 0
        ∧ t = { s with regs := t.regs, store := { s.store with fwMin := max s.store.fwMin s.hub.svn } })

/-- R11, R17, R20, R27, R429: the first release waits until the reference is judged and every present panel has
locked or is lost; where its checks fail it is answered without a release, as for a selvage die below its minimum
revision. A later RELEASE releases the present admitted dies that are not yet released and not lost. READMIT brings
a lost die back under its own checks, and refuses any other. States completion (Completes c s post: exec c s = next
t for a t with post t, under the conditions on the state and the operands named before it) of 2 commands: release
(RELEASE), readmit (READMIT). -/
def Obligations.MailboxReleasesDies : Prop :=
  (∀ (s : State) (spd : List Dimm), s.mbxServes = true → s.mbxCmd = 0x02 → s.mbxLen = 0 →
    (s.releaseReady = false → Completes (.release spd) s fun t => t = s)
    ∧ (s.hub.barred = true → Completes (.release spd) s fun t => t = { s with regs := t.regs }
        ∧ t.rd pgMbx (MBX_RSPk.DATA.nth 1) = 0 ∧ t.on pgMbx MBX_STAT.BUSY = false
        ∧ ∀ d, d < 7 → t.released d = s.released d)
    ∧ (∀ u, s.releaseReady = true → s.hub.barred = false → s.hub.first = false → s.firstChecks = (u, false) →
      Completes (.release spd) s fun t => t = u.relReply)
    ∧ (s.releaseReady = true → s.hub.barred = false → s.hub.first = false → s.tooOld 0 = true →
      Completes (.release spd) s fun t => t.rd pgSeam SEAM_STAT.REV_REFUSED = 1 ∧ t.hub.reasons.getD 0 0 = 2
        ∧ t.hub.first = false ∧ (∀ d, d < 7 → t.released d = s.released d)
        ∧ t.on pgMbx MBX_STAT.BUSY = false ∧ t.on pgMbx MBX_STAT.REPLY = true))
  ∧ (∀ s : State, s.mbxServes = true → s.mbxCmd = 0x02 → s.mbxLen = 0 → s.hub.barred = false → s.hub.first = true →
      (∀ pg, s.on pg PAGE_PEND.PENDING = false) →
    Completes (.release []) s fun t =>
      (∀ d, 1 ≤ d → d < 7 → t.released d = (s.released d
          || (s.admitted.contains d && maskBit (s.rd pgSeam SEAM_PKG.PRESENT) d && !(s.die d).lost)))
        ∧ t.rd pgMbx (MBX_RSPk.DATA.nth 2) % 256 = t.rd pgSeam SEAM_PKG.RELEASED
        ∧ t.rd pgMbx (MBX_RSPk.DATA.nth 1) = 0 ∧ t.on pgMbx MBX_STAT.BUSY = false ∧ t.on pgMbx MBX_STAT.REPLY = true)
  ∧ (∀ (s : State) (spd : List Dimm), s.mbxServes = true → s.mbxCmd = 0x03 → s.mbxLen = 1 →
    let d := s.pay 0 1
    ((d = 0 ∨ 6 < d) → Completes (.readmit spd) s fun t => RepliedWith s t 3 0 0 ∧ t = { s with regs := t.regs })
    ∧ (1 ≤ d → d ≤ 6 → (s.hub.first = false ∨ (s.die d).lost = false) → Completes (.readmit spd) s fun t =>
        RepliedWith s t 4 0 0 ∧ t = { s with regs := t.regs })
    ∧ (1 ≤ d → d ≤ 6 → s.hub.first = true → (s.die d).lost = true → s.dieReason d ≠ 0 →
      Completes (.readmit spd) s fun t =>
        (t.die d).lost = true ∧ t.hub.reasons.getD d 0 = s.dieReason d ∧ t.on pgMbx MBX_STAT.BUSY = false
          ∧ t = { s with regs := t.regs, hub := t.hub })
    ∧ (1 ≤ d → d ≤ 6 → s.hub.first = true → (s.die d).lost = true → s.dieReason d = 0 →
        s.rd pgSeam (SEAM_DIEn_CAP.CAP.nth d) &&& s.rd pgSeam SEAM_CAP_EFF.CAP = s.rd pgSeam SEAM_CAP_EFF.CAP →
        (5 ≤ d → s.cap 11 = true) → maskBit (s.rd pgSeam SEAM_PKG.PRESENT) d = true →
        (∀ pg, s.on pg PAGE_PEND.PENDING = false) →
      Completes (.readmit []) s fun t =>
        (t.die d).lost = false ∧ t.released d = true ∧ maskBit (t.rd pgSeam SEAM_PKG.UP) d = true
          ∧ t.hub.reasons.getD d 0 = 0 ∧ t.on pgMbx MBX_STAT.BUSY = false))

/-- R462, R463, R466: a request with a wrong check fails and latches CHK_ERR; a wrong start pattern makes the port
deaf until a line reset; in the shell's power-on reset it hears nothing (R427); DP_ID and DP_STAT are always
readable, and any other request is rejected while the port is locked or an error is latched and told to retry while
an access is in progress. A read answers the register with its reply check; a write of an address or data register
is read back. Attach and detach take effect; a detach resumes what is halted. R464: DP_MCTL starts an access, whose
response clears it, latches an error or brings the data, and advances the address. States completion (Completes c s
post: exec c s = next t for a t with post t, under the conditions on the state and the operands named before it) of
9 commands: dpRead (DP_READ), dpWrite (DP_WRITE), dpLineReset (DP_LINE_RESET), dpAttach (DP_ATTACH), dpDetach
(DP_DETACH), dpMemRead (DP_MEM_READ), dpMemWrite (DP_MEM_WRITE), dpClrErr (DP_CLR_ERR), dpAccessDone
(DP_ACCESS_DONE). -/
def Obligations.DebugPortTransactions : Prop :=
  (∀ s : State, s.tu.porDone = false →
    (∀ start opc reg check, opc % 4 ≠ 2 → Completes (.dpRead start opc reg check) s fun t => t = { s with dpAnswer := none })
    ∧ (∀ start reg data check, Completes (.dpWrite start reg data check) s fun t => t = { s with dpAnswer := none })
    ∧ Completes .dpLineReset s fun t => t = { s with dpAnswer := none })
  ∧ (∀ (s : State) (start opc reg check : Nat), s.tu.porDone = true → reg < 128 → opc = 1 →
    (s.dp.deaf = true → Completes (.dpRead start opc reg check) s fun t => t = { s with dpAnswer := none })
    ∧ (s.dp.deaf = false → start % 16 ≠ 10 → Completes (.dpRead start opc reg check) s fun t =>
        t = { s with dp := { s.dp with deaf := true }, dpAnswer := none })
    ∧ (s.dp.deaf = false → start = 10 → check ≠ readCheck opc reg → Completes (.dpRead start opc reg check) s fun t =>
        t = { s with dp := { s.dp with chkErr := true }, dpAnswer := some ⟨.chkFail, 0, 0⟩ })
    ∧ (s.dp.deaf = false → start = 10 → check = readCheck opc reg →
      (reg ≤ 1 ∨ (s.dp.locked = false ∧ s.dp.chkErr = false ∧ s.dp.busErr = false ∧ s.dp.acc = none) →
        Completes (.dpRead start opc reg check) s fun t =>
          t = { s with dpAnswer := some ⟨.done, s.dpReg reg, replyCheck (s.dpReg reg)⟩ })
      ∧ (2 ≤ reg → (s.dp.locked = true ∨ s.dp.chkErr = true ∨ s.dp.busErr = true) →
        Completes (.dpRead start opc reg check) s fun t => t = { s with dpAnswer := some ⟨.reject, 0, 0⟩ })
      ∧ (2 ≤ reg → s.dp.locked = false → s.dp.chkErr = false → s.dp.busErr = false → s.dp.acc ≠ none →
        Completes (.dpRead start opc reg check) s fun t => t = { s with dpAnswer := some ⟨.retry, 0, 0⟩ })))
  ∧ (∀ s : State, s.tu.porDone = true → Completes .dpLineReset s fun t => t = { s with dp := { s.dp with deaf := false }, dpAnswer := none })
  ∧ (∀ s : State, s.tu.porDone = true → s.dp.deaf = false → s.dp.locked = false → s.dp.acc = none →
    (s.dp.chkErr = false → s.dp.busErr = false →
      (∀ reg data, 3 ≤ reg → reg ≤ 6 → s.dp.addr < 2 ^ 64 → s.dp.data < 2 ^ 64 →
        Completes (.dpWrite 10 reg data (writeCheck reg (data % 2 ^ 32))) s fun t =>
          t.dpReg reg = data % 2 ^ 32 ∧ (∀ r, r ≠ reg → t.dpReg r = s.dpReg r) ∧ t.dpAnswer = some ⟨.done, 0, 0⟩
            ∧ t = { s with dp := t.dp, dpAnswer := t.dpAnswer })
      ∧ Completes .dpAttach s (fun t => t.dp = { s.dp with attached := true } ∧ t.hub = { s.hub with seenDbg := true }
          ∧ t = { s with dp := t.dp, hub := t.hub, dpAnswer := some ⟨.done, 0, 0⟩ })
      ∧ (s.dp.attached = true → Completes .dpDetach s fun t => t.dp = { s.dp with attached := false }
          ∧ (∀ e, e < 256 → s.engState e = 3 → t.engState e = 1)
          ∧ (∀ l, l < 16 → s.leader l = l → (s.seq l).halted = true → (s.seq l).resumeAt = none →
              (t.seq l).resumeAt = some (ceilTo 8 (s.now + 2048)))
          ∧ t = { s with regs := t.regs, engs := t.engs, seqs := t.seqs, dp := t.dp, dpAnswer := some ⟨.done, 0, 0⟩ })
      ∧ (∀ size inc, let n := if size then 8 else 4
        Completes (.dpMemRead size inc) s (fun t =>
          t = { s with dp := { s.dp with size := size, inc := inc, acc := some (false, s.dp.addr, n, s.dp.data % 2 ^ (8 * n)), out := none }, dpAnswer := some ⟨.done, 0, 0⟩ })
        ∧ Completes (.dpMemWrite size inc) s fun t =>
          t = { s with dp := { s.dp with size := size, inc := inc, acc := some (true, s.dp.addr, n, s.dp.data % 2 ^ (8 * n)), out := none }, dpAnswer := some ⟨.done, 0, 0⟩ }))
    ∧ Completes .dpClrErr s (fun t => t.dp = { s.dp with chkErr := false, busErr := false, err := 0 }
        ∧ t.dpAnswer = some ⟨.done, 0, 0⟩))
  ∧ (∀ (s : State) (w : Bool) (ga n d : Nat) (ecc : List Ecc), s.dp.acc = some (w, ga, n, d) → s.dp.out = none →
      (n = 4 ∨ n = 8) →
    (s.global ga = .bad → Completes (.dpAccessDone ecc []) s fun t =>
        t.dp.acc = none ∧ t.dp.busErr = true ∧ t.dp.err = BusStatus.decode.code ∧ t.dp.data = s.dp.data
          ∧ t.dp.addr = (if s.dp.inc then (s.dp.addr + n) % 2 ^ 64 else s.dp.addr) ∧ t = { s with dp := t.dp })
    ∧ (∀ a b v u, s.global ga = .here a →
        s.bus { init := 1, op := bit w, addr := if w then a else peekOf a, n := n, data := d, ecc := ecc }
          = (some (b, v), u) →
      Completes (.dpAccessDone ecc []) s fun t =>
        t.dp.acc = none ∧ t.dp.busErr = (b.code != 0) ∧ t.dp.err = b.code
          ∧ (w = false → b = .ok → t.dp.data % 2 ^ (8 * n) = v % 2 ^ (8 * n))
          ∧ (w = true → t.dp.data = u.dp.data)
          ∧ t.dp.addr = (if u.dp.inc then (u.dp.addr + n) % 2 ^ 64 else u.dp.addr) ∧ t = { u with dp := t.dp })
    ∧ (∀ dev a u, s.global ga = .there dev a →
        s.sendRemote 1 s.fresh n
          { typ := bit w, len := n - 1, addr := if w then a else peekOf a, dst := dev, data := if w then d else 0,
            ncol := if w then 1 else 0 } = (.out, u) →
      Completes (.dpAccessDone ecc []) s fun t =>
        t.dp = { u.dp with out := some s.fresh } ∧ t = { u with dp := t.dp, fresh := u.fresh + 1 }))
  ∧ (∀ (s u : State) (w : Bool) (ga n d : Nat) (a : EgrAns) (ecc : List Ecc), s.dp.acc = some (w, ga, n, d) →
      s.dp.out = some a.num → s.takeAnswer 1 n = some (a, u) → Completes (.dpAccessDone ecc []) s fun t =>
    t.dp.acc = none ∧ t.dp.out = none ∧ t.dp.busErr = (a.status != 0) ∧ t.dp.err = a.status ∧ t = { u with dp := t.dp }
      ∧ (w = false → a.status = 0 → (n = 4 ∨ n = 8) → t.dp.data % 2 ^ (8 * n) = a.data % 2 ^ (8 * n)))

/-- R466: the debug commands are DENIED unless the debug master sends them while a debugger is attached. R467–R469:
HALT of a running engine takes it at a boundary, or waits for one; STEP and RESUME of a halted engine set it
running, one step or on; the watchdog reloads. A halt that waited 64 cycles in a locked sequence is forced: the lock
is broken and PC returns to its LOCK. DBG_SHU_RVAL writes a register of a halted engine. R470: the sequencer and its
gang halt at the next boundary, step one cycle, or resume at the first multiple of 8 G at least 2,048 G later.
States completion (Completes c s post: exec c s = next t for a t with post t, under the conditions on the state and
the operands named before it) of 9 commands: shuHalt (SHU_HALT), shuStep (SHU_STEP), shuResume (SHU_RESUME),
shuRvalWrite (SHU_RVAL_WRITE), shuHaltForce (SHU_HALT_FORCE), seqHalt (SEQ_HALT), seqStep (SEQ_STEP), seqResume
(SEQ_RESUME), seqResumeStart (SEQ_RESUME_START). -/
def Obligations.DebugHaltStepAndResume : Prop :=
  (∀ (s : State) (init v : Nat) (si hi : Bool), Opens s pgDbg 0x40 →
    (init ≠ 1 ∨ s.dp.attached = false) →
    ∀ c ∈ [Instr.shuHalt init si, .shuStep init si, .shuResume init si, .shuRvalWrite init hi v, .seqHalt init,
      .seqStep init, .seqResume init],
      Completes c s fun t => t = { s with resp := ⟨.denied, 0, false, true, 0, 0⟩ })
  ∧ (∀ (s : State) (si : Bool), Opens s pgDbg 0x40 → s.dp.attached = true →
    let e := s.rd pgDbg DBG_SHU_SEL.ENGINE
    let x := s.eng e
    (s.engState e = 1 → x.free = true → Completes (.shuHalt 1 si) s fun t =>
      t.engState e = 3 ∧ t.eng e = { x with haltAt := none, stepping := false }
        ∧ t.rd pgDbg DBG_SHU_CMD.STEP_INT = bit si ∧ AnsweredOk t ∧ t = { s with regs := t.regs, engs := t.engs, resp := t.resp })
    ∧ (s.engState e = 1 → x.free = false → Completes (.shuHalt 1 si) s fun t =>
      t.engState e = 1 ∧ t.eng e = { x with haltAt := some (x.haltAt.getD x.cyc) } ∧ AnsweredOk t)
    ∧ (s.engState e ≠ 1 → Completes (.shuHalt 1 si) s fun t =>
      t.engs = s.engs ∧ t.engState e = s.engState e ∧ maskBit (t.reg pgDbg 0x08).toNat 8 = true ∧ AnsweredOk t)
    ∧ (s.engState e = 3 →
      Completes (.shuStep 1 si) s (fun t => t.engState e = 1
          ∧ t.eng e = { x with haltAt := some x.cyc, stepping := true, wd := 0, wdAt := x.cyc } ∧ AnsweredOk t)
      ∧ Completes (.shuResume 1 si) s fun t => t.engState e = 1
          ∧ t.eng e = { x with haltAt := none, stepping := false, wd := 0, wdAt := x.cyc } ∧ AnsweredOk t)
    ∧ (∀ v, s.engState e = 3 → s.rd pgDbg DBG_SHU_RSEL.SPACE = 0 → s.rd pgDbg DBG_SHU_RSEL.REG ≤ 0x3B →
      Completes (.shuRvalWrite 1 false v) s fun t =>
        t.eng e = x.put (s.rd pgDbg DBG_SHU_RSEL.REG) (v % 2 ^ 24) ∧ AnsweredOk t
          ∧ t = { s with engs := t.engs, resp := t.resp })
    ∧ (∀ v, s.engState e = 3 → Completes (.shuRvalWrite 1 true v) s fun t => AnsweredOk t ∧ t = { s with resp := t.resp })
    ∧ (∀ v hi, s.engState e ≠ 3 → Completes (.shuRvalWrite 1 hi v) s fun t =>
      t.engs = s.engs ∧ maskBit (t.reg pgDbg 0x08).toNat 9 = true ∧ AnsweredOk t))
  ∧ (∀ (s : State) (e t0 : Nat), e < 256 → s.engState e = 1 → s.running (pgEng e) = true → (s.eng e).haltAt = some t0 →
      (s.eng e).locked = true → (s.clu (e / 16)).owner = some (e % 16) → t0 + 64 ≤ (s.eng e).cyc →
    Completes (.shuHaltForce e) s fun t =>
      t.engState e = 3 ∧ (t.eng e).pc = (s.eng e).lockPc ∧ (t.eng e).locked = false ∧ (t.clu (e / 16)).owner = none
        ∧ (t.eng e).haltAt = none ∧ (t.eng e).data = (s.eng e).data ∧ t.eRd e SHU_En_STAT.LOCK_BROKEN = 1
        ∧ t.rd pgDbg DBG_SHU_STAT.FORCED = 1 ∧ maskBit (t.reg pgDbg 0x08).toNat 10 = true
        ∧ ∀ i, i ≠ e → t.eng i = s.eng i)
  ∧ (∀ s : State, Opens s pgDbg 0x40 → s.dp.attached = true →
    let l := s.leader (s.rd pgDbg DBG_SEQ_SEL.SEQ)
    (s.hasRun l = true → (s.seq l).halted = false → Completes (.seqHalt 1) s fun t =>
      t.seq l = { s.seq l with haltReq := true } ∧ AnsweredOk t ∧ t = { s with seqs := t.seqs, resp := t.resp })
    ∧ ((s.seq l).halted = true → (s.seq l).resumeAt = none →
      Completes (.seqStep 1) s (fun t => (t.seq l).halted = false ∧ (t.seq l).haltReq = true ∧ (t.seq l).oneStep = true
          ∧ maskBit (t.rd pgDbg DBG_SEQ_STAT.HALTED) l = false ∧ AnsweredOk t)
      ∧ Completes (.seqResume 1) s fun t => t.seq l = { s.seq l with resumeAt := some (ceilTo 8 (s.now + 2048)) }
          ∧ AnsweredOk t ∧ t = { s with seqs := t.seqs, resp := t.resp }))
  ∧ (∀ (s : State) (l t0 : Nat), l < 16 → s.leader l = l → (s.seq l).resumeAt = some t0 → s.running (pgSeq l) = true →
    Completes (.seqResumeStart l) s fun t =>
      t.seq l = { s.seq l with halted := false, haltReq := false, resumeAt := none, sNext := t0 * 256 }
        ∧ t.now = max s.now t0 ∧ maskBit (t.rd pgDbg DBG_SEQ_STAT.HALTED) l = false
        ∧ t = { s with regs := t.regs, seqs := t.seqs, now := t.now })
end

