-- ==== Sys2Proof/Laws/Bits.lean ====
section
/-! SUPPORT. The laws of bit ranges: what `putBits` puts is what `bitsOf` reads, and other bits stay. -/

namespace Sys2Proof

theorem bitsOf_lt (n hi lo : Nat) : bitsOf n hi lo < 2 ^ (hi + 1 - lo) :=
  Nat.mod_lt _ (Nat.two_pow_pos _)

theorem testBit_bitsOf (n hi lo i : Nat) :
    (bitsOf n hi lo).testBit i = (decide (i < hi + 1 - lo) && n.testBit (i + lo)) := by
  simp [bitsOf, Nat.testBit_mod_two_pow, Nat.testBit_div_two_pow]

/-- The number without bits [hi:lo]. -/
theorem clearBits_eq (n hi lo : Nat) (h : lo ≤ hi) :
    n - bitsOf n hi lo * 2 ^ lo = n / 2 ^ (hi + 1) * 2 ^ (hi + 1) + n % 2 ^ lo := by
  have hw : lo + (hi + 1 - lo) = hi + 1 := by omega
  have h1 : n / 2 ^ (hi + 1) = n / 2 ^ lo / 2 ^ (hi + 1 - lo) := by
    rw [Nat.div_div_eq_div_mul, ← Nat.pow_add, hw]
  have h2 := Nat.div_add_mod n (2 ^ lo)
  have h3 := Nat.div_add_mod (n / 2 ^ lo) (2 ^ (hi + 1 - lo))
  have h4 : n = (n / 2 ^ (hi + 1) * 2 ^ (hi + 1) + bitsOf n hi lo * 2 ^ lo) + n % 2 ^ lo := by
    have h5 : n / 2 ^ (hi + 1) * 2 ^ (hi + 1) = 2 ^ lo * (2 ^ (hi + 1 - lo) * (n / 2 ^ lo / 2 ^ (hi + 1 - lo))) := by
      rw [h1, show (2 : Nat) ^ (hi + 1) = 2 ^ lo * 2 ^ (hi + 1 - lo) by rw [← Nat.pow_add, hw]]
      ac_rfl
    rw [h5, bitsOf, Nat.mul_comm (_ % _), ← Nat.mul_add, h3, h2]
  omega

theorem testBit_putBits (n hi lo v i : Nat) (h : lo ≤ hi) :
    (putBits n hi lo v).testBit i
      = if lo ≤ i ∧ i ≤ hi then v.testBit (i - lo) else n.testBit i := by
  unfold putBits
  rw [clearBits_eq n hi lo h]
  have hlt : v % 2 ^ (hi + 1 - lo) * 2 ^ lo + n % 2 ^ lo < 2 ^ (hi + 1) := by
    have h1 : v % 2 ^ (hi + 1 - lo) + 1 ≤ 2 ^ (hi + 1 - lo) := Nat.mod_lt _ (Nat.two_pow_pos _)
    have h2 : n % 2 ^ lo < 2 ^ lo := Nat.mod_lt _ (Nat.two_pow_pos _)
    have h3 := Nat.mul_le_mul_right (2 ^ lo) h1
    rw [← Nat.pow_add, show hi + 1 - lo + lo = hi + 1 by omega, Nat.add_mul] at h3
    omega
  have h2 : n % 2 ^ lo < 2 ^ lo := Nat.mod_lt _ (Nat.two_pow_pos _)
  rw [show n / 2 ^ (hi + 1) * 2 ^ (hi + 1) + n % 2 ^ lo + v % 2 ^ (hi + 1 - lo) * 2 ^ lo
      = 2 ^ (hi + 1) * (n / 2 ^ (hi + 1)) + (2 ^ lo * (v % 2 ^ (hi + 1 - lo)) + n % 2 ^ lo) by
    rw [Nat.mul_comm (2 ^ (hi + 1)), Nat.mul_comm (2 ^ lo)]; omega]
  rw [Nat.testBit_two_pow_mul_add _ (by rw [Nat.mul_comm]; exact hlt), Nat.testBit_two_pow_mul_add _ h2]
  simp only [Nat.testBit_mod_two_pow, Nat.testBit_div_two_pow]
  by_cases h1 : i < hi + 1
  · by_cases h3 : i < lo
    · simp [h1, h3, show ¬ (lo ≤ i ∧ i ≤ hi) by omega]
    · simp [h1, h3, show lo ≤ i ∧ i ≤ hi by omega, show i - lo < hi + 1 - lo by omega]
  · simp [h1, show ¬ (lo ≤ i ∧ i ≤ hi) by omega, show i - (hi + 1) + (hi + 1) = i by omega]

/-- What is put into a bit range reads back, cut to the width of the range. -/
theorem bitsOf_putBits_self (n hi lo v : Nat) (h : lo ≤ hi) :
    bitsOf (putBits n hi lo v) hi lo = v % 2 ^ (hi + 1 - lo) := by
  apply Nat.eq_of_testBit_eq
  intro i
  rw [testBit_bitsOf, testBit_putBits _ _ _ _ _ h, Nat.testBit_mod_two_pow]
  by_cases hi' : i < hi + 1 - lo
  · simp [hi', show lo ≤ i + lo ∧ i + lo ≤ hi by omega]
  · simp [hi']

/-- A bit range that does not meet the one written reads as before. -/
theorem bitsOf_putBits_of_disjoint (n hi lo v hi' lo' : Nat) (h : lo ≤ hi) (hd : hi < lo' ∨ hi' < lo) :
    bitsOf (putBits n hi lo v) hi' lo' = bitsOf n hi' lo' := by
  apply Nat.eq_of_testBit_eq
  intro i
  rw [testBit_bitsOf, testBit_bitsOf, testBit_putBits _ _ _ _ _ h]
  by_cases hi' : i < hi' + 1 - lo'
  · simp [hi', show ¬ (lo ≤ i + lo' ∧ i + lo' ≤ hi) by omega]
  · simp [hi']

theorem putBits_lt (n hi lo v w : Nat) (h : lo ≤ hi) (hw : hi < w) (hn : n < 2 ^ w) :
    putBits n hi lo v < 2 ^ w := by
  apply Nat.lt_pow_two_of_testBit
  intro i hi'
  rw [testBit_putBits _ _ _ _ _ h]
  have : n.testBit i = false := Nat.testBit_lt_two_pow (Nat.lt_of_lt_of_le hn (Nat.pow_le_pow_right (by omega) hi'))
  simp [this, show ¬ (lo ≤ i ∧ i ≤ hi) by omega]

@[simp] theorem bit_true : bit true = 1 := rfl
@[simp] theorem bit_false : bit false = 0 := rfl

theorem bit_lt_two (b : Bool) : bit b < 2 := by cases b <;> decide

end Sys2Proof
end

