-- ==== Sys2Proof/Laws/Columns.lean ====
section
/-! SUPPORT. What a column gives back of what it was built from: the fields of a control column, and its kind. -/

namespace Sys2Proof

/-- A lane of a control column gives back its byte 0 and its 56 payload bits. -/
theorem laneBits_parts (a y : Nat) :
    (BitVec.ofNat 64 (a % 256 + y % 2 ^ 56 * 256)).toNat % 256 = a % 256
      ∧ (BitVec.ofNat 64 (a % 256 + y % 2 ^ 56 * 256)).toNat / 256 = y % 2 ^ 56 := by
  rw [BitVec.toNat_ofNat]; omega

@[simp] theorem Column.ctl_typ (t sd p : Nat) : (Column.ctl t sd p).typ = t % 256 := (laneBits_parts _ _).1

@[simp] theorem Column.ctl_sides (t sd p : Nat) : (Column.ctl t sd p).sides = sd % 2 ^ 24 := by
  show _ % 256 + _ % 256 * _ + _ % 256 * _ = _
  simp only [Column.ctl, Column.mk4, (laneBits_parts _ _).1]
  simp; omega

@[simp] theorem Column.ctl_payload (t sd p : Nat) : (Column.ctl t sd p).payload = p % 2 ^ 224 := by
  show _ / 256 + _ / 256 * _ + _ / 256 * _ + _ / 256 * _ = _
  simp only [Column.ctl, Column.mk4, (laneBits_parts _ _).2]
  omega

@[simp] theorem Column.ctl_isCtl (t sd p : Nat) : (Column.ctl t sd p).isCtl = true := by
  simp [Column.isCtl, Column.blocks, Column.ctl, Column.mk4]

end Sys2Proof

namespace Sys2Proof.Machine

theorem crcShift_lt (w poly c : Nat) (b : Bool) (h : poly < 2 ^ w) : crcShift w poly c b < 2 ^ w := by
  have hd : c * 2 % 2 ^ w < 2 ^ w := Nat.mod_lt _ (Nat.two_pow_pos w)
  unfold crcShift
  split
  · exact Nat.xor_lt_two_pow hd h
  · exact hd

theorem crc16_lt (p : Nat) : crc16 p < 2 ^ 16 := by
  suffices h : ∀ (bs : List Bool) c, c < 2 ^ 16 → bs.foldl (crcShift 16 0x1021) c < 2 ^ 16 from h _ _ (by decide)
  intro bs
  induction bs with
  | nil => exact fun _ h => h
  | cons b r ih => exact fun c _ => ih _ (crcShift_lt _ _ _ _ (by decide))

theorem lowHigh_lt (a c : Nat) {m n : Nat} (ha : a < 2 ^ m) (hc : c < 2 ^ n) : a + c * 2 ^ m < 2 ^ (m + n) := by
  have h : (c + 1) * 2 ^ m ≤ 2 ^ n * 2 ^ m := Nat.mul_le_mul_right _ hc
  rw [Nat.pow_add, Nat.mul_comm (2 ^ m)]
  rw [Nat.add_mul] at h
  omega

theorem ctlColumn_typ (k : CtlKind) (w : Nat) : (ctlColumn k w).typ = k.code := by
  rw [ctlColumn, Column.ctl_typ]; cases k <;> rfl

theorem ctlColumn_sides (k : CtlKind) (w : Nat) : (ctlColumn k w).sides = k.code * 0x10101 := by
  rw [ctlColumn, Column.ctl_sides]; cases k <;> rfl

theorem ctlColumn_payload (k : CtlKind) (w : Nat) :
    (ctlColumn k w).payload = w % 2 ^ 208 + crc16 (w % 2 ^ 208) * 2 ^ 208 := by
  rw [ctlColumn, Column.ctl_payload, Nat.mod_eq_of_lt]
  exact lowHigh_lt (m := 208) (n := 16) _ _ (Nat.mod_lt _ (Nat.two_pow_pos _)) (crc16_lt _)

theorem crcField {a c p : Nat} (hp : p = a + c * 2 ^ 208) (ha : a < 2 ^ 208) (hc : c < 2 ^ 16) :
    bitsOf p 223 208 = c ∧ p % 2 ^ 208 = a := by
  subst hp
  rw [bitsOf, Nat.add_mul_mod_self_right, Nat.add_mul_div_right _ _ (Nat.two_pow_pos _), Nat.div_eq_of_lt ha,
    Nat.zero_add]
  exact ⟨Nat.mod_eq_of_lt hc, Nat.mod_eq_of_lt ha⟩

theorem crcHolds (f : Nat → Nat) (hf : ∀ x, f x < 2 ^ 16) {w p : Nat}
    (hp : p = w % 2 ^ 208 + f (w % 2 ^ 208) * 2 ^ 208) : bitsOf p 223 208 = f (p % 2 ^ 208) := by
  obtain ⟨h, h'⟩ := crcField hp (Nat.mod_lt _ (Nat.two_pow_pos _)) (hf _)
  rw [h, h']

theorem ctlColumn_crc (k : CtlKind) (w : Nat) :
    bitsOf (ctlColumn k w).payload 223 208 = crc16 ((ctlColumn k w).payload % 2 ^ 208) :=
  crcHolds crc16 crc16_lt (ctlColumn_payload k w)

theorem CtlKind.find_code (k : CtlKind) : (CtlKind.all.find? fun j => j.code == k.code) = some k := by
  cases k <;> rfl

theorem ctlKind_of {c : Column} {k : CtlKind} (ht : c.typ = k.code) (h : k ≠ .hdr)
    (hs : c.sides = k.code * 0x10101) (hc : bitsOf c.payload 223 208 = crc16 (c.payload % 2 ^ 208)) :
    ctlKind c = some k := by
  rw [ctlKind, ht, CtlKind.find_code]
  cases k <;> first | exact absurd rfl h | exact if_pos ⟨hs, hc⟩

/-- A control column that is sent is accepted as what it is, with the payload that it was given. -/
theorem ctlKind_ctlColumn (k : CtlKind) (w : Nat) (h : k ≠ .hdr) : ctlKind (ctlColumn k w) = some k :=
  ctlKind_of (ctlColumn_typ k w) h (ctlColumn_sides k w) (ctlColumn_crc k w)

theorem ctlColumn_isCtl (k : CtlKind) (w : Nat) : (ctlColumn k w).isCtl = true := Column.ctl_isCtl ..

end Sys2Proof.Machine
end

