-- ==== Sys2Proof/Laws/Table.lean ====
section
/-! SUPPORT. The laws of the sparse tables: a read after a write, that a write leaves every other key
alone, and that every operation keeps the canonical form. -/

namespace Sys2Proof.Machine

/-- The canonical form of a table whose unlisted keys read as `d`: the keys rise strictly, and no entry
equals what an unlisted key reads as. -/
def Tbl.canon {α : Type} [DecidableEq α] (t : Tbl α) (d : α) : Bool :=
  t.sorted && t.all fun e => decide (e.2 ≠ d)

variable {α : Type}

@[simp] theorem Tbl.find_nil (k : Nat) : Tbl.find ([] : Tbl α) k = none := rfl

@[simp] theorem Tbl.find_put_self (t : Tbl α) (k : Nat) (v : α) : (t.put k v).find k = some v := by
  induction t with
  | nil => simp [Tbl.put, Tbl.find]
  | cons e r ih =>
    obtain ⟨j, u⟩ := e
    simp only [Tbl.put]
    split
    · simp [Tbl.find]
    · split
      · simp [Tbl.find]
      · next h => simp [Tbl.find, h, ih]

theorem Tbl.find_put_of_ne (t : Tbl α) {k j : Nat} (v : α) (h : j ≠ k) :
    (t.put k v).find j = t.find j := by
  induction t with
  | nil => simp [Tbl.put, Tbl.find, h]
  | cons e r ih =>
    obtain ⟨i, u⟩ := e
    simp only [Tbl.put]
    split
    · simp [Tbl.find, h]
    · split
      · next hk => subst hk; simp [Tbl.find, h]
      · simp only [Tbl.find, ih]

@[simp] theorem Tbl.find_del_self (t : Tbl α) (k : Nat) : (t.del k).find k = none := by
  induction t with
  | nil => rfl
  | cons e r ih =>
    obtain ⟨i, u⟩ := e
    simp only [Tbl.del]
    split
    · exact ih
    · next h => simp [Tbl.find, h, ih]

theorem Tbl.find_del_of_ne (t : Tbl α) {k j : Nat} (h : j ≠ k) : (t.del k).find j = t.find j := by
  induction t with
  | nil => rfl
  | cons e r ih =>
    obtain ⟨i, u⟩ := e
    simp only [Tbl.del]
    split
    · next hk => subst hk; simp [Tbl.find, h, ih]
    · simp only [Tbl.find, ih]

@[simp] theorem Tbl.getD_nil (k : Nat) (d : α) : Tbl.getD ([] : Tbl α) k d = d := rfl

@[simp] theorem Tbl.getD_setD_self [DecidableEq α] (t : Tbl α) (k : Nat) (d v : α) :
    (t.setD k d v).getD k d = v := by
  unfold Tbl.setD Tbl.getD
  split
  · next h => simp [h]
  · simp

theorem Tbl.getD_setD_of_ne [DecidableEq α] (t : Tbl α) {k j : Nat} (d v d' : α) (h : j ≠ k) :
    (t.setD k d v).getD j d' = t.getD j d' := by
  unfold Tbl.setD Tbl.getD
  split
  · rw [Tbl.find_del_of_ne t h]
  · rw [Tbl.find_put_of_ne t v h]

theorem Tbl.getD_setD [DecidableEq α] (t : Tbl α) (k j : Nat) (d v : α) :
    (t.setD k d v).getD j d = if j = k then v else t.getD j d := by
  split
  · next h => subst h; simp
  · next h => exact Tbl.getD_setD_of_ne t d v d h

/-! ### The canonical form -/

theorem Tbl.above_put {t : Tbl α} {i k : Nat} {v : α} (h : t.above i = true) (hk : i < k) :
    (t.put k v).above i = true := by
  induction t with
  | nil => simp [Tbl.put, Tbl.above, hk]
  | cons e r ih =>
    obtain ⟨j, u⟩ := e
    have hj : i < j := by simp [Tbl.above] at h; exact h.1
    have hr : Tbl.above i r = true := by simp [Tbl.above] at h ⊢; exact h.2
    simp only [Tbl.put]
    split
    · simp [Tbl.above] at h ⊢; exact ⟨hk, h⟩
    · split
      · simp [Tbl.above] at hr ⊢; exact ⟨hk, hr⟩
      · have := ih hr
        simp [Tbl.above] at this ⊢; exact ⟨hj, this⟩

theorem Tbl.above_trans {t : Tbl α} {i k : Nat} (h : t.above k = true) (hk : i < k) :
    t.above i = true := by
  simp [Tbl.above] at h ⊢
  intro a b hab
  exact Nat.lt_trans hk (h a b hab)

theorem Tbl.sorted_put {t : Tbl α} (k : Nat) (v : α) (h : t.sorted = true) :
    (t.put k v).sorted = true := by
  induction t with
  | nil => rfl
  | cons e r ih =>
    obtain ⟨j, u⟩ := e
    simp only [Tbl.sorted, Bool.and_eq_true] at h
    obtain ⟨ha, hs⟩ := h
    simp only [Tbl.put]
    split
    · next hkj =>
      have : Tbl.above k r = true := Tbl.above_trans ha hkj
      simp only [Tbl.sorted, Bool.and_eq_true]
      refine ⟨?_, ha, hs⟩
      simp [Tbl.above] at this ⊢
      exact ⟨hkj, this⟩
    · split
      · next hkj => subst hkj; simp only [Tbl.sorted, Bool.and_eq_true]; exact ⟨ha, hs⟩
      · next h1 h2 =>
        simp only [Tbl.sorted, Bool.and_eq_true]
        exact ⟨Tbl.above_put ha (by omega), ih hs⟩

theorem Tbl.mem_of_mem_del {t : Tbl α} {k : Nat} {e : Nat × α} (h : e ∈ t.del k) : e ∈ t := by
  induction t with
  | nil => exact h
  | cons f r ih =>
    obtain ⟨j, u⟩ := f
    simp only [Tbl.del] at h
    split at h
    · exact List.mem_cons_of_mem _ (ih h)
    · rcases List.mem_cons.1 h with h | h
      · exact h ▸ List.mem_cons_self
      · exact List.mem_cons_of_mem _ (ih h)

theorem Tbl.mem_of_mem_put {t : Tbl α} {k : Nat} {v : α} {e : Nat × α} (h : e ∈ t.put k v) :
    e = (k, v) ∨ e ∈ t := by
  induction t with
  | nil => exact .inl (by simpa [Tbl.put] using h)
  | cons f r ih =>
    obtain ⟨j, u⟩ := f
    simp only [Tbl.put] at h
    split at h
    · exact List.mem_cons.1 h
    · split at h
      · rcases List.mem_cons.1 h with h | h
        · exact .inl h
        · exact .inr (List.mem_cons_of_mem _ h)
      · rcases List.mem_cons.1 h with h | h
        · exact .inr (h ▸ List.mem_cons_self)
        · rcases ih h with h | h
          · exact .inl h
          · exact .inr (List.mem_cons_of_mem _ h)

theorem Tbl.above_del {t : Tbl α} {i : Nat} (k : Nat) (h : t.above i = true) :
    (t.del k).above i = true := by
  simp only [Tbl.above, List.all_eq_true] at h ⊢
  exact fun e he => h e (Tbl.mem_of_mem_del he)

theorem Tbl.sorted_del {t : Tbl α} (k : Nat) (h : t.sorted = true) : (t.del k).sorted = true := by
  induction t with
  | nil => rfl
  | cons e r ih =>
    obtain ⟨j, u⟩ := e
    simp only [Tbl.sorted, Bool.and_eq_true] at h
    simp only [Tbl.del]
    split
    · exact ih h.2
    · simp only [Tbl.sorted, Bool.and_eq_true]
      exact ⟨Tbl.above_del k h.1, ih h.2⟩

theorem Tbl.sorted_filter {t : Tbl α} (p : Nat × α → Bool) (h : t.sorted = true) :
    Tbl.sorted (t.filter p) = true := by
  induction t with
  | nil => rfl
  | cons e r ih =>
    simp only [Tbl.sorted, Bool.and_eq_true] at h
    simp only [List.filter_cons]
    split
    · simp only [Tbl.sorted, Bool.and_eq_true]
      refine ⟨?_, ih h.2⟩
      have := h.1
      simp only [Tbl.above, List.all_eq_true] at this ⊢
      exact fun f hf => this f ((List.mem_filter.1 hf).1)
    · exact ih h.2

theorem Tbl.sorted_clear {t : Tbl α} (lo hi : Nat) (h : t.sorted = true) :
    (t.clear lo hi).sorted = true := Tbl.sorted_filter _ h

theorem Tbl.sorted_range {t : Tbl α} (lo hi : Nat) (h : t.sorted = true) :
    (t.range lo hi).sorted = true := Tbl.sorted_filter _ h

theorem Tbl.sorted_setD [DecidableEq α] {t : Tbl α} (k : Nat) (d v : α) (h : t.sorted = true) :
    (t.setD k d v).sorted = true := by
  unfold Tbl.setD
  split
  · exact Tbl.sorted_del k h
  · exact Tbl.sorted_put k v h

/-- A write through `setD` keeps the canonical form. -/
theorem Tbl.canon_setD [DecidableEq α] {t : Tbl α} {d : α} (k : Nat) (v : α) (h : t.canon d = true) :
    (t.setD k d v).canon d = true := by
  simp only [Tbl.canon, Bool.and_eq_true, List.all_eq_true, decide_eq_true_eq] at h ⊢
  refine ⟨Tbl.sorted_setD k d v h.1, ?_⟩
  intro e he
  unfold Tbl.setD at he
  split at he
  · exact h.2 e (Tbl.mem_of_mem_del he)
  · next hv =>
    rcases Tbl.mem_of_mem_put he with rfl | he
    · exact hv
    · exact h.2 e he

end Sys2Proof.Machine
end

