-- ==== Sys2Proof/Laws/State.lean ====
section
/-! SUPPORT. One lemma for each field and each update of the state: an update changes its own field only,
and reading a unit after its update gives what was put there. Generated from the list of fields. The proofs
stand in parentheses so that a rewriting keeps the equation as a step of its own: the kernel would otherwise
compare whole states by computing them. -/

namespace Sys2Proof.Machine

variable (s : State)

@[simp] theorem State.now_setReg (pg off : Nat) (w : Word) : (s.setReg pg off w).now = s.now := (rfl)
@[simp] theorem State.fresh_setReg (pg off : Nat) (w : Word) : (s.setReg pg off w).fresh = s.fresh := (rfl)
@[simp] theorem State.resp_setReg (pg off : Nat) (w : Word) : (s.setReg pg off w).resp = s.resp := (rfl)
@[simp] theorem State.shadow_setReg (pg off : Nat) (w : Word) : (s.setReg pg off w).shadow = s.shadow := (rfl)
@[simp] theorem State.pages_setReg (pg off : Nat) (w : Word) : (s.setReg pg off w).pages = s.pages := (rfl)
@[simp] theorem State.alarms_setReg (pg off : Nat) (w : Word) : (s.setReg pg off w).alarms = s.alarms := (rfl)
@[simp] theorem State.stalls_setReg (pg off : Nat) (w : Word) : (s.setReg pg off w).stalls = s.stalls := (rfl)
@[simp] theorem State.dies_setReg (pg off : Nat) (w : Word) : (s.setReg pg off w).dies = s.dies := (rfl)
@[simp] theorem State.tu_setReg (pg off : Nat) (w : Word) : (s.setReg pg off w).tu = s.tu := (rfl)
@[simp] theorem State.beacons_setReg (pg off : Nat) (w : Word) : (s.setReg pg off w).beacons = s.beacons := (rfl)
@[simp] theorem State.uclks_setReg (pg off : Nat) (w : Word) : (s.setReg pg off w).uclks = s.uclks := (rfl)
@[simp] theorem State.launch_setReg (pg off : Nat) (w : Word) : (s.setReg pg off w).launch = s.launch := (rfl)
@[simp] theorem State.banks_setReg (pg off : Nat) (w : Word) : (s.setReg pg off w).banks = s.banks := (rfl)
@[simp] theorem State.seqs_setReg (pg off : Nat) (w : Word) : (s.setReg pg off w).seqs = s.seqs := (rfl)
@[simp] theorem State.weftTab_setReg (pg off : Nat) (w : Word) : (s.setReg pg off w).weftTab = s.weftTab := (rfl)
@[simp] theorem State.cats_setReg (pg off : Nat) (w : Word) : (s.setReg pg off w).cats = s.cats := (rfl)
@[simp] theorem State.spls_setReg (pg off : Nat) (w : Word) : (s.setReg pg off w).spls = s.spls := (rfl)
@[simp] theorem State.drcs_setReg (pg off : Nat) (w : Word) : (s.setReg pg off w).drcs = s.drcs := (rfl)
@[simp] theorem State.slots_setReg (pg off : Nat) (w : Word) : (s.setReg pg off w).slots = s.slots := (rfl)
@[simp] theorem State.regions_setReg (pg off : Nat) (w : Word) : (s.setReg pg off w).regions = s.regions := (rfl)
@[simp] theorem State.nocs_setReg (pg off : Nat) (w : Word) : (s.setReg pg off w).nocs = s.nocs := (rfl)
@[simp] theorem State.govBal_setReg (pg off : Nat) (w : Word) : (s.setReg pg off w).govBal = s.govBal := (rfl)
@[simp] theorem State.pats_setReg (pg off : Nat) (w : Word) : (s.setReg pg off w).pats = s.pats := (rfl)
@[simp] theorem State.ports_setReg (pg off : Nat) (w : Word) : (s.setReg pg off w).ports = s.ports := (rfl)
@[simp] theorem State.rt_setReg (pg off : Nat) (w : Word) : (s.setReg pg off w).rt = s.rt := (rfl)
@[simp] theorem State.rtHit_setReg (pg off : Nat) (w : Word) : (s.setReg pg off w).rtHit = s.rtHit := (rfl)
@[simp] theorem State.egr_setReg (pg off : Nat) (w : Word) : (s.setReg pg off w).egr = s.egr := (rfl)
@[simp] theorem State.egrGen_setReg (pg off : Nat) (w : Word) : (s.setReg pg off w).egrGen = s.egrGen := (rfl)
@[simp] theorem State.answers_setReg (pg off : Nat) (w : Word) : (s.setReg pg off w).answers = s.answers := (rfl)
@[simp] theorem State.sinks_setReg (pg off : Nat) (w : Word) : (s.setReg pg off w).sinks = s.sinks := (rfl)
@[simp] theorem State.engs_setReg (pg off : Nat) (w : Word) : (s.setReg pg off w).engs = s.engs := (rfl)
@[simp] theorem State.clus_setReg (pg off : Nat) (w : Word) : (s.setReg pg off w).clus = s.clus := (rfl)
@[simp] theorem State.quads_setReg (pg off : Nat) (w : Word) : (s.setReg pg off w).quads = s.quads := (rfl)
@[simp] theorem State.cfg_setReg (pg off : Nat) (w : Word) : (s.setReg pg off w).cfg = s.cfg := (rfl)
@[simp] theorem State.darns_setReg (pg off : Nat) (w : Word) : (s.setReg pg off w).darns = s.darns := (rfl)
@[simp] theorem State.logics_setReg (pg off : Nat) (w : Word) : (s.setReg pg off w).logics = s.logics := (rfl)
@[simp] theorem State.fabs_setReg (pg off : Nat) (w : Word) : (s.setReg pg off w).fabs = s.fabs := (rfl)
@[simp] theorem State.sers_setReg (pg off : Nat) (w : Word) : (s.setReg pg off w).sers = s.sers := (rfl)
@[simp] theorem State.pow_setReg (pg off : Nat) (w : Word) : (s.setReg pg off w).pow = s.pow := (rfl)
@[simp] theorem State.store_setReg (pg off : Nat) (w : Word) : (s.setReg pg off w).store = s.store := (rfl)
@[simp] theorem State.hub_setReg (pg off : Nat) (w : Word) : (s.setReg pg off w).hub = s.hub := (rfl)
@[simp] theorem State.movers_setReg (pg off : Nat) (w : Word) : (s.setReg pg off w).movers = s.movers := (rfl)
@[simp] theorem State.sram_setReg (pg off : Nat) (w : Word) : (s.setReg pg off w).sram = s.sram := (rfl)
@[simp] theorem State.dp_setReg (pg off : Nat) (w : Word) : (s.setReg pg off w).dp = s.dp := (rfl)
@[simp] theorem State.dpAnswer_setReg (pg off : Nat) (w : Word) : (s.setReg pg off w).dpAnswer = s.dpAnswer := (rfl)
@[simp] theorem State.pins_setReg (pg off : Nat) (w : Word) : (s.setReg pg off w).pins = s.pins := (rfl)
@[simp] theorem State.pending_setReg (pg off : Nat) (w : Word) : (s.setReg pg off w).pending = s.pending := (rfl)
@[simp] theorem State.die_setReg (pg off : Nat) (w : Word) (u : Nat) : (s.setReg pg off w).die u = s.die u := (rfl)
@[simp] theorem State.page_setReg (pg off : Nat) (w : Word) (u : Nat) : (s.setReg pg off w).page u = s.page u := (rfl)
@[simp] theorem State.lslot_setReg (pg off : Nat) (w : Word) (u : Nat) : (s.setReg pg off w).lslot u = s.lslot u := (rfl)
@[simp] theorem State.bank_setReg (pg off : Nat) (w : Word) (u : Nat) : (s.setReg pg off w).bank u = s.bank u := (rfl)
@[simp] theorem State.seq_setReg (pg off : Nat) (w : Word) (u : Nat) : (s.setReg pg off w).seq u = s.seq u := (rfl)
@[simp] theorem State.cat_setReg (pg off : Nat) (w : Word) (u : Nat) : (s.setReg pg off w).cat u = s.cat u := (rfl)
@[simp] theorem State.spl_setReg (pg off : Nat) (w : Word) (u : Nat) : (s.setReg pg off w).spl u = s.spl u := (rfl)
@[simp] theorem State.drc_setReg (pg off : Nat) (w : Word) (u : Nat) : (s.setReg pg off w).drc u = s.drc u := (rfl)
@[simp] theorem State.lin_setReg (pg off : Nat) (w : Word) (u : Nat) : (s.setReg pg off w).lin u = s.lin u := (rfl)
@[simp] theorem State.noc_setReg (pg off : Nat) (w : Word) (u : Nat) : (s.setReg pg off w).noc u = s.noc u := (rfl)
@[simp] theorem State.pat_setReg (pg off : Nat) (w : Word) (u : Nat) : (s.setReg pg off w).pat u = s.pat u := (rfl)
@[simp] theorem State.port_setReg (pg off : Nat) (w : Word) (u : Nat) : (s.setReg pg off w).port u = s.port u := (rfl)
@[simp] theorem State.eng_setReg (pg off : Nat) (w : Word) (u : Nat) : (s.setReg pg off w).eng u = s.eng u := (rfl)
@[simp] theorem State.clu_setReg (pg off : Nat) (w : Word) (u : Nat) : (s.setReg pg off w).clu u = s.clu u := (rfl)
@[simp] theorem State.quad_setReg (pg off : Nat) (w : Word) (u : Nat) : (s.setReg pg off w).quad u = s.quad u := (rfl)
@[simp] theorem State.darn_setReg (pg off : Nat) (w : Word) (u : Nat) : (s.setReg pg off w).darn u = s.darn u := (rfl)
@[simp] theorem State.fab_setReg (pg off : Nat) (w : Word) (u : Nat) : (s.setReg pg off w).fab u = s.fab u := (rfl)
@[simp] theorem State.ser_setReg (pg off : Nat) (w : Word) (u : Nat) : (s.setReg pg off w).ser u = s.ser u := (rfl)
@[simp] theorem State.slot_setReg (pg off : Nat) (w : Word) (u : Nat) : (s.setReg pg off w).slot u = s.slot u := (rfl)
@[simp] theorem State.uclk_setReg (pg off : Nat) (w : Word) (u : Nat) : (s.setReg pg off w).uclk u = s.uclk u := (rfl)
@[simp] theorem State.logic_setReg (pg off : Nat) (w : Word) (u : Nat) : (s.setReg pg off w).logic u = s.logic u := (rfl)
@[simp] theorem State.beacon_setReg (pg off : Nat) (w : Word) (u : Nat) : (s.setReg pg off w).beacon u = s.beacon u := (rfl)
@[simp] theorem State.mover_setReg (pg off : Nat) (w : Word) (u : Nat) : (s.setReg pg off w).mover u = s.mover u := (rfl)

@[simp] theorem State.now_wr (pg : Nat) (f : Fld) (v : Nat) : (s.wr pg f v).now = s.now := (rfl)
@[simp] theorem State.fresh_wr (pg : Nat) (f : Fld) (v : Nat) : (s.wr pg f v).fresh = s.fresh := (rfl)
@[simp] theorem State.resp_wr (pg : Nat) (f : Fld) (v : Nat) : (s.wr pg f v).resp = s.resp := (rfl)
@[simp] theorem State.shadow_wr (pg : Nat) (f : Fld) (v : Nat) : (s.wr pg f v).shadow = s.shadow := (rfl)
@[simp] theorem State.pages_wr (pg : Nat) (f : Fld) (v : Nat) : (s.wr pg f v).pages = s.pages := (rfl)
@[simp] theorem State.alarms_wr (pg : Nat) (f : Fld) (v : Nat) : (s.wr pg f v).alarms = s.alarms := (rfl)
@[simp] theorem State.stalls_wr (pg : Nat) (f : Fld) (v : Nat) : (s.wr pg f v).stalls = s.stalls := (rfl)
@[simp] theorem State.dies_wr (pg : Nat) (f : Fld) (v : Nat) : (s.wr pg f v).dies = s.dies := (rfl)
@[simp] theorem State.tu_wr (pg : Nat) (f : Fld) (v : Nat) : (s.wr pg f v).tu = s.tu := (rfl)
@[simp] theorem State.beacons_wr (pg : Nat) (f : Fld) (v : Nat) : (s.wr pg f v).beacons = s.beacons := (rfl)
@[simp] theorem State.uclks_wr (pg : Nat) (f : Fld) (v : Nat) : (s.wr pg f v).uclks = s.uclks := (rfl)
@[simp] theorem State.launch_wr (pg : Nat) (f : Fld) (v : Nat) : (s.wr pg f v).launch = s.launch := (rfl)
@[simp] theorem State.banks_wr (pg : Nat) (f : Fld) (v : Nat) : (s.wr pg f v).banks = s.banks := (rfl)
@[simp] theorem State.seqs_wr (pg : Nat) (f : Fld) (v : Nat) : (s.wr pg f v).seqs = s.seqs := (rfl)
@[simp] theorem State.weftTab_wr (pg : Nat) (f : Fld) (v : Nat) : (s.wr pg f v).weftTab = s.weftTab := (rfl)
@[simp] theorem State.cats_wr (pg : Nat) (f : Fld) (v : Nat) : (s.wr pg f v).cats = s.cats := (rfl)
@[simp] theorem State.spls_wr (pg : Nat) (f : Fld) (v : Nat) : (s.wr pg f v).spls = s.spls := (rfl)
@[simp] theorem State.drcs_wr (pg : Nat) (f : Fld) (v : Nat) : (s.wr pg f v).drcs = s.drcs := (rfl)
@[simp] theorem State.slots_wr (pg : Nat) (f : Fld) (v : Nat) : (s.wr pg f v).slots = s.slots := (rfl)
@[simp] theorem State.regions_wr (pg : Nat) (f : Fld) (v : Nat) : (s.wr pg f v).regions = s.regions := (rfl)
@[simp] theorem State.nocs_wr (pg : Nat) (f : Fld) (v : Nat) : (s.wr pg f v).nocs = s.nocs := (rfl)
@[simp] theorem State.govBal_wr (pg : Nat) (f : Fld) (v : Nat) : (s.wr pg f v).govBal = s.govBal := (rfl)
@[simp] theorem State.pats_wr (pg : Nat) (f : Fld) (v : Nat) : (s.wr pg f v).pats = s.pats := (rfl)
@[simp] theorem State.ports_wr (pg : Nat) (f : Fld) (v : Nat) : (s.wr pg f v).ports = s.ports := (rfl)
@[simp] theorem State.rt_wr (pg : Nat) (f : Fld) (v : Nat) : (s.wr pg f v).rt = s.rt := (rfl)
@[simp] theorem State.rtHit_wr (pg : Nat) (f : Fld) (v : Nat) : (s.wr pg f v).rtHit = s.rtHit := (rfl)
@[simp] theorem State.egr_wr (pg : Nat) (f : Fld) (v : Nat) : (s.wr pg f v).egr = s.egr := (rfl)
@[simp] theorem State.egrGen_wr (pg : Nat) (f : Fld) (v : Nat) : (s.wr pg f v).egrGen = s.egrGen := (rfl)
@[simp] theorem State.answers_wr (pg : Nat) (f : Fld) (v : Nat) : (s.wr pg f v).answers = s.answers := (rfl)
@[simp] theorem State.sinks_wr (pg : Nat) (f : Fld) (v : Nat) : (s.wr pg f v).sinks = s.sinks := (rfl)
@[simp] theorem State.engs_wr (pg : Nat) (f : Fld) (v : Nat) : (s.wr pg f v).engs = s.engs := (rfl)
@[simp] theorem State.clus_wr (pg : Nat) (f : Fld) (v : Nat) : (s.wr pg f v).clus = s.clus := (rfl)
@[simp] theorem State.quads_wr (pg : Nat) (f : Fld) (v : Nat) : (s.wr pg f v).quads = s.quads := (rfl)
@[simp] theorem State.cfg_wr (pg : Nat) (f : Fld) (v : Nat) : (s.wr pg f v).cfg = s.cfg := (rfl)
@[simp] theorem State.darns_wr (pg : Nat) (f : Fld) (v : Nat) : (s.wr pg f v).darns = s.darns := (rfl)
@[simp] theorem State.logics_wr (pg : Nat) (f : Fld) (v : Nat) : (s.wr pg f v).logics = s.logics := (rfl)
@[simp] theorem State.fabs_wr (pg : Nat) (f : Fld) (v : Nat) : (s.wr pg f v).fabs = s.fabs := (rfl)
@[simp] theorem State.sers_wr (pg : Nat) (f : Fld) (v : Nat) : (s.wr pg f v).sers = s.sers := (rfl)
@[simp] theorem State.pow_wr (pg : Nat) (f : Fld) (v : Nat) : (s.wr pg f v).pow = s.pow := (rfl)
@[simp] theorem State.store_wr (pg : Nat) (f : Fld) (v : Nat) : (s.wr pg f v).store = s.store := (rfl)
@[simp] theorem State.hub_wr (pg : Nat) (f : Fld) (v : Nat) : (s.wr pg f v).hub = s.hub := (rfl)
@[simp] theorem State.movers_wr (pg : Nat) (f : Fld) (v : Nat) : (s.wr pg f v).movers = s.movers := (rfl)
@[simp] theorem State.sram_wr (pg : Nat) (f : Fld) (v : Nat) : (s.wr pg f v).sram = s.sram := (rfl)
@[simp] theorem State.dp_wr (pg : Nat) (f : Fld) (v : Nat) : (s.wr pg f v).dp = s.dp := (rfl)
@[simp] theorem State.dpAnswer_wr (pg : Nat) (f : Fld) (v : Nat) : (s.wr pg f v).dpAnswer = s.dpAnswer := (rfl)
@[simp] theorem State.pins_wr (pg : Nat) (f : Fld) (v : Nat) : (s.wr pg f v).pins = s.pins := (rfl)
@[simp] theorem State.pending_wr (pg : Nat) (f : Fld) (v : Nat) : (s.wr pg f v).pending = s.pending := (rfl)
@[simp] theorem State.die_wr (pg : Nat) (f : Fld) (v : Nat) (u : Nat) : (s.wr pg f v).die u = s.die u := (rfl)
@[simp] theorem State.page_wr (pg : Nat) (f : Fld) (v : Nat) (u : Nat) : (s.wr pg f v).page u = s.page u := (rfl)
@[simp] theorem State.lslot_wr (pg : Nat) (f : Fld) (v : Nat) (u : Nat) : (s.wr pg f v).lslot u = s.lslot u := (rfl)
@[simp] theorem State.bank_wr (pg : Nat) (f : Fld) (v : Nat) (u : Nat) : (s.wr pg f v).bank u = s.bank u := (rfl)
@[simp] theorem State.seq_wr (pg : Nat) (f : Fld) (v : Nat) (u : Nat) : (s.wr pg f v).seq u = s.seq u := (rfl)
@[simp] theorem State.cat_wr (pg : Nat) (f : Fld) (v : Nat) (u : Nat) : (s.wr pg f v).cat u = s.cat u := (rfl)
@[simp] theorem State.spl_wr (pg : Nat) (f : Fld) (v : Nat) (u : Nat) : (s.wr pg f v).spl u = s.spl u := (rfl)
@[simp] theorem State.drc_wr (pg : Nat) (f : Fld) (v : Nat) (u : Nat) : (s.wr pg f v).drc u = s.drc u := (rfl)
@[simp] theorem State.lin_wr (pg : Nat) (f : Fld) (v : Nat) (u : Nat) : (s.wr pg f v).lin u = s.lin u := (rfl)
@[simp] theorem State.noc_wr (pg : Nat) (f : Fld) (v : Nat) (u : Nat) : (s.wr pg f v).noc u = s.noc u := (rfl)
@[simp] theorem State.pat_wr (pg : Nat) (f : Fld) (v : Nat) (u : Nat) : (s.wr pg f v).pat u = s.pat u := (rfl)
@[simp] theorem State.port_wr (pg : Nat) (f : Fld) (v : Nat) (u : Nat) : (s.wr pg f v).port u = s.port u := (rfl)
@[simp] theorem State.eng_wr (pg : Nat) (f : Fld) (v : Nat) (u : Nat) : (s.wr pg f v).eng u = s.eng u := (rfl)
@[simp] theorem State.clu_wr (pg : Nat) (f : Fld) (v : Nat) (u : Nat) : (s.wr pg f v).clu u = s.clu u := (rfl)
@[simp] theorem State.quad_wr (pg : Nat) (f : Fld) (v : Nat) (u : Nat) : (s.wr pg f v).quad u = s.quad u := (rfl)
@[simp] theorem State.darn_wr (pg : Nat) (f : Fld) (v : Nat) (u : Nat) : (s.wr pg f v).darn u = s.darn u := (rfl)
@[simp] theorem State.fab_wr (pg : Nat) (f : Fld) (v : Nat) (u : Nat) : (s.wr pg f v).fab u = s.fab u := (rfl)
@[simp] theorem State.ser_wr (pg : Nat) (f : Fld) (v : Nat) (u : Nat) : (s.wr pg f v).ser u = s.ser u := (rfl)
@[simp] theorem State.slot_wr (pg : Nat) (f : Fld) (v : Nat) (u : Nat) : (s.wr pg f v).slot u = s.slot u := (rfl)
@[simp] theorem State.uclk_wr (pg : Nat) (f : Fld) (v : Nat) (u : Nat) : (s.wr pg f v).uclk u = s.uclk u := (rfl)
@[simp] theorem State.logic_wr (pg : Nat) (f : Fld) (v : Nat) (u : Nat) : (s.wr pg f v).logic u = s.logic u := (rfl)
@[simp] theorem State.beacon_wr (pg : Nat) (f : Fld) (v : Nat) (u : Nat) : (s.wr pg f v).beacon u = s.beacon u := (rfl)
@[simp] theorem State.mover_wr (pg : Nat) (f : Fld) (v : Nat) (u : Nat) : (s.wr pg f v).mover u = s.mover u := (rfl)

@[simp] theorem State.now_bump (pg : Nat) (f : Fld) (n : Nat) : (s.bump pg f n).now = s.now := (rfl)
@[simp] theorem State.fresh_bump (pg : Nat) (f : Fld) (n : Nat) : (s.bump pg f n).fresh = s.fresh := (rfl)
@[simp] theorem State.resp_bump (pg : Nat) (f : Fld) (n : Nat) : (s.bump pg f n).resp = s.resp := (rfl)
@[simp] theorem State.shadow_bump (pg : Nat) (f : Fld) (n : Nat) : (s.bump pg f n).shadow = s.shadow := (rfl)
@[simp] theorem State.pages_bump (pg : Nat) (f : Fld) (n : Nat) : (s.bump pg f n).pages = s.pages := (rfl)
@[simp] theorem State.alarms_bump (pg : Nat) (f : Fld) (n : Nat) : (s.bump pg f n).alarms = s.alarms := (rfl)
@[simp] theorem State.stalls_bump (pg : Nat) (f : Fld) (n : Nat) : (s.bump pg f n).stalls = s.stalls := (rfl)
@[simp] theorem State.dies_bump (pg : Nat) (f : Fld) (n : Nat) : (s.bump pg f n).dies = s.dies := (rfl)
@[simp] theorem State.tu_bump (pg : Nat) (f : Fld) (n : Nat) : (s.bump pg f n).tu = s.tu := (rfl)
@[simp] theorem State.beacons_bump (pg : Nat) (f : Fld) (n : Nat) : (s.bump pg f n).beacons = s.beacons := (rfl)
@[simp] theorem State.uclks_bump (pg : Nat) (f : Fld) (n : Nat) : (s.bump pg f n).uclks = s.uclks := (rfl)
@[simp] theorem State.launch_bump (pg : Nat) (f : Fld) (n : Nat) : (s.bump pg f n).launch = s.launch := (rfl)
@[simp] theorem State.banks_bump (pg : Nat) (f : Fld) (n : Nat) : (s.bump pg f n).banks = s.banks := (rfl)
@[simp] theorem State.seqs_bump (pg : Nat) (f : Fld) (n : Nat) : (s.bump pg f n).seqs = s.seqs := (rfl)
@[simp] theorem State.weftTab_bump (pg : Nat) (f : Fld) (n : Nat) : (s.bump pg f n).weftTab = s.weftTab := (rfl)
@[simp] theorem State.cats_bump (pg : Nat) (f : Fld) (n : Nat) : (s.bump pg f n).cats = s.cats := (rfl)
@[simp] theorem State.spls_bump (pg : Nat) (f : Fld) (n : Nat) : (s.bump pg f n).spls = s.spls := (rfl)
@[simp] theorem State.drcs_bump (pg : Nat) (f : Fld) (n : Nat) : (s.bump pg f n).drcs = s.drcs := (rfl)
@[simp] theorem State.slots_bump (pg : Nat) (f : Fld) (n : Nat) : (s.bump pg f n).slots = s.slots := (rfl)
@[simp] theorem State.regions_bump (pg : Nat) (f : Fld) (n : Nat) : (s.bump pg f n).regions = s.regions := (rfl)
@[simp] theorem State.nocs_bump (pg : Nat) (f : Fld) (n : Nat) : (s.bump pg f n).nocs = s.nocs := (rfl)
@[simp] theorem State.govBal_bump (pg : Nat) (f : Fld) (n : Nat) : (s.bump pg f n).govBal = s.govBal := (rfl)
@[simp] theorem State.pats_bump (pg : Nat) (f : Fld) (n : Nat) : (s.bump pg f n).pats = s.pats := (rfl)
@[simp] theorem State.ports_bump (pg : Nat) (f : Fld) (n : Nat) : (s.bump pg f n).ports = s.ports := (rfl)
@[simp] theorem State.rt_bump (pg : Nat) (f : Fld) (n : Nat) : (s.bump pg f n).rt = s.rt := (rfl)
@[simp] theorem State.rtHit_bump (pg : Nat) (f : Fld) (n : Nat) : (s.bump pg f n).rtHit = s.rtHit := (rfl)
@[simp] theorem State.egr_bump (pg : Nat) (f : Fld) (n : Nat) : (s.bump pg f n).egr = s.egr := (rfl)
@[simp] theorem State.egrGen_bump (pg : Nat) (f : Fld) (n : Nat) : (s.bump pg f n).egrGen = s.egrGen := (rfl)
@[simp] theorem State.answers_bump (pg : Nat) (f : Fld) (n : Nat) : (s.bump pg f n).answers = s.answers := (rfl)
@[simp] theorem State.sinks_bump (pg : Nat) (f : Fld) (n : Nat) : (s.bump pg f n).sinks = s.sinks := (rfl)
@[simp] theorem State.engs_bump (pg : Nat) (f : Fld) (n : Nat) : (s.bump pg f n).engs = s.engs := (rfl)
@[simp] theorem State.clus_bump (pg : Nat) (f : Fld) (n : Nat) : (s.bump pg f n).clus = s.clus := (rfl)
@[simp] theorem State.quads_bump (pg : Nat) (f : Fld) (n : Nat) : (s.bump pg f n).quads = s.quads := (rfl)
@[simp] theorem State.cfg_bump (pg : Nat) (f : Fld) (n : Nat) : (s.bump pg f n).cfg = s.cfg := (rfl)
@[simp] theorem State.darns_bump (pg : Nat) (f : Fld) (n : Nat) : (s.bump pg f n).darns = s.darns := (rfl)
@[simp] theorem State.logics_bump (pg : Nat) (f : Fld) (n : Nat) : (s.bump pg f n).logics = s.logics := (rfl)
@[simp] theorem State.fabs_bump (pg : Nat) (f : Fld) (n : Nat) : (s.bump pg f n).fabs = s.fabs := (rfl)
@[simp] theorem State.sers_bump (pg : Nat) (f : Fld) (n : Nat) : (s.bump pg f n).sers = s.sers := (rfl)
@[simp] theorem State.pow_bump (pg : Nat) (f : Fld) (n : Nat) : (s.bump pg f n).pow = s.pow := (rfl)
@[simp] theorem State.store_bump (pg : Nat) (f : Fld) (n : Nat) : (s.bump pg f n).store = s.store := (rfl)
@[simp] theorem State.hub_bump (pg : Nat) (f : Fld) (n : Nat) : (s.bump pg f n).hub = s.hub := (rfl)
@[simp] theorem State.movers_bump (pg : Nat) (f : Fld) (n : Nat) : (s.bump pg f n).movers = s.movers := (rfl)
@[simp] theorem State.sram_bump (pg : Nat) (f : Fld) (n : Nat) : (s.bump pg f n).sram = s.sram := (rfl)
@[simp] theorem State.dp_bump (pg : Nat) (f : Fld) (n : Nat) : (s.bump pg f n).dp = s.dp := (rfl)
@[simp] theorem State.dpAnswer_bump (pg : Nat) (f : Fld) (n : Nat) : (s.bump pg f n).dpAnswer = s.dpAnswer := (rfl)
@[simp] theorem State.pins_bump (pg : Nat) (f : Fld) (n : Nat) : (s.bump pg f n).pins = s.pins := (rfl)
@[simp] theorem State.pending_bump (pg : Nat) (f : Fld) (n : Nat) : (s.bump pg f n).pending = s.pending := (rfl)
@[simp] theorem State.die_bump (pg : Nat) (f : Fld) (n : Nat) (u : Nat) : (s.bump pg f n).die u = s.die u := (rfl)
@[simp] theorem State.page_bump (pg : Nat) (f : Fld) (n : Nat) (u : Nat) : (s.bump pg f n).page u = s.page u := (rfl)
@[simp] theorem State.lslot_bump (pg : Nat) (f : Fld) (n : Nat) (u : Nat) : (s.bump pg f n).lslot u = s.lslot u := (rfl)
@[simp] theorem State.bank_bump (pg : Nat) (f : Fld) (n : Nat) (u : Nat) : (s.bump pg f n).bank u = s.bank u := (rfl)
@[simp] theorem State.seq_bump (pg : Nat) (f : Fld) (n : Nat) (u : Nat) : (s.bump pg f n).seq u = s.seq u := (rfl)
@[simp] theorem State.cat_bump (pg : Nat) (f : Fld) (n : Nat) (u : Nat) : (s.bump pg f n).cat u = s.cat u := (rfl)
@[simp] theorem State.spl_bump (pg : Nat) (f : Fld) (n : Nat) (u : Nat) : (s.bump pg f n).spl u = s.spl u := (rfl)
@[simp] theorem State.drc_bump (pg : Nat) (f : Fld) (n : Nat) (u : Nat) : (s.bump pg f n).drc u = s.drc u := (rfl)
@[simp] theorem State.lin_bump (pg : Nat) (f : Fld) (n : Nat) (u : Nat) : (s.bump pg f n).lin u = s.lin u := (rfl)
@[simp] theorem State.noc_bump (pg : Nat) (f : Fld) (n : Nat) (u : Nat) : (s.bump pg f n).noc u = s.noc u := (rfl)
@[simp] theorem State.pat_bump (pg : Nat) (f : Fld) (n : Nat) (u : Nat) : (s.bump pg f n).pat u = s.pat u := (rfl)
@[simp] theorem State.port_bump (pg : Nat) (f : Fld) (n : Nat) (u : Nat) : (s.bump pg f n).port u = s.port u := (rfl)
@[simp] theorem State.eng_bump (pg : Nat) (f : Fld) (n : Nat) (u : Nat) : (s.bump pg f n).eng u = s.eng u := (rfl)
@[simp] theorem State.clu_bump (pg : Nat) (f : Fld) (n : Nat) (u : Nat) : (s.bump pg f n).clu u = s.clu u := (rfl)
@[simp] theorem State.quad_bump (pg : Nat) (f : Fld) (n : Nat) (u : Nat) : (s.bump pg f n).quad u = s.quad u := (rfl)
@[simp] theorem State.darn_bump (pg : Nat) (f : Fld) (n : Nat) (u : Nat) : (s.bump pg f n).darn u = s.darn u := (rfl)
@[simp] theorem State.fab_bump (pg : Nat) (f : Fld) (n : Nat) (u : Nat) : (s.bump pg f n).fab u = s.fab u := (rfl)
@[simp] theorem State.ser_bump (pg : Nat) (f : Fld) (n : Nat) (u : Nat) : (s.bump pg f n).ser u = s.ser u := (rfl)
@[simp] theorem State.slot_bump (pg : Nat) (f : Fld) (n : Nat) (u : Nat) : (s.bump pg f n).slot u = s.slot u := (rfl)
@[simp] theorem State.uclk_bump (pg : Nat) (f : Fld) (n : Nat) (u : Nat) : (s.bump pg f n).uclk u = s.uclk u := (rfl)
@[simp] theorem State.logic_bump (pg : Nat) (f : Fld) (n : Nat) (u : Nat) : (s.bump pg f n).logic u = s.logic u := (rfl)
@[simp] theorem State.beacon_bump (pg : Nat) (f : Fld) (n : Nat) (u : Nat) : (s.bump pg f n).beacon u = s.beacon u := (rfl)
@[simp] theorem State.mover_bump (pg : Nat) (f : Fld) (n : Nat) (u : Nat) : (s.bump pg f n).mover u = s.mover u := (rfl)

@[simp] theorem State.now_wrPair (pg : Nat) (lo hi : Fld) (v : Nat) : (s.wrPair pg lo hi v).now = s.now := (rfl)
@[simp] theorem State.fresh_wrPair (pg : Nat) (lo hi : Fld) (v : Nat) : (s.wrPair pg lo hi v).fresh = s.fresh := (rfl)
@[simp] theorem State.resp_wrPair (pg : Nat) (lo hi : Fld) (v : Nat) : (s.wrPair pg lo hi v).resp = s.resp := (rfl)
@[simp] theorem State.shadow_wrPair (pg : Nat) (lo hi : Fld) (v : Nat) : (s.wrPair pg lo hi v).shadow = s.shadow := (rfl)
@[simp] theorem State.pages_wrPair (pg : Nat) (lo hi : Fld) (v : Nat) : (s.wrPair pg lo hi v).pages = s.pages := (rfl)
@[simp] theorem State.alarms_wrPair (pg : Nat) (lo hi : Fld) (v : Nat) : (s.wrPair pg lo hi v).alarms = s.alarms := (rfl)
@[simp] theorem State.stalls_wrPair (pg : Nat) (lo hi : Fld) (v : Nat) : (s.wrPair pg lo hi v).stalls = s.stalls := (rfl)
@[simp] theorem State.dies_wrPair (pg : Nat) (lo hi : Fld) (v : Nat) : (s.wrPair pg lo hi v).dies = s.dies := (rfl)
@[simp] theorem State.tu_wrPair (pg : Nat) (lo hi : Fld) (v : Nat) : (s.wrPair pg lo hi v).tu = s.tu := (rfl)
@[simp] theorem State.beacons_wrPair (pg : Nat) (lo hi : Fld) (v : Nat) : (s.wrPair pg lo hi v).beacons = s.beacons := (rfl)
@[simp] theorem State.uclks_wrPair (pg : Nat) (lo hi : Fld) (v : Nat) : (s.wrPair pg lo hi v).uclks = s.uclks := (rfl)
@[simp] theorem State.launch_wrPair (pg : Nat) (lo hi : Fld) (v : Nat) : (s.wrPair pg lo hi v).launch = s.launch := (rfl)
@[simp] theorem State.banks_wrPair (pg : Nat) (lo hi : Fld) (v : Nat) : (s.wrPair pg lo hi v).banks = s.banks := (rfl)
@[simp] theorem State.seqs_wrPair (pg : Nat) (lo hi : Fld) (v : Nat) : (s.wrPair pg lo hi v).seqs = s.seqs := (rfl)
@[simp] theorem State.weftTab_wrPair (pg : Nat) (lo hi : Fld) (v : Nat) : (s.wrPair pg lo hi v).weftTab = s.weftTab := (rfl)
@[simp] theorem State.cats_wrPair (pg : Nat) (lo hi : Fld) (v : Nat) : (s.wrPair pg lo hi v).cats = s.cats := (rfl)
@[simp] theorem State.spls_wrPair (pg : Nat) (lo hi : Fld) (v : Nat) : (s.wrPair pg lo hi v).spls = s.spls := (rfl)
@[simp] theorem State.drcs_wrPair (pg : Nat) (lo hi : Fld) (v : Nat) : (s.wrPair pg lo hi v).drcs = s.drcs := (rfl)
@[simp] theorem State.slots_wrPair (pg : Nat) (lo hi : Fld) (v : Nat) : (s.wrPair pg lo hi v).slots = s.slots := (rfl)
@[simp] theorem State.regions_wrPair (pg : Nat) (lo hi : Fld) (v : Nat) : (s.wrPair pg lo hi v).regions = s.regions := (rfl)
@[simp] theorem State.nocs_wrPair (pg : Nat) (lo hi : Fld) (v : Nat) : (s.wrPair pg lo hi v).nocs = s.nocs := (rfl)
@[simp] theorem State.govBal_wrPair (pg : Nat) (lo hi : Fld) (v : Nat) : (s.wrPair pg lo hi v).govBal = s.govBal := (rfl)
@[simp] theorem State.pats_wrPair (pg : Nat) (lo hi : Fld) (v : Nat) : (s.wrPair pg lo hi v).pats = s.pats := (rfl)
@[simp] theorem State.ports_wrPair (pg : Nat) (lo hi : Fld) (v : Nat) : (s.wrPair pg lo hi v).ports = s.ports := (rfl)
@[simp] theorem State.rt_wrPair (pg : Nat) (lo hi : Fld) (v : Nat) : (s.wrPair pg lo hi v).rt = s.rt := (rfl)
@[simp] theorem State.rtHit_wrPair (pg : Nat) (lo hi : Fld) (v : Nat) : (s.wrPair pg lo hi v).rtHit = s.rtHit := (rfl)
@[simp] theorem State.egr_wrPair (pg : Nat) (lo hi : Fld) (v : Nat) : (s.wrPair pg lo hi v).egr = s.egr := (rfl)
@[simp] theorem State.egrGen_wrPair (pg : Nat) (lo hi : Fld) (v : Nat) : (s.wrPair pg lo hi v).egrGen = s.egrGen := (rfl)
@[simp] theorem State.answers_wrPair (pg : Nat) (lo hi : Fld) (v : Nat) : (s.wrPair pg lo hi v).answers = s.answers := (rfl)
@[simp] theorem State.sinks_wrPair (pg : Nat) (lo hi : Fld) (v : Nat) : (s.wrPair pg lo hi v).sinks = s.sinks := (rfl)
@[simp] theorem State.engs_wrPair (pg : Nat) (lo hi : Fld) (v : Nat) : (s.wrPair pg lo hi v).engs = s.engs := (rfl)
@[simp] theorem State.clus_wrPair (pg : Nat) (lo hi : Fld) (v : Nat) : (s.wrPair pg lo hi v).clus = s.clus := (rfl)
@[simp] theorem State.quads_wrPair (pg : Nat) (lo hi : Fld) (v : Nat) : (s.wrPair pg lo hi v).quads = s.quads := (rfl)
@[simp] theorem State.cfg_wrPair (pg : Nat) (lo hi : Fld) (v : Nat) : (s.wrPair pg lo hi v).cfg = s.cfg := (rfl)
@[simp] theorem State.darns_wrPair (pg : Nat) (lo hi : Fld) (v : Nat) : (s.wrPair pg lo hi v).darns = s.darns := (rfl)
@[simp] theorem State.logics_wrPair (pg : Nat) (lo hi : Fld) (v : Nat) : (s.wrPair pg lo hi v).logics = s.logics := (rfl)
@[simp] theorem State.fabs_wrPair (pg : Nat) (lo hi : Fld) (v : Nat) : (s.wrPair pg lo hi v).fabs = s.fabs := (rfl)
@[simp] theorem State.sers_wrPair (pg : Nat) (lo hi : Fld) (v : Nat) : (s.wrPair pg lo hi v).sers = s.sers := (rfl)
@[simp] theorem State.pow_wrPair (pg : Nat) (lo hi : Fld) (v : Nat) : (s.wrPair pg lo hi v).pow = s.pow := (rfl)
@[simp] theorem State.store_wrPair (pg : Nat) (lo hi : Fld) (v : Nat) : (s.wrPair pg lo hi v).store = s.store := (rfl)
@[simp] theorem State.hub_wrPair (pg : Nat) (lo hi : Fld) (v : Nat) : (s.wrPair pg lo hi v).hub = s.hub := (rfl)
@[simp] theorem State.movers_wrPair (pg : Nat) (lo hi : Fld) (v : Nat) : (s.wrPair pg lo hi v).movers = s.movers := (rfl)
@[simp] theorem State.sram_wrPair (pg : Nat) (lo hi : Fld) (v : Nat) : (s.wrPair pg lo hi v).sram = s.sram := (rfl)
@[simp] theorem State.dp_wrPair (pg : Nat) (lo hi : Fld) (v : Nat) : (s.wrPair pg lo hi v).dp = s.dp := (rfl)
@[simp] theorem State.dpAnswer_wrPair (pg : Nat) (lo hi : Fld) (v : Nat) : (s.wrPair pg lo hi v).dpAnswer = s.dpAnswer := (rfl)
@[simp] theorem State.pins_wrPair (pg : Nat) (lo hi : Fld) (v : Nat) : (s.wrPair pg lo hi v).pins = s.pins := (rfl)
@[simp] theorem State.pending_wrPair (pg : Nat) (lo hi : Fld) (v : Nat) : (s.wrPair pg lo hi v).pending = s.pending := (rfl)
@[simp] theorem State.die_wrPair (pg : Nat) (lo hi : Fld) (v : Nat) (u : Nat) : (s.wrPair pg lo hi v).die u = s.die u := (rfl)
@[simp] theorem State.page_wrPair (pg : Nat) (lo hi : Fld) (v : Nat) (u : Nat) : (s.wrPair pg lo hi v).page u = s.page u := (rfl)
@[simp] theorem State.lslot_wrPair (pg : Nat) (lo hi : Fld) (v : Nat) (u : Nat) : (s.wrPair pg lo hi v).lslot u = s.lslot u := (rfl)
@[simp] theorem State.bank_wrPair (pg : Nat) (lo hi : Fld) (v : Nat) (u : Nat) : (s.wrPair pg lo hi v).bank u = s.bank u := (rfl)
@[simp] theorem State.seq_wrPair (pg : Nat) (lo hi : Fld) (v : Nat) (u : Nat) : (s.wrPair pg lo hi v).seq u = s.seq u := (rfl)
@[simp] theorem State.cat_wrPair (pg : Nat) (lo hi : Fld) (v : Nat) (u : Nat) : (s.wrPair pg lo hi v).cat u = s.cat u := (rfl)
@[simp] theorem State.spl_wrPair (pg : Nat) (lo hi : Fld) (v : Nat) (u : Nat) : (s.wrPair pg lo hi v).spl u = s.spl u := (rfl)
@[simp] theorem State.drc_wrPair (pg : Nat) (lo hi : Fld) (v : Nat) (u : Nat) : (s.wrPair pg lo hi v).drc u = s.drc u := (rfl)
@[simp] theorem State.lin_wrPair (pg : Nat) (lo hi : Fld) (v : Nat) (u : Nat) : (s.wrPair pg lo hi v).lin u = s.lin u := (rfl)
@[simp] theorem State.noc_wrPair (pg : Nat) (lo hi : Fld) (v : Nat) (u : Nat) : (s.wrPair pg lo hi v).noc u = s.noc u := (rfl)
@[simp] theorem State.pat_wrPair (pg : Nat) (lo hi : Fld) (v : Nat) (u : Nat) : (s.wrPair pg lo hi v).pat u = s.pat u := (rfl)
@[simp] theorem State.port_wrPair (pg : Nat) (lo hi : Fld) (v : Nat) (u : Nat) : (s.wrPair pg lo hi v).port u = s.port u := (rfl)
@[simp] theorem State.eng_wrPair (pg : Nat) (lo hi : Fld) (v : Nat) (u : Nat) : (s.wrPair pg lo hi v).eng u = s.eng u := (rfl)
@[simp] theorem State.clu_wrPair (pg : Nat) (lo hi : Fld) (v : Nat) (u : Nat) : (s.wrPair pg lo hi v).clu u = s.clu u := (rfl)
@[simp] theorem State.quad_wrPair (pg : Nat) (lo hi : Fld) (v : Nat) (u : Nat) : (s.wrPair pg lo hi v).quad u = s.quad u := (rfl)
@[simp] theorem State.darn_wrPair (pg : Nat) (lo hi : Fld) (v : Nat) (u : Nat) : (s.wrPair pg lo hi v).darn u = s.darn u := (rfl)
@[simp] theorem State.fab_wrPair (pg : Nat) (lo hi : Fld) (v : Nat) (u : Nat) : (s.wrPair pg lo hi v).fab u = s.fab u := (rfl)
@[simp] theorem State.ser_wrPair (pg : Nat) (lo hi : Fld) (v : Nat) (u : Nat) : (s.wrPair pg lo hi v).ser u = s.ser u := (rfl)
@[simp] theorem State.slot_wrPair (pg : Nat) (lo hi : Fld) (v : Nat) (u : Nat) : (s.wrPair pg lo hi v).slot u = s.slot u := (rfl)
@[simp] theorem State.uclk_wrPair (pg : Nat) (lo hi : Fld) (v : Nat) (u : Nat) : (s.wrPair pg lo hi v).uclk u = s.uclk u := (rfl)
@[simp] theorem State.logic_wrPair (pg : Nat) (lo hi : Fld) (v : Nat) (u : Nat) : (s.wrPair pg lo hi v).logic u = s.logic u := (rfl)
@[simp] theorem State.beacon_wrPair (pg : Nat) (lo hi : Fld) (v : Nat) (u : Nat) : (s.wrPair pg lo hi v).beacon u = s.beacon u := (rfl)
@[simp] theorem State.mover_wrPair (pg : Nat) (lo hi : Fld) (v : Nat) (u : Nat) : (s.wrPair pg lo hi v).mover u = s.mover u := (rfl)

@[simp] theorem State.now_answer (st : BusStatus) (d : Nat) : (s.answer st d).now = s.now := (rfl)
@[simp] theorem State.fresh_answer (st : BusStatus) (d : Nat) : (s.answer st d).fresh = s.fresh := (rfl)
@[simp] theorem State.regs_answer (st : BusStatus) (d : Nat) : (s.answer st d).regs = s.regs := (rfl)
@[simp] theorem State.shadow_answer (st : BusStatus) (d : Nat) : (s.answer st d).shadow = s.shadow := (rfl)
@[simp] theorem State.pages_answer (st : BusStatus) (d : Nat) : (s.answer st d).pages = s.pages := (rfl)
@[simp] theorem State.alarms_answer (st : BusStatus) (d : Nat) : (s.answer st d).alarms = s.alarms := (rfl)
@[simp] theorem State.stalls_answer (st : BusStatus) (d : Nat) : (s.answer st d).stalls = s.stalls := (rfl)
@[simp] theorem State.dies_answer (st : BusStatus) (d : Nat) : (s.answer st d).dies = s.dies := (rfl)
@[simp] theorem State.tu_answer (st : BusStatus) (d : Nat) : (s.answer st d).tu = s.tu := (rfl)
@[simp] theorem State.beacons_answer (st : BusStatus) (d : Nat) : (s.answer st d).beacons = s.beacons := (rfl)
@[simp] theorem State.uclks_answer (st : BusStatus) (d : Nat) : (s.answer st d).uclks = s.uclks := (rfl)
@[simp] theorem State.launch_answer (st : BusStatus) (d : Nat) : (s.answer st d).launch = s.launch := (rfl)
@[simp] theorem State.banks_answer (st : BusStatus) (d : Nat) : (s.answer st d).banks = s.banks := (rfl)
@[simp] theorem State.seqs_answer (st : BusStatus) (d : Nat) : (s.answer st d).seqs = s.seqs := (rfl)
@[simp] theorem State.weftTab_answer (st : BusStatus) (d : Nat) : (s.answer st d).weftTab = s.weftTab := (rfl)
@[simp] theorem State.cats_answer (st : BusStatus) (d : Nat) : (s.answer st d).cats = s.cats := (rfl)
@[simp] theorem State.spls_answer (st : BusStatus) (d : Nat) : (s.answer st d).spls = s.spls := (rfl)
@[simp] theorem State.drcs_answer (st : BusStatus) (d : Nat) : (s.answer st d).drcs = s.drcs := (rfl)
@[simp] theorem State.slots_answer (st : BusStatus) (d : Nat) : (s.answer st d).slots = s.slots := (rfl)
@[simp] theorem State.regions_answer (st : BusStatus) (d : Nat) : (s.answer st d).regions = s.regions := (rfl)
@[simp] theorem State.nocs_answer (st : BusStatus) (d : Nat) : (s.answer st d).nocs = s.nocs := (rfl)
@[simp] theorem State.govBal_answer (st : BusStatus) (d : Nat) : (s.answer st d).govBal = s.govBal := (rfl)
@[simp] theorem State.pats_answer (st : BusStatus) (d : Nat) : (s.answer st d).pats = s.pats := (rfl)
@[simp] theorem State.ports_answer (st : BusStatus) (d : Nat) : (s.answer st d).ports = s.ports := (rfl)
@[simp] theorem State.rt_answer (st : BusStatus) (d : Nat) : (s.answer st d).rt = s.rt := (rfl)
@[simp] theorem State.rtHit_answer (st : BusStatus) (d : Nat) : (s.answer st d).rtHit = s.rtHit := (rfl)
@[simp] theorem State.egr_answer (st : BusStatus) (d : Nat) : (s.answer st d).egr = s.egr := (rfl)
@[simp] theorem State.egrGen_answer (st : BusStatus) (d : Nat) : (s.answer st d).egrGen = s.egrGen := (rfl)
@[simp] theorem State.answers_answer (st : BusStatus) (d : Nat) : (s.answer st d).answers = s.answers := (rfl)
@[simp] theorem State.sinks_answer (st : BusStatus) (d : Nat) : (s.answer st d).sinks = s.sinks := (rfl)
@[simp] theorem State.engs_answer (st : BusStatus) (d : Nat) : (s.answer st d).engs = s.engs := (rfl)
@[simp] theorem State.clus_answer (st : BusStatus) (d : Nat) : (s.answer st d).clus = s.clus := (rfl)
@[simp] theorem State.quads_answer (st : BusStatus) (d : Nat) : (s.answer st d).quads = s.quads := (rfl)
@[simp] theorem State.cfg_answer (st : BusStatus) (d : Nat) : (s.answer st d).cfg = s.cfg := (rfl)
@[simp] theorem State.darns_answer (st : BusStatus) (d : Nat) : (s.answer st d).darns = s.darns := (rfl)
@[simp] theorem State.logics_answer (st : BusStatus) (d : Nat) : (s.answer st d).logics = s.logics := (rfl)
@[simp] theorem State.fabs_answer (st : BusStatus) (d : Nat) : (s.answer st d).fabs = s.fabs := (rfl)
@[simp] theorem State.sers_answer (st : BusStatus) (d : Nat) : (s.answer st d).sers = s.sers := (rfl)
@[simp] theorem State.pow_answer (st : BusStatus) (d : Nat) : (s.answer st d).pow = s.pow := (rfl)
@[simp] theorem State.store_answer (st : BusStatus) (d : Nat) : (s.answer st d).store = s.store := (rfl)
@[simp] theorem State.hub_answer (st : BusStatus) (d : Nat) : (s.answer st d).hub = s.hub := (rfl)
@[simp] theorem State.movers_answer (st : BusStatus) (d : Nat) : (s.answer st d).movers = s.movers := (rfl)
@[simp] theorem State.sram_answer (st : BusStatus) (d : Nat) : (s.answer st d).sram = s.sram := (rfl)
@[simp] theorem State.dp_answer (st : BusStatus) (d : Nat) : (s.answer st d).dp = s.dp := (rfl)
@[simp] theorem State.dpAnswer_answer (st : BusStatus) (d : Nat) : (s.answer st d).dpAnswer = s.dpAnswer := (rfl)
@[simp] theorem State.pins_answer (st : BusStatus) (d : Nat) : (s.answer st d).pins = s.pins := (rfl)
@[simp] theorem State.pending_answer (st : BusStatus) (d : Nat) : (s.answer st d).pending = s.pending := (rfl)
@[simp] theorem State.die_answer (st : BusStatus) (d : Nat) (u : Nat) : (s.answer st d).die u = s.die u := (rfl)
@[simp] theorem State.page_answer (st : BusStatus) (d : Nat) (u : Nat) : (s.answer st d).page u = s.page u := (rfl)
@[simp] theorem State.lslot_answer (st : BusStatus) (d : Nat) (u : Nat) : (s.answer st d).lslot u = s.lslot u := (rfl)
@[simp] theorem State.bank_answer (st : BusStatus) (d : Nat) (u : Nat) : (s.answer st d).bank u = s.bank u := (rfl)
@[simp] theorem State.seq_answer (st : BusStatus) (d : Nat) (u : Nat) : (s.answer st d).seq u = s.seq u := (rfl)
@[simp] theorem State.cat_answer (st : BusStatus) (d : Nat) (u : Nat) : (s.answer st d).cat u = s.cat u := (rfl)
@[simp] theorem State.spl_answer (st : BusStatus) (d : Nat) (u : Nat) : (s.answer st d).spl u = s.spl u := (rfl)
@[simp] theorem State.drc_answer (st : BusStatus) (d : Nat) (u : Nat) : (s.answer st d).drc u = s.drc u := (rfl)
@[simp] theorem State.lin_answer (st : BusStatus) (d : Nat) (u : Nat) : (s.answer st d).lin u = s.lin u := (rfl)
@[simp] theorem State.noc_answer (st : BusStatus) (d : Nat) (u : Nat) : (s.answer st d).noc u = s.noc u := (rfl)
@[simp] theorem State.pat_answer (st : BusStatus) (d : Nat) (u : Nat) : (s.answer st d).pat u = s.pat u := (rfl)
@[simp] theorem State.port_answer (st : BusStatus) (d : Nat) (u : Nat) : (s.answer st d).port u = s.port u := (rfl)
@[simp] theorem State.eng_answer (st : BusStatus) (d : Nat) (u : Nat) : (s.answer st d).eng u = s.eng u := (rfl)
@[simp] theorem State.clu_answer (st : BusStatus) (d : Nat) (u : Nat) : (s.answer st d).clu u = s.clu u := (rfl)
@[simp] theorem State.quad_answer (st : BusStatus) (d : Nat) (u : Nat) : (s.answer st d).quad u = s.quad u := (rfl)
@[simp] theorem State.darn_answer (st : BusStatus) (d : Nat) (u : Nat) : (s.answer st d).darn u = s.darn u := (rfl)
@[simp] theorem State.fab_answer (st : BusStatus) (d : Nat) (u : Nat) : (s.answer st d).fab u = s.fab u := (rfl)
@[simp] theorem State.ser_answer (st : BusStatus) (d : Nat) (u : Nat) : (s.answer st d).ser u = s.ser u := (rfl)
@[simp] theorem State.slot_answer (st : BusStatus) (d : Nat) (u : Nat) : (s.answer st d).slot u = s.slot u := (rfl)
@[simp] theorem State.uclk_answer (st : BusStatus) (d : Nat) (u : Nat) : (s.answer st d).uclk u = s.uclk u := (rfl)
@[simp] theorem State.logic_answer (st : BusStatus) (d : Nat) (u : Nat) : (s.answer st d).logic u = s.logic u := (rfl)
@[simp] theorem State.beacon_answer (st : BusStatus) (d : Nat) (u : Nat) : (s.answer st d).beacon u = s.beacon u := (rfl)
@[simp] theorem State.mover_answer (st : BusStatus) (d : Nat) (u : Nat) : (s.answer st d).mover u = s.mover u := (rfl)
@[simp] theorem State.reg_answer (st : BusStatus) (d : Nat) (pg' off' : Nat) : (s.answer st d).reg pg' off' = s.reg pg' off' := (rfl)
@[simp] theorem State.rd_answer (st : BusStatus) (d : Nat) (pg' : Nat) (g : Fld) : (s.answer st d).rd pg' g = s.rd pg' g := (rfl)

@[simp] theorem State.now_setDie (d : Nat) (x : DieX) : (s.setDie d x).now = s.now := (rfl)
@[simp] theorem State.fresh_setDie (d : Nat) (x : DieX) : (s.setDie d x).fresh = s.fresh := (rfl)
@[simp] theorem State.resp_setDie (d : Nat) (x : DieX) : (s.setDie d x).resp = s.resp := (rfl)
@[simp] theorem State.regs_setDie (d : Nat) (x : DieX) : (s.setDie d x).regs = s.regs := (rfl)
@[simp] theorem State.shadow_setDie (d : Nat) (x : DieX) : (s.setDie d x).shadow = s.shadow := (rfl)
@[simp] theorem State.pages_setDie (d : Nat) (x : DieX) : (s.setDie d x).pages = s.pages := (rfl)
@[simp] theorem State.alarms_setDie (d : Nat) (x : DieX) : (s.setDie d x).alarms = s.alarms := (rfl)
@[simp] theorem State.stalls_setDie (d : Nat) (x : DieX) : (s.setDie d x).stalls = s.stalls := (rfl)
@[simp] theorem State.tu_setDie (d : Nat) (x : DieX) : (s.setDie d x).tu = s.tu := (rfl)
@[simp] theorem State.beacons_setDie (d : Nat) (x : DieX) : (s.setDie d x).beacons = s.beacons := (rfl)
@[simp] theorem State.uclks_setDie (d : Nat) (x : DieX) : (s.setDie d x).uclks = s.uclks := (rfl)
@[simp] theorem State.launch_setDie (d : Nat) (x : DieX) : (s.setDie d x).launch = s.launch := (rfl)
@[simp] theorem State.banks_setDie (d : Nat) (x : DieX) : (s.setDie d x).banks = s.banks := (rfl)
@[simp] theorem State.seqs_setDie (d : Nat) (x : DieX) : (s.setDie d x).seqs = s.seqs := (rfl)
@[simp] theorem State.weftTab_setDie (d : Nat) (x : DieX) : (s.setDie d x).weftTab = s.weftTab := (rfl)
@[simp] theorem State.cats_setDie (d : Nat) (x : DieX) : (s.setDie d x).cats = s.cats := (rfl)
@[simp] theorem State.spls_setDie (d : Nat) (x : DieX) : (s.setDie d x).spls = s.spls := (rfl)
@[simp] theorem State.drcs_setDie (d : Nat) (x : DieX) : (s.setDie d x).drcs = s.drcs := (rfl)
@[simp] theorem State.slots_setDie (d : Nat) (x : DieX) : (s.setDie d x).slots = s.slots := (rfl)
@[simp] theorem State.regions_setDie (d : Nat) (x : DieX) : (s.setDie d x).regions = s.regions := (rfl)
@[simp] theorem State.nocs_setDie (d : Nat) (x : DieX) : (s.setDie d x).nocs = s.nocs := (rfl)
@[simp] theorem State.govBal_setDie (d : Nat) (x : DieX) : (s.setDie d x).govBal = s.govBal := (rfl)
@[simp] theorem State.pats_setDie (d : Nat) (x : DieX) : (s.setDie d x).pats = s.pats := (rfl)
@[simp] theorem State.ports_setDie (d : Nat) (x : DieX) : (s.setDie d x).ports = s.ports := (rfl)
@[simp] theorem State.rt_setDie (d : Nat) (x : DieX) : (s.setDie d x).rt = s.rt := (rfl)
@[simp] theorem State.rtHit_setDie (d : Nat) (x : DieX) : (s.setDie d x).rtHit = s.rtHit := (rfl)
@[simp] theorem State.egr_setDie (d : Nat) (x : DieX) : (s.setDie d x).egr = s.egr := (rfl)
@[simp] theorem State.egrGen_setDie (d : Nat) (x : DieX) : (s.setDie d x).egrGen = s.egrGen := (rfl)
@[simp] theorem State.answers_setDie (d : Nat) (x : DieX) : (s.setDie d x).answers = s.answers := (rfl)
@[simp] theorem State.sinks_setDie (d : Nat) (x : DieX) : (s.setDie d x).sinks = s.sinks := (rfl)
@[simp] theorem State.engs_setDie (d : Nat) (x : DieX) : (s.setDie d x).engs = s.engs := (rfl)
@[simp] theorem State.clus_setDie (d : Nat) (x : DieX) : (s.setDie d x).clus = s.clus := (rfl)
@[simp] theorem State.quads_setDie (d : Nat) (x : DieX) : (s.setDie d x).quads = s.quads := (rfl)
@[simp] theorem State.cfg_setDie (d : Nat) (x : DieX) : (s.setDie d x).cfg = s.cfg := (rfl)
@[simp] theorem State.darns_setDie (d : Nat) (x : DieX) : (s.setDie d x).darns = s.darns := (rfl)
@[simp] theorem State.logics_setDie (d : Nat) (x : DieX) : (s.setDie d x).logics = s.logics := (rfl)
@[simp] theorem State.fabs_setDie (d : Nat) (x : DieX) : (s.setDie d x).fabs = s.fabs := (rfl)
@[simp] theorem State.sers_setDie (d : Nat) (x : DieX) : (s.setDie d x).sers = s.sers := (rfl)
@[simp] theorem State.pow_setDie (d : Nat) (x : DieX) : (s.setDie d x).pow = s.pow := (rfl)
@[simp] theorem State.store_setDie (d : Nat) (x : DieX) : (s.setDie d x).store = s.store := (rfl)
@[simp] theorem State.hub_setDie (d : Nat) (x : DieX) : (s.setDie d x).hub = s.hub := (rfl)
@[simp] theorem State.movers_setDie (d : Nat) (x : DieX) : (s.setDie d x).movers = s.movers := (rfl)
@[simp] theorem State.sram_setDie (d : Nat) (x : DieX) : (s.setDie d x).sram = s.sram := (rfl)
@[simp] theorem State.dp_setDie (d : Nat) (x : DieX) : (s.setDie d x).dp = s.dp := (rfl)
@[simp] theorem State.dpAnswer_setDie (d : Nat) (x : DieX) : (s.setDie d x).dpAnswer = s.dpAnswer := (rfl)
@[simp] theorem State.pins_setDie (d : Nat) (x : DieX) : (s.setDie d x).pins = s.pins := (rfl)
@[simp] theorem State.pending_setDie (d : Nat) (x : DieX) : (s.setDie d x).pending = s.pending := (rfl)
@[simp] theorem State.page_setDie (d : Nat) (x : DieX) (u : Nat) : (s.setDie d x).page u = s.page u := (rfl)
@[simp] theorem State.lslot_setDie (d : Nat) (x : DieX) (u : Nat) : (s.setDie d x).lslot u = s.lslot u := (rfl)
@[simp] theorem State.bank_setDie (d : Nat) (x : DieX) (u : Nat) : (s.setDie d x).bank u = s.bank u := (rfl)
@[simp] theorem State.seq_setDie (d : Nat) (x : DieX) (u : Nat) : (s.setDie d x).seq u = s.seq u := (rfl)
@[simp] theorem State.cat_setDie (d : Nat) (x : DieX) (u : Nat) : (s.setDie d x).cat u = s.cat u := (rfl)
@[simp] theorem State.spl_setDie (d : Nat) (x : DieX) (u : Nat) : (s.setDie d x).spl u = s.spl u := (rfl)
@[simp] theorem State.drc_setDie (d : Nat) (x : DieX) (u : Nat) : (s.setDie d x).drc u = s.drc u := (rfl)
@[simp] theorem State.lin_setDie (d : Nat) (x : DieX) (u : Nat) : (s.setDie d x).lin u = s.lin u := (rfl)
@[simp] theorem State.noc_setDie (d : Nat) (x : DieX) (u : Nat) : (s.setDie d x).noc u = s.noc u := (rfl)
@[simp] theorem State.pat_setDie (d : Nat) (x : DieX) (u : Nat) : (s.setDie d x).pat u = s.pat u := (rfl)
@[simp] theorem State.port_setDie (d : Nat) (x : DieX) (u : Nat) : (s.setDie d x).port u = s.port u := (rfl)
@[simp] theorem State.eng_setDie (d : Nat) (x : DieX) (u : Nat) : (s.setDie d x).eng u = s.eng u := (rfl)
@[simp] theorem State.clu_setDie (d : Nat) (x : DieX) (u : Nat) : (s.setDie d x).clu u = s.clu u := (rfl)
@[simp] theorem State.quad_setDie (d : Nat) (x : DieX) (u : Nat) : (s.setDie d x).quad u = s.quad u := (rfl)
@[simp] theorem State.darn_setDie (d : Nat) (x : DieX) (u : Nat) : (s.setDie d x).darn u = s.darn u := (rfl)
@[simp] theorem State.fab_setDie (d : Nat) (x : DieX) (u : Nat) : (s.setDie d x).fab u = s.fab u := (rfl)
@[simp] theorem State.ser_setDie (d : Nat) (x : DieX) (u : Nat) : (s.setDie d x).ser u = s.ser u := (rfl)
@[simp] theorem State.slot_setDie (d : Nat) (x : DieX) (u : Nat) : (s.setDie d x).slot u = s.slot u := (rfl)
@[simp] theorem State.uclk_setDie (d : Nat) (x : DieX) (u : Nat) : (s.setDie d x).uclk u = s.uclk u := (rfl)
@[simp] theorem State.logic_setDie (d : Nat) (x : DieX) (u : Nat) : (s.setDie d x).logic u = s.logic u := (rfl)
@[simp] theorem State.beacon_setDie (d : Nat) (x : DieX) (u : Nat) : (s.setDie d x).beacon u = s.beacon u := (rfl)
@[simp] theorem State.mover_setDie (d : Nat) (x : DieX) (u : Nat) : (s.setDie d x).mover u = s.mover u := (rfl)
@[simp] theorem State.reg_setDie (d : Nat) (x : DieX) (pg' off' : Nat) : (s.setDie d x).reg pg' off' = s.reg pg' off' := (rfl)
@[simp] theorem State.rd_setDie (d : Nat) (x : DieX) (pg' : Nat) (g : Fld) : (s.setDie d x).rd pg' g = s.rd pg' g := (rfl)

@[simp] theorem State.now_setPage (pg : Nat) (x : PageX) : (s.setPage pg x).now = s.now := (rfl)
@[simp] theorem State.fresh_setPage (pg : Nat) (x : PageX) : (s.setPage pg x).fresh = s.fresh := (rfl)
@[simp] theorem State.resp_setPage (pg : Nat) (x : PageX) : (s.setPage pg x).resp = s.resp := (rfl)
@[simp] theorem State.regs_setPage (pg : Nat) (x : PageX) : (s.setPage pg x).regs = s.regs := (rfl)
@[simp] theorem State.shadow_setPage (pg : Nat) (x : PageX) : (s.setPage pg x).shadow = s.shadow := (rfl)
@[simp] theorem State.alarms_setPage (pg : Nat) (x : PageX) : (s.setPage pg x).alarms = s.alarms := (rfl)
@[simp] theorem State.stalls_setPage (pg : Nat) (x : PageX) : (s.setPage pg x).stalls = s.stalls := (rfl)
@[simp] theorem State.dies_setPage (pg : Nat) (x : PageX) : (s.setPage pg x).dies = s.dies := (rfl)
@[simp] theorem State.tu_setPage (pg : Nat) (x : PageX) : (s.setPage pg x).tu = s.tu := (rfl)
@[simp] theorem State.beacons_setPage (pg : Nat) (x : PageX) : (s.setPage pg x).beacons = s.beacons := (rfl)
@[simp] theorem State.uclks_setPage (pg : Nat) (x : PageX) : (s.setPage pg x).uclks = s.uclks := (rfl)
@[simp] theorem State.launch_setPage (pg : Nat) (x : PageX) : (s.setPage pg x).launch = s.launch := (rfl)
@[simp] theorem State.banks_setPage (pg : Nat) (x : PageX) : (s.setPage pg x).banks = s.banks := (rfl)
@[simp] theorem State.seqs_setPage (pg : Nat) (x : PageX) : (s.setPage pg x).seqs = s.seqs := (rfl)
@[simp] theorem State.weftTab_setPage (pg : Nat) (x : PageX) : (s.setPage pg x).weftTab = s.weftTab := (rfl)
@[simp] theorem State.cats_setPage (pg : Nat) (x : PageX) : (s.setPage pg x).cats = s.cats := (rfl)
@[simp] theorem State.spls_setPage (pg : Nat) (x : PageX) : (s.setPage pg x).spls = s.spls := (rfl)
@[simp] theorem State.drcs_setPage (pg : Nat) (x : PageX) : (s.setPage pg x).drcs = s.drcs := (rfl)
@[simp] theorem State.slots_setPage (pg : Nat) (x : PageX) : (s.setPage pg x).slots = s.slots := (rfl)
@[simp] theorem State.regions_setPage (pg : Nat) (x : PageX) : (s.setPage pg x).regions = s.regions := (rfl)
@[simp] theorem State.nocs_setPage (pg : Nat) (x : PageX) : (s.setPage pg x).nocs = s.nocs := (rfl)
@[simp] theorem State.govBal_setPage (pg : Nat) (x : PageX) : (s.setPage pg x).govBal = s.govBal := (rfl)
@[simp] theorem State.pats_setPage (pg : Nat) (x : PageX) : (s.setPage pg x).pats = s.pats := (rfl)
@[simp] theorem State.ports_setPage (pg : Nat) (x : PageX) : (s.setPage pg x).ports = s.ports := (rfl)
@[simp] theorem State.rt_setPage (pg : Nat) (x : PageX) : (s.setPage pg x).rt = s.rt := (rfl)
@[simp] theorem State.rtHit_setPage (pg : Nat) (x : PageX) : (s.setPage pg x).rtHit = s.rtHit := (rfl)
@[simp] theorem State.egr_setPage (pg : Nat) (x : PageX) : (s.setPage pg x).egr = s.egr := (rfl)
@[simp] theorem State.egrGen_setPage (pg : Nat) (x : PageX) : (s.setPage pg x).egrGen = s.egrGen := (rfl)
@[simp] theorem State.answers_setPage (pg : Nat) (x : PageX) : (s.setPage pg x).answers = s.answers := (rfl)
@[simp] theorem State.sinks_setPage (pg : Nat) (x : PageX) : (s.setPage pg x).sinks = s.sinks := (rfl)
@[simp] theorem State.engs_setPage (pg : Nat) (x : PageX) : (s.setPage pg x).engs = s.engs := (rfl)
@[simp] theorem State.clus_setPage (pg : Nat) (x : PageX) : (s.setPage pg x).clus = s.clus := (rfl)
@[simp] theorem State.quads_setPage (pg : Nat) (x : PageX) : (s.setPage pg x).quads = s.quads := (rfl)
@[simp] theorem State.cfg_setPage (pg : Nat) (x : PageX) : (s.setPage pg x).cfg = s.cfg := (rfl)
@[simp] theorem State.darns_setPage (pg : Nat) (x : PageX) : (s.setPage pg x).darns = s.darns := (rfl)
@[simp] theorem State.logics_setPage (pg : Nat) (x : PageX) : (s.setPage pg x).logics = s.logics := (rfl)
@[simp] theorem State.fabs_setPage (pg : Nat) (x : PageX) : (s.setPage pg x).fabs = s.fabs := (rfl)
@[simp] theorem State.sers_setPage (pg : Nat) (x : PageX) : (s.setPage pg x).sers = s.sers := (rfl)
@[simp] theorem State.pow_setPage (pg : Nat) (x : PageX) : (s.setPage pg x).pow = s.pow := (rfl)
@[simp] theorem State.store_setPage (pg : Nat) (x : PageX) : (s.setPage pg x).store = s.store := (rfl)
@[simp] theorem State.hub_setPage (pg : Nat) (x : PageX) : (s.setPage pg x).hub = s.hub := (rfl)
@[simp] theorem State.movers_setPage (pg : Nat) (x : PageX) : (s.setPage pg x).movers = s.movers := (rfl)
@[simp] theorem State.sram_setPage (pg : Nat) (x : PageX) : (s.setPage pg x).sram = s.sram := (rfl)
@[simp] theorem State.dp_setPage (pg : Nat) (x : PageX) : (s.setPage pg x).dp = s.dp := (rfl)
@[simp] theorem State.dpAnswer_setPage (pg : Nat) (x : PageX) : (s.setPage pg x).dpAnswer = s.dpAnswer := (rfl)
@[simp] theorem State.pins_setPage (pg : Nat) (x : PageX) : (s.setPage pg x).pins = s.pins := (rfl)
@[simp] theorem State.pending_setPage (pg : Nat) (x : PageX) : (s.setPage pg x).pending = s.pending := (rfl)
@[simp] theorem State.die_setPage (pg : Nat) (x : PageX) (u : Nat) : (s.setPage pg x).die u = s.die u := (rfl)
@[simp] theorem State.lslot_setPage (pg : Nat) (x : PageX) (u : Nat) : (s.setPage pg x).lslot u = s.lslot u := (rfl)
@[simp] theorem State.bank_setPage (pg : Nat) (x : PageX) (u : Nat) : (s.setPage pg x).bank u = s.bank u := (rfl)
@[simp] theorem State.seq_setPage (pg : Nat) (x : PageX) (u : Nat) : (s.setPage pg x).seq u = s.seq u := (rfl)
@[simp] theorem State.cat_setPage (pg : Nat) (x : PageX) (u : Nat) : (s.setPage pg x).cat u = s.cat u := (rfl)
@[simp] theorem State.spl_setPage (pg : Nat) (x : PageX) (u : Nat) : (s.setPage pg x).spl u = s.spl u := (rfl)
@[simp] theorem State.drc_setPage (pg : Nat) (x : PageX) (u : Nat) : (s.setPage pg x).drc u = s.drc u := (rfl)
@[simp] theorem State.lin_setPage (pg : Nat) (x : PageX) (u : Nat) : (s.setPage pg x).lin u = s.lin u := (rfl)
@[simp] theorem State.noc_setPage (pg : Nat) (x : PageX) (u : Nat) : (s.setPage pg x).noc u = s.noc u := (rfl)
@[simp] theorem State.pat_setPage (pg : Nat) (x : PageX) (u : Nat) : (s.setPage pg x).pat u = s.pat u := (rfl)
@[simp] theorem State.port_setPage (pg : Nat) (x : PageX) (u : Nat) : (s.setPage pg x).port u = s.port u := (rfl)
@[simp] theorem State.eng_setPage (pg : Nat) (x : PageX) (u : Nat) : (s.setPage pg x).eng u = s.eng u := (rfl)
@[simp] theorem State.clu_setPage (pg : Nat) (x : PageX) (u : Nat) : (s.setPage pg x).clu u = s.clu u := (rfl)
@[simp] theorem State.quad_setPage (pg : Nat) (x : PageX) (u : Nat) : (s.setPage pg x).quad u = s.quad u := (rfl)
@[simp] theorem State.darn_setPage (pg : Nat) (x : PageX) (u : Nat) : (s.setPage pg x).darn u = s.darn u := (rfl)
@[simp] theorem State.fab_setPage (pg : Nat) (x : PageX) (u : Nat) : (s.setPage pg x).fab u = s.fab u := (rfl)
@[simp] theorem State.ser_setPage (pg : Nat) (x : PageX) (u : Nat) : (s.setPage pg x).ser u = s.ser u := (rfl)
@[simp] theorem State.slot_setPage (pg : Nat) (x : PageX) (u : Nat) : (s.setPage pg x).slot u = s.slot u := (rfl)
@[simp] theorem State.uclk_setPage (pg : Nat) (x : PageX) (u : Nat) : (s.setPage pg x).uclk u = s.uclk u := (rfl)
@[simp] theorem State.logic_setPage (pg : Nat) (x : PageX) (u : Nat) : (s.setPage pg x).logic u = s.logic u := (rfl)
@[simp] theorem State.beacon_setPage (pg : Nat) (x : PageX) (u : Nat) : (s.setPage pg x).beacon u = s.beacon u := (rfl)
@[simp] theorem State.mover_setPage (pg : Nat) (x : PageX) (u : Nat) : (s.setPage pg x).mover u = s.mover u := (rfl)
@[simp] theorem State.reg_setPage (pg : Nat) (x : PageX) (pg' off' : Nat) : (s.setPage pg x).reg pg' off' = s.reg pg' off' := (rfl)
@[simp] theorem State.rd_setPage (pg : Nat) (x : PageX) (pg' : Nat) (g : Fld) : (s.setPage pg x).rd pg' g = s.rd pg' g := (rfl)

@[simp] theorem State.now_setLslot (i : Nat) (x : LaunchSlot) : (s.setLslot i x).now = s.now := (rfl)
@[simp] theorem State.fresh_setLslot (i : Nat) (x : LaunchSlot) : (s.setLslot i x).fresh = s.fresh := (rfl)
@[simp] theorem State.resp_setLslot (i : Nat) (x : LaunchSlot) : (s.setLslot i x).resp = s.resp := (rfl)
@[simp] theorem State.regs_setLslot (i : Nat) (x : LaunchSlot) : (s.setLslot i x).regs = s.regs := (rfl)
@[simp] theorem State.shadow_setLslot (i : Nat) (x : LaunchSlot) : (s.setLslot i x).shadow = s.shadow := (rfl)
@[simp] theorem State.pages_setLslot (i : Nat) (x : LaunchSlot) : (s.setLslot i x).pages = s.pages := (rfl)
@[simp] theorem State.alarms_setLslot (i : Nat) (x : LaunchSlot) : (s.setLslot i x).alarms = s.alarms := (rfl)
@[simp] theorem State.stalls_setLslot (i : Nat) (x : LaunchSlot) : (s.setLslot i x).stalls = s.stalls := (rfl)
@[simp] theorem State.dies_setLslot (i : Nat) (x : LaunchSlot) : (s.setLslot i x).dies = s.dies := (rfl)
@[simp] theorem State.tu_setLslot (i : Nat) (x : LaunchSlot) : (s.setLslot i x).tu = s.tu := (rfl)
@[simp] theorem State.beacons_setLslot (i : Nat) (x : LaunchSlot) : (s.setLslot i x).beacons = s.beacons := (rfl)
@[simp] theorem State.uclks_setLslot (i : Nat) (x : LaunchSlot) : (s.setLslot i x).uclks = s.uclks := (rfl)
@[simp] theorem State.banks_setLslot (i : Nat) (x : LaunchSlot) : (s.setLslot i x).banks = s.banks := (rfl)
@[simp] theorem State.seqs_setLslot (i : Nat) (x : LaunchSlot) : (s.setLslot i x).seqs = s.seqs := (rfl)
@[simp] theorem State.weftTab_setLslot (i : Nat) (x : LaunchSlot) : (s.setLslot i x).weftTab = s.weftTab := (rfl)
@[simp] theorem State.cats_setLslot (i : Nat) (x : LaunchSlot) : (s.setLslot i x).cats = s.cats := (rfl)
@[simp] theorem State.spls_setLslot (i : Nat) (x : LaunchSlot) : (s.setLslot i x).spls = s.spls := (rfl)
@[simp] theorem State.drcs_setLslot (i : Nat) (x : LaunchSlot) : (s.setLslot i x).drcs = s.drcs := (rfl)
@[simp] theorem State.slots_setLslot (i : Nat) (x : LaunchSlot) : (s.setLslot i x).slots = s.slots := (rfl)
@[simp] theorem State.regions_setLslot (i : Nat) (x : LaunchSlot) : (s.setLslot i x).regions = s.regions := (rfl)
@[simp] theorem State.nocs_setLslot (i : Nat) (x : LaunchSlot) : (s.setLslot i x).nocs = s.nocs := (rfl)
@[simp] theorem State.govBal_setLslot (i : Nat) (x : LaunchSlot) : (s.setLslot i x).govBal = s.govBal := (rfl)
@[simp] theorem State.pats_setLslot (i : Nat) (x : LaunchSlot) : (s.setLslot i x).pats = s.pats := (rfl)
@[simp] theorem State.ports_setLslot (i : Nat) (x : LaunchSlot) : (s.setLslot i x).ports = s.ports := (rfl)
@[simp] theorem State.rt_setLslot (i : Nat) (x : LaunchSlot) : (s.setLslot i x).rt = s.rt := (rfl)
@[simp] theorem State.rtHit_setLslot (i : Nat) (x : LaunchSlot) : (s.setLslot i x).rtHit = s.rtHit := (rfl)
@[simp] theorem State.egr_setLslot (i : Nat) (x : LaunchSlot) : (s.setLslot i x).egr = s.egr := (rfl)
@[simp] theorem State.egrGen_setLslot (i : Nat) (x : LaunchSlot) : (s.setLslot i x).egrGen = s.egrGen := (rfl)
@[simp] theorem State.answers_setLslot (i : Nat) (x : LaunchSlot) : (s.setLslot i x).answers = s.answers := (rfl)
@[simp] theorem State.sinks_setLslot (i : Nat) (x : LaunchSlot) : (s.setLslot i x).sinks = s.sinks := (rfl)
@[simp] theorem State.engs_setLslot (i : Nat) (x : LaunchSlot) : (s.setLslot i x).engs = s.engs := (rfl)
@[simp] theorem State.clus_setLslot (i : Nat) (x : LaunchSlot) : (s.setLslot i x).clus = s.clus := (rfl)
@[simp] theorem State.quads_setLslot (i : Nat) (x : LaunchSlot) : (s.setLslot i x).quads = s.quads := (rfl)
@[simp] theorem State.cfg_setLslot (i : Nat) (x : LaunchSlot) : (s.setLslot i x).cfg = s.cfg := (rfl)
@[simp] theorem State.darns_setLslot (i : Nat) (x : LaunchSlot) : (s.setLslot i x).darns = s.darns := (rfl)
@[simp] theorem State.logics_setLslot (i : Nat) (x : LaunchSlot) : (s.setLslot i x).logics = s.logics := (rfl)
@[simp] theorem State.fabs_setLslot (i : Nat) (x : LaunchSlot) : (s.setLslot i x).fabs = s.fabs := (rfl)
@[simp] theorem State.sers_setLslot (i : Nat) (x : LaunchSlot) : (s.setLslot i x).sers = s.sers := (rfl)
@[simp] theorem State.pow_setLslot (i : Nat) (x : LaunchSlot) : (s.setLslot i x).pow = s.pow := (rfl)
@[simp] theorem State.store_setLslot (i : Nat) (x : LaunchSlot) : (s.setLslot i x).store = s.store := (rfl)
@[simp] theorem State.hub_setLslot (i : Nat) (x : LaunchSlot) : (s.setLslot i x).hub = s.hub := (rfl)
@[simp] theorem State.movers_setLslot (i : Nat) (x : LaunchSlot) : (s.setLslot i x).movers = s.movers := (rfl)
@[simp] theorem State.sram_setLslot (i : Nat) (x : LaunchSlot) : (s.setLslot i x).sram = s.sram := (rfl)
@[simp] theorem State.dp_setLslot (i : Nat) (x : LaunchSlot) : (s.setLslot i x).dp = s.dp := (rfl)
@[simp] theorem State.dpAnswer_setLslot (i : Nat) (x : LaunchSlot) : (s.setLslot i x).dpAnswer = s.dpAnswer := (rfl)
@[simp] theorem State.pins_setLslot (i : Nat) (x : LaunchSlot) : (s.setLslot i x).pins = s.pins := (rfl)
@[simp] theorem State.pending_setLslot (i : Nat) (x : LaunchSlot) : (s.setLslot i x).pending = s.pending := (rfl)
@[simp] theorem State.die_setLslot (i : Nat) (x : LaunchSlot) (u : Nat) : (s.setLslot i x).die u = s.die u := (rfl)
@[simp] theorem State.page_setLslot (i : Nat) (x : LaunchSlot) (u : Nat) : (s.setLslot i x).page u = s.page u := (rfl)
@[simp] theorem State.bank_setLslot (i : Nat) (x : LaunchSlot) (u : Nat) : (s.setLslot i x).bank u = s.bank u := (rfl)
@[simp] theorem State.seq_setLslot (i : Nat) (x : LaunchSlot) (u : Nat) : (s.setLslot i x).seq u = s.seq u := (rfl)
@[simp] theorem State.cat_setLslot (i : Nat) (x : LaunchSlot) (u : Nat) : (s.setLslot i x).cat u = s.cat u := (rfl)
@[simp] theorem State.spl_setLslot (i : Nat) (x : LaunchSlot) (u : Nat) : (s.setLslot i x).spl u = s.spl u := (rfl)
@[simp] theorem State.drc_setLslot (i : Nat) (x : LaunchSlot) (u : Nat) : (s.setLslot i x).drc u = s.drc u := (rfl)
@[simp] theorem State.lin_setLslot (i : Nat) (x : LaunchSlot) (u : Nat) : (s.setLslot i x).lin u = s.lin u := (rfl)
@[simp] theorem State.noc_setLslot (i : Nat) (x : LaunchSlot) (u : Nat) : (s.setLslot i x).noc u = s.noc u := (rfl)
@[simp] theorem State.pat_setLslot (i : Nat) (x : LaunchSlot) (u : Nat) : (s.setLslot i x).pat u = s.pat u := (rfl)
@[simp] theorem State.port_setLslot (i : Nat) (x : LaunchSlot) (u : Nat) : (s.setLslot i x).port u = s.port u := (rfl)
@[simp] theorem State.eng_setLslot (i : Nat) (x : LaunchSlot) (u : Nat) : (s.setLslot i x).eng u = s.eng u := (rfl)
@[simp] theorem State.clu_setLslot (i : Nat) (x : LaunchSlot) (u : Nat) : (s.setLslot i x).clu u = s.clu u := (rfl)
@[simp] theorem State.quad_setLslot (i : Nat) (x : LaunchSlot) (u : Nat) : (s.setLslot i x).quad u = s.quad u := (rfl)
@[simp] theorem State.darn_setLslot (i : Nat) (x : LaunchSlot) (u : Nat) : (s.setLslot i x).darn u = s.darn u := (rfl)
@[simp] theorem State.fab_setLslot (i : Nat) (x : LaunchSlot) (u : Nat) : (s.setLslot i x).fab u = s.fab u := (rfl)
@[simp] theorem State.ser_setLslot (i : Nat) (x : LaunchSlot) (u : Nat) : (s.setLslot i x).ser u = s.ser u := (rfl)
@[simp] theorem State.slot_setLslot (i : Nat) (x : LaunchSlot) (u : Nat) : (s.setLslot i x).slot u = s.slot u := (rfl)
@[simp] theorem State.uclk_setLslot (i : Nat) (x : LaunchSlot) (u : Nat) : (s.setLslot i x).uclk u = s.uclk u := (rfl)
@[simp] theorem State.logic_setLslot (i : Nat) (x : LaunchSlot) (u : Nat) : (s.setLslot i x).logic u = s.logic u := (rfl)
@[simp] theorem State.beacon_setLslot (i : Nat) (x : LaunchSlot) (u : Nat) : (s.setLslot i x).beacon u = s.beacon u := (rfl)
@[simp] theorem State.mover_setLslot (i : Nat) (x : LaunchSlot) (u : Nat) : (s.setLslot i x).mover u = s.mover u := (rfl)
@[simp] theorem State.reg_setLslot (i : Nat) (x : LaunchSlot) (pg' off' : Nat) : (s.setLslot i x).reg pg' off' = s.reg pg' off' := (rfl)
@[simp] theorem State.rd_setLslot (i : Nat) (x : LaunchSlot) (pg' : Nat) (g : Fld) : (s.setLslot i x).rd pg' g = s.rd pg' g := (rfl)

@[simp] theorem State.now_setBank (b : Nat) (x : BankX) : (s.setBank b x).now = s.now := (rfl)
@[simp] theorem State.fresh_setBank (b : Nat) (x : BankX) : (s.setBank b x).fresh = s.fresh := (rfl)
@[simp] theorem State.resp_setBank (b : Nat) (x : BankX) : (s.setBank b x).resp = s.resp := (rfl)
@[simp] theorem State.regs_setBank (b : Nat) (x : BankX) : (s.setBank b x).regs = s.regs := (rfl)
@[simp] theorem State.shadow_setBank (b : Nat) (x : BankX) : (s.setBank b x).shadow = s.shadow := (rfl)
@[simp] theorem State.pages_setBank (b : Nat) (x : BankX) : (s.setBank b x).pages = s.pages := (rfl)
@[simp] theorem State.alarms_setBank (b : Nat) (x : BankX) : (s.setBank b x).alarms = s.alarms := (rfl)
@[simp] theorem State.stalls_setBank (b : Nat) (x : BankX) : (s.setBank b x).stalls = s.stalls := (rfl)
@[simp] theorem State.dies_setBank (b : Nat) (x : BankX) : (s.setBank b x).dies = s.dies := (rfl)
@[simp] theorem State.tu_setBank (b : Nat) (x : BankX) : (s.setBank b x).tu = s.tu := (rfl)
@[simp] theorem State.beacons_setBank (b : Nat) (x : BankX) : (s.setBank b x).beacons = s.beacons := (rfl)
@[simp] theorem State.uclks_setBank (b : Nat) (x : BankX) : (s.setBank b x).uclks = s.uclks := (rfl)
@[simp] theorem State.launch_setBank (b : Nat) (x : BankX) : (s.setBank b x).launch = s.launch := (rfl)
@[simp] theorem State.seqs_setBank (b : Nat) (x : BankX) : (s.setBank b x).seqs = s.seqs := (rfl)
@[simp] theorem State.weftTab_setBank (b : Nat) (x : BankX) : (s.setBank b x).weftTab = s.weftTab := (rfl)
@[simp] theorem State.cats_setBank (b : Nat) (x : BankX) : (s.setBank b x).cats = s.cats := (rfl)
@[simp] theorem State.spls_setBank (b : Nat) (x : BankX) : (s.setBank b x).spls = s.spls := (rfl)
@[simp] theorem State.drcs_setBank (b : Nat) (x : BankX) : (s.setBank b x).drcs = s.drcs := (rfl)
@[simp] theorem State.slots_setBank (b : Nat) (x : BankX) : (s.setBank b x).slots = s.slots := (rfl)
@[simp] theorem State.regions_setBank (b : Nat) (x : BankX) : (s.setBank b x).regions = s.regions := (rfl)
@[simp] theorem State.nocs_setBank (b : Nat) (x : BankX) : (s.setBank b x).nocs = s.nocs := (rfl)
@[simp] theorem State.govBal_setBank (b : Nat) (x : BankX) : (s.setBank b x).govBal = s.govBal := (rfl)
@[simp] theorem State.pats_setBank (b : Nat) (x : BankX) : (s.setBank b x).pats = s.pats := (rfl)
@[simp] theorem State.ports_setBank (b : Nat) (x : BankX) : (s.setBank b x).ports = s.ports := (rfl)
@[simp] theorem State.rt_setBank (b : Nat) (x : BankX) : (s.setBank b x).rt = s.rt := (rfl)
@[simp] theorem State.rtHit_setBank (b : Nat) (x : BankX) : (s.setBank b x).rtHit = s.rtHit := (rfl)
@[simp] theorem State.egr_setBank (b : Nat) (x : BankX) : (s.setBank b x).egr = s.egr := (rfl)
@[simp] theorem State.egrGen_setBank (b : Nat) (x : BankX) : (s.setBank b x).egrGen = s.egrGen := (rfl)
@[simp] theorem State.answers_setBank (b : Nat) (x : BankX) : (s.setBank b x).answers = s.answers := (rfl)
@[simp] theorem State.sinks_setBank (b : Nat) (x : BankX) : (s.setBank b x).sinks = s.sinks := (rfl)
@[simp] theorem State.engs_setBank (b : Nat) (x : BankX) : (s.setBank b x).engs = s.engs := (rfl)
@[simp] theorem State.clus_setBank (b : Nat) (x : BankX) : (s.setBank b x).clus = s.clus := (rfl)
@[simp] theorem State.quads_setBank (b : Nat) (x : BankX) : (s.setBank b x).quads = s.quads := (rfl)
@[simp] theorem State.cfg_setBank (b : Nat) (x : BankX) : (s.setBank b x).cfg = s.cfg := (rfl)
@[simp] theorem State.darns_setBank (b : Nat) (x : BankX) : (s.setBank b x).darns = s.darns := (rfl)
@[simp] theorem State.logics_setBank (b : Nat) (x : BankX) : (s.setBank b x).logics = s.logics := (rfl)
@[simp] theorem State.fabs_setBank (b : Nat) (x : BankX) : (s.setBank b x).fabs = s.fabs := (rfl)
@[simp] theorem State.sers_setBank (b : Nat) (x : BankX) : (s.setBank b x).sers = s.sers := (rfl)
@[simp] theorem State.pow_setBank (b : Nat) (x : BankX) : (s.setBank b x).pow = s.pow := (rfl)
@[simp] theorem State.store_setBank (b : Nat) (x : BankX) : (s.setBank b x).store = s.store := (rfl)
@[simp] theorem State.hub_setBank (b : Nat) (x : BankX) : (s.setBank b x).hub = s.hub := (rfl)
@[simp] theorem State.movers_setBank (b : Nat) (x : BankX) : (s.setBank b x).movers = s.movers := (rfl)
@[simp] theorem State.sram_setBank (b : Nat) (x : BankX) : (s.setBank b x).sram = s.sram := (rfl)
@[simp] theorem State.dp_setBank (b : Nat) (x : BankX) : (s.setBank b x).dp = s.dp := (rfl)
@[simp] theorem State.dpAnswer_setBank (b : Nat) (x : BankX) : (s.setBank b x).dpAnswer = s.dpAnswer := (rfl)
@[simp] theorem State.pins_setBank (b : Nat) (x : BankX) : (s.setBank b x).pins = s.pins := (rfl)
@[simp] theorem State.pending_setBank (b : Nat) (x : BankX) : (s.setBank b x).pending = s.pending := (rfl)
@[simp] theorem State.die_setBank (b : Nat) (x : BankX) (u : Nat) : (s.setBank b x).die u = s.die u := (rfl)
@[simp] theorem State.page_setBank (b : Nat) (x : BankX) (u : Nat) : (s.setBank b x).page u = s.page u := (rfl)
@[simp] theorem State.lslot_setBank (b : Nat) (x : BankX) (u : Nat) : (s.setBank b x).lslot u = s.lslot u := (rfl)
@[simp] theorem State.seq_setBank (b : Nat) (x : BankX) (u : Nat) : (s.setBank b x).seq u = s.seq u := (rfl)
@[simp] theorem State.cat_setBank (b : Nat) (x : BankX) (u : Nat) : (s.setBank b x).cat u = s.cat u := (rfl)
@[simp] theorem State.spl_setBank (b : Nat) (x : BankX) (u : Nat) : (s.setBank b x).spl u = s.spl u := (rfl)
@[simp] theorem State.drc_setBank (b : Nat) (x : BankX) (u : Nat) : (s.setBank b x).drc u = s.drc u := (rfl)
@[simp] theorem State.lin_setBank (b : Nat) (x : BankX) (u : Nat) : (s.setBank b x).lin u = s.lin u := (rfl)
@[simp] theorem State.noc_setBank (b : Nat) (x : BankX) (u : Nat) : (s.setBank b x).noc u = s.noc u := (rfl)
@[simp] theorem State.pat_setBank (b : Nat) (x : BankX) (u : Nat) : (s.setBank b x).pat u = s.pat u := (rfl)
@[simp] theorem State.port_setBank (b : Nat) (x : BankX) (u : Nat) : (s.setBank b x).port u = s.port u := (rfl)
@[simp] theorem State.eng_setBank (b : Nat) (x : BankX) (u : Nat) : (s.setBank b x).eng u = s.eng u := (rfl)
@[simp] theorem State.clu_setBank (b : Nat) (x : BankX) (u : Nat) : (s.setBank b x).clu u = s.clu u := (rfl)
@[simp] theorem State.quad_setBank (b : Nat) (x : BankX) (u : Nat) : (s.setBank b x).quad u = s.quad u := (rfl)
@[simp] theorem State.darn_setBank (b : Nat) (x : BankX) (u : Nat) : (s.setBank b x).darn u = s.darn u := (rfl)
@[simp] theorem State.fab_setBank (b : Nat) (x : BankX) (u : Nat) : (s.setBank b x).fab u = s.fab u := (rfl)
@[simp] theorem State.ser_setBank (b : Nat) (x : BankX) (u : Nat) : (s.setBank b x).ser u = s.ser u := (rfl)
@[simp] theorem State.slot_setBank (b : Nat) (x : BankX) (u : Nat) : (s.setBank b x).slot u = s.slot u := (rfl)
@[simp] theorem State.uclk_setBank (b : Nat) (x : BankX) (u : Nat) : (s.setBank b x).uclk u = s.uclk u := (rfl)
@[simp] theorem State.logic_setBank (b : Nat) (x : BankX) (u : Nat) : (s.setBank b x).logic u = s.logic u := (rfl)
@[simp] theorem State.beacon_setBank (b : Nat) (x : BankX) (u : Nat) : (s.setBank b x).beacon u = s.beacon u := (rfl)
@[simp] theorem State.mover_setBank (b : Nat) (x : BankX) (u : Nat) : (s.setBank b x).mover u = s.mover u := (rfl)
@[simp] theorem State.reg_setBank (b : Nat) (x : BankX) (pg' off' : Nat) : (s.setBank b x).reg pg' off' = s.reg pg' off' := (rfl)
@[simp] theorem State.rd_setBank (b : Nat) (x : BankX) (pg' : Nat) (g : Fld) : (s.setBank b x).rd pg' g = s.rd pg' g := (rfl)

@[simp] theorem State.now_setSeq (b : Nat) (x : SeqX) : (s.setSeq b x).now = s.now := (rfl)
@[simp] theorem State.fresh_setSeq (b : Nat) (x : SeqX) : (s.setSeq b x).fresh = s.fresh := (rfl)
@[simp] theorem State.resp_setSeq (b : Nat) (x : SeqX) : (s.setSeq b x).resp = s.resp := (rfl)
@[simp] theorem State.regs_setSeq (b : Nat) (x : SeqX) : (s.setSeq b x).regs = s.regs := (rfl)
@[simp] theorem State.shadow_setSeq (b : Nat) (x : SeqX) : (s.setSeq b x).shadow = s.shadow := (rfl)
@[simp] theorem State.pages_setSeq (b : Nat) (x : SeqX) : (s.setSeq b x).pages = s.pages := (rfl)
@[simp] theorem State.alarms_setSeq (b : Nat) (x : SeqX) : (s.setSeq b x).alarms = s.alarms := (rfl)
@[simp] theorem State.stalls_setSeq (b : Nat) (x : SeqX) : (s.setSeq b x).stalls = s.stalls := (rfl)
@[simp] theorem State.dies_setSeq (b : Nat) (x : SeqX) : (s.setSeq b x).dies = s.dies := (rfl)
@[simp] theorem State.tu_setSeq (b : Nat) (x : SeqX) : (s.setSeq b x).tu = s.tu := (rfl)
@[simp] theorem State.beacons_setSeq (b : Nat) (x : SeqX) : (s.setSeq b x).beacons = s.beacons := (rfl)
@[simp] theorem State.uclks_setSeq (b : Nat) (x : SeqX) : (s.setSeq b x).uclks = s.uclks := (rfl)
@[simp] theorem State.launch_setSeq (b : Nat) (x : SeqX) : (s.setSeq b x).launch = s.launch := (rfl)
@[simp] theorem State.banks_setSeq (b : Nat) (x : SeqX) : (s.setSeq b x).banks = s.banks := (rfl)
@[simp] theorem State.weftTab_setSeq (b : Nat) (x : SeqX) : (s.setSeq b x).weftTab = s.weftTab := (rfl)
@[simp] theorem State.cats_setSeq (b : Nat) (x : SeqX) : (s.setSeq b x).cats = s.cats := (rfl)
@[simp] theorem State.spls_setSeq (b : Nat) (x : SeqX) : (s.setSeq b x).spls = s.spls := (rfl)
@[simp] theorem State.drcs_setSeq (b : Nat) (x : SeqX) : (s.setSeq b x).drcs = s.drcs := (rfl)
@[simp] theorem State.slots_setSeq (b : Nat) (x : SeqX) : (s.setSeq b x).slots = s.slots := (rfl)
@[simp] theorem State.regions_setSeq (b : Nat) (x : SeqX) : (s.setSeq b x).regions = s.regions := (rfl)
@[simp] theorem State.nocs_setSeq (b : Nat) (x : SeqX) : (s.setSeq b x).nocs = s.nocs := (rfl)
@[simp] theorem State.govBal_setSeq (b : Nat) (x : SeqX) : (s.setSeq b x).govBal = s.govBal := (rfl)
@[simp] theorem State.pats_setSeq (b : Nat) (x : SeqX) : (s.setSeq b x).pats = s.pats := (rfl)
@[simp] theorem State.ports_setSeq (b : Nat) (x : SeqX) : (s.setSeq b x).ports = s.ports := (rfl)
@[simp] theorem State.rt_setSeq (b : Nat) (x : SeqX) : (s.setSeq b x).rt = s.rt := (rfl)
@[simp] theorem State.rtHit_setSeq (b : Nat) (x : SeqX) : (s.setSeq b x).rtHit = s.rtHit := (rfl)
@[simp] theorem State.egr_setSeq (b : Nat) (x : SeqX) : (s.setSeq b x).egr = s.egr := (rfl)
@[simp] theorem State.egrGen_setSeq (b : Nat) (x : SeqX) : (s.setSeq b x).egrGen = s.egrGen := (rfl)
@[simp] theorem State.answers_setSeq (b : Nat) (x : SeqX) : (s.setSeq b x).answers = s.answers := (rfl)
@[simp] theorem State.sinks_setSeq (b : Nat) (x : SeqX) : (s.setSeq b x).sinks = s.sinks := (rfl)
@[simp] theorem State.engs_setSeq (b : Nat) (x : SeqX) : (s.setSeq b x).engs = s.engs := (rfl)
@[simp] theorem State.clus_setSeq (b : Nat) (x : SeqX) : (s.setSeq b x).clus = s.clus := (rfl)
@[simp] theorem State.quads_setSeq (b : Nat) (x : SeqX) : (s.setSeq b x).quads = s.quads := (rfl)
@[simp] theorem State.cfg_setSeq (b : Nat) (x : SeqX) : (s.setSeq b x).cfg = s.cfg := (rfl)
@[simp] theorem State.darns_setSeq (b : Nat) (x : SeqX) : (s.setSeq b x).darns = s.darns := (rfl)
@[simp] theorem State.logics_setSeq (b : Nat) (x : SeqX) : (s.setSeq b x).logics = s.logics := (rfl)
@[simp] theorem State.fabs_setSeq (b : Nat) (x : SeqX) : (s.setSeq b x).fabs = s.fabs := (rfl)
@[simp] theorem State.sers_setSeq (b : Nat) (x : SeqX) : (s.setSeq b x).sers = s.sers := (rfl)
@[simp] theorem State.pow_setSeq (b : Nat) (x : SeqX) : (s.setSeq b x).pow = s.pow := (rfl)
@[simp] theorem State.store_setSeq (b : Nat) (x : SeqX) : (s.setSeq b x).store = s.store := (rfl)
@[simp] theorem State.hub_setSeq (b : Nat) (x : SeqX) : (s.setSeq b x).hub = s.hub := (rfl)
@[simp] theorem State.movers_setSeq (b : Nat) (x : SeqX) : (s.setSeq b x).movers = s.movers := (rfl)
@[simp] theorem State.sram_setSeq (b : Nat) (x : SeqX) : (s.setSeq b x).sram = s.sram := (rfl)
@[simp] theorem State.dp_setSeq (b : Nat) (x : SeqX) : (s.setSeq b x).dp = s.dp := (rfl)
@[simp] theorem State.dpAnswer_setSeq (b : Nat) (x : SeqX) : (s.setSeq b x).dpAnswer = s.dpAnswer := (rfl)
@[simp] theorem State.pins_setSeq (b : Nat) (x : SeqX) : (s.setSeq b x).pins = s.pins := (rfl)
@[simp] theorem State.pending_setSeq (b : Nat) (x : SeqX) : (s.setSeq b x).pending = s.pending := (rfl)
@[simp] theorem State.die_setSeq (b : Nat) (x : SeqX) (u : Nat) : (s.setSeq b x).die u = s.die u := (rfl)
@[simp] theorem State.page_setSeq (b : Nat) (x : SeqX) (u : Nat) : (s.setSeq b x).page u = s.page u := (rfl)
@[simp] theorem State.lslot_setSeq (b : Nat) (x : SeqX) (u : Nat) : (s.setSeq b x).lslot u = s.lslot u := (rfl)
@[simp] theorem State.bank_setSeq (b : Nat) (x : SeqX) (u : Nat) : (s.setSeq b x).bank u = s.bank u := (rfl)
@[simp] theorem State.cat_setSeq (b : Nat) (x : SeqX) (u : Nat) : (s.setSeq b x).cat u = s.cat u := (rfl)
@[simp] theorem State.spl_setSeq (b : Nat) (x : SeqX) (u : Nat) : (s.setSeq b x).spl u = s.spl u := (rfl)
@[simp] theorem State.drc_setSeq (b : Nat) (x : SeqX) (u : Nat) : (s.setSeq b x).drc u = s.drc u := (rfl)
@[simp] theorem State.lin_setSeq (b : Nat) (x : SeqX) (u : Nat) : (s.setSeq b x).lin u = s.lin u := (rfl)
@[simp] theorem State.noc_setSeq (b : Nat) (x : SeqX) (u : Nat) : (s.setSeq b x).noc u = s.noc u := (rfl)
@[simp] theorem State.pat_setSeq (b : Nat) (x : SeqX) (u : Nat) : (s.setSeq b x).pat u = s.pat u := (rfl)
@[simp] theorem State.port_setSeq (b : Nat) (x : SeqX) (u : Nat) : (s.setSeq b x).port u = s.port u := (rfl)
@[simp] theorem State.eng_setSeq (b : Nat) (x : SeqX) (u : Nat) : (s.setSeq b x).eng u = s.eng u := (rfl)
@[simp] theorem State.clu_setSeq (b : Nat) (x : SeqX) (u : Nat) : (s.setSeq b x).clu u = s.clu u := (rfl)
@[simp] theorem State.quad_setSeq (b : Nat) (x : SeqX) (u : Nat) : (s.setSeq b x).quad u = s.quad u := (rfl)
@[simp] theorem State.darn_setSeq (b : Nat) (x : SeqX) (u : Nat) : (s.setSeq b x).darn u = s.darn u := (rfl)
@[simp] theorem State.fab_setSeq (b : Nat) (x : SeqX) (u : Nat) : (s.setSeq b x).fab u = s.fab u := (rfl)
@[simp] theorem State.ser_setSeq (b : Nat) (x : SeqX) (u : Nat) : (s.setSeq b x).ser u = s.ser u := (rfl)
@[simp] theorem State.slot_setSeq (b : Nat) (x : SeqX) (u : Nat) : (s.setSeq b x).slot u = s.slot u := (rfl)
@[simp] theorem State.uclk_setSeq (b : Nat) (x : SeqX) (u : Nat) : (s.setSeq b x).uclk u = s.uclk u := (rfl)
@[simp] theorem State.logic_setSeq (b : Nat) (x : SeqX) (u : Nat) : (s.setSeq b x).logic u = s.logic u := (rfl)
@[simp] theorem State.beacon_setSeq (b : Nat) (x : SeqX) (u : Nat) : (s.setSeq b x).beacon u = s.beacon u := (rfl)
@[simp] theorem State.mover_setSeq (b : Nat) (x : SeqX) (u : Nat) : (s.setSeq b x).mover u = s.mover u := (rfl)
@[simp] theorem State.reg_setSeq (b : Nat) (x : SeqX) (pg' off' : Nat) : (s.setSeq b x).reg pg' off' = s.reg pg' off' := (rfl)
@[simp] theorem State.rd_setSeq (b : Nat) (x : SeqX) (pg' : Nat) (g : Fld) : (s.setSeq b x).rd pg' g = s.rd pg' g := (rfl)

@[simp] theorem State.now_setCat (p : Nat) (x : CatX) : (s.setCat p x).now = s.now := (rfl)
@[simp] theorem State.fresh_setCat (p : Nat) (x : CatX) : (s.setCat p x).fresh = s.fresh := (rfl)
@[simp] theorem State.resp_setCat (p : Nat) (x : CatX) : (s.setCat p x).resp = s.resp := (rfl)
@[simp] theorem State.regs_setCat (p : Nat) (x : CatX) : (s.setCat p x).regs = s.regs := (rfl)
@[simp] theorem State.shadow_setCat (p : Nat) (x : CatX) : (s.setCat p x).shadow = s.shadow := (rfl)
@[simp] theorem State.pages_setCat (p : Nat) (x : CatX) : (s.setCat p x).pages = s.pages := (rfl)
@[simp] theorem State.alarms_setCat (p : Nat) (x : CatX) : (s.setCat p x).alarms = s.alarms := (rfl)
@[simp] theorem State.stalls_setCat (p : Nat) (x : CatX) : (s.setCat p x).stalls = s.stalls := (rfl)
@[simp] theorem State.dies_setCat (p : Nat) (x : CatX) : (s.setCat p x).dies = s.dies := (rfl)
@[simp] theorem State.tu_setCat (p : Nat) (x : CatX) : (s.setCat p x).tu = s.tu := (rfl)
@[simp] theorem State.beacons_setCat (p : Nat) (x : CatX) : (s.setCat p x).beacons = s.beacons := (rfl)
@[simp] theorem State.uclks_setCat (p : Nat) (x : CatX) : (s.setCat p x).uclks = s.uclks := (rfl)
@[simp] theorem State.launch_setCat (p : Nat) (x : CatX) : (s.setCat p x).launch = s.launch := (rfl)
@[simp] theorem State.banks_setCat (p : Nat) (x : CatX) : (s.setCat p x).banks = s.banks := (rfl)
@[simp] theorem State.seqs_setCat (p : Nat) (x : CatX) : (s.setCat p x).seqs = s.seqs := (rfl)
@[simp] theorem State.weftTab_setCat (p : Nat) (x : CatX) : (s.setCat p x).weftTab = s.weftTab := (rfl)
@[simp] theorem State.spls_setCat (p : Nat) (x : CatX) : (s.setCat p x).spls = s.spls := (rfl)
@[simp] theorem State.drcs_setCat (p : Nat) (x : CatX) : (s.setCat p x).drcs = s.drcs := (rfl)
@[simp] theorem State.slots_setCat (p : Nat) (x : CatX) : (s.setCat p x).slots = s.slots := (rfl)
@[simp] theorem State.regions_setCat (p : Nat) (x : CatX) : (s.setCat p x).regions = s.regions := (rfl)
@[simp] theorem State.nocs_setCat (p : Nat) (x : CatX) : (s.setCat p x).nocs = s.nocs := (rfl)
@[simp] theorem State.govBal_setCat (p : Nat) (x : CatX) : (s.setCat p x).govBal = s.govBal := (rfl)
@[simp] theorem State.pats_setCat (p : Nat) (x : CatX) : (s.setCat p x).pats = s.pats := (rfl)
@[simp] theorem State.ports_setCat (p : Nat) (x : CatX) : (s.setCat p x).ports = s.ports := (rfl)
@[simp] theorem State.rt_setCat (p : Nat) (x : CatX) : (s.setCat p x).rt = s.rt := (rfl)
@[simp] theorem State.rtHit_setCat (p : Nat) (x : CatX) : (s.setCat p x).rtHit = s.rtHit := (rfl)
@[simp] theorem State.egr_setCat (p : Nat) (x : CatX) : (s.setCat p x).egr = s.egr := (rfl)
@[simp] theorem State.egrGen_setCat (p : Nat) (x : CatX) : (s.setCat p x).egrGen = s.egrGen := (rfl)
@[simp] theorem State.answers_setCat (p : Nat) (x : CatX) : (s.setCat p x).answers = s.answers := (rfl)
@[simp] theorem State.sinks_setCat (p : Nat) (x : CatX) : (s.setCat p x).sinks = s.sinks := (rfl)
@[simp] theorem State.engs_setCat (p : Nat) (x : CatX) : (s.setCat p x).engs = s.engs := (rfl)
@[simp] theorem State.clus_setCat (p : Nat) (x : CatX) : (s.setCat p x).clus = s.clus := (rfl)
@[simp] theorem State.quads_setCat (p : Nat) (x : CatX) : (s.setCat p x).quads = s.quads := (rfl)
@[simp] theorem State.cfg_setCat (p : Nat) (x : CatX) : (s.setCat p x).cfg = s.cfg := (rfl)
@[simp] theorem State.darns_setCat (p : Nat) (x : CatX) : (s.setCat p x).darns = s.darns := (rfl)
@[simp] theorem State.logics_setCat (p : Nat) (x : CatX) : (s.setCat p x).logics = s.logics := (rfl)
@[simp] theorem State.fabs_setCat (p : Nat) (x : CatX) : (s.setCat p x).fabs = s.fabs := (rfl)
@[simp] theorem State.sers_setCat (p : Nat) (x : CatX) : (s.setCat p x).sers = s.sers := (rfl)
@[simp] theorem State.pow_setCat (p : Nat) (x : CatX) : (s.setCat p x).pow = s.pow := (rfl)
@[simp] theorem State.store_setCat (p : Nat) (x : CatX) : (s.setCat p x).store = s.store := (rfl)
@[simp] theorem State.hub_setCat (p : Nat) (x : CatX) : (s.setCat p x).hub = s.hub := (rfl)
@[simp] theorem State.movers_setCat (p : Nat) (x : CatX) : (s.setCat p x).movers = s.movers := (rfl)
@[simp] theorem State.sram_setCat (p : Nat) (x : CatX) : (s.setCat p x).sram = s.sram := (rfl)
@[simp] theorem State.dp_setCat (p : Nat) (x : CatX) : (s.setCat p x).dp = s.dp := (rfl)
@[simp] theorem State.dpAnswer_setCat (p : Nat) (x : CatX) : (s.setCat p x).dpAnswer = s.dpAnswer := (rfl)
@[simp] theorem State.pins_setCat (p : Nat) (x : CatX) : (s.setCat p x).pins = s.pins := (rfl)
@[simp] theorem State.pending_setCat (p : Nat) (x : CatX) : (s.setCat p x).pending = s.pending := (rfl)
@[simp] theorem State.die_setCat (p : Nat) (x : CatX) (u : Nat) : (s.setCat p x).die u = s.die u := (rfl)
@[simp] theorem State.page_setCat (p : Nat) (x : CatX) (u : Nat) : (s.setCat p x).page u = s.page u := (rfl)
@[simp] theorem State.lslot_setCat (p : Nat) (x : CatX) (u : Nat) : (s.setCat p x).lslot u = s.lslot u := (rfl)
@[simp] theorem State.bank_setCat (p : Nat) (x : CatX) (u : Nat) : (s.setCat p x).bank u = s.bank u := (rfl)
@[simp] theorem State.seq_setCat (p : Nat) (x : CatX) (u : Nat) : (s.setCat p x).seq u = s.seq u := (rfl)
@[simp] theorem State.spl_setCat (p : Nat) (x : CatX) (u : Nat) : (s.setCat p x).spl u = s.spl u := (rfl)
@[simp] theorem State.drc_setCat (p : Nat) (x : CatX) (u : Nat) : (s.setCat p x).drc u = s.drc u := (rfl)
@[simp] theorem State.lin_setCat (p : Nat) (x : CatX) (u : Nat) : (s.setCat p x).lin u = s.lin u := (rfl)
@[simp] theorem State.noc_setCat (p : Nat) (x : CatX) (u : Nat) : (s.setCat p x).noc u = s.noc u := (rfl)
@[simp] theorem State.pat_setCat (p : Nat) (x : CatX) (u : Nat) : (s.setCat p x).pat u = s.pat u := (rfl)
@[simp] theorem State.port_setCat (p : Nat) (x : CatX) (u : Nat) : (s.setCat p x).port u = s.port u := (rfl)
@[simp] theorem State.eng_setCat (p : Nat) (x : CatX) (u : Nat) : (s.setCat p x).eng u = s.eng u := (rfl)
@[simp] theorem State.clu_setCat (p : Nat) (x : CatX) (u : Nat) : (s.setCat p x).clu u = s.clu u := (rfl)
@[simp] theorem State.quad_setCat (p : Nat) (x : CatX) (u : Nat) : (s.setCat p x).quad u = s.quad u := (rfl)
@[simp] theorem State.darn_setCat (p : Nat) (x : CatX) (u : Nat) : (s.setCat p x).darn u = s.darn u := (rfl)
@[simp] theorem State.fab_setCat (p : Nat) (x : CatX) (u : Nat) : (s.setCat p x).fab u = s.fab u := (rfl)
@[simp] theorem State.ser_setCat (p : Nat) (x : CatX) (u : Nat) : (s.setCat p x).ser u = s.ser u := (rfl)
@[simp] theorem State.slot_setCat (p : Nat) (x : CatX) (u : Nat) : (s.setCat p x).slot u = s.slot u := (rfl)
@[simp] theorem State.uclk_setCat (p : Nat) (x : CatX) (u : Nat) : (s.setCat p x).uclk u = s.uclk u := (rfl)
@[simp] theorem State.logic_setCat (p : Nat) (x : CatX) (u : Nat) : (s.setCat p x).logic u = s.logic u := (rfl)
@[simp] theorem State.beacon_setCat (p : Nat) (x : CatX) (u : Nat) : (s.setCat p x).beacon u = s.beacon u := (rfl)
@[simp] theorem State.mover_setCat (p : Nat) (x : CatX) (u : Nat) : (s.setCat p x).mover u = s.mover u := (rfl)
@[simp] theorem State.reg_setCat (p : Nat) (x : CatX) (pg' off' : Nat) : (s.setCat p x).reg pg' off' = s.reg pg' off' := (rfl)
@[simp] theorem State.rd_setCat (p : Nat) (x : CatX) (pg' : Nat) (g : Fld) : (s.setCat p x).rd pg' g = s.rd pg' g := (rfl)

@[simp] theorem State.now_setSpl (p : Nat) (x : SplX) : (s.setSpl p x).now = s.now := (rfl)
@[simp] theorem State.fresh_setSpl (p : Nat) (x : SplX) : (s.setSpl p x).fresh = s.fresh := (rfl)
@[simp] theorem State.resp_setSpl (p : Nat) (x : SplX) : (s.setSpl p x).resp = s.resp := (rfl)
@[simp] theorem State.regs_setSpl (p : Nat) (x : SplX) : (s.setSpl p x).regs = s.regs := (rfl)
@[simp] theorem State.shadow_setSpl (p : Nat) (x : SplX) : (s.setSpl p x).shadow = s.shadow := (rfl)
@[simp] theorem State.pages_setSpl (p : Nat) (x : SplX) : (s.setSpl p x).pages = s.pages := (rfl)
@[simp] theorem State.alarms_setSpl (p : Nat) (x : SplX) : (s.setSpl p x).alarms = s.alarms := (rfl)
@[simp] theorem State.stalls_setSpl (p : Nat) (x : SplX) : (s.setSpl p x).stalls = s.stalls := (rfl)
@[simp] theorem State.dies_setSpl (p : Nat) (x : SplX) : (s.setSpl p x).dies = s.dies := (rfl)
@[simp] theorem State.tu_setSpl (p : Nat) (x : SplX) : (s.setSpl p x).tu = s.tu := (rfl)
@[simp] theorem State.beacons_setSpl (p : Nat) (x : SplX) : (s.setSpl p x).beacons = s.beacons := (rfl)
@[simp] theorem State.uclks_setSpl (p : Nat) (x : SplX) : (s.setSpl p x).uclks = s.uclks := (rfl)
@[simp] theorem State.launch_setSpl (p : Nat) (x : SplX) : (s.setSpl p x).launch = s.launch := (rfl)
@[simp] theorem State.banks_setSpl (p : Nat) (x : SplX) : (s.setSpl p x).banks = s.banks := (rfl)
@[simp] theorem State.seqs_setSpl (p : Nat) (x : SplX) : (s.setSpl p x).seqs = s.seqs := (rfl)
@[simp] theorem State.weftTab_setSpl (p : Nat) (x : SplX) : (s.setSpl p x).weftTab = s.weftTab := (rfl)
@[simp] theorem State.cats_setSpl (p : Nat) (x : SplX) : (s.setSpl p x).cats = s.cats := (rfl)
@[simp] theorem State.drcs_setSpl (p : Nat) (x : SplX) : (s.setSpl p x).drcs = s.drcs := (rfl)
@[simp] theorem State.slots_setSpl (p : Nat) (x : SplX) : (s.setSpl p x).slots = s.slots := (rfl)
@[simp] theorem State.regions_setSpl (p : Nat) (x : SplX) : (s.setSpl p x).regions = s.regions := (rfl)
@[simp] theorem State.nocs_setSpl (p : Nat) (x : SplX) : (s.setSpl p x).nocs = s.nocs := (rfl)
@[simp] theorem State.govBal_setSpl (p : Nat) (x : SplX) : (s.setSpl p x).govBal = s.govBal := (rfl)
@[simp] theorem State.pats_setSpl (p : Nat) (x : SplX) : (s.setSpl p x).pats = s.pats := (rfl)
@[simp] theorem State.ports_setSpl (p : Nat) (x : SplX) : (s.setSpl p x).ports = s.ports := (rfl)
@[simp] theorem State.rt_setSpl (p : Nat) (x : SplX) : (s.setSpl p x).rt = s.rt := (rfl)
@[simp] theorem State.rtHit_setSpl (p : Nat) (x : SplX) : (s.setSpl p x).rtHit = s.rtHit := (rfl)
@[simp] theorem State.egr_setSpl (p : Nat) (x : SplX) : (s.setSpl p x).egr = s.egr := (rfl)
@[simp] theorem State.egrGen_setSpl (p : Nat) (x : SplX) : (s.setSpl p x).egrGen = s.egrGen := (rfl)
@[simp] theorem State.answers_setSpl (p : Nat) (x : SplX) : (s.setSpl p x).answers = s.answers := (rfl)
@[simp] theorem State.sinks_setSpl (p : Nat) (x : SplX) : (s.setSpl p x).sinks = s.sinks := (rfl)
@[simp] theorem State.engs_setSpl (p : Nat) (x : SplX) : (s.setSpl p x).engs = s.engs := (rfl)
@[simp] theorem State.clus_setSpl (p : Nat) (x : SplX) : (s.setSpl p x).clus = s.clus := (rfl)
@[simp] theorem State.quads_setSpl (p : Nat) (x : SplX) : (s.setSpl p x).quads = s.quads := (rfl)
@[simp] theorem State.cfg_setSpl (p : Nat) (x : SplX) : (s.setSpl p x).cfg = s.cfg := (rfl)
@[simp] theorem State.darns_setSpl (p : Nat) (x : SplX) : (s.setSpl p x).darns = s.darns := (rfl)
@[simp] theorem State.logics_setSpl (p : Nat) (x : SplX) : (s.setSpl p x).logics = s.logics := (rfl)
@[simp] theorem State.fabs_setSpl (p : Nat) (x : SplX) : (s.setSpl p x).fabs = s.fabs := (rfl)
@[simp] theorem State.sers_setSpl (p : Nat) (x : SplX) : (s.setSpl p x).sers = s.sers := (rfl)
@[simp] theorem State.pow_setSpl (p : Nat) (x : SplX) : (s.setSpl p x).pow = s.pow := (rfl)
@[simp] theorem State.store_setSpl (p : Nat) (x : SplX) : (s.setSpl p x).store = s.store := (rfl)
@[simp] theorem State.hub_setSpl (p : Nat) (x : SplX) : (s.setSpl p x).hub = s.hub := (rfl)
@[simp] theorem State.movers_setSpl (p : Nat) (x : SplX) : (s.setSpl p x).movers = s.movers := (rfl)
@[simp] theorem State.sram_setSpl (p : Nat) (x : SplX) : (s.setSpl p x).sram = s.sram := (rfl)
@[simp] theorem State.dp_setSpl (p : Nat) (x : SplX) : (s.setSpl p x).dp = s.dp := (rfl)
@[simp] theorem State.dpAnswer_setSpl (p : Nat) (x : SplX) : (s.setSpl p x).dpAnswer = s.dpAnswer := (rfl)
@[simp] theorem State.pins_setSpl (p : Nat) (x : SplX) : (s.setSpl p x).pins = s.pins := (rfl)
@[simp] theorem State.pending_setSpl (p : Nat) (x : SplX) : (s.setSpl p x).pending = s.pending := (rfl)
@[simp] theorem State.die_setSpl (p : Nat) (x : SplX) (u : Nat) : (s.setSpl p x).die u = s.die u := (rfl)
@[simp] theorem State.page_setSpl (p : Nat) (x : SplX) (u : Nat) : (s.setSpl p x).page u = s.page u := (rfl)
@[simp] theorem State.lslot_setSpl (p : Nat) (x : SplX) (u : Nat) : (s.setSpl p x).lslot u = s.lslot u := (rfl)
@[simp] theorem State.bank_setSpl (p : Nat) (x : SplX) (u : Nat) : (s.setSpl p x).bank u = s.bank u := (rfl)
@[simp] theorem State.seq_setSpl (p : Nat) (x : SplX) (u : Nat) : (s.setSpl p x).seq u = s.seq u := (rfl)
@[simp] theorem State.cat_setSpl (p : Nat) (x : SplX) (u : Nat) : (s.setSpl p x).cat u = s.cat u := (rfl)
@[simp] theorem State.drc_setSpl (p : Nat) (x : SplX) (u : Nat) : (s.setSpl p x).drc u = s.drc u := (rfl)
@[simp] theorem State.lin_setSpl (p : Nat) (x : SplX) (u : Nat) : (s.setSpl p x).lin u = s.lin u := (rfl)
@[simp] theorem State.noc_setSpl (p : Nat) (x : SplX) (u : Nat) : (s.setSpl p x).noc u = s.noc u := (rfl)
@[simp] theorem State.pat_setSpl (p : Nat) (x : SplX) (u : Nat) : (s.setSpl p x).pat u = s.pat u := (rfl)
@[simp] theorem State.port_setSpl (p : Nat) (x : SplX) (u : Nat) : (s.setSpl p x).port u = s.port u := (rfl)
@[simp] theorem State.eng_setSpl (p : Nat) (x : SplX) (u : Nat) : (s.setSpl p x).eng u = s.eng u := (rfl)
@[simp] theorem State.clu_setSpl (p : Nat) (x : SplX) (u : Nat) : (s.setSpl p x).clu u = s.clu u := (rfl)
@[simp] theorem State.quad_setSpl (p : Nat) (x : SplX) (u : Nat) : (s.setSpl p x).quad u = s.quad u := (rfl)
@[simp] theorem State.darn_setSpl (p : Nat) (x : SplX) (u : Nat) : (s.setSpl p x).darn u = s.darn u := (rfl)
@[simp] theorem State.fab_setSpl (p : Nat) (x : SplX) (u : Nat) : (s.setSpl p x).fab u = s.fab u := (rfl)
@[simp] theorem State.ser_setSpl (p : Nat) (x : SplX) (u : Nat) : (s.setSpl p x).ser u = s.ser u := (rfl)
@[simp] theorem State.slot_setSpl (p : Nat) (x : SplX) (u : Nat) : (s.setSpl p x).slot u = s.slot u := (rfl)
@[simp] theorem State.uclk_setSpl (p : Nat) (x : SplX) (u : Nat) : (s.setSpl p x).uclk u = s.uclk u := (rfl)
@[simp] theorem State.logic_setSpl (p : Nat) (x : SplX) (u : Nat) : (s.setSpl p x).logic u = s.logic u := (rfl)
@[simp] theorem State.beacon_setSpl (p : Nat) (x : SplX) (u : Nat) : (s.setSpl p x).beacon u = s.beacon u := (rfl)
@[simp] theorem State.mover_setSpl (p : Nat) (x : SplX) (u : Nat) : (s.setSpl p x).mover u = s.mover u := (rfl)
@[simp] theorem State.reg_setSpl (p : Nat) (x : SplX) (pg' off' : Nat) : (s.setSpl p x).reg pg' off' = s.reg pg' off' := (rfl)
@[simp] theorem State.rd_setSpl (p : Nat) (x : SplX) (pg' : Nat) (g : Fld) : (s.setSpl p x).rd pg' g = s.rd pg' g := (rfl)

@[simp] theorem State.now_setDrc (k : Nat) (x : DrcX) : (s.setDrc k x).now = s.now := (rfl)
@[simp] theorem State.fresh_setDrc (k : Nat) (x : DrcX) : (s.setDrc k x).fresh = s.fresh := (rfl)
@[simp] theorem State.resp_setDrc (k : Nat) (x : DrcX) : (s.setDrc k x).resp = s.resp := (rfl)
@[simp] theorem State.regs_setDrc (k : Nat) (x : DrcX) : (s.setDrc k x).regs = s.regs := (rfl)
@[simp] theorem State.shadow_setDrc (k : Nat) (x : DrcX) : (s.setDrc k x).shadow = s.shadow := (rfl)
@[simp] theorem State.pages_setDrc (k : Nat) (x : DrcX) : (s.setDrc k x).pages = s.pages := (rfl)
@[simp] theorem State.alarms_setDrc (k : Nat) (x : DrcX) : (s.setDrc k x).alarms = s.alarms := (rfl)
@[simp] theorem State.stalls_setDrc (k : Nat) (x : DrcX) : (s.setDrc k x).stalls = s.stalls := (rfl)
@[simp] theorem State.dies_setDrc (k : Nat) (x : DrcX) : (s.setDrc k x).dies = s.dies := (rfl)
@[simp] theorem State.tu_setDrc (k : Nat) (x : DrcX) : (s.setDrc k x).tu = s.tu := (rfl)
@[simp] theorem State.beacons_setDrc (k : Nat) (x : DrcX) : (s.setDrc k x).beacons = s.beacons := (rfl)
@[simp] theorem State.uclks_setDrc (k : Nat) (x : DrcX) : (s.setDrc k x).uclks = s.uclks := (rfl)
@[simp] theorem State.launch_setDrc (k : Nat) (x : DrcX) : (s.setDrc k x).launch = s.launch := (rfl)
@[simp] theorem State.banks_setDrc (k : Nat) (x : DrcX) : (s.setDrc k x).banks = s.banks := (rfl)
@[simp] theorem State.seqs_setDrc (k : Nat) (x : DrcX) : (s.setDrc k x).seqs = s.seqs := (rfl)
@[simp] theorem State.weftTab_setDrc (k : Nat) (x : DrcX) : (s.setDrc k x).weftTab = s.weftTab := (rfl)
@[simp] theorem State.cats_setDrc (k : Nat) (x : DrcX) : (s.setDrc k x).cats = s.cats := (rfl)
@[simp] theorem State.spls_setDrc (k : Nat) (x : DrcX) : (s.setDrc k x).spls = s.spls := (rfl)
@[simp] theorem State.slots_setDrc (k : Nat) (x : DrcX) : (s.setDrc k x).slots = s.slots := (rfl)
@[simp] theorem State.regions_setDrc (k : Nat) (x : DrcX) : (s.setDrc k x).regions = s.regions := (rfl)
@[simp] theorem State.nocs_setDrc (k : Nat) (x : DrcX) : (s.setDrc k x).nocs = s.nocs := (rfl)
@[simp] theorem State.govBal_setDrc (k : Nat) (x : DrcX) : (s.setDrc k x).govBal = s.govBal := (rfl)
@[simp] theorem State.pats_setDrc (k : Nat) (x : DrcX) : (s.setDrc k x).pats = s.pats := (rfl)
@[simp] theorem State.ports_setDrc (k : Nat) (x : DrcX) : (s.setDrc k x).ports = s.ports := (rfl)
@[simp] theorem State.rt_setDrc (k : Nat) (x : DrcX) : (s.setDrc k x).rt = s.rt := (rfl)
@[simp] theorem State.rtHit_setDrc (k : Nat) (x : DrcX) : (s.setDrc k x).rtHit = s.rtHit := (rfl)
@[simp] theorem State.egr_setDrc (k : Nat) (x : DrcX) : (s.setDrc k x).egr = s.egr := (rfl)
@[simp] theorem State.egrGen_setDrc (k : Nat) (x : DrcX) : (s.setDrc k x).egrGen = s.egrGen := (rfl)
@[simp] theorem State.answers_setDrc (k : Nat) (x : DrcX) : (s.setDrc k x).answers = s.answers := (rfl)
@[simp] theorem State.sinks_setDrc (k : Nat) (x : DrcX) : (s.setDrc k x).sinks = s.sinks := (rfl)
@[simp] theorem State.engs_setDrc (k : Nat) (x : DrcX) : (s.setDrc k x).engs = s.engs := (rfl)
@[simp] theorem State.clus_setDrc (k : Nat) (x : DrcX) : (s.setDrc k x).clus = s.clus := (rfl)
@[simp] theorem State.quads_setDrc (k : Nat) (x : DrcX) : (s.setDrc k x).quads = s.quads := (rfl)
@[simp] theorem State.cfg_setDrc (k : Nat) (x : DrcX) : (s.setDrc k x).cfg = s.cfg := (rfl)
@[simp] theorem State.darns_setDrc (k : Nat) (x : DrcX) : (s.setDrc k x).darns = s.darns := (rfl)
@[simp] theorem State.logics_setDrc (k : Nat) (x : DrcX) : (s.setDrc k x).logics = s.logics := (rfl)
@[simp] theorem State.fabs_setDrc (k : Nat) (x : DrcX) : (s.setDrc k x).fabs = s.fabs := (rfl)
@[simp] theorem State.sers_setDrc (k : Nat) (x : DrcX) : (s.setDrc k x).sers = s.sers := (rfl)
@[simp] theorem State.pow_setDrc (k : Nat) (x : DrcX) : (s.setDrc k x).pow = s.pow := (rfl)
@[simp] theorem State.store_setDrc (k : Nat) (x : DrcX) : (s.setDrc k x).store = s.store := (rfl)
@[simp] theorem State.hub_setDrc (k : Nat) (x : DrcX) : (s.setDrc k x).hub = s.hub := (rfl)
@[simp] theorem State.movers_setDrc (k : Nat) (x : DrcX) : (s.setDrc k x).movers = s.movers := (rfl)
@[simp] theorem State.sram_setDrc (k : Nat) (x : DrcX) : (s.setDrc k x).sram = s.sram := (rfl)
@[simp] theorem State.dp_setDrc (k : Nat) (x : DrcX) : (s.setDrc k x).dp = s.dp := (rfl)
@[simp] theorem State.dpAnswer_setDrc (k : Nat) (x : DrcX) : (s.setDrc k x).dpAnswer = s.dpAnswer := (rfl)
@[simp] theorem State.pins_setDrc (k : Nat) (x : DrcX) : (s.setDrc k x).pins = s.pins := (rfl)
@[simp] theorem State.pending_setDrc (k : Nat) (x : DrcX) : (s.setDrc k x).pending = s.pending := (rfl)
@[simp] theorem State.die_setDrc (k : Nat) (x : DrcX) (u : Nat) : (s.setDrc k x).die u = s.die u := (rfl)
@[simp] theorem State.page_setDrc (k : Nat) (x : DrcX) (u : Nat) : (s.setDrc k x).page u = s.page u := (rfl)
@[simp] theorem State.lslot_setDrc (k : Nat) (x : DrcX) (u : Nat) : (s.setDrc k x).lslot u = s.lslot u := (rfl)
@[simp] theorem State.bank_setDrc (k : Nat) (x : DrcX) (u : Nat) : (s.setDrc k x).bank u = s.bank u := (rfl)
@[simp] theorem State.seq_setDrc (k : Nat) (x : DrcX) (u : Nat) : (s.setDrc k x).seq u = s.seq u := (rfl)
@[simp] theorem State.cat_setDrc (k : Nat) (x : DrcX) (u : Nat) : (s.setDrc k x).cat u = s.cat u := (rfl)
@[simp] theorem State.spl_setDrc (k : Nat) (x : DrcX) (u : Nat) : (s.setDrc k x).spl u = s.spl u := (rfl)
@[simp] theorem State.lin_setDrc (k : Nat) (x : DrcX) (u : Nat) : (s.setDrc k x).lin u = s.lin u := (rfl)
@[simp] theorem State.noc_setDrc (k : Nat) (x : DrcX) (u : Nat) : (s.setDrc k x).noc u = s.noc u := (rfl)
@[simp] theorem State.pat_setDrc (k : Nat) (x : DrcX) (u : Nat) : (s.setDrc k x).pat u = s.pat u := (rfl)
@[simp] theorem State.port_setDrc (k : Nat) (x : DrcX) (u : Nat) : (s.setDrc k x).port u = s.port u := (rfl)
@[simp] theorem State.eng_setDrc (k : Nat) (x : DrcX) (u : Nat) : (s.setDrc k x).eng u = s.eng u := (rfl)
@[simp] theorem State.clu_setDrc (k : Nat) (x : DrcX) (u : Nat) : (s.setDrc k x).clu u = s.clu u := (rfl)
@[simp] theorem State.quad_setDrc (k : Nat) (x : DrcX) (u : Nat) : (s.setDrc k x).quad u = s.quad u := (rfl)
@[simp] theorem State.darn_setDrc (k : Nat) (x : DrcX) (u : Nat) : (s.setDrc k x).darn u = s.darn u := (rfl)
@[simp] theorem State.fab_setDrc (k : Nat) (x : DrcX) (u : Nat) : (s.setDrc k x).fab u = s.fab u := (rfl)
@[simp] theorem State.ser_setDrc (k : Nat) (x : DrcX) (u : Nat) : (s.setDrc k x).ser u = s.ser u := (rfl)
@[simp] theorem State.slot_setDrc (k : Nat) (x : DrcX) (u : Nat) : (s.setDrc k x).slot u = s.slot u := (rfl)
@[simp] theorem State.uclk_setDrc (k : Nat) (x : DrcX) (u : Nat) : (s.setDrc k x).uclk u = s.uclk u := (rfl)
@[simp] theorem State.logic_setDrc (k : Nat) (x : DrcX) (u : Nat) : (s.setDrc k x).logic u = s.logic u := (rfl)
@[simp] theorem State.beacon_setDrc (k : Nat) (x : DrcX) (u : Nat) : (s.setDrc k x).beacon u = s.beacon u := (rfl)
@[simp] theorem State.mover_setDrc (k : Nat) (x : DrcX) (u : Nat) : (s.setDrc k x).mover u = s.mover u := (rfl)
@[simp] theorem State.reg_setDrc (k : Nat) (x : DrcX) (pg' off' : Nat) : (s.setDrc k x).reg pg' off' = s.reg pg' off' := (rfl)
@[simp] theorem State.rd_setDrc (k : Nat) (x : DrcX) (pg' : Nat) (g : Fld) : (s.setDrc k x).rd pg' g = s.rd pg' g := (rfl)

@[simp] theorem State.now_setLin (r : Nat) (x : LinX) : (s.setLin r x).now = s.now := (rfl)
@[simp] theorem State.fresh_setLin (r : Nat) (x : LinX) : (s.setLin r x).fresh = s.fresh := (rfl)
@[simp] theorem State.resp_setLin (r : Nat) (x : LinX) : (s.setLin r x).resp = s.resp := (rfl)
@[simp] theorem State.regs_setLin (r : Nat) (x : LinX) : (s.setLin r x).regs = s.regs := (rfl)
@[simp] theorem State.shadow_setLin (r : Nat) (x : LinX) : (s.setLin r x).shadow = s.shadow := (rfl)
@[simp] theorem State.pages_setLin (r : Nat) (x : LinX) : (s.setLin r x).pages = s.pages := (rfl)
@[simp] theorem State.alarms_setLin (r : Nat) (x : LinX) : (s.setLin r x).alarms = s.alarms := (rfl)
@[simp] theorem State.stalls_setLin (r : Nat) (x : LinX) : (s.setLin r x).stalls = s.stalls := (rfl)
@[simp] theorem State.dies_setLin (r : Nat) (x : LinX) : (s.setLin r x).dies = s.dies := (rfl)
@[simp] theorem State.tu_setLin (r : Nat) (x : LinX) : (s.setLin r x).tu = s.tu := (rfl)
@[simp] theorem State.beacons_setLin (r : Nat) (x : LinX) : (s.setLin r x).beacons = s.beacons := (rfl)
@[simp] theorem State.uclks_setLin (r : Nat) (x : LinX) : (s.setLin r x).uclks = s.uclks := (rfl)
@[simp] theorem State.launch_setLin (r : Nat) (x : LinX) : (s.setLin r x).launch = s.launch := (rfl)
@[simp] theorem State.banks_setLin (r : Nat) (x : LinX) : (s.setLin r x).banks = s.banks := (rfl)
@[simp] theorem State.seqs_setLin (r : Nat) (x : LinX) : (s.setLin r x).seqs = s.seqs := (rfl)
@[simp] theorem State.weftTab_setLin (r : Nat) (x : LinX) : (s.setLin r x).weftTab = s.weftTab := (rfl)
@[simp] theorem State.cats_setLin (r : Nat) (x : LinX) : (s.setLin r x).cats = s.cats := (rfl)
@[simp] theorem State.spls_setLin (r : Nat) (x : LinX) : (s.setLin r x).spls = s.spls := (rfl)
@[simp] theorem State.drcs_setLin (r : Nat) (x : LinX) : (s.setLin r x).drcs = s.drcs := (rfl)
@[simp] theorem State.slots_setLin (r : Nat) (x : LinX) : (s.setLin r x).slots = s.slots := (rfl)
@[simp] theorem State.nocs_setLin (r : Nat) (x : LinX) : (s.setLin r x).nocs = s.nocs := (rfl)
@[simp] theorem State.govBal_setLin (r : Nat) (x : LinX) : (s.setLin r x).govBal = s.govBal := (rfl)
@[simp] theorem State.pats_setLin (r : Nat) (x : LinX) : (s.setLin r x).pats = s.pats := (rfl)
@[simp] theorem State.ports_setLin (r : Nat) (x : LinX) : (s.setLin r x).ports = s.ports := (rfl)
@[simp] theorem State.rt_setLin (r : Nat) (x : LinX) : (s.setLin r x).rt = s.rt := (rfl)
@[simp] theorem State.rtHit_setLin (r : Nat) (x : LinX) : (s.setLin r x).rtHit = s.rtHit := (rfl)
@[simp] theorem State.egr_setLin (r : Nat) (x : LinX) : (s.setLin r x).egr = s.egr := (rfl)
@[simp] theorem State.egrGen_setLin (r : Nat) (x : LinX) : (s.setLin r x).egrGen = s.egrGen := (rfl)
@[simp] theorem State.answers_setLin (r : Nat) (x : LinX) : (s.setLin r x).answers = s.answers := (rfl)
@[simp] theorem State.sinks_setLin (r : Nat) (x : LinX) : (s.setLin r x).sinks = s.sinks := (rfl)
@[simp] theorem State.engs_setLin (r : Nat) (x : LinX) : (s.setLin r x).engs = s.engs := (rfl)
@[simp] theorem State.clus_setLin (r : Nat) (x : LinX) : (s.setLin r x).clus = s.clus := (rfl)
@[simp] theorem State.quads_setLin (r : Nat) (x : LinX) : (s.setLin r x).quads = s.quads := (rfl)
@[simp] theorem State.cfg_setLin (r : Nat) (x : LinX) : (s.setLin r x).cfg = s.cfg := (rfl)
@[simp] theorem State.darns_setLin (r : Nat) (x : LinX) : (s.setLin r x).darns = s.darns := (rfl)
@[simp] theorem State.logics_setLin (r : Nat) (x : LinX) : (s.setLin r x).logics = s.logics := (rfl)
@[simp] theorem State.fabs_setLin (r : Nat) (x : LinX) : (s.setLin r x).fabs = s.fabs := (rfl)
@[simp] theorem State.sers_setLin (r : Nat) (x : LinX) : (s.setLin r x).sers = s.sers := (rfl)
@[simp] theorem State.pow_setLin (r : Nat) (x : LinX) : (s.setLin r x).pow = s.pow := (rfl)
@[simp] theorem State.store_setLin (r : Nat) (x : LinX) : (s.setLin r x).store = s.store := (rfl)
@[simp] theorem State.hub_setLin (r : Nat) (x : LinX) : (s.setLin r x).hub = s.hub := (rfl)
@[simp] theorem State.movers_setLin (r : Nat) (x : LinX) : (s.setLin r x).movers = s.movers := (rfl)
@[simp] theorem State.sram_setLin (r : Nat) (x : LinX) : (s.setLin r x).sram = s.sram := (rfl)
@[simp] theorem State.dp_setLin (r : Nat) (x : LinX) : (s.setLin r x).dp = s.dp := (rfl)
@[simp] theorem State.dpAnswer_setLin (r : Nat) (x : LinX) : (s.setLin r x).dpAnswer = s.dpAnswer := (rfl)
@[simp] theorem State.pins_setLin (r : Nat) (x : LinX) : (s.setLin r x).pins = s.pins := (rfl)
@[simp] theorem State.pending_setLin (r : Nat) (x : LinX) : (s.setLin r x).pending = s.pending := (rfl)
@[simp] theorem State.die_setLin (r : Nat) (x : LinX) (u : Nat) : (s.setLin r x).die u = s.die u := (rfl)
@[simp] theorem State.page_setLin (r : Nat) (x : LinX) (u : Nat) : (s.setLin r x).page u = s.page u := (rfl)
@[simp] theorem State.lslot_setLin (r : Nat) (x : LinX) (u : Nat) : (s.setLin r x).lslot u = s.lslot u := (rfl)
@[simp] theorem State.bank_setLin (r : Nat) (x : LinX) (u : Nat) : (s.setLin r x).bank u = s.bank u := (rfl)
@[simp] theorem State.seq_setLin (r : Nat) (x : LinX) (u : Nat) : (s.setLin r x).seq u = s.seq u := (rfl)
@[simp] theorem State.cat_setLin (r : Nat) (x : LinX) (u : Nat) : (s.setLin r x).cat u = s.cat u := (rfl)
@[simp] theorem State.spl_setLin (r : Nat) (x : LinX) (u : Nat) : (s.setLin r x).spl u = s.spl u := (rfl)
@[simp] theorem State.drc_setLin (r : Nat) (x : LinX) (u : Nat) : (s.setLin r x).drc u = s.drc u := (rfl)
@[simp] theorem State.noc_setLin (r : Nat) (x : LinX) (u : Nat) : (s.setLin r x).noc u = s.noc u := (rfl)
@[simp] theorem State.pat_setLin (r : Nat) (x : LinX) (u : Nat) : (s.setLin r x).pat u = s.pat u := (rfl)
@[simp] theorem State.port_setLin (r : Nat) (x : LinX) (u : Nat) : (s.setLin r x).port u = s.port u := (rfl)
@[simp] theorem State.eng_setLin (r : Nat) (x : LinX) (u : Nat) : (s.setLin r x).eng u = s.eng u := (rfl)
@[simp] theorem State.clu_setLin (r : Nat) (x : LinX) (u : Nat) : (s.setLin r x).clu u = s.clu u := (rfl)
@[simp] theorem State.quad_setLin (r : Nat) (x : LinX) (u : Nat) : (s.setLin r x).quad u = s.quad u := (rfl)
@[simp] theorem State.darn_setLin (r : Nat) (x : LinX) (u : Nat) : (s.setLin r x).darn u = s.darn u := (rfl)
@[simp] theorem State.fab_setLin (r : Nat) (x : LinX) (u : Nat) : (s.setLin r x).fab u = s.fab u := (rfl)
@[simp] theorem State.ser_setLin (r : Nat) (x : LinX) (u : Nat) : (s.setLin r x).ser u = s.ser u := (rfl)
@[simp] theorem State.slot_setLin (r : Nat) (x : LinX) (u : Nat) : (s.setLin r x).slot u = s.slot u := (rfl)
@[simp] theorem State.uclk_setLin (r : Nat) (x : LinX) (u : Nat) : (s.setLin r x).uclk u = s.uclk u := (rfl)
@[simp] theorem State.logic_setLin (r : Nat) (x : LinX) (u : Nat) : (s.setLin r x).logic u = s.logic u := (rfl)
@[simp] theorem State.beacon_setLin (r : Nat) (x : LinX) (u : Nat) : (s.setLin r x).beacon u = s.beacon u := (rfl)
@[simp] theorem State.mover_setLin (r : Nat) (x : LinX) (u : Nat) : (s.setLin r x).mover u = s.mover u := (rfl)
@[simp] theorem State.reg_setLin (r : Nat) (x : LinX) (pg' off' : Nat) : (s.setLin r x).reg pg' off' = s.reg pg' off' := (rfl)
@[simp] theorem State.rd_setLin (r : Nat) (x : LinX) (pg' : Nat) (g : Fld) : (s.setLin r x).rd pg' g = s.rd pg' g := (rfl)

@[simp] theorem State.now_setNoc (d : Nat) (x : NocX) : (s.setNoc d x).now = s.now := (rfl)
@[simp] theorem State.fresh_setNoc (d : Nat) (x : NocX) : (s.setNoc d x).fresh = s.fresh := (rfl)
@[simp] theorem State.resp_setNoc (d : Nat) (x : NocX) : (s.setNoc d x).resp = s.resp := (rfl)
@[simp] theorem State.regs_setNoc (d : Nat) (x : NocX) : (s.setNoc d x).regs = s.regs := (rfl)
@[simp] theorem State.shadow_setNoc (d : Nat) (x : NocX) : (s.setNoc d x).shadow = s.shadow := (rfl)
@[simp] theorem State.pages_setNoc (d : Nat) (x : NocX) : (s.setNoc d x).pages = s.pages := (rfl)
@[simp] theorem State.alarms_setNoc (d : Nat) (x : NocX) : (s.setNoc d x).alarms = s.alarms := (rfl)
@[simp] theorem State.stalls_setNoc (d : Nat) (x : NocX) : (s.setNoc d x).stalls = s.stalls := (rfl)
@[simp] theorem State.dies_setNoc (d : Nat) (x : NocX) : (s.setNoc d x).dies = s.dies := (rfl)
@[simp] theorem State.tu_setNoc (d : Nat) (x : NocX) : (s.setNoc d x).tu = s.tu := (rfl)
@[simp] theorem State.beacons_setNoc (d : Nat) (x : NocX) : (s.setNoc d x).beacons = s.beacons := (rfl)
@[simp] theorem State.uclks_setNoc (d : Nat) (x : NocX) : (s.setNoc d x).uclks = s.uclks := (rfl)
@[simp] theorem State.launch_setNoc (d : Nat) (x : NocX) : (s.setNoc d x).launch = s.launch := (rfl)
@[simp] theorem State.banks_setNoc (d : Nat) (x : NocX) : (s.setNoc d x).banks = s.banks := (rfl)
@[simp] theorem State.seqs_setNoc (d : Nat) (x : NocX) : (s.setNoc d x).seqs = s.seqs := (rfl)
@[simp] theorem State.weftTab_setNoc (d : Nat) (x : NocX) : (s.setNoc d x).weftTab = s.weftTab := (rfl)
@[simp] theorem State.cats_setNoc (d : Nat) (x : NocX) : (s.setNoc d x).cats = s.cats := (rfl)
@[simp] theorem State.spls_setNoc (d : Nat) (x : NocX) : (s.setNoc d x).spls = s.spls := (rfl)
@[simp] theorem State.drcs_setNoc (d : Nat) (x : NocX) : (s.setNoc d x).drcs = s.drcs := (rfl)
@[simp] theorem State.slots_setNoc (d : Nat) (x : NocX) : (s.setNoc d x).slots = s.slots := (rfl)
@[simp] theorem State.regions_setNoc (d : Nat) (x : NocX) : (s.setNoc d x).regions = s.regions := (rfl)
@[simp] theorem State.govBal_setNoc (d : Nat) (x : NocX) : (s.setNoc d x).govBal = s.govBal := (rfl)
@[simp] theorem State.pats_setNoc (d : Nat) (x : NocX) : (s.setNoc d x).pats = s.pats := (rfl)
@[simp] theorem State.ports_setNoc (d : Nat) (x : NocX) : (s.setNoc d x).ports = s.ports := (rfl)
@[simp] theorem State.rt_setNoc (d : Nat) (x : NocX) : (s.setNoc d x).rt = s.rt := (rfl)
@[simp] theorem State.rtHit_setNoc (d : Nat) (x : NocX) : (s.setNoc d x).rtHit = s.rtHit := (rfl)
@[simp] theorem State.egr_setNoc (d : Nat) (x : NocX) : (s.setNoc d x).egr = s.egr := (rfl)
@[simp] theorem State.egrGen_setNoc (d : Nat) (x : NocX) : (s.setNoc d x).egrGen = s.egrGen := (rfl)
@[simp] theorem State.answers_setNoc (d : Nat) (x : NocX) : (s.setNoc d x).answers = s.answers := (rfl)
@[simp] theorem State.sinks_setNoc (d : Nat) (x : NocX) : (s.setNoc d x).sinks = s.sinks := (rfl)
@[simp] theorem State.engs_setNoc (d : Nat) (x : NocX) : (s.setNoc d x).engs = s.engs := (rfl)
@[simp] theorem State.clus_setNoc (d : Nat) (x : NocX) : (s.setNoc d x).clus = s.clus := (rfl)
@[simp] theorem State.quads_setNoc (d : Nat) (x : NocX) : (s.setNoc d x).quads = s.quads := (rfl)
@[simp] theorem State.cfg_setNoc (d : Nat) (x : NocX) : (s.setNoc d x).cfg = s.cfg := (rfl)
@[simp] theorem State.darns_setNoc (d : Nat) (x : NocX) : (s.setNoc d x).darns = s.darns := (rfl)
@[simp] theorem State.logics_setNoc (d : Nat) (x : NocX) : (s.setNoc d x).logics = s.logics := (rfl)
@[simp] theorem State.fabs_setNoc (d : Nat) (x : NocX) : (s.setNoc d x).fabs = s.fabs := (rfl)
@[simp] theorem State.sers_setNoc (d : Nat) (x : NocX) : (s.setNoc d x).sers = s.sers := (rfl)
@[simp] theorem State.pow_setNoc (d : Nat) (x : NocX) : (s.setNoc d x).pow = s.pow := (rfl)
@[simp] theorem State.store_setNoc (d : Nat) (x : NocX) : (s.setNoc d x).store = s.store := (rfl)
@[simp] theorem State.hub_setNoc (d : Nat) (x : NocX) : (s.setNoc d x).hub = s.hub := (rfl)
@[simp] theorem State.movers_setNoc (d : Nat) (x : NocX) : (s.setNoc d x).movers = s.movers := (rfl)
@[simp] theorem State.sram_setNoc (d : Nat) (x : NocX) : (s.setNoc d x).sram = s.sram := (rfl)
@[simp] theorem State.dp_setNoc (d : Nat) (x : NocX) : (s.setNoc d x).dp = s.dp := (rfl)
@[simp] theorem State.dpAnswer_setNoc (d : Nat) (x : NocX) : (s.setNoc d x).dpAnswer = s.dpAnswer := (rfl)
@[simp] theorem State.pins_setNoc (d : Nat) (x : NocX) : (s.setNoc d x).pins = s.pins := (rfl)
@[simp] theorem State.pending_setNoc (d : Nat) (x : NocX) : (s.setNoc d x).pending = s.pending := (rfl)
@[simp] theorem State.die_setNoc (d : Nat) (x : NocX) (u : Nat) : (s.setNoc d x).die u = s.die u := (rfl)
@[simp] theorem State.page_setNoc (d : Nat) (x : NocX) (u : Nat) : (s.setNoc d x).page u = s.page u := (rfl)
@[simp] theorem State.lslot_setNoc (d : Nat) (x : NocX) (u : Nat) : (s.setNoc d x).lslot u = s.lslot u := (rfl)
@[simp] theorem State.bank_setNoc (d : Nat) (x : NocX) (u : Nat) : (s.setNoc d x).bank u = s.bank u := (rfl)
@[simp] theorem State.seq_setNoc (d : Nat) (x : NocX) (u : Nat) : (s.setNoc d x).seq u = s.seq u := (rfl)
@[simp] theorem State.cat_setNoc (d : Nat) (x : NocX) (u : Nat) : (s.setNoc d x).cat u = s.cat u := (rfl)
@[simp] theorem State.spl_setNoc (d : Nat) (x : NocX) (u : Nat) : (s.setNoc d x).spl u = s.spl u := (rfl)
@[simp] theorem State.drc_setNoc (d : Nat) (x : NocX) (u : Nat) : (s.setNoc d x).drc u = s.drc u := (rfl)
@[simp] theorem State.lin_setNoc (d : Nat) (x : NocX) (u : Nat) : (s.setNoc d x).lin u = s.lin u := (rfl)
@[simp] theorem State.pat_setNoc (d : Nat) (x : NocX) (u : Nat) : (s.setNoc d x).pat u = s.pat u := (rfl)
@[simp] theorem State.port_setNoc (d : Nat) (x : NocX) (u : Nat) : (s.setNoc d x).port u = s.port u := (rfl)
@[simp] theorem State.eng_setNoc (d : Nat) (x : NocX) (u : Nat) : (s.setNoc d x).eng u = s.eng u := (rfl)
@[simp] theorem State.clu_setNoc (d : Nat) (x : NocX) (u : Nat) : (s.setNoc d x).clu u = s.clu u := (rfl)
@[simp] theorem State.quad_setNoc (d : Nat) (x : NocX) (u : Nat) : (s.setNoc d x).quad u = s.quad u := (rfl)
@[simp] theorem State.darn_setNoc (d : Nat) (x : NocX) (u : Nat) : (s.setNoc d x).darn u = s.darn u := (rfl)
@[simp] theorem State.fab_setNoc (d : Nat) (x : NocX) (u : Nat) : (s.setNoc d x).fab u = s.fab u := (rfl)
@[simp] theorem State.ser_setNoc (d : Nat) (x : NocX) (u : Nat) : (s.setNoc d x).ser u = s.ser u := (rfl)
@[simp] theorem State.slot_setNoc (d : Nat) (x : NocX) (u : Nat) : (s.setNoc d x).slot u = s.slot u := (rfl)
@[simp] theorem State.uclk_setNoc (d : Nat) (x : NocX) (u : Nat) : (s.setNoc d x).uclk u = s.uclk u := (rfl)
@[simp] theorem State.logic_setNoc (d : Nat) (x : NocX) (u : Nat) : (s.setNoc d x).logic u = s.logic u := (rfl)
@[simp] theorem State.beacon_setNoc (d : Nat) (x : NocX) (u : Nat) : (s.setNoc d x).beacon u = s.beacon u := (rfl)
@[simp] theorem State.mover_setNoc (d : Nat) (x : NocX) (u : Nat) : (s.setNoc d x).mover u = s.mover u := (rfl)
@[simp] theorem State.reg_setNoc (d : Nat) (x : NocX) (pg' off' : Nat) : (s.setNoc d x).reg pg' off' = s.reg pg' off' := (rfl)
@[simp] theorem State.rd_setNoc (d : Nat) (x : NocX) (pg' : Nat) (g : Fld) : (s.setNoc d x).rd pg' g = s.rd pg' g := (rfl)

@[simp] theorem State.now_setBalance (init c : Nat) (v : Int) : (s.setBalance init c v).now = s.now := (rfl)
@[simp] theorem State.fresh_setBalance (init c : Nat) (v : Int) : (s.setBalance init c v).fresh = s.fresh := (rfl)
@[simp] theorem State.resp_setBalance (init c : Nat) (v : Int) : (s.setBalance init c v).resp = s.resp := (rfl)
@[simp] theorem State.regs_setBalance (init c : Nat) (v : Int) : (s.setBalance init c v).regs = s.regs := (rfl)
@[simp] theorem State.shadow_setBalance (init c : Nat) (v : Int) : (s.setBalance init c v).shadow = s.shadow := (rfl)
@[simp] theorem State.pages_setBalance (init c : Nat) (v : Int) : (s.setBalance init c v).pages = s.pages := (rfl)
@[simp] theorem State.alarms_setBalance (init c : Nat) (v : Int) : (s.setBalance init c v).alarms = s.alarms := (rfl)
@[simp] theorem State.stalls_setBalance (init c : Nat) (v : Int) : (s.setBalance init c v).stalls = s.stalls := (rfl)
@[simp] theorem State.dies_setBalance (init c : Nat) (v : Int) : (s.setBalance init c v).dies = s.dies := (rfl)
@[simp] theorem State.tu_setBalance (init c : Nat) (v : Int) : (s.setBalance init c v).tu = s.tu := (rfl)
@[simp] theorem State.beacons_setBalance (init c : Nat) (v : Int) : (s.setBalance init c v).beacons = s.beacons := (rfl)
@[simp] theorem State.uclks_setBalance (init c : Nat) (v : Int) : (s.setBalance init c v).uclks = s.uclks := (rfl)
@[simp] theorem State.launch_setBalance (init c : Nat) (v : Int) : (s.setBalance init c v).launch = s.launch := (rfl)
@[simp] theorem State.banks_setBalance (init c : Nat) (v : Int) : (s.setBalance init c v).banks = s.banks := (rfl)
@[simp] theorem State.seqs_setBalance (init c : Nat) (v : Int) : (s.setBalance init c v).seqs = s.seqs := (rfl)
@[simp] theorem State.weftTab_setBalance (init c : Nat) (v : Int) : (s.setBalance init c v).weftTab = s.weftTab := (rfl)
@[simp] theorem State.cats_setBalance (init c : Nat) (v : Int) : (s.setBalance init c v).cats = s.cats := (rfl)
@[simp] theorem State.spls_setBalance (init c : Nat) (v : Int) : (s.setBalance init c v).spls = s.spls := (rfl)
@[simp] theorem State.drcs_setBalance (init c : Nat) (v : Int) : (s.setBalance init c v).drcs = s.drcs := (rfl)
@[simp] theorem State.slots_setBalance (init c : Nat) (v : Int) : (s.setBalance init c v).slots = s.slots := (rfl)
@[simp] theorem State.regions_setBalance (init c : Nat) (v : Int) : (s.setBalance init c v).regions = s.regions := (rfl)
@[simp] theorem State.nocs_setBalance (init c : Nat) (v : Int) : (s.setBalance init c v).nocs = s.nocs := (rfl)
@[simp] theorem State.pats_setBalance (init c : Nat) (v : Int) : (s.setBalance init c v).pats = s.pats := (rfl)
@[simp] theorem State.ports_setBalance (init c : Nat) (v : Int) : (s.setBalance init c v).ports = s.ports := (rfl)
@[simp] theorem State.rt_setBalance (init c : Nat) (v : Int) : (s.setBalance init c v).rt = s.rt := (rfl)
@[simp] theorem State.rtHit_setBalance (init c : Nat) (v : Int) : (s.setBalance init c v).rtHit = s.rtHit := (rfl)
@[simp] theorem State.egr_setBalance (init c : Nat) (v : Int) : (s.setBalance init c v).egr = s.egr := (rfl)
@[simp] theorem State.egrGen_setBalance (init c : Nat) (v : Int) : (s.setBalance init c v).egrGen = s.egrGen := (rfl)
@[simp] theorem State.answers_setBalance (init c : Nat) (v : Int) : (s.setBalance init c v).answers = s.answers := (rfl)
@[simp] theorem State.sinks_setBalance (init c : Nat) (v : Int) : (s.setBalance init c v).sinks = s.sinks := (rfl)
@[simp] theorem State.engs_setBalance (init c : Nat) (v : Int) : (s.setBalance init c v).engs = s.engs := (rfl)
@[simp] theorem State.clus_setBalance (init c : Nat) (v : Int) : (s.setBalance init c v).clus = s.clus := (rfl)
@[simp] theorem State.quads_setBalance (init c : Nat) (v : Int) : (s.setBalance init c v).quads = s.quads := (rfl)
@[simp] theorem State.cfg_setBalance (init c : Nat) (v : Int) : (s.setBalance init c v).cfg = s.cfg := (rfl)
@[simp] theorem State.darns_setBalance (init c : Nat) (v : Int) : (s.setBalance init c v).darns = s.darns := (rfl)
@[simp] theorem State.logics_setBalance (init c : Nat) (v : Int) : (s.setBalance init c v).logics = s.logics := (rfl)
@[simp] theorem State.fabs_setBalance (init c : Nat) (v : Int) : (s.setBalance init c v).fabs = s.fabs := (rfl)
@[simp] theorem State.sers_setBalance (init c : Nat) (v : Int) : (s.setBalance init c v).sers = s.sers := (rfl)
@[simp] theorem State.pow_setBalance (init c : Nat) (v : Int) : (s.setBalance init c v).pow = s.pow := (rfl)
@[simp] theorem State.store_setBalance (init c : Nat) (v : Int) : (s.setBalance init c v).store = s.store := (rfl)
@[simp] theorem State.hub_setBalance (init c : Nat) (v : Int) : (s.setBalance init c v).hub = s.hub := (rfl)
@[simp] theorem State.movers_setBalance (init c : Nat) (v : Int) : (s.setBalance init c v).movers = s.movers := (rfl)
@[simp] theorem State.sram_setBalance (init c : Nat) (v : Int) : (s.setBalance init c v).sram = s.sram := (rfl)
@[simp] theorem State.dp_setBalance (init c : Nat) (v : Int) : (s.setBalance init c v).dp = s.dp := (rfl)
@[simp] theorem State.dpAnswer_setBalance (init c : Nat) (v : Int) : (s.setBalance init c v).dpAnswer = s.dpAnswer := (rfl)
@[simp] theorem State.pins_setBalance (init c : Nat) (v : Int) : (s.setBalance init c v).pins = s.pins := (rfl)
@[simp] theorem State.pending_setBalance (init c : Nat) (v : Int) : (s.setBalance init c v).pending = s.pending := (rfl)
@[simp] theorem State.die_setBalance (init c : Nat) (v : Int) (u : Nat) : (s.setBalance init c v).die u = s.die u := (rfl)
@[simp] theorem State.page_setBalance (init c : Nat) (v : Int) (u : Nat) : (s.setBalance init c v).page u = s.page u := (rfl)
@[simp] theorem State.lslot_setBalance (init c : Nat) (v : Int) (u : Nat) : (s.setBalance init c v).lslot u = s.lslot u := (rfl)
@[simp] theorem State.bank_setBalance (init c : Nat) (v : Int) (u : Nat) : (s.setBalance init c v).bank u = s.bank u := (rfl)
@[simp] theorem State.seq_setBalance (init c : Nat) (v : Int) (u : Nat) : (s.setBalance init c v).seq u = s.seq u := (rfl)
@[simp] theorem State.cat_setBalance (init c : Nat) (v : Int) (u : Nat) : (s.setBalance init c v).cat u = s.cat u := (rfl)
@[simp] theorem State.spl_setBalance (init c : Nat) (v : Int) (u : Nat) : (s.setBalance init c v).spl u = s.spl u := (rfl)
@[simp] theorem State.drc_setBalance (init c : Nat) (v : Int) (u : Nat) : (s.setBalance init c v).drc u = s.drc u := (rfl)
@[simp] theorem State.lin_setBalance (init c : Nat) (v : Int) (u : Nat) : (s.setBalance init c v).lin u = s.lin u := (rfl)
@[simp] theorem State.noc_setBalance (init c : Nat) (v : Int) (u : Nat) : (s.setBalance init c v).noc u = s.noc u := (rfl)
@[simp] theorem State.pat_setBalance (init c : Nat) (v : Int) (u : Nat) : (s.setBalance init c v).pat u = s.pat u := (rfl)
@[simp] theorem State.port_setBalance (init c : Nat) (v : Int) (u : Nat) : (s.setBalance init c v).port u = s.port u := (rfl)
@[simp] theorem State.eng_setBalance (init c : Nat) (v : Int) (u : Nat) : (s.setBalance init c v).eng u = s.eng u := (rfl)
@[simp] theorem State.clu_setBalance (init c : Nat) (v : Int) (u : Nat) : (s.setBalance init c v).clu u = s.clu u := (rfl)
@[simp] theorem State.quad_setBalance (init c : Nat) (v : Int) (u : Nat) : (s.setBalance init c v).quad u = s.quad u := (rfl)
@[simp] theorem State.darn_setBalance (init c : Nat) (v : Int) (u : Nat) : (s.setBalance init c v).darn u = s.darn u := (rfl)
@[simp] theorem State.fab_setBalance (init c : Nat) (v : Int) (u : Nat) : (s.setBalance init c v).fab u = s.fab u := (rfl)
@[simp] theorem State.ser_setBalance (init c : Nat) (v : Int) (u : Nat) : (s.setBalance init c v).ser u = s.ser u := (rfl)
@[simp] theorem State.slot_setBalance (init c : Nat) (v : Int) (u : Nat) : (s.setBalance init c v).slot u = s.slot u := (rfl)
@[simp] theorem State.uclk_setBalance (init c : Nat) (v : Int) (u : Nat) : (s.setBalance init c v).uclk u = s.uclk u := (rfl)
@[simp] theorem State.logic_setBalance (init c : Nat) (v : Int) (u : Nat) : (s.setBalance init c v).logic u = s.logic u := (rfl)
@[simp] theorem State.beacon_setBalance (init c : Nat) (v : Int) (u : Nat) : (s.setBalance init c v).beacon u = s.beacon u := (rfl)
@[simp] theorem State.mover_setBalance (init c : Nat) (v : Int) (u : Nat) : (s.setBalance init c v).mover u = s.mover u := (rfl)
@[simp] theorem State.reg_setBalance (init c : Nat) (v : Int) (pg' off' : Nat) : (s.setBalance init c v).reg pg' off' = s.reg pg' off' := (rfl)
@[simp] theorem State.rd_setBalance (init c : Nat) (v : Int) (pg' : Nat) (g : Fld) : (s.setBalance init c v).rd pg' g = s.rd pg' g := (rfl)

@[simp] theorem State.now_setPat (site : Nat) (x : PatX) : (s.setPat site x).now = s.now := (rfl)
@[simp] theorem State.fresh_setPat (site : Nat) (x : PatX) : (s.setPat site x).fresh = s.fresh := (rfl)
@[simp] theorem State.resp_setPat (site : Nat) (x : PatX) : (s.setPat site x).resp = s.resp := (rfl)
@[simp] theorem State.regs_setPat (site : Nat) (x : PatX) : (s.setPat site x).regs = s.regs := (rfl)
@[simp] theorem State.shadow_setPat (site : Nat) (x : PatX) : (s.setPat site x).shadow = s.shadow := (rfl)
@[simp] theorem State.pages_setPat (site : Nat) (x : PatX) : (s.setPat site x).pages = s.pages := (rfl)
@[simp] theorem State.alarms_setPat (site : Nat) (x : PatX) : (s.setPat site x).alarms = s.alarms := (rfl)
@[simp] theorem State.stalls_setPat (site : Nat) (x : PatX) : (s.setPat site x).stalls = s.stalls := (rfl)
@[simp] theorem State.dies_setPat (site : Nat) (x : PatX) : (s.setPat site x).dies = s.dies := (rfl)
@[simp] theorem State.tu_setPat (site : Nat) (x : PatX) : (s.setPat site x).tu = s.tu := (rfl)
@[simp] theorem State.beacons_setPat (site : Nat) (x : PatX) : (s.setPat site x).beacons = s.beacons := (rfl)
@[simp] theorem State.uclks_setPat (site : Nat) (x : PatX) : (s.setPat site x).uclks = s.uclks := (rfl)
@[simp] theorem State.launch_setPat (site : Nat) (x : PatX) : (s.setPat site x).launch = s.launch := (rfl)
@[simp] theorem State.banks_setPat (site : Nat) (x : PatX) : (s.setPat site x).banks = s.banks := (rfl)
@[simp] theorem State.seqs_setPat (site : Nat) (x : PatX) : (s.setPat site x).seqs = s.seqs := (rfl)
@[simp] theorem State.weftTab_setPat (site : Nat) (x : PatX) : (s.setPat site x).weftTab = s.weftTab := (rfl)
@[simp] theorem State.cats_setPat (site : Nat) (x : PatX) : (s.setPat site x).cats = s.cats := (rfl)
@[simp] theorem State.spls_setPat (site : Nat) (x : PatX) : (s.setPat site x).spls = s.spls := (rfl)
@[simp] theorem State.drcs_setPat (site : Nat) (x : PatX) : (s.setPat site x).drcs = s.drcs := (rfl)
@[simp] theorem State.slots_setPat (site : Nat) (x : PatX) : (s.setPat site x).slots = s.slots := (rfl)
@[simp] theorem State.regions_setPat (site : Nat) (x : PatX) : (s.setPat site x).regions = s.regions := (rfl)
@[simp] theorem State.nocs_setPat (site : Nat) (x : PatX) : (s.setPat site x).nocs = s.nocs := (rfl)
@[simp] theorem State.govBal_setPat (site : Nat) (x : PatX) : (s.setPat site x).govBal = s.govBal := (rfl)
@[simp] theorem State.ports_setPat (site : Nat) (x : PatX) : (s.setPat site x).ports = s.ports := (rfl)
@[simp] theorem State.rt_setPat (site : Nat) (x : PatX) : (s.setPat site x).rt = s.rt := (rfl)
@[simp] theorem State.rtHit_setPat (site : Nat) (x : PatX) : (s.setPat site x).rtHit = s.rtHit := (rfl)
@[simp] theorem State.egr_setPat (site : Nat) (x : PatX) : (s.setPat site x).egr = s.egr := (rfl)
@[simp] theorem State.egrGen_setPat (site : Nat) (x : PatX) : (s.setPat site x).egrGen = s.egrGen := (rfl)
@[simp] theorem State.answers_setPat (site : Nat) (x : PatX) : (s.setPat site x).answers = s.answers := (rfl)
@[simp] theorem State.sinks_setPat (site : Nat) (x : PatX) : (s.setPat site x).sinks = s.sinks := (rfl)
@[simp] theorem State.engs_setPat (site : Nat) (x : PatX) : (s.setPat site x).engs = s.engs := (rfl)
@[simp] theorem State.clus_setPat (site : Nat) (x : PatX) : (s.setPat site x).clus = s.clus := (rfl)
@[simp] theorem State.quads_setPat (site : Nat) (x : PatX) : (s.setPat site x).quads = s.quads := (rfl)
@[simp] theorem State.cfg_setPat (site : Nat) (x : PatX) : (s.setPat site x).cfg = s.cfg := (rfl)
@[simp] theorem State.darns_setPat (site : Nat) (x : PatX) : (s.setPat site x).darns = s.darns := (rfl)
@[simp] theorem State.logics_setPat (site : Nat) (x : PatX) : (s.setPat site x).logics = s.logics := (rfl)
@[simp] theorem State.fabs_setPat (site : Nat) (x : PatX) : (s.setPat site x).fabs = s.fabs := (rfl)
@[simp] theorem State.sers_setPat (site : Nat) (x : PatX) : (s.setPat site x).sers = s.sers := (rfl)
@[simp] theorem State.pow_setPat (site : Nat) (x : PatX) : (s.setPat site x).pow = s.pow := (rfl)
@[simp] theorem State.store_setPat (site : Nat) (x : PatX) : (s.setPat site x).store = s.store := (rfl)
@[simp] theorem State.hub_setPat (site : Nat) (x : PatX) : (s.setPat site x).hub = s.hub := (rfl)
@[simp] theorem State.movers_setPat (site : Nat) (x : PatX) : (s.setPat site x).movers = s.movers := (rfl)
@[simp] theorem State.sram_setPat (site : Nat) (x : PatX) : (s.setPat site x).sram = s.sram := (rfl)
@[simp] theorem State.dp_setPat (site : Nat) (x : PatX) : (s.setPat site x).dp = s.dp := (rfl)
@[simp] theorem State.dpAnswer_setPat (site : Nat) (x : PatX) : (s.setPat site x).dpAnswer = s.dpAnswer := (rfl)
@[simp] theorem State.pins_setPat (site : Nat) (x : PatX) : (s.setPat site x).pins = s.pins := (rfl)
@[simp] theorem State.pending_setPat (site : Nat) (x : PatX) : (s.setPat site x).pending = s.pending := (rfl)
@[simp] theorem State.die_setPat (site : Nat) (x : PatX) (u : Nat) : (s.setPat site x).die u = s.die u := (rfl)
@[simp] theorem State.page_setPat (site : Nat) (x : PatX) (u : Nat) : (s.setPat site x).page u = s.page u := (rfl)
@[simp] theorem State.lslot_setPat (site : Nat) (x : PatX) (u : Nat) : (s.setPat site x).lslot u = s.lslot u := (rfl)
@[simp] theorem State.bank_setPat (site : Nat) (x : PatX) (u : Nat) : (s.setPat site x).bank u = s.bank u := (rfl)
@[simp] theorem State.seq_setPat (site : Nat) (x : PatX) (u : Nat) : (s.setPat site x).seq u = s.seq u := (rfl)
@[simp] theorem State.cat_setPat (site : Nat) (x : PatX) (u : Nat) : (s.setPat site x).cat u = s.cat u := (rfl)
@[simp] theorem State.spl_setPat (site : Nat) (x : PatX) (u : Nat) : (s.setPat site x).spl u = s.spl u := (rfl)
@[simp] theorem State.drc_setPat (site : Nat) (x : PatX) (u : Nat) : (s.setPat site x).drc u = s.drc u := (rfl)
@[simp] theorem State.lin_setPat (site : Nat) (x : PatX) (u : Nat) : (s.setPat site x).lin u = s.lin u := (rfl)
@[simp] theorem State.noc_setPat (site : Nat) (x : PatX) (u : Nat) : (s.setPat site x).noc u = s.noc u := (rfl)
@[simp] theorem State.port_setPat (site : Nat) (x : PatX) (u : Nat) : (s.setPat site x).port u = s.port u := (rfl)
@[simp] theorem State.eng_setPat (site : Nat) (x : PatX) (u : Nat) : (s.setPat site x).eng u = s.eng u := (rfl)
@[simp] theorem State.clu_setPat (site : Nat) (x : PatX) (u : Nat) : (s.setPat site x).clu u = s.clu u := (rfl)
@[simp] theorem State.quad_setPat (site : Nat) (x : PatX) (u : Nat) : (s.setPat site x).quad u = s.quad u := (rfl)
@[simp] theorem State.darn_setPat (site : Nat) (x : PatX) (u : Nat) : (s.setPat site x).darn u = s.darn u := (rfl)
@[simp] theorem State.fab_setPat (site : Nat) (x : PatX) (u : Nat) : (s.setPat site x).fab u = s.fab u := (rfl)
@[simp] theorem State.ser_setPat (site : Nat) (x : PatX) (u : Nat) : (s.setPat site x).ser u = s.ser u := (rfl)
@[simp] theorem State.slot_setPat (site : Nat) (x : PatX) (u : Nat) : (s.setPat site x).slot u = s.slot u := (rfl)
@[simp] theorem State.uclk_setPat (site : Nat) (x : PatX) (u : Nat) : (s.setPat site x).uclk u = s.uclk u := (rfl)
@[simp] theorem State.logic_setPat (site : Nat) (x : PatX) (u : Nat) : (s.setPat site x).logic u = s.logic u := (rfl)
@[simp] theorem State.beacon_setPat (site : Nat) (x : PatX) (u : Nat) : (s.setPat site x).beacon u = s.beacon u := (rfl)
@[simp] theorem State.mover_setPat (site : Nat) (x : PatX) (u : Nat) : (s.setPat site x).mover u = s.mover u := (rfl)
@[simp] theorem State.reg_setPat (site : Nat) (x : PatX) (pg' off' : Nat) : (s.setPat site x).reg pg' off' = s.reg pg' off' := (rfl)
@[simp] theorem State.rd_setPat (site : Nat) (x : PatX) (pg' : Nat) (g : Fld) : (s.setPat site x).rd pg' g = s.rd pg' g := (rfl)

@[simp] theorem State.now_setPort (p : Nat) (x : PortX) : (s.setPort p x).now = s.now := (rfl)
@[simp] theorem State.fresh_setPort (p : Nat) (x : PortX) : (s.setPort p x).fresh = s.fresh := (rfl)
@[simp] theorem State.resp_setPort (p : Nat) (x : PortX) : (s.setPort p x).resp = s.resp := (rfl)
@[simp] theorem State.regs_setPort (p : Nat) (x : PortX) : (s.setPort p x).regs = s.regs := (rfl)
@[simp] theorem State.shadow_setPort (p : Nat) (x : PortX) : (s.setPort p x).shadow = s.shadow := (rfl)
@[simp] theorem State.pages_setPort (p : Nat) (x : PortX) : (s.setPort p x).pages = s.pages := (rfl)
@[simp] theorem State.alarms_setPort (p : Nat) (x : PortX) : (s.setPort p x).alarms = s.alarms := (rfl)
@[simp] theorem State.stalls_setPort (p : Nat) (x : PortX) : (s.setPort p x).stalls = s.stalls := (rfl)
@[simp] theorem State.dies_setPort (p : Nat) (x : PortX) : (s.setPort p x).dies = s.dies := (rfl)
@[simp] theorem State.tu_setPort (p : Nat) (x : PortX) : (s.setPort p x).tu = s.tu := (rfl)
@[simp] theorem State.beacons_setPort (p : Nat) (x : PortX) : (s.setPort p x).beacons = s.beacons := (rfl)
@[simp] theorem State.uclks_setPort (p : Nat) (x : PortX) : (s.setPort p x).uclks = s.uclks := (rfl)
@[simp] theorem State.launch_setPort (p : Nat) (x : PortX) : (s.setPort p x).launch = s.launch := (rfl)
@[simp] theorem State.banks_setPort (p : Nat) (x : PortX) : (s.setPort p x).banks = s.banks := (rfl)
@[simp] theorem State.seqs_setPort (p : Nat) (x : PortX) : (s.setPort p x).seqs = s.seqs := (rfl)
@[simp] theorem State.weftTab_setPort (p : Nat) (x : PortX) : (s.setPort p x).weftTab = s.weftTab := (rfl)
@[simp] theorem State.cats_setPort (p : Nat) (x : PortX) : (s.setPort p x).cats = s.cats := (rfl)
@[simp] theorem State.spls_setPort (p : Nat) (x : PortX) : (s.setPort p x).spls = s.spls := (rfl)
@[simp] theorem State.drcs_setPort (p : Nat) (x : PortX) : (s.setPort p x).drcs = s.drcs := (rfl)
@[simp] theorem State.slots_setPort (p : Nat) (x : PortX) : (s.setPort p x).slots = s.slots := (rfl)
@[simp] theorem State.regions_setPort (p : Nat) (x : PortX) : (s.setPort p x).regions = s.regions := (rfl)
@[simp] theorem State.nocs_setPort (p : Nat) (x : PortX) : (s.setPort p x).nocs = s.nocs := (rfl)
@[simp] theorem State.govBal_setPort (p : Nat) (x : PortX) : (s.setPort p x).govBal = s.govBal := (rfl)
@[simp] theorem State.pats_setPort (p : Nat) (x : PortX) : (s.setPort p x).pats = s.pats := (rfl)
@[simp] theorem State.rt_setPort (p : Nat) (x : PortX) : (s.setPort p x).rt = s.rt := (rfl)
@[simp] theorem State.rtHit_setPort (p : Nat) (x : PortX) : (s.setPort p x).rtHit = s.rtHit := (rfl)
@[simp] theorem State.egr_setPort (p : Nat) (x : PortX) : (s.setPort p x).egr = s.egr := (rfl)
@[simp] theorem State.egrGen_setPort (p : Nat) (x : PortX) : (s.setPort p x).egrGen = s.egrGen := (rfl)
@[simp] theorem State.answers_setPort (p : Nat) (x : PortX) : (s.setPort p x).answers = s.answers := (rfl)
@[simp] theorem State.sinks_setPort (p : Nat) (x : PortX) : (s.setPort p x).sinks = s.sinks := (rfl)
@[simp] theorem State.engs_setPort (p : Nat) (x : PortX) : (s.setPort p x).engs = s.engs := (rfl)
@[simp] theorem State.clus_setPort (p : Nat) (x : PortX) : (s.setPort p x).clus = s.clus := (rfl)
@[simp] theorem State.quads_setPort (p : Nat) (x : PortX) : (s.setPort p x).quads = s.quads := (rfl)
@[simp] theorem State.cfg_setPort (p : Nat) (x : PortX) : (s.setPort p x).cfg = s.cfg := (rfl)
@[simp] theorem State.darns_setPort (p : Nat) (x : PortX) : (s.setPort p x).darns = s.darns := (rfl)
@[simp] theorem State.logics_setPort (p : Nat) (x : PortX) : (s.setPort p x).logics = s.logics := (rfl)
@[simp] theorem State.fabs_setPort (p : Nat) (x : PortX) : (s.setPort p x).fabs = s.fabs := (rfl)
@[simp] theorem State.sers_setPort (p : Nat) (x : PortX) : (s.setPort p x).sers = s.sers := (rfl)
@[simp] theorem State.pow_setPort (p : Nat) (x : PortX) : (s.setPort p x).pow = s.pow := (rfl)
@[simp] theorem State.store_setPort (p : Nat) (x : PortX) : (s.setPort p x).store = s.store := (rfl)
@[simp] theorem State.hub_setPort (p : Nat) (x : PortX) : (s.setPort p x).hub = s.hub := (rfl)
@[simp] theorem State.movers_setPort (p : Nat) (x : PortX) : (s.setPort p x).movers = s.movers := (rfl)
@[simp] theorem State.sram_setPort (p : Nat) (x : PortX) : (s.setPort p x).sram = s.sram := (rfl)
@[simp] theorem State.dp_setPort (p : Nat) (x : PortX) : (s.setPort p x).dp = s.dp := (rfl)
@[simp] theorem State.dpAnswer_setPort (p : Nat) (x : PortX) : (s.setPort p x).dpAnswer = s.dpAnswer := (rfl)
@[simp] theorem State.pins_setPort (p : Nat) (x : PortX) : (s.setPort p x).pins = s.pins := (rfl)
@[simp] theorem State.pending_setPort (p : Nat) (x : PortX) : (s.setPort p x).pending = s.pending := (rfl)
@[simp] theorem State.die_setPort (p : Nat) (x : PortX) (u : Nat) : (s.setPort p x).die u = s.die u := (rfl)
@[simp] theorem State.page_setPort (p : Nat) (x : PortX) (u : Nat) : (s.setPort p x).page u = s.page u := (rfl)
@[simp] theorem State.lslot_setPort (p : Nat) (x : PortX) (u : Nat) : (s.setPort p x).lslot u = s.lslot u := (rfl)
@[simp] theorem State.bank_setPort (p : Nat) (x : PortX) (u : Nat) : (s.setPort p x).bank u = s.bank u := (rfl)
@[simp] theorem State.seq_setPort (p : Nat) (x : PortX) (u : Nat) : (s.setPort p x).seq u = s.seq u := (rfl)
@[simp] theorem State.cat_setPort (p : Nat) (x : PortX) (u : Nat) : (s.setPort p x).cat u = s.cat u := (rfl)
@[simp] theorem State.spl_setPort (p : Nat) (x : PortX) (u : Nat) : (s.setPort p x).spl u = s.spl u := (rfl)
@[simp] theorem State.drc_setPort (p : Nat) (x : PortX) (u : Nat) : (s.setPort p x).drc u = s.drc u := (rfl)
@[simp] theorem State.lin_setPort (p : Nat) (x : PortX) (u : Nat) : (s.setPort p x).lin u = s.lin u := (rfl)
@[simp] theorem State.noc_setPort (p : Nat) (x : PortX) (u : Nat) : (s.setPort p x).noc u = s.noc u := (rfl)
@[simp] theorem State.pat_setPort (p : Nat) (x : PortX) (u : Nat) : (s.setPort p x).pat u = s.pat u := (rfl)
@[simp] theorem State.eng_setPort (p : Nat) (x : PortX) (u : Nat) : (s.setPort p x).eng u = s.eng u := (rfl)
@[simp] theorem State.clu_setPort (p : Nat) (x : PortX) (u : Nat) : (s.setPort p x).clu u = s.clu u := (rfl)
@[simp] theorem State.quad_setPort (p : Nat) (x : PortX) (u : Nat) : (s.setPort p x).quad u = s.quad u := (rfl)
@[simp] theorem State.darn_setPort (p : Nat) (x : PortX) (u : Nat) : (s.setPort p x).darn u = s.darn u := (rfl)
@[simp] theorem State.fab_setPort (p : Nat) (x : PortX) (u : Nat) : (s.setPort p x).fab u = s.fab u := (rfl)
@[simp] theorem State.ser_setPort (p : Nat) (x : PortX) (u : Nat) : (s.setPort p x).ser u = s.ser u := (rfl)
@[simp] theorem State.slot_setPort (p : Nat) (x : PortX) (u : Nat) : (s.setPort p x).slot u = s.slot u := (rfl)
@[simp] theorem State.uclk_setPort (p : Nat) (x : PortX) (u : Nat) : (s.setPort p x).uclk u = s.uclk u := (rfl)
@[simp] theorem State.logic_setPort (p : Nat) (x : PortX) (u : Nat) : (s.setPort p x).logic u = s.logic u := (rfl)
@[simp] theorem State.beacon_setPort (p : Nat) (x : PortX) (u : Nat) : (s.setPort p x).beacon u = s.beacon u := (rfl)
@[simp] theorem State.mover_setPort (p : Nat) (x : PortX) (u : Nat) : (s.setPort p x).mover u = s.mover u := (rfl)
@[simp] theorem State.reg_setPort (p : Nat) (x : PortX) (pg' off' : Nat) : (s.setPort p x).reg pg' off' = s.reg pg' off' := (rfl)
@[simp] theorem State.rd_setPort (p : Nat) (x : PortX) (pg' : Nat) (g : Fld) : (s.setPort p x).rd pg' g = s.rd pg' g := (rfl)

@[simp] theorem State.now_setEng (e : Nat) (x : EngX) : (s.setEng e x).now = s.now := (rfl)
@[simp] theorem State.fresh_setEng (e : Nat) (x : EngX) : (s.setEng e x).fresh = s.fresh := (rfl)
@[simp] theorem State.resp_setEng (e : Nat) (x : EngX) : (s.setEng e x).resp = s.resp := (rfl)
@[simp] theorem State.regs_setEng (e : Nat) (x : EngX) : (s.setEng e x).regs = s.regs := (rfl)
@[simp] theorem State.shadow_setEng (e : Nat) (x : EngX) : (s.setEng e x).shadow = s.shadow := (rfl)
@[simp] theorem State.pages_setEng (e : Nat) (x : EngX) : (s.setEng e x).pages = s.pages := (rfl)
@[simp] theorem State.alarms_setEng (e : Nat) (x : EngX) : (s.setEng e x).alarms = s.alarms := (rfl)
@[simp] theorem State.stalls_setEng (e : Nat) (x : EngX) : (s.setEng e x).stalls = s.stalls := (rfl)
@[simp] theorem State.dies_setEng (e : Nat) (x : EngX) : (s.setEng e x).dies = s.dies := (rfl)
@[simp] theorem State.tu_setEng (e : Nat) (x : EngX) : (s.setEng e x).tu = s.tu := (rfl)
@[simp] theorem State.beacons_setEng (e : Nat) (x : EngX) : (s.setEng e x).beacons = s.beacons := (rfl)
@[simp] theorem State.uclks_setEng (e : Nat) (x : EngX) : (s.setEng e x).uclks = s.uclks := (rfl)
@[simp] theorem State.launch_setEng (e : Nat) (x : EngX) : (s.setEng e x).launch = s.launch := (rfl)
@[simp] theorem State.banks_setEng (e : Nat) (x : EngX) : (s.setEng e x).banks = s.banks := (rfl)
@[simp] theorem State.seqs_setEng (e : Nat) (x : EngX) : (s.setEng e x).seqs = s.seqs := (rfl)
@[simp] theorem State.weftTab_setEng (e : Nat) (x : EngX) : (s.setEng e x).weftTab = s.weftTab := (rfl)
@[simp] theorem State.cats_setEng (e : Nat) (x : EngX) : (s.setEng e x).cats = s.cats := (rfl)
@[simp] theorem State.spls_setEng (e : Nat) (x : EngX) : (s.setEng e x).spls = s.spls := (rfl)
@[simp] theorem State.drcs_setEng (e : Nat) (x : EngX) : (s.setEng e x).drcs = s.drcs := (rfl)
@[simp] theorem State.slots_setEng (e : Nat) (x : EngX) : (s.setEng e x).slots = s.slots := (rfl)
@[simp] theorem State.regions_setEng (e : Nat) (x : EngX) : (s.setEng e x).regions = s.regions := (rfl)
@[simp] theorem State.nocs_setEng (e : Nat) (x : EngX) : (s.setEng e x).nocs = s.nocs := (rfl)
@[simp] theorem State.govBal_setEng (e : Nat) (x : EngX) : (s.setEng e x).govBal = s.govBal := (rfl)
@[simp] theorem State.pats_setEng (e : Nat) (x : EngX) : (s.setEng e x).pats = s.pats := (rfl)
@[simp] theorem State.ports_setEng (e : Nat) (x : EngX) : (s.setEng e x).ports = s.ports := (rfl)
@[simp] theorem State.rt_setEng (e : Nat) (x : EngX) : (s.setEng e x).rt = s.rt := (rfl)
@[simp] theorem State.rtHit_setEng (e : Nat) (x : EngX) : (s.setEng e x).rtHit = s.rtHit := (rfl)
@[simp] theorem State.egr_setEng (e : Nat) (x : EngX) : (s.setEng e x).egr = s.egr := (rfl)
@[simp] theorem State.egrGen_setEng (e : Nat) (x : EngX) : (s.setEng e x).egrGen = s.egrGen := (rfl)
@[simp] theorem State.answers_setEng (e : Nat) (x : EngX) : (s.setEng e x).answers = s.answers := (rfl)
@[simp] theorem State.sinks_setEng (e : Nat) (x : EngX) : (s.setEng e x).sinks = s.sinks := (rfl)
@[simp] theorem State.clus_setEng (e : Nat) (x : EngX) : (s.setEng e x).clus = s.clus := (rfl)
@[simp] theorem State.quads_setEng (e : Nat) (x : EngX) : (s.setEng e x).quads = s.quads := (rfl)
@[simp] theorem State.cfg_setEng (e : Nat) (x : EngX) : (s.setEng e x).cfg = s.cfg := (rfl)
@[simp] theorem State.darns_setEng (e : Nat) (x : EngX) : (s.setEng e x).darns = s.darns := (rfl)
@[simp] theorem State.logics_setEng (e : Nat) (x : EngX) : (s.setEng e x).logics = s.logics := (rfl)
@[simp] theorem State.fabs_setEng (e : Nat) (x : EngX) : (s.setEng e x).fabs = s.fabs := (rfl)
@[simp] theorem State.sers_setEng (e : Nat) (x : EngX) : (s.setEng e x).sers = s.sers := (rfl)
@[simp] theorem State.pow_setEng (e : Nat) (x : EngX) : (s.setEng e x).pow = s.pow := (rfl)
@[simp] theorem State.store_setEng (e : Nat) (x : EngX) : (s.setEng e x).store = s.store := (rfl)
@[simp] theorem State.hub_setEng (e : Nat) (x : EngX) : (s.setEng e x).hub = s.hub := (rfl)
@[simp] theorem State.movers_setEng (e : Nat) (x : EngX) : (s.setEng e x).movers = s.movers := (rfl)
@[simp] theorem State.sram_setEng (e : Nat) (x : EngX) : (s.setEng e x).sram = s.sram := (rfl)
@[simp] theorem State.dp_setEng (e : Nat) (x : EngX) : (s.setEng e x).dp = s.dp := (rfl)
@[simp] theorem State.dpAnswer_setEng (e : Nat) (x : EngX) : (s.setEng e x).dpAnswer = s.dpAnswer := (rfl)
@[simp] theorem State.pins_setEng (e : Nat) (x : EngX) : (s.setEng e x).pins = s.pins := (rfl)
@[simp] theorem State.pending_setEng (e : Nat) (x : EngX) : (s.setEng e x).pending = s.pending := (rfl)
@[simp] theorem State.die_setEng (e : Nat) (x : EngX) (u : Nat) : (s.setEng e x).die u = s.die u := (rfl)
@[simp] theorem State.page_setEng (e : Nat) (x : EngX) (u : Nat) : (s.setEng e x).page u = s.page u := (rfl)
@[simp] theorem State.lslot_setEng (e : Nat) (x : EngX) (u : Nat) : (s.setEng e x).lslot u = s.lslot u := (rfl)
@[simp] theorem State.bank_setEng (e : Nat) (x : EngX) (u : Nat) : (s.setEng e x).bank u = s.bank u := (rfl)
@[simp] theorem State.seq_setEng (e : Nat) (x : EngX) (u : Nat) : (s.setEng e x).seq u = s.seq u := (rfl)
@[simp] theorem State.cat_setEng (e : Nat) (x : EngX) (u : Nat) : (s.setEng e x).cat u = s.cat u := (rfl)
@[simp] theorem State.spl_setEng (e : Nat) (x : EngX) (u : Nat) : (s.setEng e x).spl u = s.spl u := (rfl)
@[simp] theorem State.drc_setEng (e : Nat) (x : EngX) (u : Nat) : (s.setEng e x).drc u = s.drc u := (rfl)
@[simp] theorem State.lin_setEng (e : Nat) (x : EngX) (u : Nat) : (s.setEng e x).lin u = s.lin u := (rfl)
@[simp] theorem State.noc_setEng (e : Nat) (x : EngX) (u : Nat) : (s.setEng e x).noc u = s.noc u := (rfl)
@[simp] theorem State.pat_setEng (e : Nat) (x : EngX) (u : Nat) : (s.setEng e x).pat u = s.pat u := (rfl)
@[simp] theorem State.port_setEng (e : Nat) (x : EngX) (u : Nat) : (s.setEng e x).port u = s.port u := (rfl)
@[simp] theorem State.clu_setEng (e : Nat) (x : EngX) (u : Nat) : (s.setEng e x).clu u = s.clu u := (rfl)
@[simp] theorem State.quad_setEng (e : Nat) (x : EngX) (u : Nat) : (s.setEng e x).quad u = s.quad u := (rfl)
@[simp] theorem State.darn_setEng (e : Nat) (x : EngX) (u : Nat) : (s.setEng e x).darn u = s.darn u := (rfl)
@[simp] theorem State.fab_setEng (e : Nat) (x : EngX) (u : Nat) : (s.setEng e x).fab u = s.fab u := (rfl)
@[simp] theorem State.ser_setEng (e : Nat) (x : EngX) (u : Nat) : (s.setEng e x).ser u = s.ser u := (rfl)
@[simp] theorem State.slot_setEng (e : Nat) (x : EngX) (u : Nat) : (s.setEng e x).slot u = s.slot u := (rfl)
@[simp] theorem State.uclk_setEng (e : Nat) (x : EngX) (u : Nat) : (s.setEng e x).uclk u = s.uclk u := (rfl)
@[simp] theorem State.logic_setEng (e : Nat) (x : EngX) (u : Nat) : (s.setEng e x).logic u = s.logic u := (rfl)
@[simp] theorem State.beacon_setEng (e : Nat) (x : EngX) (u : Nat) : (s.setEng e x).beacon u = s.beacon u := (rfl)
@[simp] theorem State.mover_setEng (e : Nat) (x : EngX) (u : Nat) : (s.setEng e x).mover u = s.mover u := (rfl)
@[simp] theorem State.reg_setEng (e : Nat) (x : EngX) (pg' off' : Nat) : (s.setEng e x).reg pg' off' = s.reg pg' off' := (rfl)
@[simp] theorem State.rd_setEng (e : Nat) (x : EngX) (pg' : Nat) (g : Fld) : (s.setEng e x).rd pg' g = s.rd pg' g := (rfl)

@[simp] theorem State.now_setClu (c : Nat) (x : CluX) : (s.setClu c x).now = s.now := (rfl)
@[simp] theorem State.fresh_setClu (c : Nat) (x : CluX) : (s.setClu c x).fresh = s.fresh := (rfl)
@[simp] theorem State.resp_setClu (c : Nat) (x : CluX) : (s.setClu c x).resp = s.resp := (rfl)
@[simp] theorem State.regs_setClu (c : Nat) (x : CluX) : (s.setClu c x).regs = s.regs := (rfl)
@[simp] theorem State.shadow_setClu (c : Nat) (x : CluX) : (s.setClu c x).shadow = s.shadow := (rfl)
@[simp] theorem State.pages_setClu (c : Nat) (x : CluX) : (s.setClu c x).pages = s.pages := (rfl)
@[simp] theorem State.alarms_setClu (c : Nat) (x : CluX) : (s.setClu c x).alarms = s.alarms := (rfl)
@[simp] theorem State.stalls_setClu (c : Nat) (x : CluX) : (s.setClu c x).stalls = s.stalls := (rfl)
@[simp] theorem State.dies_setClu (c : Nat) (x : CluX) : (s.setClu c x).dies = s.dies := (rfl)
@[simp] theorem State.tu_setClu (c : Nat) (x : CluX) : (s.setClu c x).tu = s.tu := (rfl)
@[simp] theorem State.beacons_setClu (c : Nat) (x : CluX) : (s.setClu c x).beacons = s.beacons := (rfl)
@[simp] theorem State.uclks_setClu (c : Nat) (x : CluX) : (s.setClu c x).uclks = s.uclks := (rfl)
@[simp] theorem State.launch_setClu (c : Nat) (x : CluX) : (s.setClu c x).launch = s.launch := (rfl)
@[simp] theorem State.banks_setClu (c : Nat) (x : CluX) : (s.setClu c x).banks = s.banks := (rfl)
@[simp] theorem State.seqs_setClu (c : Nat) (x : CluX) : (s.setClu c x).seqs = s.seqs := (rfl)
@[simp] theorem State.weftTab_setClu (c : Nat) (x : CluX) : (s.setClu c x).weftTab = s.weftTab := (rfl)
@[simp] theorem State.cats_setClu (c : Nat) (x : CluX) : (s.setClu c x).cats = s.cats := (rfl)
@[simp] theorem State.spls_setClu (c : Nat) (x : CluX) : (s.setClu c x).spls = s.spls := (rfl)
@[simp] theorem State.drcs_setClu (c : Nat) (x : CluX) : (s.setClu c x).drcs = s.drcs := (rfl)
@[simp] theorem State.slots_setClu (c : Nat) (x : CluX) : (s.setClu c x).slots = s.slots := (rfl)
@[simp] theorem State.regions_setClu (c : Nat) (x : CluX) : (s.setClu c x).regions = s.regions := (rfl)
@[simp] theorem State.nocs_setClu (c : Nat) (x : CluX) : (s.setClu c x).nocs = s.nocs := (rfl)
@[simp] theorem State.govBal_setClu (c : Nat) (x : CluX) : (s.setClu c x).govBal = s.govBal := (rfl)
@[simp] theorem State.pats_setClu (c : Nat) (x : CluX) : (s.setClu c x).pats = s.pats := (rfl)
@[simp] theorem State.ports_setClu (c : Nat) (x : CluX) : (s.setClu c x).ports = s.ports := (rfl)
@[simp] theorem State.rt_setClu (c : Nat) (x : CluX) : (s.setClu c x).rt = s.rt := (rfl)
@[simp] theorem State.rtHit_setClu (c : Nat) (x : CluX) : (s.setClu c x).rtHit = s.rtHit := (rfl)
@[simp] theorem State.egr_setClu (c : Nat) (x : CluX) : (s.setClu c x).egr = s.egr := (rfl)
@[simp] theorem State.egrGen_setClu (c : Nat) (x : CluX) : (s.setClu c x).egrGen = s.egrGen := (rfl)
@[simp] theorem State.answers_setClu (c : Nat) (x : CluX) : (s.setClu c x).answers = s.answers := (rfl)
@[simp] theorem State.sinks_setClu (c : Nat) (x : CluX) : (s.setClu c x).sinks = s.sinks := (rfl)
@[simp] theorem State.engs_setClu (c : Nat) (x : CluX) : (s.setClu c x).engs = s.engs := (rfl)
@[simp] theorem State.quads_setClu (c : Nat) (x : CluX) : (s.setClu c x).quads = s.quads := (rfl)
@[simp] theorem State.cfg_setClu (c : Nat) (x : CluX) : (s.setClu c x).cfg = s.cfg := (rfl)
@[simp] theorem State.darns_setClu (c : Nat) (x : CluX) : (s.setClu c x).darns = s.darns := (rfl)
@[simp] theorem State.logics_setClu (c : Nat) (x : CluX) : (s.setClu c x).logics = s.logics := (rfl)
@[simp] theorem State.fabs_setClu (c : Nat) (x : CluX) : (s.setClu c x).fabs = s.fabs := (rfl)
@[simp] theorem State.sers_setClu (c : Nat) (x : CluX) : (s.setClu c x).sers = s.sers := (rfl)
@[simp] theorem State.pow_setClu (c : Nat) (x : CluX) : (s.setClu c x).pow = s.pow := (rfl)
@[simp] theorem State.store_setClu (c : Nat) (x : CluX) : (s.setClu c x).store = s.store := (rfl)
@[simp] theorem State.hub_setClu (c : Nat) (x : CluX) : (s.setClu c x).hub = s.hub := (rfl)
@[simp] theorem State.movers_setClu (c : Nat) (x : CluX) : (s.setClu c x).movers = s.movers := (rfl)
@[simp] theorem State.sram_setClu (c : Nat) (x : CluX) : (s.setClu c x).sram = s.sram := (rfl)
@[simp] theorem State.dp_setClu (c : Nat) (x : CluX) : (s.setClu c x).dp = s.dp := (rfl)
@[simp] theorem State.dpAnswer_setClu (c : Nat) (x : CluX) : (s.setClu c x).dpAnswer = s.dpAnswer := (rfl)
@[simp] theorem State.pins_setClu (c : Nat) (x : CluX) : (s.setClu c x).pins = s.pins := (rfl)
@[simp] theorem State.pending_setClu (c : Nat) (x : CluX) : (s.setClu c x).pending = s.pending := (rfl)
@[simp] theorem State.die_setClu (c : Nat) (x : CluX) (u : Nat) : (s.setClu c x).die u = s.die u := (rfl)
@[simp] theorem State.page_setClu (c : Nat) (x : CluX) (u : Nat) : (s.setClu c x).page u = s.page u := (rfl)
@[simp] theorem State.lslot_setClu (c : Nat) (x : CluX) (u : Nat) : (s.setClu c x).lslot u = s.lslot u := (rfl)
@[simp] theorem State.bank_setClu (c : Nat) (x : CluX) (u : Nat) : (s.setClu c x).bank u = s.bank u := (rfl)
@[simp] theorem State.seq_setClu (c : Nat) (x : CluX) (u : Nat) : (s.setClu c x).seq u = s.seq u := (rfl)
@[simp] theorem State.cat_setClu (c : Nat) (x : CluX) (u : Nat) : (s.setClu c x).cat u = s.cat u := (rfl)
@[simp] theorem State.spl_setClu (c : Nat) (x : CluX) (u : Nat) : (s.setClu c x).spl u = s.spl u := (rfl)
@[simp] theorem State.drc_setClu (c : Nat) (x : CluX) (u : Nat) : (s.setClu c x).drc u = s.drc u := (rfl)
@[simp] theorem State.lin_setClu (c : Nat) (x : CluX) (u : Nat) : (s.setClu c x).lin u = s.lin u := (rfl)
@[simp] theorem State.noc_setClu (c : Nat) (x : CluX) (u : Nat) : (s.setClu c x).noc u = s.noc u := (rfl)
@[simp] theorem State.pat_setClu (c : Nat) (x : CluX) (u : Nat) : (s.setClu c x).pat u = s.pat u := (rfl)
@[simp] theorem State.port_setClu (c : Nat) (x : CluX) (u : Nat) : (s.setClu c x).port u = s.port u := (rfl)
@[simp] theorem State.eng_setClu (c : Nat) (x : CluX) (u : Nat) : (s.setClu c x).eng u = s.eng u := (rfl)
@[simp] theorem State.quad_setClu (c : Nat) (x : CluX) (u : Nat) : (s.setClu c x).quad u = s.quad u := (rfl)
@[simp] theorem State.darn_setClu (c : Nat) (x : CluX) (u : Nat) : (s.setClu c x).darn u = s.darn u := (rfl)
@[simp] theorem State.fab_setClu (c : Nat) (x : CluX) (u : Nat) : (s.setClu c x).fab u = s.fab u := (rfl)
@[simp] theorem State.ser_setClu (c : Nat) (x : CluX) (u : Nat) : (s.setClu c x).ser u = s.ser u := (rfl)
@[simp] theorem State.slot_setClu (c : Nat) (x : CluX) (u : Nat) : (s.setClu c x).slot u = s.slot u := (rfl)
@[simp] theorem State.uclk_setClu (c : Nat) (x : CluX) (u : Nat) : (s.setClu c x).uclk u = s.uclk u := (rfl)
@[simp] theorem State.logic_setClu (c : Nat) (x : CluX) (u : Nat) : (s.setClu c x).logic u = s.logic u := (rfl)
@[simp] theorem State.beacon_setClu (c : Nat) (x : CluX) (u : Nat) : (s.setClu c x).beacon u = s.beacon u := (rfl)
@[simp] theorem State.mover_setClu (c : Nat) (x : CluX) (u : Nat) : (s.setClu c x).mover u = s.mover u := (rfl)
@[simp] theorem State.reg_setClu (c : Nat) (x : CluX) (pg' off' : Nat) : (s.setClu c x).reg pg' off' = s.reg pg' off' := (rfl)
@[simp] theorem State.rd_setClu (c : Nat) (x : CluX) (pg' : Nat) (g : Fld) : (s.setClu c x).rd pg' g = s.rd pg' g := (rfl)

@[simp] theorem State.now_setQuad (q : Nat) (x : QuadX) : (s.setQuad q x).now = s.now := (rfl)
@[simp] theorem State.fresh_setQuad (q : Nat) (x : QuadX) : (s.setQuad q x).fresh = s.fresh := (rfl)
@[simp] theorem State.resp_setQuad (q : Nat) (x : QuadX) : (s.setQuad q x).resp = s.resp := (rfl)
@[simp] theorem State.regs_setQuad (q : Nat) (x : QuadX) : (s.setQuad q x).regs = s.regs := (rfl)
@[simp] theorem State.shadow_setQuad (q : Nat) (x : QuadX) : (s.setQuad q x).shadow = s.shadow := (rfl)
@[simp] theorem State.pages_setQuad (q : Nat) (x : QuadX) : (s.setQuad q x).pages = s.pages := (rfl)
@[simp] theorem State.alarms_setQuad (q : Nat) (x : QuadX) : (s.setQuad q x).alarms = s.alarms := (rfl)
@[simp] theorem State.stalls_setQuad (q : Nat) (x : QuadX) : (s.setQuad q x).stalls = s.stalls := (rfl)
@[simp] theorem State.dies_setQuad (q : Nat) (x : QuadX) : (s.setQuad q x).dies = s.dies := (rfl)
@[simp] theorem State.tu_setQuad (q : Nat) (x : QuadX) : (s.setQuad q x).tu = s.tu := (rfl)
@[simp] theorem State.beacons_setQuad (q : Nat) (x : QuadX) : (s.setQuad q x).beacons = s.beacons := (rfl)
@[simp] theorem State.uclks_setQuad (q : Nat) (x : QuadX) : (s.setQuad q x).uclks = s.uclks := (rfl)
@[simp] theorem State.launch_setQuad (q : Nat) (x : QuadX) : (s.setQuad q x).launch = s.launch := (rfl)
@[simp] theorem State.banks_setQuad (q : Nat) (x : QuadX) : (s.setQuad q x).banks = s.banks := (rfl)
@[simp] theorem State.seqs_setQuad (q : Nat) (x : QuadX) : (s.setQuad q x).seqs = s.seqs := (rfl)
@[simp] theorem State.weftTab_setQuad (q : Nat) (x : QuadX) : (s.setQuad q x).weftTab = s.weftTab := (rfl)
@[simp] theorem State.cats_setQuad (q : Nat) (x : QuadX) : (s.setQuad q x).cats = s.cats := (rfl)
@[simp] theorem State.spls_setQuad (q : Nat) (x : QuadX) : (s.setQuad q x).spls = s.spls := (rfl)
@[simp] theorem State.drcs_setQuad (q : Nat) (x : QuadX) : (s.setQuad q x).drcs = s.drcs := (rfl)
@[simp] theorem State.slots_setQuad (q : Nat) (x : QuadX) : (s.setQuad q x).slots = s.slots := (rfl)
@[simp] theorem State.regions_setQuad (q : Nat) (x : QuadX) : (s.setQuad q x).regions = s.regions := (rfl)
@[simp] theorem State.nocs_setQuad (q : Nat) (x : QuadX) : (s.setQuad q x).nocs = s.nocs := (rfl)
@[simp] theorem State.govBal_setQuad (q : Nat) (x : QuadX) : (s.setQuad q x).govBal = s.govBal := (rfl)
@[simp] theorem State.pats_setQuad (q : Nat) (x : QuadX) : (s.setQuad q x).pats = s.pats := (rfl)
@[simp] theorem State.ports_setQuad (q : Nat) (x : QuadX) : (s.setQuad q x).ports = s.ports := (rfl)
@[simp] theorem State.rt_setQuad (q : Nat) (x : QuadX) : (s.setQuad q x).rt = s.rt := (rfl)
@[simp] theorem State.rtHit_setQuad (q : Nat) (x : QuadX) : (s.setQuad q x).rtHit = s.rtHit := (rfl)
@[simp] theorem State.egr_setQuad (q : Nat) (x : QuadX) : (s.setQuad q x).egr = s.egr := (rfl)
@[simp] theorem State.egrGen_setQuad (q : Nat) (x : QuadX) : (s.setQuad q x).egrGen = s.egrGen := (rfl)
@[simp] theorem State.answers_setQuad (q : Nat) (x : QuadX) : (s.setQuad q x).answers = s.answers := (rfl)
@[simp] theorem State.sinks_setQuad (q : Nat) (x : QuadX) : (s.setQuad q x).sinks = s.sinks := (rfl)
@[simp] theorem State.engs_setQuad (q : Nat) (x : QuadX) : (s.setQuad q x).engs = s.engs := (rfl)
@[simp] theorem State.clus_setQuad (q : Nat) (x : QuadX) : (s.setQuad q x).clus = s.clus := (rfl)
@[simp] theorem State.cfg_setQuad (q : Nat) (x : QuadX) : (s.setQuad q x).cfg = s.cfg := (rfl)
@[simp] theorem State.darns_setQuad (q : Nat) (x : QuadX) : (s.setQuad q x).darns = s.darns := (rfl)
@[simp] theorem State.logics_setQuad (q : Nat) (x : QuadX) : (s.setQuad q x).logics = s.logics := (rfl)
@[simp] theorem State.fabs_setQuad (q : Nat) (x : QuadX) : (s.setQuad q x).fabs = s.fabs := (rfl)
@[simp] theorem State.sers_setQuad (q : Nat) (x : QuadX) : (s.setQuad q x).sers = s.sers := (rfl)
@[simp] theorem State.pow_setQuad (q : Nat) (x : QuadX) : (s.setQuad q x).pow = s.pow := (rfl)
@[simp] theorem State.store_setQuad (q : Nat) (x : QuadX) : (s.setQuad q x).store = s.store := (rfl)
@[simp] theorem State.hub_setQuad (q : Nat) (x : QuadX) : (s.setQuad q x).hub = s.hub := (rfl)
@[simp] theorem State.movers_setQuad (q : Nat) (x : QuadX) : (s.setQuad q x).movers = s.movers := (rfl)
@[simp] theorem State.sram_setQuad (q : Nat) (x : QuadX) : (s.setQuad q x).sram = s.sram := (rfl)
@[simp] theorem State.dp_setQuad (q : Nat) (x : QuadX) : (s.setQuad q x).dp = s.dp := (rfl)
@[simp] theorem State.dpAnswer_setQuad (q : Nat) (x : QuadX) : (s.setQuad q x).dpAnswer = s.dpAnswer := (rfl)
@[simp] theorem State.pins_setQuad (q : Nat) (x : QuadX) : (s.setQuad q x).pins = s.pins := (rfl)
@[simp] theorem State.pending_setQuad (q : Nat) (x : QuadX) : (s.setQuad q x).pending = s.pending := (rfl)
@[simp] theorem State.die_setQuad (q : Nat) (x : QuadX) (u : Nat) : (s.setQuad q x).die u = s.die u := (rfl)
@[simp] theorem State.page_setQuad (q : Nat) (x : QuadX) (u : Nat) : (s.setQuad q x).page u = s.page u := (rfl)
@[simp] theorem State.lslot_setQuad (q : Nat) (x : QuadX) (u : Nat) : (s.setQuad q x).lslot u = s.lslot u := (rfl)
@[simp] theorem State.bank_setQuad (q : Nat) (x : QuadX) (u : Nat) : (s.setQuad q x).bank u = s.bank u := (rfl)
@[simp] theorem State.seq_setQuad (q : Nat) (x : QuadX) (u : Nat) : (s.setQuad q x).seq u = s.seq u := (rfl)
@[simp] theorem State.cat_setQuad (q : Nat) (x : QuadX) (u : Nat) : (s.setQuad q x).cat u = s.cat u := (rfl)
@[simp] theorem State.spl_setQuad (q : Nat) (x : QuadX) (u : Nat) : (s.setQuad q x).spl u = s.spl u := (rfl)
@[simp] theorem State.drc_setQuad (q : Nat) (x : QuadX) (u : Nat) : (s.setQuad q x).drc u = s.drc u := (rfl)
@[simp] theorem State.lin_setQuad (q : Nat) (x : QuadX) (u : Nat) : (s.setQuad q x).lin u = s.lin u := (rfl)
@[simp] theorem State.noc_setQuad (q : Nat) (x : QuadX) (u : Nat) : (s.setQuad q x).noc u = s.noc u := (rfl)
@[simp] theorem State.pat_setQuad (q : Nat) (x : QuadX) (u : Nat) : (s.setQuad q x).pat u = s.pat u := (rfl)
@[simp] theorem State.port_setQuad (q : Nat) (x : QuadX) (u : Nat) : (s.setQuad q x).port u = s.port u := (rfl)
@[simp] theorem State.eng_setQuad (q : Nat) (x : QuadX) (u : Nat) : (s.setQuad q x).eng u = s.eng u := (rfl)
@[simp] theorem State.clu_setQuad (q : Nat) (x : QuadX) (u : Nat) : (s.setQuad q x).clu u = s.clu u := (rfl)
@[simp] theorem State.darn_setQuad (q : Nat) (x : QuadX) (u : Nat) : (s.setQuad q x).darn u = s.darn u := (rfl)
@[simp] theorem State.fab_setQuad (q : Nat) (x : QuadX) (u : Nat) : (s.setQuad q x).fab u = s.fab u := (rfl)
@[simp] theorem State.ser_setQuad (q : Nat) (x : QuadX) (u : Nat) : (s.setQuad q x).ser u = s.ser u := (rfl)
@[simp] theorem State.slot_setQuad (q : Nat) (x : QuadX) (u : Nat) : (s.setQuad q x).slot u = s.slot u := (rfl)
@[simp] theorem State.uclk_setQuad (q : Nat) (x : QuadX) (u : Nat) : (s.setQuad q x).uclk u = s.uclk u := (rfl)
@[simp] theorem State.logic_setQuad (q : Nat) (x : QuadX) (u : Nat) : (s.setQuad q x).logic u = s.logic u := (rfl)
@[simp] theorem State.beacon_setQuad (q : Nat) (x : QuadX) (u : Nat) : (s.setQuad q x).beacon u = s.beacon u := (rfl)
@[simp] theorem State.mover_setQuad (q : Nat) (x : QuadX) (u : Nat) : (s.setQuad q x).mover u = s.mover u := (rfl)
@[simp] theorem State.reg_setQuad (q : Nat) (x : QuadX) (pg' off' : Nat) : (s.setQuad q x).reg pg' off' = s.reg pg' off' := (rfl)
@[simp] theorem State.rd_setQuad (q : Nat) (x : QuadX) (pg' : Nat) (g : Fld) : (s.setQuad q x).rd pg' g = s.rd pg' g := (rfl)

@[simp] theorem State.now_setDarn (p : Nat) (x : DarnX) : (s.setDarn p x).now = s.now := (rfl)
@[simp] theorem State.fresh_setDarn (p : Nat) (x : DarnX) : (s.setDarn p x).fresh = s.fresh := (rfl)
@[simp] theorem State.resp_setDarn (p : Nat) (x : DarnX) : (s.setDarn p x).resp = s.resp := (rfl)
@[simp] theorem State.regs_setDarn (p : Nat) (x : DarnX) : (s.setDarn p x).regs = s.regs := (rfl)
@[simp] theorem State.shadow_setDarn (p : Nat) (x : DarnX) : (s.setDarn p x).shadow = s.shadow := (rfl)
@[simp] theorem State.pages_setDarn (p : Nat) (x : DarnX) : (s.setDarn p x).pages = s.pages := (rfl)
@[simp] theorem State.alarms_setDarn (p : Nat) (x : DarnX) : (s.setDarn p x).alarms = s.alarms := (rfl)
@[simp] theorem State.stalls_setDarn (p : Nat) (x : DarnX) : (s.setDarn p x).stalls = s.stalls := (rfl)
@[simp] theorem State.dies_setDarn (p : Nat) (x : DarnX) : (s.setDarn p x).dies = s.dies := (rfl)
@[simp] theorem State.tu_setDarn (p : Nat) (x : DarnX) : (s.setDarn p x).tu = s.tu := (rfl)
@[simp] theorem State.beacons_setDarn (p : Nat) (x : DarnX) : (s.setDarn p x).beacons = s.beacons := (rfl)
@[simp] theorem State.uclks_setDarn (p : Nat) (x : DarnX) : (s.setDarn p x).uclks = s.uclks := (rfl)
@[simp] theorem State.launch_setDarn (p : Nat) (x : DarnX) : (s.setDarn p x).launch = s.launch := (rfl)
@[simp] theorem State.banks_setDarn (p : Nat) (x : DarnX) : (s.setDarn p x).banks = s.banks := (rfl)
@[simp] theorem State.seqs_setDarn (p : Nat) (x : DarnX) : (s.setDarn p x).seqs = s.seqs := (rfl)
@[simp] theorem State.weftTab_setDarn (p : Nat) (x : DarnX) : (s.setDarn p x).weftTab = s.weftTab := (rfl)
@[simp] theorem State.cats_setDarn (p : Nat) (x : DarnX) : (s.setDarn p x).cats = s.cats := (rfl)
@[simp] theorem State.spls_setDarn (p : Nat) (x : DarnX) : (s.setDarn p x).spls = s.spls := (rfl)
@[simp] theorem State.drcs_setDarn (p : Nat) (x : DarnX) : (s.setDarn p x).drcs = s.drcs := (rfl)
@[simp] theorem State.slots_setDarn (p : Nat) (x : DarnX) : (s.setDarn p x).slots = s.slots := (rfl)
@[simp] theorem State.regions_setDarn (p : Nat) (x : DarnX) : (s.setDarn p x).regions = s.regions := (rfl)
@[simp] theorem State.nocs_setDarn (p : Nat) (x : DarnX) : (s.setDarn p x).nocs = s.nocs := (rfl)
@[simp] theorem State.govBal_setDarn (p : Nat) (x : DarnX) : (s.setDarn p x).govBal = s.govBal := (rfl)
@[simp] theorem State.pats_setDarn (p : Nat) (x : DarnX) : (s.setDarn p x).pats = s.pats := (rfl)
@[simp] theorem State.ports_setDarn (p : Nat) (x : DarnX) : (s.setDarn p x).ports = s.ports := (rfl)
@[simp] theorem State.rt_setDarn (p : Nat) (x : DarnX) : (s.setDarn p x).rt = s.rt := (rfl)
@[simp] theorem State.rtHit_setDarn (p : Nat) (x : DarnX) : (s.setDarn p x).rtHit = s.rtHit := (rfl)
@[simp] theorem State.egr_setDarn (p : Nat) (x : DarnX) : (s.setDarn p x).egr = s.egr := (rfl)
@[simp] theorem State.egrGen_setDarn (p : Nat) (x : DarnX) : (s.setDarn p x).egrGen = s.egrGen := (rfl)
@[simp] theorem State.answers_setDarn (p : Nat) (x : DarnX) : (s.setDarn p x).answers = s.answers := (rfl)
@[simp] theorem State.sinks_setDarn (p : Nat) (x : DarnX) : (s.setDarn p x).sinks = s.sinks := (rfl)
@[simp] theorem State.engs_setDarn (p : Nat) (x : DarnX) : (s.setDarn p x).engs = s.engs := (rfl)
@[simp] theorem State.clus_setDarn (p : Nat) (x : DarnX) : (s.setDarn p x).clus = s.clus := (rfl)
@[simp] theorem State.quads_setDarn (p : Nat) (x : DarnX) : (s.setDarn p x).quads = s.quads := (rfl)
@[simp] theorem State.cfg_setDarn (p : Nat) (x : DarnX) : (s.setDarn p x).cfg = s.cfg := (rfl)
@[simp] theorem State.logics_setDarn (p : Nat) (x : DarnX) : (s.setDarn p x).logics = s.logics := (rfl)
@[simp] theorem State.fabs_setDarn (p : Nat) (x : DarnX) : (s.setDarn p x).fabs = s.fabs := (rfl)
@[simp] theorem State.sers_setDarn (p : Nat) (x : DarnX) : (s.setDarn p x).sers = s.sers := (rfl)
@[simp] theorem State.pow_setDarn (p : Nat) (x : DarnX) : (s.setDarn p x).pow = s.pow := (rfl)
@[simp] theorem State.store_setDarn (p : Nat) (x : DarnX) : (s.setDarn p x).store = s.store := (rfl)
@[simp] theorem State.hub_setDarn (p : Nat) (x : DarnX) : (s.setDarn p x).hub = s.hub := (rfl)
@[simp] theorem State.movers_setDarn (p : Nat) (x : DarnX) : (s.setDarn p x).movers = s.movers := (rfl)
@[simp] theorem State.sram_setDarn (p : Nat) (x : DarnX) : (s.setDarn p x).sram = s.sram := (rfl)
@[simp] theorem State.dp_setDarn (p : Nat) (x : DarnX) : (s.setDarn p x).dp = s.dp := (rfl)
@[simp] theorem State.dpAnswer_setDarn (p : Nat) (x : DarnX) : (s.setDarn p x).dpAnswer = s.dpAnswer := (rfl)
@[simp] theorem State.pins_setDarn (p : Nat) (x : DarnX) : (s.setDarn p x).pins = s.pins := (rfl)
@[simp] theorem State.pending_setDarn (p : Nat) (x : DarnX) : (s.setDarn p x).pending = s.pending := (rfl)
@[simp] theorem State.die_setDarn (p : Nat) (x : DarnX) (u : Nat) : (s.setDarn p x).die u = s.die u := (rfl)
@[simp] theorem State.page_setDarn (p : Nat) (x : DarnX) (u : Nat) : (s.setDarn p x).page u = s.page u := (rfl)
@[simp] theorem State.lslot_setDarn (p : Nat) (x : DarnX) (u : Nat) : (s.setDarn p x).lslot u = s.lslot u := (rfl)
@[simp] theorem State.bank_setDarn (p : Nat) (x : DarnX) (u : Nat) : (s.setDarn p x).bank u = s.bank u := (rfl)
@[simp] theorem State.seq_setDarn (p : Nat) (x : DarnX) (u : Nat) : (s.setDarn p x).seq u = s.seq u := (rfl)
@[simp] theorem State.cat_setDarn (p : Nat) (x : DarnX) (u : Nat) : (s.setDarn p x).cat u = s.cat u := (rfl)
@[simp] theorem State.spl_setDarn (p : Nat) (x : DarnX) (u : Nat) : (s.setDarn p x).spl u = s.spl u := (rfl)
@[simp] theorem State.drc_setDarn (p : Nat) (x : DarnX) (u : Nat) : (s.setDarn p x).drc u = s.drc u := (rfl)
@[simp] theorem State.lin_setDarn (p : Nat) (x : DarnX) (u : Nat) : (s.setDarn p x).lin u = s.lin u := (rfl)
@[simp] theorem State.noc_setDarn (p : Nat) (x : DarnX) (u : Nat) : (s.setDarn p x).noc u = s.noc u := (rfl)
@[simp] theorem State.pat_setDarn (p : Nat) (x : DarnX) (u : Nat) : (s.setDarn p x).pat u = s.pat u := (rfl)
@[simp] theorem State.port_setDarn (p : Nat) (x : DarnX) (u : Nat) : (s.setDarn p x).port u = s.port u := (rfl)
@[simp] theorem State.eng_setDarn (p : Nat) (x : DarnX) (u : Nat) : (s.setDarn p x).eng u = s.eng u := (rfl)
@[simp] theorem State.clu_setDarn (p : Nat) (x : DarnX) (u : Nat) : (s.setDarn p x).clu u = s.clu u := (rfl)
@[simp] theorem State.quad_setDarn (p : Nat) (x : DarnX) (u : Nat) : (s.setDarn p x).quad u = s.quad u := (rfl)
@[simp] theorem State.fab_setDarn (p : Nat) (x : DarnX) (u : Nat) : (s.setDarn p x).fab u = s.fab u := (rfl)
@[simp] theorem State.ser_setDarn (p : Nat) (x : DarnX) (u : Nat) : (s.setDarn p x).ser u = s.ser u := (rfl)
@[simp] theorem State.slot_setDarn (p : Nat) (x : DarnX) (u : Nat) : (s.setDarn p x).slot u = s.slot u := (rfl)
@[simp] theorem State.uclk_setDarn (p : Nat) (x : DarnX) (u : Nat) : (s.setDarn p x).uclk u = s.uclk u := (rfl)
@[simp] theorem State.logic_setDarn (p : Nat) (x : DarnX) (u : Nat) : (s.setDarn p x).logic u = s.logic u := (rfl)
@[simp] theorem State.beacon_setDarn (p : Nat) (x : DarnX) (u : Nat) : (s.setDarn p x).beacon u = s.beacon u := (rfl)
@[simp] theorem State.mover_setDarn (p : Nat) (x : DarnX) (u : Nat) : (s.setDarn p x).mover u = s.mover u := (rfl)
@[simp] theorem State.reg_setDarn (p : Nat) (x : DarnX) (pg' off' : Nat) : (s.setDarn p x).reg pg' off' = s.reg pg' off' := (rfl)
@[simp] theorem State.rd_setDarn (p : Nat) (x : DarnX) (pg' : Nat) (g : Fld) : (s.setDarn p x).rd pg' g = s.rd pg' g := (rfl)

@[simp] theorem State.now_setFab (i : Nat) (x : FabX) : (s.setFab i x).now = s.now := (rfl)
@[simp] theorem State.fresh_setFab (i : Nat) (x : FabX) : (s.setFab i x).fresh = s.fresh := (rfl)
@[simp] theorem State.resp_setFab (i : Nat) (x : FabX) : (s.setFab i x).resp = s.resp := (rfl)
@[simp] theorem State.regs_setFab (i : Nat) (x : FabX) : (s.setFab i x).regs = s.regs := (rfl)
@[simp] theorem State.shadow_setFab (i : Nat) (x : FabX) : (s.setFab i x).shadow = s.shadow := (rfl)
@[simp] theorem State.pages_setFab (i : Nat) (x : FabX) : (s.setFab i x).pages = s.pages := (rfl)
@[simp] theorem State.alarms_setFab (i : Nat) (x : FabX) : (s.setFab i x).alarms = s.alarms := (rfl)
@[simp] theorem State.stalls_setFab (i : Nat) (x : FabX) : (s.setFab i x).stalls = s.stalls := (rfl)
@[simp] theorem State.dies_setFab (i : Nat) (x : FabX) : (s.setFab i x).dies = s.dies := (rfl)
@[simp] theorem State.tu_setFab (i : Nat) (x : FabX) : (s.setFab i x).tu = s.tu := (rfl)
@[simp] theorem State.beacons_setFab (i : Nat) (x : FabX) : (s.setFab i x).beacons = s.beacons := (rfl)
@[simp] theorem State.uclks_setFab (i : Nat) (x : FabX) : (s.setFab i x).uclks = s.uclks := (rfl)
@[simp] theorem State.launch_setFab (i : Nat) (x : FabX) : (s.setFab i x).launch = s.launch := (rfl)
@[simp] theorem State.banks_setFab (i : Nat) (x : FabX) : (s.setFab i x).banks = s.banks := (rfl)
@[simp] theorem State.seqs_setFab (i : Nat) (x : FabX) : (s.setFab i x).seqs = s.seqs := (rfl)
@[simp] theorem State.weftTab_setFab (i : Nat) (x : FabX) : (s.setFab i x).weftTab = s.weftTab := (rfl)
@[simp] theorem State.cats_setFab (i : Nat) (x : FabX) : (s.setFab i x).cats = s.cats := (rfl)
@[simp] theorem State.spls_setFab (i : Nat) (x : FabX) : (s.setFab i x).spls = s.spls := (rfl)
@[simp] theorem State.drcs_setFab (i : Nat) (x : FabX) : (s.setFab i x).drcs = s.drcs := (rfl)
@[simp] theorem State.slots_setFab (i : Nat) (x : FabX) : (s.setFab i x).slots = s.slots := (rfl)
@[simp] theorem State.regions_setFab (i : Nat) (x : FabX) : (s.setFab i x).regions = s.regions := (rfl)
@[simp] theorem State.nocs_setFab (i : Nat) (x : FabX) : (s.setFab i x).nocs = s.nocs := (rfl)
@[simp] theorem State.govBal_setFab (i : Nat) (x : FabX) : (s.setFab i x).govBal = s.govBal := (rfl)
@[simp] theorem State.pats_setFab (i : Nat) (x : FabX) : (s.setFab i x).pats = s.pats := (rfl)
@[simp] theorem State.ports_setFab (i : Nat) (x : FabX) : (s.setFab i x).ports = s.ports := (rfl)
@[simp] theorem State.rt_setFab (i : Nat) (x : FabX) : (s.setFab i x).rt = s.rt := (rfl)
@[simp] theorem State.rtHit_setFab (i : Nat) (x : FabX) : (s.setFab i x).rtHit = s.rtHit := (rfl)
@[simp] theorem State.egr_setFab (i : Nat) (x : FabX) : (s.setFab i x).egr = s.egr := (rfl)
@[simp] theorem State.egrGen_setFab (i : Nat) (x : FabX) : (s.setFab i x).egrGen = s.egrGen := (rfl)
@[simp] theorem State.answers_setFab (i : Nat) (x : FabX) : (s.setFab i x).answers = s.answers := (rfl)
@[simp] theorem State.sinks_setFab (i : Nat) (x : FabX) : (s.setFab i x).sinks = s.sinks := (rfl)
@[simp] theorem State.engs_setFab (i : Nat) (x : FabX) : (s.setFab i x).engs = s.engs := (rfl)
@[simp] theorem State.clus_setFab (i : Nat) (x : FabX) : (s.setFab i x).clus = s.clus := (rfl)
@[simp] theorem State.quads_setFab (i : Nat) (x : FabX) : (s.setFab i x).quads = s.quads := (rfl)
@[simp] theorem State.cfg_setFab (i : Nat) (x : FabX) : (s.setFab i x).cfg = s.cfg := (rfl)
@[simp] theorem State.darns_setFab (i : Nat) (x : FabX) : (s.setFab i x).darns = s.darns := (rfl)
@[simp] theorem State.logics_setFab (i : Nat) (x : FabX) : (s.setFab i x).logics = s.logics := (rfl)
@[simp] theorem State.sers_setFab (i : Nat) (x : FabX) : (s.setFab i x).sers = s.sers := (rfl)
@[simp] theorem State.pow_setFab (i : Nat) (x : FabX) : (s.setFab i x).pow = s.pow := (rfl)
@[simp] theorem State.store_setFab (i : Nat) (x : FabX) : (s.setFab i x).store = s.store := (rfl)
@[simp] theorem State.hub_setFab (i : Nat) (x : FabX) : (s.setFab i x).hub = s.hub := (rfl)
@[simp] theorem State.movers_setFab (i : Nat) (x : FabX) : (s.setFab i x).movers = s.movers := (rfl)
@[simp] theorem State.sram_setFab (i : Nat) (x : FabX) : (s.setFab i x).sram = s.sram := (rfl)
@[simp] theorem State.dp_setFab (i : Nat) (x : FabX) : (s.setFab i x).dp = s.dp := (rfl)
@[simp] theorem State.dpAnswer_setFab (i : Nat) (x : FabX) : (s.setFab i x).dpAnswer = s.dpAnswer := (rfl)
@[simp] theorem State.pins_setFab (i : Nat) (x : FabX) : (s.setFab i x).pins = s.pins := (rfl)
@[simp] theorem State.pending_setFab (i : Nat) (x : FabX) : (s.setFab i x).pending = s.pending := (rfl)
@[simp] theorem State.die_setFab (i : Nat) (x : FabX) (u : Nat) : (s.setFab i x).die u = s.die u := (rfl)
@[simp] theorem State.page_setFab (i : Nat) (x : FabX) (u : Nat) : (s.setFab i x).page u = s.page u := (rfl)
@[simp] theorem State.lslot_setFab (i : Nat) (x : FabX) (u : Nat) : (s.setFab i x).lslot u = s.lslot u := (rfl)
@[simp] theorem State.bank_setFab (i : Nat) (x : FabX) (u : Nat) : (s.setFab i x).bank u = s.bank u := (rfl)
@[simp] theorem State.seq_setFab (i : Nat) (x : FabX) (u : Nat) : (s.setFab i x).seq u = s.seq u := (rfl)
@[simp] theorem State.cat_setFab (i : Nat) (x : FabX) (u : Nat) : (s.setFab i x).cat u = s.cat u := (rfl)
@[simp] theorem State.spl_setFab (i : Nat) (x : FabX) (u : Nat) : (s.setFab i x).spl u = s.spl u := (rfl)
@[simp] theorem State.drc_setFab (i : Nat) (x : FabX) (u : Nat) : (s.setFab i x).drc u = s.drc u := (rfl)
@[simp] theorem State.lin_setFab (i : Nat) (x : FabX) (u : Nat) : (s.setFab i x).lin u = s.lin u := (rfl)
@[simp] theorem State.noc_setFab (i : Nat) (x : FabX) (u : Nat) : (s.setFab i x).noc u = s.noc u := (rfl)
@[simp] theorem State.pat_setFab (i : Nat) (x : FabX) (u : Nat) : (s.setFab i x).pat u = s.pat u := (rfl)
@[simp] theorem State.port_setFab (i : Nat) (x : FabX) (u : Nat) : (s.setFab i x).port u = s.port u := (rfl)
@[simp] theorem State.eng_setFab (i : Nat) (x : FabX) (u : Nat) : (s.setFab i x).eng u = s.eng u := (rfl)
@[simp] theorem State.clu_setFab (i : Nat) (x : FabX) (u : Nat) : (s.setFab i x).clu u = s.clu u := (rfl)
@[simp] theorem State.quad_setFab (i : Nat) (x : FabX) (u : Nat) : (s.setFab i x).quad u = s.quad u := (rfl)
@[simp] theorem State.darn_setFab (i : Nat) (x : FabX) (u : Nat) : (s.setFab i x).darn u = s.darn u := (rfl)
@[simp] theorem State.ser_setFab (i : Nat) (x : FabX) (u : Nat) : (s.setFab i x).ser u = s.ser u := (rfl)
@[simp] theorem State.slot_setFab (i : Nat) (x : FabX) (u : Nat) : (s.setFab i x).slot u = s.slot u := (rfl)
@[simp] theorem State.uclk_setFab (i : Nat) (x : FabX) (u : Nat) : (s.setFab i x).uclk u = s.uclk u := (rfl)
@[simp] theorem State.logic_setFab (i : Nat) (x : FabX) (u : Nat) : (s.setFab i x).logic u = s.logic u := (rfl)
@[simp] theorem State.beacon_setFab (i : Nat) (x : FabX) (u : Nat) : (s.setFab i x).beacon u = s.beacon u := (rfl)
@[simp] theorem State.mover_setFab (i : Nat) (x : FabX) (u : Nat) : (s.setFab i x).mover u = s.mover u := (rfl)
@[simp] theorem State.reg_setFab (i : Nat) (x : FabX) (pg' off' : Nat) : (s.setFab i x).reg pg' off' = s.reg pg' off' := (rfl)
@[simp] theorem State.rd_setFab (i : Nat) (x : FabX) (pg' : Nat) (g : Fld) : (s.setFab i x).rd pg' g = s.rd pg' g := (rfl)

@[simp] theorem State.now_setSer (i : Nat) (x : SerX) : (s.setSer i x).now = s.now := (rfl)
@[simp] theorem State.fresh_setSer (i : Nat) (x : SerX) : (s.setSer i x).fresh = s.fresh := (rfl)
@[simp] theorem State.resp_setSer (i : Nat) (x : SerX) : (s.setSer i x).resp = s.resp := (rfl)
@[simp] theorem State.regs_setSer (i : Nat) (x : SerX) : (s.setSer i x).regs = s.regs := (rfl)
@[simp] theorem State.shadow_setSer (i : Nat) (x : SerX) : (s.setSer i x).shadow = s.shadow := (rfl)
@[simp] theorem State.pages_setSer (i : Nat) (x : SerX) : (s.setSer i x).pages = s.pages := (rfl)
@[simp] theorem State.alarms_setSer (i : Nat) (x : SerX) : (s.setSer i x).alarms = s.alarms := (rfl)
@[simp] theorem State.stalls_setSer (i : Nat) (x : SerX) : (s.setSer i x).stalls = s.stalls := (rfl)
@[simp] theorem State.dies_setSer (i : Nat) (x : SerX) : (s.setSer i x).dies = s.dies := (rfl)
@[simp] theorem State.tu_setSer (i : Nat) (x : SerX) : (s.setSer i x).tu = s.tu := (rfl)
@[simp] theorem State.beacons_setSer (i : Nat) (x : SerX) : (s.setSer i x).beacons = s.beacons := (rfl)
@[simp] theorem State.uclks_setSer (i : Nat) (x : SerX) : (s.setSer i x).uclks = s.uclks := (rfl)
@[simp] theorem State.launch_setSer (i : Nat) (x : SerX) : (s.setSer i x).launch = s.launch := (rfl)
@[simp] theorem State.banks_setSer (i : Nat) (x : SerX) : (s.setSer i x).banks = s.banks := (rfl)
@[simp] theorem State.seqs_setSer (i : Nat) (x : SerX) : (s.setSer i x).seqs = s.seqs := (rfl)
@[simp] theorem State.weftTab_setSer (i : Nat) (x : SerX) : (s.setSer i x).weftTab = s.weftTab := (rfl)
@[simp] theorem State.cats_setSer (i : Nat) (x : SerX) : (s.setSer i x).cats = s.cats := (rfl)
@[simp] theorem State.spls_setSer (i : Nat) (x : SerX) : (s.setSer i x).spls = s.spls := (rfl)
@[simp] theorem State.drcs_setSer (i : Nat) (x : SerX) : (s.setSer i x).drcs = s.drcs := (rfl)
@[simp] theorem State.slots_setSer (i : Nat) (x : SerX) : (s.setSer i x).slots = s.slots := (rfl)
@[simp] theorem State.regions_setSer (i : Nat) (x : SerX) : (s.setSer i x).regions = s.regions := (rfl)
@[simp] theorem State.nocs_setSer (i : Nat) (x : SerX) : (s.setSer i x).nocs = s.nocs := (rfl)
@[simp] theorem State.govBal_setSer (i : Nat) (x : SerX) : (s.setSer i x).govBal = s.govBal := (rfl)
@[simp] theorem State.pats_setSer (i : Nat) (x : SerX) : (s.setSer i x).pats = s.pats := (rfl)
@[simp] theorem State.ports_setSer (i : Nat) (x : SerX) : (s.setSer i x).ports = s.ports := (rfl)
@[simp] theorem State.rt_setSer (i : Nat) (x : SerX) : (s.setSer i x).rt = s.rt := (rfl)
@[simp] theorem State.rtHit_setSer (i : Nat) (x : SerX) : (s.setSer i x).rtHit = s.rtHit := (rfl)
@[simp] theorem State.egr_setSer (i : Nat) (x : SerX) : (s.setSer i x).egr = s.egr := (rfl)
@[simp] theorem State.egrGen_setSer (i : Nat) (x : SerX) : (s.setSer i x).egrGen = s.egrGen := (rfl)
@[simp] theorem State.answers_setSer (i : Nat) (x : SerX) : (s.setSer i x).answers = s.answers := (rfl)
@[simp] theorem State.sinks_setSer (i : Nat) (x : SerX) : (s.setSer i x).sinks = s.sinks := (rfl)
@[simp] theorem State.engs_setSer (i : Nat) (x : SerX) : (s.setSer i x).engs = s.engs := (rfl)
@[simp] theorem State.clus_setSer (i : Nat) (x : SerX) : (s.setSer i x).clus = s.clus := (rfl)
@[simp] theorem State.quads_setSer (i : Nat) (x : SerX) : (s.setSer i x).quads = s.quads := (rfl)
@[simp] theorem State.cfg_setSer (i : Nat) (x : SerX) : (s.setSer i x).cfg = s.cfg := (rfl)
@[simp] theorem State.darns_setSer (i : Nat) (x : SerX) : (s.setSer i x).darns = s.darns := (rfl)
@[simp] theorem State.logics_setSer (i : Nat) (x : SerX) : (s.setSer i x).logics = s.logics := (rfl)
@[simp] theorem State.fabs_setSer (i : Nat) (x : SerX) : (s.setSer i x).fabs = s.fabs := (rfl)
@[simp] theorem State.pow_setSer (i : Nat) (x : SerX) : (s.setSer i x).pow = s.pow := (rfl)
@[simp] theorem State.store_setSer (i : Nat) (x : SerX) : (s.setSer i x).store = s.store := (rfl)
@[simp] theorem State.hub_setSer (i : Nat) (x : SerX) : (s.setSer i x).hub = s.hub := (rfl)
@[simp] theorem State.movers_setSer (i : Nat) (x : SerX) : (s.setSer i x).movers = s.movers := (rfl)
@[simp] theorem State.sram_setSer (i : Nat) (x : SerX) : (s.setSer i x).sram = s.sram := (rfl)
@[simp] theorem State.dp_setSer (i : Nat) (x : SerX) : (s.setSer i x).dp = s.dp := (rfl)
@[simp] theorem State.dpAnswer_setSer (i : Nat) (x : SerX) : (s.setSer i x).dpAnswer = s.dpAnswer := (rfl)
@[simp] theorem State.pins_setSer (i : Nat) (x : SerX) : (s.setSer i x).pins = s.pins := (rfl)
@[simp] theorem State.pending_setSer (i : Nat) (x : SerX) : (s.setSer i x).pending = s.pending := (rfl)
@[simp] theorem State.die_setSer (i : Nat) (x : SerX) (u : Nat) : (s.setSer i x).die u = s.die u := (rfl)
@[simp] theorem State.page_setSer (i : Nat) (x : SerX) (u : Nat) : (s.setSer i x).page u = s.page u := (rfl)
@[simp] theorem State.lslot_setSer (i : Nat) (x : SerX) (u : Nat) : (s.setSer i x).lslot u = s.lslot u := (rfl)
@[simp] theorem State.bank_setSer (i : Nat) (x : SerX) (u : Nat) : (s.setSer i x).bank u = s.bank u := (rfl)
@[simp] theorem State.seq_setSer (i : Nat) (x : SerX) (u : Nat) : (s.setSer i x).seq u = s.seq u := (rfl)
@[simp] theorem State.cat_setSer (i : Nat) (x : SerX) (u : Nat) : (s.setSer i x).cat u = s.cat u := (rfl)
@[simp] theorem State.spl_setSer (i : Nat) (x : SerX) (u : Nat) : (s.setSer i x).spl u = s.spl u := (rfl)
@[simp] theorem State.drc_setSer (i : Nat) (x : SerX) (u : Nat) : (s.setSer i x).drc u = s.drc u := (rfl)
@[simp] theorem State.lin_setSer (i : Nat) (x : SerX) (u : Nat) : (s.setSer i x).lin u = s.lin u := (rfl)
@[simp] theorem State.noc_setSer (i : Nat) (x : SerX) (u : Nat) : (s.setSer i x).noc u = s.noc u := (rfl)
@[simp] theorem State.pat_setSer (i : Nat) (x : SerX) (u : Nat) : (s.setSer i x).pat u = s.pat u := (rfl)
@[simp] theorem State.port_setSer (i : Nat) (x : SerX) (u : Nat) : (s.setSer i x).port u = s.port u := (rfl)
@[simp] theorem State.eng_setSer (i : Nat) (x : SerX) (u : Nat) : (s.setSer i x).eng u = s.eng u := (rfl)
@[simp] theorem State.clu_setSer (i : Nat) (x : SerX) (u : Nat) : (s.setSer i x).clu u = s.clu u := (rfl)
@[simp] theorem State.quad_setSer (i : Nat) (x : SerX) (u : Nat) : (s.setSer i x).quad u = s.quad u := (rfl)
@[simp] theorem State.darn_setSer (i : Nat) (x : SerX) (u : Nat) : (s.setSer i x).darn u = s.darn u := (rfl)
@[simp] theorem State.fab_setSer (i : Nat) (x : SerX) (u : Nat) : (s.setSer i x).fab u = s.fab u := (rfl)
@[simp] theorem State.slot_setSer (i : Nat) (x : SerX) (u : Nat) : (s.setSer i x).slot u = s.slot u := (rfl)
@[simp] theorem State.uclk_setSer (i : Nat) (x : SerX) (u : Nat) : (s.setSer i x).uclk u = s.uclk u := (rfl)
@[simp] theorem State.logic_setSer (i : Nat) (x : SerX) (u : Nat) : (s.setSer i x).logic u = s.logic u := (rfl)
@[simp] theorem State.beacon_setSer (i : Nat) (x : SerX) (u : Nat) : (s.setSer i x).beacon u = s.beacon u := (rfl)
@[simp] theorem State.mover_setSer (i : Nat) (x : SerX) (u : Nat) : (s.setSer i x).mover u = s.mover u := (rfl)
@[simp] theorem State.reg_setSer (i : Nat) (x : SerX) (pg' off' : Nat) : (s.setSer i x).reg pg' off' = s.reg pg' off' := (rfl)
@[simp] theorem State.rd_setSer (i : Nat) (x : SerX) (pg' : Nat) (g : Fld) : (s.setSer i x).rd pg' g = s.rd pg' g := (rfl)

@[simp] theorem State.now_setUclk (i : Nat) (x : UclkX) : (s.setUclk i x).now = s.now := (rfl)
@[simp] theorem State.fresh_setUclk (i : Nat) (x : UclkX) : (s.setUclk i x).fresh = s.fresh := (rfl)
@[simp] theorem State.resp_setUclk (i : Nat) (x : UclkX) : (s.setUclk i x).resp = s.resp := (rfl)
@[simp] theorem State.regs_setUclk (i : Nat) (x : UclkX) : (s.setUclk i x).regs = s.regs := (rfl)
@[simp] theorem State.shadow_setUclk (i : Nat) (x : UclkX) : (s.setUclk i x).shadow = s.shadow := (rfl)
@[simp] theorem State.pages_setUclk (i : Nat) (x : UclkX) : (s.setUclk i x).pages = s.pages := (rfl)
@[simp] theorem State.alarms_setUclk (i : Nat) (x : UclkX) : (s.setUclk i x).alarms = s.alarms := (rfl)
@[simp] theorem State.stalls_setUclk (i : Nat) (x : UclkX) : (s.setUclk i x).stalls = s.stalls := (rfl)
@[simp] theorem State.dies_setUclk (i : Nat) (x : UclkX) : (s.setUclk i x).dies = s.dies := (rfl)
@[simp] theorem State.tu_setUclk (i : Nat) (x : UclkX) : (s.setUclk i x).tu = s.tu := (rfl)
@[simp] theorem State.beacons_setUclk (i : Nat) (x : UclkX) : (s.setUclk i x).beacons = s.beacons := (rfl)
@[simp] theorem State.launch_setUclk (i : Nat) (x : UclkX) : (s.setUclk i x).launch = s.launch := (rfl)
@[simp] theorem State.banks_setUclk (i : Nat) (x : UclkX) : (s.setUclk i x).banks = s.banks := (rfl)
@[simp] theorem State.seqs_setUclk (i : Nat) (x : UclkX) : (s.setUclk i x).seqs = s.seqs := (rfl)
@[simp] theorem State.weftTab_setUclk (i : Nat) (x : UclkX) : (s.setUclk i x).weftTab = s.weftTab := (rfl)
@[simp] theorem State.cats_setUclk (i : Nat) (x : UclkX) : (s.setUclk i x).cats = s.cats := (rfl)
@[simp] theorem State.spls_setUclk (i : Nat) (x : UclkX) : (s.setUclk i x).spls = s.spls := (rfl)
@[simp] theorem State.drcs_setUclk (i : Nat) (x : UclkX) : (s.setUclk i x).drcs = s.drcs := (rfl)
@[simp] theorem State.slots_setUclk (i : Nat) (x : UclkX) : (s.setUclk i x).slots = s.slots := (rfl)
@[simp] theorem State.regions_setUclk (i : Nat) (x : UclkX) : (s.setUclk i x).regions = s.regions := (rfl)
@[simp] theorem State.nocs_setUclk (i : Nat) (x : UclkX) : (s.setUclk i x).nocs = s.nocs := (rfl)
@[simp] theorem State.govBal_setUclk (i : Nat) (x : UclkX) : (s.setUclk i x).govBal = s.govBal := (rfl)
@[simp] theorem State.pats_setUclk (i : Nat) (x : UclkX) : (s.setUclk i x).pats = s.pats := (rfl)
@[simp] theorem State.ports_setUclk (i : Nat) (x : UclkX) : (s.setUclk i x).ports = s.ports := (rfl)
@[simp] theorem State.rt_setUclk (i : Nat) (x : UclkX) : (s.setUclk i x).rt = s.rt := (rfl)
@[simp] theorem State.rtHit_setUclk (i : Nat) (x : UclkX) : (s.setUclk i x).rtHit = s.rtHit := (rfl)
@[simp] theorem State.egr_setUclk (i : Nat) (x : UclkX) : (s.setUclk i x).egr = s.egr := (rfl)
@[simp] theorem State.egrGen_setUclk (i : Nat) (x : UclkX) : (s.setUclk i x).egrGen = s.egrGen := (rfl)
@[simp] theorem State.answers_setUclk (i : Nat) (x : UclkX) : (s.setUclk i x).answers = s.answers := (rfl)
@[simp] theorem State.sinks_setUclk (i : Nat) (x : UclkX) : (s.setUclk i x).sinks = s.sinks := (rfl)
@[simp] theorem State.engs_setUclk (i : Nat) (x : UclkX) : (s.setUclk i x).engs = s.engs := (rfl)
@[simp] theorem State.clus_setUclk (i : Nat) (x : UclkX) : (s.setUclk i x).clus = s.clus := (rfl)
@[simp] theorem State.quads_setUclk (i : Nat) (x : UclkX) : (s.setUclk i x).quads = s.quads := (rfl)
@[simp] theorem State.cfg_setUclk (i : Nat) (x : UclkX) : (s.setUclk i x).cfg = s.cfg := (rfl)
@[simp] theorem State.darns_setUclk (i : Nat) (x : UclkX) : (s.setUclk i x).darns = s.darns := (rfl)
@[simp] theorem State.logics_setUclk (i : Nat) (x : UclkX) : (s.setUclk i x).logics = s.logics := (rfl)
@[simp] theorem State.fabs_setUclk (i : Nat) (x : UclkX) : (s.setUclk i x).fabs = s.fabs := (rfl)
@[simp] theorem State.sers_setUclk (i : Nat) (x : UclkX) : (s.setUclk i x).sers = s.sers := (rfl)
@[simp] theorem State.pow_setUclk (i : Nat) (x : UclkX) : (s.setUclk i x).pow = s.pow := (rfl)
@[simp] theorem State.store_setUclk (i : Nat) (x : UclkX) : (s.setUclk i x).store = s.store := (rfl)
@[simp] theorem State.hub_setUclk (i : Nat) (x : UclkX) : (s.setUclk i x).hub = s.hub := (rfl)
@[simp] theorem State.movers_setUclk (i : Nat) (x : UclkX) : (s.setUclk i x).movers = s.movers := (rfl)
@[simp] theorem State.sram_setUclk (i : Nat) (x : UclkX) : (s.setUclk i x).sram = s.sram := (rfl)
@[simp] theorem State.dp_setUclk (i : Nat) (x : UclkX) : (s.setUclk i x).dp = s.dp := (rfl)
@[simp] theorem State.dpAnswer_setUclk (i : Nat) (x : UclkX) : (s.setUclk i x).dpAnswer = s.dpAnswer := (rfl)
@[simp] theorem State.pins_setUclk (i : Nat) (x : UclkX) : (s.setUclk i x).pins = s.pins := (rfl)
@[simp] theorem State.pending_setUclk (i : Nat) (x : UclkX) : (s.setUclk i x).pending = s.pending := (rfl)
@[simp] theorem State.die_setUclk (i : Nat) (x : UclkX) (u : Nat) : (s.setUclk i x).die u = s.die u := (rfl)
@[simp] theorem State.page_setUclk (i : Nat) (x : UclkX) (u : Nat) : (s.setUclk i x).page u = s.page u := (rfl)
@[simp] theorem State.lslot_setUclk (i : Nat) (x : UclkX) (u : Nat) : (s.setUclk i x).lslot u = s.lslot u := (rfl)
@[simp] theorem State.bank_setUclk (i : Nat) (x : UclkX) (u : Nat) : (s.setUclk i x).bank u = s.bank u := (rfl)
@[simp] theorem State.seq_setUclk (i : Nat) (x : UclkX) (u : Nat) : (s.setUclk i x).seq u = s.seq u := (rfl)
@[simp] theorem State.cat_setUclk (i : Nat) (x : UclkX) (u : Nat) : (s.setUclk i x).cat u = s.cat u := (rfl)
@[simp] theorem State.spl_setUclk (i : Nat) (x : UclkX) (u : Nat) : (s.setUclk i x).spl u = s.spl u := (rfl)
@[simp] theorem State.drc_setUclk (i : Nat) (x : UclkX) (u : Nat) : (s.setUclk i x).drc u = s.drc u := (rfl)
@[simp] theorem State.lin_setUclk (i : Nat) (x : UclkX) (u : Nat) : (s.setUclk i x).lin u = s.lin u := (rfl)
@[simp] theorem State.noc_setUclk (i : Nat) (x : UclkX) (u : Nat) : (s.setUclk i x).noc u = s.noc u := (rfl)
@[simp] theorem State.pat_setUclk (i : Nat) (x : UclkX) (u : Nat) : (s.setUclk i x).pat u = s.pat u := (rfl)
@[simp] theorem State.port_setUclk (i : Nat) (x : UclkX) (u : Nat) : (s.setUclk i x).port u = s.port u := (rfl)
@[simp] theorem State.eng_setUclk (i : Nat) (x : UclkX) (u : Nat) : (s.setUclk i x).eng u = s.eng u := (rfl)
@[simp] theorem State.clu_setUclk (i : Nat) (x : UclkX) (u : Nat) : (s.setUclk i x).clu u = s.clu u := (rfl)
@[simp] theorem State.quad_setUclk (i : Nat) (x : UclkX) (u : Nat) : (s.setUclk i x).quad u = s.quad u := (rfl)
@[simp] theorem State.darn_setUclk (i : Nat) (x : UclkX) (u : Nat) : (s.setUclk i x).darn u = s.darn u := (rfl)
@[simp] theorem State.fab_setUclk (i : Nat) (x : UclkX) (u : Nat) : (s.setUclk i x).fab u = s.fab u := (rfl)
@[simp] theorem State.ser_setUclk (i : Nat) (x : UclkX) (u : Nat) : (s.setUclk i x).ser u = s.ser u := (rfl)
@[simp] theorem State.slot_setUclk (i : Nat) (x : UclkX) (u : Nat) : (s.setUclk i x).slot u = s.slot u := (rfl)
@[simp] theorem State.logic_setUclk (i : Nat) (x : UclkX) (u : Nat) : (s.setUclk i x).logic u = s.logic u := (rfl)
@[simp] theorem State.beacon_setUclk (i : Nat) (x : UclkX) (u : Nat) : (s.setUclk i x).beacon u = s.beacon u := (rfl)
@[simp] theorem State.mover_setUclk (i : Nat) (x : UclkX) (u : Nat) : (s.setUclk i x).mover u = s.mover u := (rfl)
@[simp] theorem State.reg_setUclk (i : Nat) (x : UclkX) (pg' off' : Nat) : (s.setUclk i x).reg pg' off' = s.reg pg' off' := (rfl)
@[simp] theorem State.rd_setUclk (i : Nat) (x : UclkX) (pg' : Nat) (g : Fld) : (s.setUclk i x).rd pg' g = s.rd pg' g := (rfl)

@[simp] theorem State.now_setLogic (p : Nat) (x : LogicX) : (s.setLogic p x).now = s.now := (rfl)
@[simp] theorem State.fresh_setLogic (p : Nat) (x : LogicX) : (s.setLogic p x).fresh = s.fresh := (rfl)
@[simp] theorem State.resp_setLogic (p : Nat) (x : LogicX) : (s.setLogic p x).resp = s.resp := (rfl)
@[simp] theorem State.regs_setLogic (p : Nat) (x : LogicX) : (s.setLogic p x).regs = s.regs := (rfl)
@[simp] theorem State.shadow_setLogic (p : Nat) (x : LogicX) : (s.setLogic p x).shadow = s.shadow := (rfl)
@[simp] theorem State.pages_setLogic (p : Nat) (x : LogicX) : (s.setLogic p x).pages = s.pages := (rfl)
@[simp] theorem State.alarms_setLogic (p : Nat) (x : LogicX) : (s.setLogic p x).alarms = s.alarms := (rfl)
@[simp] theorem State.stalls_setLogic (p : Nat) (x : LogicX) : (s.setLogic p x).stalls = s.stalls := (rfl)
@[simp] theorem State.dies_setLogic (p : Nat) (x : LogicX) : (s.setLogic p x).dies = s.dies := (rfl)
@[simp] theorem State.tu_setLogic (p : Nat) (x : LogicX) : (s.setLogic p x).tu = s.tu := (rfl)
@[simp] theorem State.beacons_setLogic (p : Nat) (x : LogicX) : (s.setLogic p x).beacons = s.beacons := (rfl)
@[simp] theorem State.uclks_setLogic (p : Nat) (x : LogicX) : (s.setLogic p x).uclks = s.uclks := (rfl)
@[simp] theorem State.launch_setLogic (p : Nat) (x : LogicX) : (s.setLogic p x).launch = s.launch := (rfl)
@[simp] theorem State.banks_setLogic (p : Nat) (x : LogicX) : (s.setLogic p x).banks = s.banks := (rfl)
@[simp] theorem State.seqs_setLogic (p : Nat) (x : LogicX) : (s.setLogic p x).seqs = s.seqs := (rfl)
@[simp] theorem State.weftTab_setLogic (p : Nat) (x : LogicX) : (s.setLogic p x).weftTab = s.weftTab := (rfl)
@[simp] theorem State.cats_setLogic (p : Nat) (x : LogicX) : (s.setLogic p x).cats = s.cats := (rfl)
@[simp] theorem State.spls_setLogic (p : Nat) (x : LogicX) : (s.setLogic p x).spls = s.spls := (rfl)
@[simp] theorem State.drcs_setLogic (p : Nat) (x : LogicX) : (s.setLogic p x).drcs = s.drcs := (rfl)
@[simp] theorem State.slots_setLogic (p : Nat) (x : LogicX) : (s.setLogic p x).slots = s.slots := (rfl)
@[simp] theorem State.regions_setLogic (p : Nat) (x : LogicX) : (s.setLogic p x).regions = s.regions := (rfl)
@[simp] theorem State.nocs_setLogic (p : Nat) (x : LogicX) : (s.setLogic p x).nocs = s.nocs := (rfl)
@[simp] theorem State.govBal_setLogic (p : Nat) (x : LogicX) : (s.setLogic p x).govBal = s.govBal := (rfl)
@[simp] theorem State.pats_setLogic (p : Nat) (x : LogicX) : (s.setLogic p x).pats = s.pats := (rfl)
@[simp] theorem State.ports_setLogic (p : Nat) (x : LogicX) : (s.setLogic p x).ports = s.ports := (rfl)
@[simp] theorem State.rt_setLogic (p : Nat) (x : LogicX) : (s.setLogic p x).rt = s.rt := (rfl)
@[simp] theorem State.rtHit_setLogic (p : Nat) (x : LogicX) : (s.setLogic p x).rtHit = s.rtHit := (rfl)
@[simp] theorem State.egr_setLogic (p : Nat) (x : LogicX) : (s.setLogic p x).egr = s.egr := (rfl)
@[simp] theorem State.egrGen_setLogic (p : Nat) (x : LogicX) : (s.setLogic p x).egrGen = s.egrGen := (rfl)
@[simp] theorem State.answers_setLogic (p : Nat) (x : LogicX) : (s.setLogic p x).answers = s.answers := (rfl)
@[simp] theorem State.sinks_setLogic (p : Nat) (x : LogicX) : (s.setLogic p x).sinks = s.sinks := (rfl)
@[simp] theorem State.engs_setLogic (p : Nat) (x : LogicX) : (s.setLogic p x).engs = s.engs := (rfl)
@[simp] theorem State.clus_setLogic (p : Nat) (x : LogicX) : (s.setLogic p x).clus = s.clus := (rfl)
@[simp] theorem State.quads_setLogic (p : Nat) (x : LogicX) : (s.setLogic p x).quads = s.quads := (rfl)
@[simp] theorem State.cfg_setLogic (p : Nat) (x : LogicX) : (s.setLogic p x).cfg = s.cfg := (rfl)
@[simp] theorem State.darns_setLogic (p : Nat) (x : LogicX) : (s.setLogic p x).darns = s.darns := (rfl)
@[simp] theorem State.fabs_setLogic (p : Nat) (x : LogicX) : (s.setLogic p x).fabs = s.fabs := (rfl)
@[simp] theorem State.sers_setLogic (p : Nat) (x : LogicX) : (s.setLogic p x).sers = s.sers := (rfl)
@[simp] theorem State.pow_setLogic (p : Nat) (x : LogicX) : (s.setLogic p x).pow = s.pow := (rfl)
@[simp] theorem State.store_setLogic (p : Nat) (x : LogicX) : (s.setLogic p x).store = s.store := (rfl)
@[simp] theorem State.hub_setLogic (p : Nat) (x : LogicX) : (s.setLogic p x).hub = s.hub := (rfl)
@[simp] theorem State.movers_setLogic (p : Nat) (x : LogicX) : (s.setLogic p x).movers = s.movers := (rfl)
@[simp] theorem State.sram_setLogic (p : Nat) (x : LogicX) : (s.setLogic p x).sram = s.sram := (rfl)
@[simp] theorem State.dp_setLogic (p : Nat) (x : LogicX) : (s.setLogic p x).dp = s.dp := (rfl)
@[simp] theorem State.dpAnswer_setLogic (p : Nat) (x : LogicX) : (s.setLogic p x).dpAnswer = s.dpAnswer := (rfl)
@[simp] theorem State.pins_setLogic (p : Nat) (x : LogicX) : (s.setLogic p x).pins = s.pins := (rfl)
@[simp] theorem State.pending_setLogic (p : Nat) (x : LogicX) : (s.setLogic p x).pending = s.pending := (rfl)
@[simp] theorem State.die_setLogic (p : Nat) (x : LogicX) (u : Nat) : (s.setLogic p x).die u = s.die u := (rfl)
@[simp] theorem State.page_setLogic (p : Nat) (x : LogicX) (u : Nat) : (s.setLogic p x).page u = s.page u := (rfl)
@[simp] theorem State.lslot_setLogic (p : Nat) (x : LogicX) (u : Nat) : (s.setLogic p x).lslot u = s.lslot u := (rfl)
@[simp] theorem State.bank_setLogic (p : Nat) (x : LogicX) (u : Nat) : (s.setLogic p x).bank u = s.bank u := (rfl)
@[simp] theorem State.seq_setLogic (p : Nat) (x : LogicX) (u : Nat) : (s.setLogic p x).seq u = s.seq u := (rfl)
@[simp] theorem State.cat_setLogic (p : Nat) (x : LogicX) (u : Nat) : (s.setLogic p x).cat u = s.cat u := (rfl)
@[simp] theorem State.spl_setLogic (p : Nat) (x : LogicX) (u : Nat) : (s.setLogic p x).spl u = s.spl u := (rfl)
@[simp] theorem State.drc_setLogic (p : Nat) (x : LogicX) (u : Nat) : (s.setLogic p x).drc u = s.drc u := (rfl)
@[simp] theorem State.lin_setLogic (p : Nat) (x : LogicX) (u : Nat) : (s.setLogic p x).lin u = s.lin u := (rfl)
@[simp] theorem State.noc_setLogic (p : Nat) (x : LogicX) (u : Nat) : (s.setLogic p x).noc u = s.noc u := (rfl)
@[simp] theorem State.pat_setLogic (p : Nat) (x : LogicX) (u : Nat) : (s.setLogic p x).pat u = s.pat u := (rfl)
@[simp] theorem State.port_setLogic (p : Nat) (x : LogicX) (u : Nat) : (s.setLogic p x).port u = s.port u := (rfl)
@[simp] theorem State.eng_setLogic (p : Nat) (x : LogicX) (u : Nat) : (s.setLogic p x).eng u = s.eng u := (rfl)
@[simp] theorem State.clu_setLogic (p : Nat) (x : LogicX) (u : Nat) : (s.setLogic p x).clu u = s.clu u := (rfl)
@[simp] theorem State.quad_setLogic (p : Nat) (x : LogicX) (u : Nat) : (s.setLogic p x).quad u = s.quad u := (rfl)
@[simp] theorem State.darn_setLogic (p : Nat) (x : LogicX) (u : Nat) : (s.setLogic p x).darn u = s.darn u := (rfl)
@[simp] theorem State.fab_setLogic (p : Nat) (x : LogicX) (u : Nat) : (s.setLogic p x).fab u = s.fab u := (rfl)
@[simp] theorem State.ser_setLogic (p : Nat) (x : LogicX) (u : Nat) : (s.setLogic p x).ser u = s.ser u := (rfl)
@[simp] theorem State.slot_setLogic (p : Nat) (x : LogicX) (u : Nat) : (s.setLogic p x).slot u = s.slot u := (rfl)
@[simp] theorem State.uclk_setLogic (p : Nat) (x : LogicX) (u : Nat) : (s.setLogic p x).uclk u = s.uclk u := (rfl)
@[simp] theorem State.beacon_setLogic (p : Nat) (x : LogicX) (u : Nat) : (s.setLogic p x).beacon u = s.beacon u := (rfl)
@[simp] theorem State.mover_setLogic (p : Nat) (x : LogicX) (u : Nat) : (s.setLogic p x).mover u = s.mover u := (rfl)
@[simp] theorem State.reg_setLogic (p : Nat) (x : LogicX) (pg' off' : Nat) : (s.setLogic p x).reg pg' off' = s.reg pg' off' := (rfl)
@[simp] theorem State.rd_setLogic (p : Nat) (x : LogicX) (pg' : Nat) (g : Fld) : (s.setLogic p x).rd pg' g = s.rd pg' g := (rfl)

@[simp] theorem State.now_setBeacon (p : Nat) (x : BeaconX) : (s.setBeacon p x).now = s.now := (rfl)
@[simp] theorem State.fresh_setBeacon (p : Nat) (x : BeaconX) : (s.setBeacon p x).fresh = s.fresh := (rfl)
@[simp] theorem State.resp_setBeacon (p : Nat) (x : BeaconX) : (s.setBeacon p x).resp = s.resp := (rfl)
@[simp] theorem State.regs_setBeacon (p : Nat) (x : BeaconX) : (s.setBeacon p x).regs = s.regs := (rfl)
@[simp] theorem State.shadow_setBeacon (p : Nat) (x : BeaconX) : (s.setBeacon p x).shadow = s.shadow := (rfl)
@[simp] theorem State.pages_setBeacon (p : Nat) (x : BeaconX) : (s.setBeacon p x).pages = s.pages := (rfl)
@[simp] theorem State.alarms_setBeacon (p : Nat) (x : BeaconX) : (s.setBeacon p x).alarms = s.alarms := (rfl)
@[simp] theorem State.stalls_setBeacon (p : Nat) (x : BeaconX) : (s.setBeacon p x).stalls = s.stalls := (rfl)
@[simp] theorem State.dies_setBeacon (p : Nat) (x : BeaconX) : (s.setBeacon p x).dies = s.dies := (rfl)
@[simp] theorem State.tu_setBeacon (p : Nat) (x : BeaconX) : (s.setBeacon p x).tu = s.tu := (rfl)
@[simp] theorem State.uclks_setBeacon (p : Nat) (x : BeaconX) : (s.setBeacon p x).uclks = s.uclks := (rfl)
@[simp] theorem State.launch_setBeacon (p : Nat) (x : BeaconX) : (s.setBeacon p x).launch = s.launch := (rfl)
@[simp] theorem State.banks_setBeacon (p : Nat) (x : BeaconX) : (s.setBeacon p x).banks = s.banks := (rfl)
@[simp] theorem State.seqs_setBeacon (p : Nat) (x : BeaconX) : (s.setBeacon p x).seqs = s.seqs := (rfl)
@[simp] theorem State.weftTab_setBeacon (p : Nat) (x : BeaconX) : (s.setBeacon p x).weftTab = s.weftTab := (rfl)
@[simp] theorem State.cats_setBeacon (p : Nat) (x : BeaconX) : (s.setBeacon p x).cats = s.cats := (rfl)
@[simp] theorem State.spls_setBeacon (p : Nat) (x : BeaconX) : (s.setBeacon p x).spls = s.spls := (rfl)
@[simp] theorem State.drcs_setBeacon (p : Nat) (x : BeaconX) : (s.setBeacon p x).drcs = s.drcs := (rfl)
@[simp] theorem State.slots_setBeacon (p : Nat) (x : BeaconX) : (s.setBeacon p x).slots = s.slots := (rfl)
@[simp] theorem State.regions_setBeacon (p : Nat) (x : BeaconX) : (s.setBeacon p x).regions = s.regions := (rfl)
@[simp] theorem State.nocs_setBeacon (p : Nat) (x : BeaconX) : (s.setBeacon p x).nocs = s.nocs := (rfl)
@[simp] theorem State.govBal_setBeacon (p : Nat) (x : BeaconX) : (s.setBeacon p x).govBal = s.govBal := (rfl)
@[simp] theorem State.pats_setBeacon (p : Nat) (x : BeaconX) : (s.setBeacon p x).pats = s.pats := (rfl)
@[simp] theorem State.ports_setBeacon (p : Nat) (x : BeaconX) : (s.setBeacon p x).ports = s.ports := (rfl)
@[simp] theorem State.rt_setBeacon (p : Nat) (x : BeaconX) : (s.setBeacon p x).rt = s.rt := (rfl)
@[simp] theorem State.rtHit_setBeacon (p : Nat) (x : BeaconX) : (s.setBeacon p x).rtHit = s.rtHit := (rfl)
@[simp] theorem State.egr_setBeacon (p : Nat) (x : BeaconX) : (s.setBeacon p x).egr = s.egr := (rfl)
@[simp] theorem State.egrGen_setBeacon (p : Nat) (x : BeaconX) : (s.setBeacon p x).egrGen = s.egrGen := (rfl)
@[simp] theorem State.answers_setBeacon (p : Nat) (x : BeaconX) : (s.setBeacon p x).answers = s.answers := (rfl)
@[simp] theorem State.sinks_setBeacon (p : Nat) (x : BeaconX) : (s.setBeacon p x).sinks = s.sinks := (rfl)
@[simp] theorem State.engs_setBeacon (p : Nat) (x : BeaconX) : (s.setBeacon p x).engs = s.engs := (rfl)
@[simp] theorem State.clus_setBeacon (p : Nat) (x : BeaconX) : (s.setBeacon p x).clus = s.clus := (rfl)
@[simp] theorem State.quads_setBeacon (p : Nat) (x : BeaconX) : (s.setBeacon p x).quads = s.quads := (rfl)
@[simp] theorem State.cfg_setBeacon (p : Nat) (x : BeaconX) : (s.setBeacon p x).cfg = s.cfg := (rfl)
@[simp] theorem State.darns_setBeacon (p : Nat) (x : BeaconX) : (s.setBeacon p x).darns = s.darns := (rfl)
@[simp] theorem State.logics_setBeacon (p : Nat) (x : BeaconX) : (s.setBeacon p x).logics = s.logics := (rfl)
@[simp] theorem State.fabs_setBeacon (p : Nat) (x : BeaconX) : (s.setBeacon p x).fabs = s.fabs := (rfl)
@[simp] theorem State.sers_setBeacon (p : Nat) (x : BeaconX) : (s.setBeacon p x).sers = s.sers := (rfl)
@[simp] theorem State.pow_setBeacon (p : Nat) (x : BeaconX) : (s.setBeacon p x).pow = s.pow := (rfl)
@[simp] theorem State.store_setBeacon (p : Nat) (x : BeaconX) : (s.setBeacon p x).store = s.store := (rfl)
@[simp] theorem State.hub_setBeacon (p : Nat) (x : BeaconX) : (s.setBeacon p x).hub = s.hub := (rfl)
@[simp] theorem State.movers_setBeacon (p : Nat) (x : BeaconX) : (s.setBeacon p x).movers = s.movers := (rfl)
@[simp] theorem State.sram_setBeacon (p : Nat) (x : BeaconX) : (s.setBeacon p x).sram = s.sram := (rfl)
@[simp] theorem State.dp_setBeacon (p : Nat) (x : BeaconX) : (s.setBeacon p x).dp = s.dp := (rfl)
@[simp] theorem State.dpAnswer_setBeacon (p : Nat) (x : BeaconX) : (s.setBeacon p x).dpAnswer = s.dpAnswer := (rfl)
@[simp] theorem State.pins_setBeacon (p : Nat) (x : BeaconX) : (s.setBeacon p x).pins = s.pins := (rfl)
@[simp] theorem State.pending_setBeacon (p : Nat) (x : BeaconX) : (s.setBeacon p x).pending = s.pending := (rfl)
@[simp] theorem State.die_setBeacon (p : Nat) (x : BeaconX) (u : Nat) : (s.setBeacon p x).die u = s.die u := (rfl)
@[simp] theorem State.page_setBeacon (p : Nat) (x : BeaconX) (u : Nat) : (s.setBeacon p x).page u = s.page u := (rfl)
@[simp] theorem State.lslot_setBeacon (p : Nat) (x : BeaconX) (u : Nat) : (s.setBeacon p x).lslot u = s.lslot u := (rfl)
@[simp] theorem State.bank_setBeacon (p : Nat) (x : BeaconX) (u : Nat) : (s.setBeacon p x).bank u = s.bank u := (rfl)
@[simp] theorem State.seq_setBeacon (p : Nat) (x : BeaconX) (u : Nat) : (s.setBeacon p x).seq u = s.seq u := (rfl)
@[simp] theorem State.cat_setBeacon (p : Nat) (x : BeaconX) (u : Nat) : (s.setBeacon p x).cat u = s.cat u := (rfl)
@[simp] theorem State.spl_setBeacon (p : Nat) (x : BeaconX) (u : Nat) : (s.setBeacon p x).spl u = s.spl u := (rfl)
@[simp] theorem State.drc_setBeacon (p : Nat) (x : BeaconX) (u : Nat) : (s.setBeacon p x).drc u = s.drc u := (rfl)
@[simp] theorem State.lin_setBeacon (p : Nat) (x : BeaconX) (u : Nat) : (s.setBeacon p x).lin u = s.lin u := (rfl)
@[simp] theorem State.noc_setBeacon (p : Nat) (x : BeaconX) (u : Nat) : (s.setBeacon p x).noc u = s.noc u := (rfl)
@[simp] theorem State.pat_setBeacon (p : Nat) (x : BeaconX) (u : Nat) : (s.setBeacon p x).pat u = s.pat u := (rfl)
@[simp] theorem State.port_setBeacon (p : Nat) (x : BeaconX) (u : Nat) : (s.setBeacon p x).port u = s.port u := (rfl)
@[simp] theorem State.eng_setBeacon (p : Nat) (x : BeaconX) (u : Nat) : (s.setBeacon p x).eng u = s.eng u := (rfl)
@[simp] theorem State.clu_setBeacon (p : Nat) (x : BeaconX) (u : Nat) : (s.setBeacon p x).clu u = s.clu u := (rfl)
@[simp] theorem State.quad_setBeacon (p : Nat) (x : BeaconX) (u : Nat) : (s.setBeacon p x).quad u = s.quad u := (rfl)
@[simp] theorem State.darn_setBeacon (p : Nat) (x : BeaconX) (u : Nat) : (s.setBeacon p x).darn u = s.darn u := (rfl)
@[simp] theorem State.fab_setBeacon (p : Nat) (x : BeaconX) (u : Nat) : (s.setBeacon p x).fab u = s.fab u := (rfl)
@[simp] theorem State.ser_setBeacon (p : Nat) (x : BeaconX) (u : Nat) : (s.setBeacon p x).ser u = s.ser u := (rfl)
@[simp] theorem State.slot_setBeacon (p : Nat) (x : BeaconX) (u : Nat) : (s.setBeacon p x).slot u = s.slot u := (rfl)
@[simp] theorem State.uclk_setBeacon (p : Nat) (x : BeaconX) (u : Nat) : (s.setBeacon p x).uclk u = s.uclk u := (rfl)
@[simp] theorem State.logic_setBeacon (p : Nat) (x : BeaconX) (u : Nat) : (s.setBeacon p x).logic u = s.logic u := (rfl)
@[simp] theorem State.mover_setBeacon (p : Nat) (x : BeaconX) (u : Nat) : (s.setBeacon p x).mover u = s.mover u := (rfl)
@[simp] theorem State.reg_setBeacon (p : Nat) (x : BeaconX) (pg' off' : Nat) : (s.setBeacon p x).reg pg' off' = s.reg pg' off' := (rfl)
@[simp] theorem State.rd_setBeacon (p : Nat) (x : BeaconX) (pg' : Nat) (g : Fld) : (s.setBeacon p x).rd pg' g = s.rd pg' g := (rfl)

@[simp] theorem State.now_setMover (m : Nat) (x : MoverX) : (s.setMover m x).now = s.now := (rfl)
@[simp] theorem State.fresh_setMover (m : Nat) (x : MoverX) : (s.setMover m x).fresh = s.fresh := (rfl)
@[simp] theorem State.resp_setMover (m : Nat) (x : MoverX) : (s.setMover m x).resp = s.resp := (rfl)
@[simp] theorem State.regs_setMover (m : Nat) (x : MoverX) : (s.setMover m x).regs = s.regs := (rfl)
@[simp] theorem State.shadow_setMover (m : Nat) (x : MoverX) : (s.setMover m x).shadow = s.shadow := (rfl)
@[simp] theorem State.pages_setMover (m : Nat) (x : MoverX) : (s.setMover m x).pages = s.pages := (rfl)
@[simp] theorem State.alarms_setMover (m : Nat) (x : MoverX) : (s.setMover m x).alarms = s.alarms := (rfl)
@[simp] theorem State.stalls_setMover (m : Nat) (x : MoverX) : (s.setMover m x).stalls = s.stalls := (rfl)
@[simp] theorem State.dies_setMover (m : Nat) (x : MoverX) : (s.setMover m x).dies = s.dies := (rfl)
@[simp] theorem State.tu_setMover (m : Nat) (x : MoverX) : (s.setMover m x).tu = s.tu := (rfl)
@[simp] theorem State.beacons_setMover (m : Nat) (x : MoverX) : (s.setMover m x).beacons = s.beacons := (rfl)
@[simp] theorem State.uclks_setMover (m : Nat) (x : MoverX) : (s.setMover m x).uclks = s.uclks := (rfl)
@[simp] theorem State.launch_setMover (m : Nat) (x : MoverX) : (s.setMover m x).launch = s.launch := (rfl)
@[simp] theorem State.banks_setMover (m : Nat) (x : MoverX) : (s.setMover m x).banks = s.banks := (rfl)
@[simp] theorem State.seqs_setMover (m : Nat) (x : MoverX) : (s.setMover m x).seqs = s.seqs := (rfl)
@[simp] theorem State.weftTab_setMover (m : Nat) (x : MoverX) : (s.setMover m x).weftTab = s.weftTab := (rfl)
@[simp] theorem State.cats_setMover (m : Nat) (x : MoverX) : (s.setMover m x).cats = s.cats := (rfl)
@[simp] theorem State.spls_setMover (m : Nat) (x : MoverX) : (s.setMover m x).spls = s.spls := (rfl)
@[simp] theorem State.drcs_setMover (m : Nat) (x : MoverX) : (s.setMover m x).drcs = s.drcs := (rfl)
@[simp] theorem State.slots_setMover (m : Nat) (x : MoverX) : (s.setMover m x).slots = s.slots := (rfl)
@[simp] theorem State.regions_setMover (m : Nat) (x : MoverX) : (s.setMover m x).regions = s.regions := (rfl)
@[simp] theorem State.nocs_setMover (m : Nat) (x : MoverX) : (s.setMover m x).nocs = s.nocs := (rfl)
@[simp] theorem State.govBal_setMover (m : Nat) (x : MoverX) : (s.setMover m x).govBal = s.govBal := (rfl)
@[simp] theorem State.pats_setMover (m : Nat) (x : MoverX) : (s.setMover m x).pats = s.pats := (rfl)
@[simp] theorem State.ports_setMover (m : Nat) (x : MoverX) : (s.setMover m x).ports = s.ports := (rfl)
@[simp] theorem State.rt_setMover (m : Nat) (x : MoverX) : (s.setMover m x).rt = s.rt := (rfl)
@[simp] theorem State.rtHit_setMover (m : Nat) (x : MoverX) : (s.setMover m x).rtHit = s.rtHit := (rfl)
@[simp] theorem State.egr_setMover (m : Nat) (x : MoverX) : (s.setMover m x).egr = s.egr := (rfl)
@[simp] theorem State.egrGen_setMover (m : Nat) (x : MoverX) : (s.setMover m x).egrGen = s.egrGen := (rfl)
@[simp] theorem State.answers_setMover (m : Nat) (x : MoverX) : (s.setMover m x).answers = s.answers := (rfl)
@[simp] theorem State.sinks_setMover (m : Nat) (x : MoverX) : (s.setMover m x).sinks = s.sinks := (rfl)
@[simp] theorem State.engs_setMover (m : Nat) (x : MoverX) : (s.setMover m x).engs = s.engs := (rfl)
@[simp] theorem State.clus_setMover (m : Nat) (x : MoverX) : (s.setMover m x).clus = s.clus := (rfl)
@[simp] theorem State.quads_setMover (m : Nat) (x : MoverX) : (s.setMover m x).quads = s.quads := (rfl)
@[simp] theorem State.cfg_setMover (m : Nat) (x : MoverX) : (s.setMover m x).cfg = s.cfg := (rfl)
@[simp] theorem State.darns_setMover (m : Nat) (x : MoverX) : (s.setMover m x).darns = s.darns := (rfl)
@[simp] theorem State.logics_setMover (m : Nat) (x : MoverX) : (s.setMover m x).logics = s.logics := (rfl)
@[simp] theorem State.fabs_setMover (m : Nat) (x : MoverX) : (s.setMover m x).fabs = s.fabs := (rfl)
@[simp] theorem State.sers_setMover (m : Nat) (x : MoverX) : (s.setMover m x).sers = s.sers := (rfl)
@[simp] theorem State.pow_setMover (m : Nat) (x : MoverX) : (s.setMover m x).pow = s.pow := (rfl)
@[simp] theorem State.store_setMover (m : Nat) (x : MoverX) : (s.setMover m x).store = s.store := (rfl)
@[simp] theorem State.hub_setMover (m : Nat) (x : MoverX) : (s.setMover m x).hub = s.hub := (rfl)
@[simp] theorem State.sram_setMover (m : Nat) (x : MoverX) : (s.setMover m x).sram = s.sram := (rfl)
@[simp] theorem State.dp_setMover (m : Nat) (x : MoverX) : (s.setMover m x).dp = s.dp := (rfl)
@[simp] theorem State.dpAnswer_setMover (m : Nat) (x : MoverX) : (s.setMover m x).dpAnswer = s.dpAnswer := (rfl)
@[simp] theorem State.pins_setMover (m : Nat) (x : MoverX) : (s.setMover m x).pins = s.pins := (rfl)
@[simp] theorem State.pending_setMover (m : Nat) (x : MoverX) : (s.setMover m x).pending = s.pending := (rfl)
@[simp] theorem State.die_setMover (m : Nat) (x : MoverX) (u : Nat) : (s.setMover m x).die u = s.die u := (rfl)
@[simp] theorem State.page_setMover (m : Nat) (x : MoverX) (u : Nat) : (s.setMover m x).page u = s.page u := (rfl)
@[simp] theorem State.lslot_setMover (m : Nat) (x : MoverX) (u : Nat) : (s.setMover m x).lslot u = s.lslot u := (rfl)
@[simp] theorem State.bank_setMover (m : Nat) (x : MoverX) (u : Nat) : (s.setMover m x).bank u = s.bank u := (rfl)
@[simp] theorem State.seq_setMover (m : Nat) (x : MoverX) (u : Nat) : (s.setMover m x).seq u = s.seq u := (rfl)
@[simp] theorem State.cat_setMover (m : Nat) (x : MoverX) (u : Nat) : (s.setMover m x).cat u = s.cat u := (rfl)
@[simp] theorem State.spl_setMover (m : Nat) (x : MoverX) (u : Nat) : (s.setMover m x).spl u = s.spl u := (rfl)
@[simp] theorem State.drc_setMover (m : Nat) (x : MoverX) (u : Nat) : (s.setMover m x).drc u = s.drc u := (rfl)
@[simp] theorem State.lin_setMover (m : Nat) (x : MoverX) (u : Nat) : (s.setMover m x).lin u = s.lin u := (rfl)
@[simp] theorem State.noc_setMover (m : Nat) (x : MoverX) (u : Nat) : (s.setMover m x).noc u = s.noc u := (rfl)
@[simp] theorem State.pat_setMover (m : Nat) (x : MoverX) (u : Nat) : (s.setMover m x).pat u = s.pat u := (rfl)
@[simp] theorem State.port_setMover (m : Nat) (x : MoverX) (u : Nat) : (s.setMover m x).port u = s.port u := (rfl)
@[simp] theorem State.eng_setMover (m : Nat) (x : MoverX) (u : Nat) : (s.setMover m x).eng u = s.eng u := (rfl)
@[simp] theorem State.clu_setMover (m : Nat) (x : MoverX) (u : Nat) : (s.setMover m x).clu u = s.clu u := (rfl)
@[simp] theorem State.quad_setMover (m : Nat) (x : MoverX) (u : Nat) : (s.setMover m x).quad u = s.quad u := (rfl)
@[simp] theorem State.darn_setMover (m : Nat) (x : MoverX) (u : Nat) : (s.setMover m x).darn u = s.darn u := (rfl)
@[simp] theorem State.fab_setMover (m : Nat) (x : MoverX) (u : Nat) : (s.setMover m x).fab u = s.fab u := (rfl)
@[simp] theorem State.ser_setMover (m : Nat) (x : MoverX) (u : Nat) : (s.setMover m x).ser u = s.ser u := (rfl)
@[simp] theorem State.slot_setMover (m : Nat) (x : MoverX) (u : Nat) : (s.setMover m x).slot u = s.slot u := (rfl)
@[simp] theorem State.uclk_setMover (m : Nat) (x : MoverX) (u : Nat) : (s.setMover m x).uclk u = s.uclk u := (rfl)
@[simp] theorem State.logic_setMover (m : Nat) (x : MoverX) (u : Nat) : (s.setMover m x).logic u = s.logic u := (rfl)
@[simp] theorem State.beacon_setMover (m : Nat) (x : MoverX) (u : Nat) : (s.setMover m x).beacon u = s.beacon u := (rfl)
@[simp] theorem State.reg_setMover (m : Nat) (x : MoverX) (pg' off' : Nat) : (s.setMover m x).reg pg' off' = s.reg pg' off' := (rfl)
@[simp] theorem State.rd_setMover (m : Nat) (x : MoverX) (pg' : Nat) (g : Fld) : (s.setMover m x).rd pg' g = s.rd pg' g := (rfl)

@[simp] theorem State.die_setDie_self (d : Nat) (x : DieX) : (s.setDie d x).die d = x := Tbl.getD_setD_self _ _ _ _
theorem State.die_setDie_of_ne (d : Nat) (x : DieX) {k' : Nat} (h : k' ≠ d) : (s.setDie d x).die k' = s.die k' :=
  Tbl.getD_setD_of_ne _ _ _ _ h
@[simp] theorem State.page_setPage_self (pg : Nat) (x : PageX) : (s.setPage pg x).page pg = x := Tbl.getD_setD_self _ _ _ _
theorem State.page_setPage_of_ne (pg : Nat) (x : PageX) {k' : Nat} (h : k' ≠ pg) : (s.setPage pg x).page k' = s.page k' :=
  Tbl.getD_setD_of_ne _ _ _ _ h
@[simp] theorem State.lslot_setLslot_self (i : Nat) (x : LaunchSlot) : (s.setLslot i x).lslot i = x := Tbl.getD_setD_self _ _ _ _
theorem State.lslot_setLslot_of_ne (i : Nat) (x : LaunchSlot) {k' : Nat} (h : k' ≠ i) : (s.setLslot i x).lslot k' = s.lslot k' :=
  Tbl.getD_setD_of_ne _ _ _ _ h
@[simp] theorem State.bank_setBank_self (b : Nat) (x : BankX) : (s.setBank b x).bank b = x := Tbl.getD_setD_self _ _ _ _
theorem State.bank_setBank_of_ne (b : Nat) (x : BankX) {k' : Nat} (h : k' ≠ b) : (s.setBank b x).bank k' = s.bank k' :=
  Tbl.getD_setD_of_ne _ _ _ _ h
@[simp] theorem State.seq_setSeq_self (b : Nat) (x : SeqX) : (s.setSeq b x).seq b = x := Tbl.getD_setD_self _ _ _ _
theorem State.seq_setSeq_of_ne (b : Nat) (x : SeqX) {k' : Nat} (h : k' ≠ b) : (s.setSeq b x).seq k' = s.seq k' :=
  Tbl.getD_setD_of_ne _ _ _ _ h
@[simp] theorem State.cat_setCat_self (p : Nat) (x : CatX) : (s.setCat p x).cat p = x := Tbl.getD_setD_self _ _ _ _
theorem State.cat_setCat_of_ne (p : Nat) (x : CatX) {k' : Nat} (h : k' ≠ p) : (s.setCat p x).cat k' = s.cat k' :=
  Tbl.getD_setD_of_ne _ _ _ _ h
@[simp] theorem State.spl_setSpl_self (p : Nat) (x : SplX) : (s.setSpl p x).spl p = x := Tbl.getD_setD_self _ _ _ _
theorem State.spl_setSpl_of_ne (p : Nat) (x : SplX) {k' : Nat} (h : k' ≠ p) : (s.setSpl p x).spl k' = s.spl k' :=
  Tbl.getD_setD_of_ne _ _ _ _ h
@[simp] theorem State.drc_setDrc_self (k : Nat) (x : DrcX) : (s.setDrc k x).drc k = x := Tbl.getD_setD_self _ _ _ _
theorem State.drc_setDrc_of_ne (k : Nat) (x : DrcX) {k' : Nat} (h : k' ≠ k) : (s.setDrc k x).drc k' = s.drc k' :=
  Tbl.getD_setD_of_ne _ _ _ _ h
@[simp] theorem State.lin_setLin_self (r : Nat) (x : LinX) : (s.setLin r x).lin r = x := Tbl.getD_setD_self _ _ _ _
theorem State.lin_setLin_of_ne (r : Nat) (x : LinX) {k' : Nat} (h : k' ≠ r) : (s.setLin r x).lin k' = s.lin k' :=
  Tbl.getD_setD_of_ne _ _ _ _ h
@[simp] theorem State.noc_setNoc_self (d : Nat) (x : NocX) : (s.setNoc d x).noc d = x := Tbl.getD_setD_self _ _ _ _
theorem State.noc_setNoc_of_ne (d : Nat) (x : NocX) {k' : Nat} (h : k' ≠ d) : (s.setNoc d x).noc k' = s.noc k' :=
  Tbl.getD_setD_of_ne _ _ _ _ h
@[simp] theorem State.port_setPort_self (p : Nat) (x : PortX) : (s.setPort p x).port p = x := Tbl.getD_setD_self _ _ _ _
theorem State.port_setPort_of_ne (p : Nat) (x : PortX) {k' : Nat} (h : k' ≠ p) : (s.setPort p x).port k' = s.port k' :=
  Tbl.getD_setD_of_ne _ _ _ _ h
@[simp] theorem State.eng_setEng_self (e : Nat) (x : EngX) : (s.setEng e x).eng e = x := Tbl.getD_setD_self _ _ _ _
theorem State.eng_setEng_of_ne (e : Nat) (x : EngX) {k' : Nat} (h : k' ≠ e) : (s.setEng e x).eng k' = s.eng k' :=
  Tbl.getD_setD_of_ne _ _ _ _ h
@[simp] theorem State.clu_setClu_self (c : Nat) (x : CluX) : (s.setClu c x).clu c = x := Tbl.getD_setD_self _ _ _ _
theorem State.clu_setClu_of_ne (c : Nat) (x : CluX) {k' : Nat} (h : k' ≠ c) : (s.setClu c x).clu k' = s.clu k' :=
  Tbl.getD_setD_of_ne _ _ _ _ h
@[simp] theorem State.quad_setQuad_self (q : Nat) (x : QuadX) : (s.setQuad q x).quad q = x := Tbl.getD_setD_self _ _ _ _
theorem State.quad_setQuad_of_ne (q : Nat) (x : QuadX) {k' : Nat} (h : k' ≠ q) : (s.setQuad q x).quad k' = s.quad k' :=
  Tbl.getD_setD_of_ne _ _ _ _ h
@[simp] theorem State.darn_setDarn_self (p : Nat) (x : DarnX) : (s.setDarn p x).darn p = x := Tbl.getD_setD_self _ _ _ _
theorem State.darn_setDarn_of_ne (p : Nat) (x : DarnX) {k' : Nat} (h : k' ≠ p) : (s.setDarn p x).darn k' = s.darn k' :=
  Tbl.getD_setD_of_ne _ _ _ _ h
@[simp] theorem State.fab_setFab_self (i : Nat) (x : FabX) : (s.setFab i x).fab i = x := Tbl.getD_setD_self _ _ _ _
theorem State.fab_setFab_of_ne (i : Nat) (x : FabX) {k' : Nat} (h : k' ≠ i) : (s.setFab i x).fab k' = s.fab k' :=
  Tbl.getD_setD_of_ne _ _ _ _ h
@[simp] theorem State.ser_setSer_self (i : Nat) (x : SerX) : (s.setSer i x).ser i = x := Tbl.getD_setD_self _ _ _ _
theorem State.ser_setSer_of_ne (i : Nat) (x : SerX) {k' : Nat} (h : k' ≠ i) : (s.setSer i x).ser k' = s.ser k' :=
  Tbl.getD_setD_of_ne _ _ _ _ h
@[simp] theorem State.uclk_setUclk_self (i : Nat) (x : UclkX) : (s.setUclk i x).uclk i = x := Tbl.getD_setD_self _ _ _ _
theorem State.uclk_setUclk_of_ne (i : Nat) (x : UclkX) {k' : Nat} (h : k' ≠ i) : (s.setUclk i x).uclk k' = s.uclk k' :=
  Tbl.getD_setD_of_ne _ _ _ _ h
@[simp] theorem State.logic_setLogic_self (p : Nat) (x : LogicX) : (s.setLogic p x).logic p = x := Tbl.getD_setD_self _ _ _ _
theorem State.logic_setLogic_of_ne (p : Nat) (x : LogicX) {k' : Nat} (h : k' ≠ p) : (s.setLogic p x).logic k' = s.logic k' :=
  Tbl.getD_setD_of_ne _ _ _ _ h
@[simp] theorem State.beacon_setBeacon_self (p : Nat) (x : BeaconX) : (s.setBeacon p x).beacon p = x := Tbl.getD_setD_self _ _ _ _
theorem State.beacon_setBeacon_of_ne (p : Nat) (x : BeaconX) {k' : Nat} (h : k' ≠ p) : (s.setBeacon p x).beacon k' = s.beacon k' :=
  Tbl.getD_setD_of_ne _ _ _ _ h
@[simp] theorem State.mover_setMover_self (m : Nat) (x : MoverX) : (s.setMover m x).mover m = x := Tbl.getD_setD_self _ _ _ _
theorem State.mover_setMover_of_ne (m : Nat) (x : MoverX) {k' : Nat} (h : k' ≠ m) : (s.setMover m x).mover k' = s.mover k' :=
  Tbl.getD_setD_of_ne _ _ _ _ h

end Sys2Proof.Machine
end

