-- ==== Sys2Proof/Laws/Registers.lean ====
section
/-! SUPPORT. The laws of the register file: a field reads what was written to it, and every field that does
not share its bits reads as before. -/

namespace Sys2Proof.Machine

variable (s : State)

theorem regKey_inj {pg off pg' off' : Nat} (h : off < 2 ^ 20) (h' : off' < 2 ^ 20)
    (e : regKey pg off = regKey pg' off') : pg = pg' ∧ off = off' := by
  unfold regKey at e
  omega

@[simp] theorem State.reg_setReg_self (pg off : Nat) (w : Word) : (s.setReg pg off w).reg pg off = w :=
  Tbl.getD_setD_self _ _ _ _

theorem State.reg_setReg_of_key {pg off pg' off' : Nat} (w : Word) (h : regKey pg' off' ≠ regKey pg off) :
    (s.setReg pg off w).reg pg' off' = s.reg pg' off' :=
  Tbl.getD_setD_of_ne _ _ _ _ h

theorem State.reg_setReg_of_page {pg pg' off off' : Nat} (w : Word) (hp : pg' ≠ pg) (h : off < 2 ^ 20)
    (h' : off' < 2 ^ 20) : (s.setReg pg off w).reg pg' off' = s.reg pg' off' :=
  s.reg_setReg_of_key w fun e => hp (regKey_inj h' h e).1

theorem State.reg_setReg_of_off {pg pg' off off' : Nat} (w : Word) (ho : off' ≠ off) (h : off < 2 ^ 20)
    (h' : off' < 2 ^ 20) : (s.setReg pg off w).reg pg' off' = s.reg pg' off' :=
  s.reg_setReg_of_key w fun e => ho (regKey_inj h' h e).2

/-- A field of a register reads what was written to it, cut to its width. -/
theorem State.rd_wr_self (pg : Nat) (f : Fld) (v : Nat) (h : f.lo ≤ f.hi) (h' : f.hi < 32) :
    (s.wr pg f v).rd pg f = v % 2 ^ (f.hi + 1 - f.lo) := by
  unfold State.wr State.rd
  rw [State.reg_setReg_self, BitVec.toNat_ofNat,
    Nat.mod_eq_of_lt (putBits_lt _ _ _ _ 32 h h' (BitVec.isLt _)), bitsOf_putBits_self _ _ _ _ h]

/-- Another field of the same register reads as before. -/
theorem State.rd_wr_of_disjoint (pg : Nat) (f g : Fld) (v : Nat) (h : f.lo ≤ f.hi) (h' : f.hi < 32)
    (ho : g.off = f.off) (hd : f.hi < g.lo ∨ g.hi < f.lo) : (s.wr pg f v).rd pg g = s.rd pg g := by
  unfold State.wr State.rd
  rw [ho, State.reg_setReg_self, BitVec.toNat_ofNat,
    Nat.mod_eq_of_lt (putBits_lt _ _ _ _ 32 h h' (BitVec.isLt _)), bitsOf_putBits_of_disjoint _ _ _ _ _ _ h hd]

theorem State.rd_wr_of_key (pg pg' : Nat) (f g : Fld) (v : Nat) (h : regKey pg' g.off ≠ regKey pg f.off) :
    (s.wr pg f v).rd pg' g = s.rd pg' g := by
  unfold State.rd State.wr
  rw [s.reg_setReg_of_key _ h]

theorem State.rd_wr_of_off (pg pg' : Nat) (f g : Fld) (v : Nat) (ho : g.off ≠ f.off) (h : f.off < 2 ^ 20)
    (h' : g.off < 2 ^ 20) : (s.wr pg f v).rd pg' g = s.rd pg' g :=
  s.rd_wr_of_key _ _ _ _ _ fun e => ho (regKey_inj h' h e).2

theorem State.rd_wr_of_page (pg pg' : Nat) (f g : Fld) (v : Nat) (hp : pg' ≠ pg) (h : f.off < 2 ^ 20)
    (h' : g.off < 2 ^ 20) : (s.wr pg f v).rd pg' g = s.rd pg' g :=
  s.rd_wr_of_key _ _ _ _ _ fun e => hp (regKey_inj h' h e).1

/-- A write of a field changes no other register. -/
theorem State.reg_wr_of_key (pg pg' off' : Nat) (f : Fld) (v : Nat) (h : regKey pg' off' ≠ regKey pg f.off) :
    (s.wr pg f v).reg pg' off' = s.reg pg' off' := s.reg_setReg_of_key _ h

theorem State.reg_wr_of_off (pg pg' off' : Nat) (f : Fld) (v : Nat) (ho : off' ≠ f.off) (h : f.off < 2 ^ 20)
    (h' : off' < 2 ^ 20) : (s.wr pg f v).reg pg' off' = s.reg pg' off' :=
  s.reg_setReg_of_off _ ho h h'

theorem State.reg_wr_of_page (pg pg' off' : Nat) (f : Fld) (v : Nat) (hp : pg' ≠ pg) (h : f.off < 2 ^ 20)
    (h' : off' < 2 ^ 20) : (s.wr pg f v).reg pg' off' = s.reg pg' off' :=
  s.reg_setReg_of_page _ hp h h'

/-- A counting field saturates. -/
theorem State.rd_bump_self (pg : Nat) (f : Fld) (n : Nat) (h : f.lo ≤ f.hi) (h' : f.hi < 32) :
    (s.bump pg f n).rd pg f = min (s.rd pg f + n) (2 ^ (f.hi + 1 - f.lo) - 1) := by
  unfold State.bump
  rw [State.rd_wr_self _ _ _ _ h h', satAdd]
  exact Nat.mod_eq_of_lt (Nat.lt_of_le_of_lt (Nat.min_le_right _ _)
    (Nat.sub_lt (Nat.two_pow_pos _) (by decide)))

theorem State.rd_lt (pg : Nat) (f : Fld) : s.rd pg f < 2 ^ (f.hi + 1 - f.lo) := bitsOf_lt _ _ _

/-! ### The alarm and page events -/

/-- What a raise of the hub alarm can change: registers, the alarm log and the ALARM_N pin. -/
theorem State.raise_changes (pg cls : Nat) (b : Option Nat) (d : Nat) :
    ∃ r a p, s.raise pg cls b d = { s with regs := r, alarms := a, pins := p } := by
  have core : ∀ (s : State) pg cls b d, ∃ r a, (s.raiseCore pg cls b d).1 = { s with regs := r, alarms := a } := by
    intro s pg cls b d
    unfold State.raiseCore
    simp only
    split
    · exact ⟨_, _, rfl⟩
    · split <;> exact ⟨_, _, rfl⟩
  have sync : ∀ s : State, ∃ r p, s.alarmSync = { s with regs := r, pins := p } := fun s => ⟨_, _, rfl⟩
  unfold State.raise
  obtain ⟨r, a, h⟩ := core s pg cls b d
  generalize s.raiseCore pg cls b d = c at h
  obtain ⟨c1, lost⟩ := c
  simp only at h
  subst h
  simp only
  split
  · split
    · obtain ⟨r', a', h'⟩ := core (({ s with regs := r, alarms := a } : State).wr pgAlm PAGE_STAT.BLOCK
        (maskSet (({ s with regs := r, alarms := a } : State).rd pgAlm PAGE_STAT.BLOCK) 0 true)) pgAlm 0 (some 8) 0
      rw [h']
      obtain ⟨r2, p2, h2⟩ := sync _
      exact ⟨_, _, _, h2⟩
    · obtain ⟨r2, p2, h2⟩ := sync _
      exact ⟨_, _, _, h2⟩
  · obtain ⟨r2, p2, h2⟩ := sync _
    exact ⟨_, _, _, h2⟩

/-- What a page event can change: registers, the alarm log and the ALARM_N pin. -/
theorem State.ev_changes (pg b : Nat) :
    ∃ r a p, s.ev pg b = { s with regs := r, alarms := a, pins := p } := by
  unfold State.ev
  simp only
  split
  · exact ⟨_, _, _, rfl⟩
  · split
    · obtain ⟨r, a, p, h⟩ := State.raise_changes (s.setReg pg PAGE_STAT.DONE.off
        (BitVec.ofNat 32 (maskSet (s.reg pg PAGE_STAT.DONE.off).toNat b true))) pg 0 (some b) 0
      exact ⟨r, a, p, h⟩
    · exact ⟨_, _, _, rfl⟩

end Sys2Proof.Machine
end

