-- ==== Sys2Proof/Laws/Events.lean ====
section
/-! SUPPORT. The frames of the hub alarm and of page events: they change registers, the alarm log and the
ALARM_N pin, and of the registers only those of the alarm page and the page's own PAGE_STAT. Generated from
the list of fields. -/

namespace Sys2Proof.Machine

variable (s : State)

@[simp] theorem State.now_raise (pg cls : Nat) (b : Option Nat) (d : Nat) : (s.raise pg cls b d).now = s.now := by
  obtain ⟨_, _, _, h⟩ := s.raise_changes pg cls b d; rw [h]
@[simp] theorem State.fresh_raise (pg cls : Nat) (b : Option Nat) (d : Nat) : (s.raise pg cls b d).fresh = s.fresh := by
  obtain ⟨_, _, _, h⟩ := s.raise_changes pg cls b d; rw [h]
@[simp] theorem State.resp_raise (pg cls : Nat) (b : Option Nat) (d : Nat) : (s.raise pg cls b d).resp = s.resp := by
  obtain ⟨_, _, _, h⟩ := s.raise_changes pg cls b d; rw [h]
@[simp] theorem State.shadow_raise (pg cls : Nat) (b : Option Nat) (d : Nat) : (s.raise pg cls b d).shadow = s.shadow := by
  obtain ⟨_, _, _, h⟩ := s.raise_changes pg cls b d; rw [h]
@[simp] theorem State.pages_raise (pg cls : Nat) (b : Option Nat) (d : Nat) : (s.raise pg cls b d).pages = s.pages := by
  obtain ⟨_, _, _, h⟩ := s.raise_changes pg cls b d; rw [h]
@[simp] theorem State.stalls_raise (pg cls : Nat) (b : Option Nat) (d : Nat) : (s.raise pg cls b d).stalls = s.stalls := by
  obtain ⟨_, _, _, h⟩ := s.raise_changes pg cls b d; rw [h]
@[simp] theorem State.dies_raise (pg cls : Nat) (b : Option Nat) (d : Nat) : (s.raise pg cls b d).dies = s.dies := by
  obtain ⟨_, _, _, h⟩ := s.raise_changes pg cls b d; rw [h]
@[simp] theorem State.tu_raise (pg cls : Nat) (b : Option Nat) (d : Nat) : (s.raise pg cls b d).tu = s.tu := by
  obtain ⟨_, _, _, h⟩ := s.raise_changes pg cls b d; rw [h]
@[simp] theorem State.beacons_raise (pg cls : Nat) (b : Option Nat) (d : Nat) : (s.raise pg cls b d).beacons = s.beacons := by
  obtain ⟨_, _, _, h⟩ := s.raise_changes pg cls b d; rw [h]
@[simp] theorem State.launch_raise (pg cls : Nat) (b : Option Nat) (d : Nat) : (s.raise pg cls b d).launch = s.launch := by
  obtain ⟨_, _, _, h⟩ := s.raise_changes pg cls b d; rw [h]
@[simp] theorem State.banks_raise (pg cls : Nat) (b : Option Nat) (d : Nat) : (s.raise pg cls b d).banks = s.banks := by
  obtain ⟨_, _, _, h⟩ := s.raise_changes pg cls b d; rw [h]
@[simp] theorem State.seqs_raise (pg cls : Nat) (b : Option Nat) (d : Nat) : (s.raise pg cls b d).seqs = s.seqs := by
  obtain ⟨_, _, _, h⟩ := s.raise_changes pg cls b d; rw [h]
@[simp] theorem State.weftTab_raise (pg cls : Nat) (b : Option Nat) (d : Nat) : (s.raise pg cls b d).weftTab = s.weftTab := by
  obtain ⟨_, _, _, h⟩ := s.raise_changes pg cls b d; rw [h]
@[simp] theorem State.cats_raise (pg cls : Nat) (b : Option Nat) (d : Nat) : (s.raise pg cls b d).cats = s.cats := by
  obtain ⟨_, _, _, h⟩ := s.raise_changes pg cls b d; rw [h]
@[simp] theorem State.spls_raise (pg cls : Nat) (b : Option Nat) (d : Nat) : (s.raise pg cls b d).spls = s.spls := by
  obtain ⟨_, _, _, h⟩ := s.raise_changes pg cls b d; rw [h]
@[simp] theorem State.drcs_raise (pg cls : Nat) (b : Option Nat) (d : Nat) : (s.raise pg cls b d).drcs = s.drcs := by
  obtain ⟨_, _, _, h⟩ := s.raise_changes pg cls b d; rw [h]
@[simp] theorem State.slots_raise (pg cls : Nat) (b : Option Nat) (d : Nat) : (s.raise pg cls b d).slots = s.slots := by
  obtain ⟨_, _, _, h⟩ := s.raise_changes pg cls b d; rw [h]
@[simp] theorem State.regions_raise (pg cls : Nat) (b : Option Nat) (d : Nat) : (s.raise pg cls b d).regions = s.regions := by
  obtain ⟨_, _, _, h⟩ := s.raise_changes pg cls b d; rw [h]
@[simp] theorem State.nocs_raise (pg cls : Nat) (b : Option Nat) (d : Nat) : (s.raise pg cls b d).nocs = s.nocs := by
  obtain ⟨_, _, _, h⟩ := s.raise_changes pg cls b d; rw [h]
@[simp] theorem State.govBal_raise (pg cls : Nat) (b : Option Nat) (d : Nat) : (s.raise pg cls b d).govBal = s.govBal := by
  obtain ⟨_, _, _, h⟩ := s.raise_changes pg cls b d; rw [h]
@[simp] theorem State.pats_raise (pg cls : Nat) (b : Option Nat) (d : Nat) : (s.raise pg cls b d).pats = s.pats := by
  obtain ⟨_, _, _, h⟩ := s.raise_changes pg cls b d; rw [h]
@[simp] theorem State.ports_raise (pg cls : Nat) (b : Option Nat) (d : Nat) : (s.raise pg cls b d).ports = s.ports := by
  obtain ⟨_, _, _, h⟩ := s.raise_changes pg cls b d; rw [h]
@[simp] theorem State.rt_raise (pg cls : Nat) (b : Option Nat) (d : Nat) : (s.raise pg cls b d).rt = s.rt := by
  obtain ⟨_, _, _, h⟩ := s.raise_changes pg cls b d; rw [h]
@[simp] theorem State.egr_raise (pg cls : Nat) (b : Option Nat) (d : Nat) : (s.raise pg cls b d).egr = s.egr := by
  obtain ⟨_, _, _, h⟩ := s.raise_changes pg cls b d; rw [h]
@[simp] theorem State.egrGen_raise (pg cls : Nat) (b : Option Nat) (d : Nat) : (s.raise pg cls b d).egrGen = s.egrGen := by
  obtain ⟨_, _, _, h⟩ := s.raise_changes pg cls b d; rw [h]
@[simp] theorem State.answers_raise (pg cls : Nat) (b : Option Nat) (d : Nat) : (s.raise pg cls b d).answers = s.answers := by
  obtain ⟨_, _, _, h⟩ := s.raise_changes pg cls b d; rw [h]
@[simp] theorem State.sinks_raise (pg cls : Nat) (b : Option Nat) (d : Nat) : (s.raise pg cls b d).sinks = s.sinks := by
  obtain ⟨_, _, _, h⟩ := s.raise_changes pg cls b d; rw [h]
@[simp] theorem State.engs_raise (pg cls : Nat) (b : Option Nat) (d : Nat) : (s.raise pg cls b d).engs = s.engs := by
  obtain ⟨_, _, _, h⟩ := s.raise_changes pg cls b d; rw [h]
@[simp] theorem State.clus_raise (pg cls : Nat) (b : Option Nat) (d : Nat) : (s.raise pg cls b d).clus = s.clus := by
  obtain ⟨_, _, _, h⟩ := s.raise_changes pg cls b d; rw [h]
@[simp] theorem State.quads_raise (pg cls : Nat) (b : Option Nat) (d : Nat) : (s.raise pg cls b d).quads = s.quads := by
  obtain ⟨_, _, _, h⟩ := s.raise_changes pg cls b d; rw [h]
@[simp] theorem State.cfg_raise (pg cls : Nat) (b : Option Nat) (d : Nat) : (s.raise pg cls b d).cfg = s.cfg := by
  obtain ⟨_, _, _, h⟩ := s.raise_changes pg cls b d; rw [h]
@[simp] theorem State.darns_raise (pg cls : Nat) (b : Option Nat) (d : Nat) : (s.raise pg cls b d).darns = s.darns := by
  obtain ⟨_, _, _, h⟩ := s.raise_changes pg cls b d; rw [h]
@[simp] theorem State.fabs_raise (pg cls : Nat) (b : Option Nat) (d : Nat) : (s.raise pg cls b d).fabs = s.fabs := by
  obtain ⟨_, _, _, h⟩ := s.raise_changes pg cls b d; rw [h]
@[simp] theorem State.sers_raise (pg cls : Nat) (b : Option Nat) (d : Nat) : (s.raise pg cls b d).sers = s.sers := by
  obtain ⟨_, _, _, h⟩ := s.raise_changes pg cls b d; rw [h]
@[simp] theorem State.pow_raise (pg cls : Nat) (b : Option Nat) (d : Nat) : (s.raise pg cls b d).pow = s.pow := by
  obtain ⟨_, _, _, h⟩ := s.raise_changes pg cls b d; rw [h]
@[simp] theorem State.store_raise (pg cls : Nat) (b : Option Nat) (d : Nat) : (s.raise pg cls b d).store = s.store := by
  obtain ⟨_, _, _, h⟩ := s.raise_changes pg cls b d; rw [h]
@[simp] theorem State.hub_raise (pg cls : Nat) (b : Option Nat) (d : Nat) : (s.raise pg cls b d).hub = s.hub := by
  obtain ⟨_, _, _, h⟩ := s.raise_changes pg cls b d; rw [h]
@[simp] theorem State.movers_raise (pg cls : Nat) (b : Option Nat) (d : Nat) : (s.raise pg cls b d).movers = s.movers := by
  obtain ⟨_, _, _, h⟩ := s.raise_changes pg cls b d; rw [h]
@[simp] theorem State.sram_raise (pg cls : Nat) (b : Option Nat) (d : Nat) : (s.raise pg cls b d).sram = s.sram := by
  obtain ⟨_, _, _, h⟩ := s.raise_changes pg cls b d; rw [h]
@[simp] theorem State.dp_raise (pg cls : Nat) (b : Option Nat) (d : Nat) : (s.raise pg cls b d).dp = s.dp := by
  obtain ⟨_, _, _, h⟩ := s.raise_changes pg cls b d; rw [h]
@[simp] theorem State.dpAnswer_raise (pg cls : Nat) (b : Option Nat) (d : Nat) : (s.raise pg cls b d).dpAnswer = s.dpAnswer := by
  obtain ⟨_, _, _, h⟩ := s.raise_changes pg cls b d; rw [h]
@[simp] theorem State.pending_raise (pg cls : Nat) (b : Option Nat) (d : Nat) : (s.raise pg cls b d).pending = s.pending := by
  obtain ⟨_, _, _, h⟩ := s.raise_changes pg cls b d; rw [h]
@[simp] theorem State.die_raise (pg cls : Nat) (b : Option Nat) (d : Nat) (u : Nat) : (s.raise pg cls b d).die u = s.die u := by
  obtain ⟨_, _, _, h⟩ := s.raise_changes pg cls b d; rw [h]; rfl
@[simp] theorem State.page_raise (pg cls : Nat) (b : Option Nat) (d : Nat) (u : Nat) : (s.raise pg cls b d).page u = s.page u := by
  obtain ⟨_, _, _, h⟩ := s.raise_changes pg cls b d; rw [h]; rfl
@[simp] theorem State.lslot_raise (pg cls : Nat) (b : Option Nat) (d : Nat) (u : Nat) : (s.raise pg cls b d).lslot u = s.lslot u := by
  obtain ⟨_, _, _, h⟩ := s.raise_changes pg cls b d; rw [h]; rfl
@[simp] theorem State.bank_raise (pg cls : Nat) (b : Option Nat) (d : Nat) (u : Nat) : (s.raise pg cls b d).bank u = s.bank u := by
  obtain ⟨_, _, _, h⟩ := s.raise_changes pg cls b d; rw [h]; rfl
@[simp] theorem State.seq_raise (pg cls : Nat) (b : Option Nat) (d : Nat) (u : Nat) : (s.raise pg cls b d).seq u = s.seq u := by
  obtain ⟨_, _, _, h⟩ := s.raise_changes pg cls b d; rw [h]; rfl
@[simp] theorem State.cat_raise (pg cls : Nat) (b : Option Nat) (d : Nat) (u : Nat) : (s.raise pg cls b d).cat u = s.cat u := by
  obtain ⟨_, _, _, h⟩ := s.raise_changes pg cls b d; rw [h]; rfl
@[simp] theorem State.spl_raise (pg cls : Nat) (b : Option Nat) (d : Nat) (u : Nat) : (s.raise pg cls b d).spl u = s.spl u := by
  obtain ⟨_, _, _, h⟩ := s.raise_changes pg cls b d; rw [h]; rfl
@[simp] theorem State.drc_raise (pg cls : Nat) (b : Option Nat) (d : Nat) (u : Nat) : (s.raise pg cls b d).drc u = s.drc u := by
  obtain ⟨_, _, _, h⟩ := s.raise_changes pg cls b d; rw [h]; rfl
@[simp] theorem State.lin_raise (pg cls : Nat) (b : Option Nat) (d : Nat) (u : Nat) : (s.raise pg cls b d).lin u = s.lin u := by
  obtain ⟨_, _, _, h⟩ := s.raise_changes pg cls b d; rw [h]; rfl
@[simp] theorem State.noc_raise (pg cls : Nat) (b : Option Nat) (d : Nat) (u : Nat) : (s.raise pg cls b d).noc u = s.noc u := by
  obtain ⟨_, _, _, h⟩ := s.raise_changes pg cls b d; rw [h]; rfl
@[simp] theorem State.pat_raise (pg cls : Nat) (b : Option Nat) (d : Nat) (u : Nat) : (s.raise pg cls b d).pat u = s.pat u := by
  obtain ⟨_, _, _, h⟩ := s.raise_changes pg cls b d; rw [h]; rfl
@[simp] theorem State.port_raise (pg cls : Nat) (b : Option Nat) (d : Nat) (u : Nat) : (s.raise pg cls b d).port u = s.port u := by
  obtain ⟨_, _, _, h⟩ := s.raise_changes pg cls b d; rw [h]; rfl
@[simp] theorem State.eng_raise (pg cls : Nat) (b : Option Nat) (d : Nat) (u : Nat) : (s.raise pg cls b d).eng u = s.eng u := by
  obtain ⟨_, _, _, h⟩ := s.raise_changes pg cls b d; rw [h]; rfl
@[simp] theorem State.clu_raise (pg cls : Nat) (b : Option Nat) (d : Nat) (u : Nat) : (s.raise pg cls b d).clu u = s.clu u := by
  obtain ⟨_, _, _, h⟩ := s.raise_changes pg cls b d; rw [h]; rfl
@[simp] theorem State.quad_raise (pg cls : Nat) (b : Option Nat) (d : Nat) (u : Nat) : (s.raise pg cls b d).quad u = s.quad u := by
  obtain ⟨_, _, _, h⟩ := s.raise_changes pg cls b d; rw [h]; rfl
@[simp] theorem State.darn_raise (pg cls : Nat) (b : Option Nat) (d : Nat) (u : Nat) : (s.raise pg cls b d).darn u = s.darn u := by
  obtain ⟨_, _, _, h⟩ := s.raise_changes pg cls b d; rw [h]; rfl
@[simp] theorem State.fab_raise (pg cls : Nat) (b : Option Nat) (d : Nat) (u : Nat) : (s.raise pg cls b d).fab u = s.fab u := by
  obtain ⟨_, _, _, h⟩ := s.raise_changes pg cls b d; rw [h]; rfl
@[simp] theorem State.ser_raise (pg cls : Nat) (b : Option Nat) (d : Nat) (u : Nat) : (s.raise pg cls b d).ser u = s.ser u := by
  obtain ⟨_, _, _, h⟩ := s.raise_changes pg cls b d; rw [h]; rfl
@[simp] theorem State.slot_raise (pg cls : Nat) (b : Option Nat) (d : Nat) (u : Nat) : (s.raise pg cls b d).slot u = s.slot u := by
  obtain ⟨_, _, _, h⟩ := s.raise_changes pg cls b d; rw [h]; rfl
@[simp] theorem State.now_ev (pg b : Nat) : (s.ev pg b).now = s.now := by
  obtain ⟨_, _, _, h⟩ := s.ev_changes pg b; rw [h]
@[simp] theorem State.fresh_ev (pg b : Nat) : (s.ev pg b).fresh = s.fresh := by
  obtain ⟨_, _, _, h⟩ := s.ev_changes pg b; rw [h]
@[simp] theorem State.resp_ev (pg b : Nat) : (s.ev pg b).resp = s.resp := by
  obtain ⟨_, _, _, h⟩ := s.ev_changes pg b; rw [h]
@[simp] theorem State.shadow_ev (pg b : Nat) : (s.ev pg b).shadow = s.shadow := by
  obtain ⟨_, _, _, h⟩ := s.ev_changes pg b; rw [h]
@[simp] theorem State.pages_ev (pg b : Nat) : (s.ev pg b).pages = s.pages := by
  obtain ⟨_, _, _, h⟩ := s.ev_changes pg b; rw [h]
@[simp] theorem State.stalls_ev (pg b : Nat) : (s.ev pg b).stalls = s.stalls := by
  obtain ⟨_, _, _, h⟩ := s.ev_changes pg b; rw [h]
@[simp] theorem State.dies_ev (pg b : Nat) : (s.ev pg b).dies = s.dies := by
  obtain ⟨_, _, _, h⟩ := s.ev_changes pg b; rw [h]
@[simp] theorem State.tu_ev (pg b : Nat) : (s.ev pg b).tu = s.tu := by
  obtain ⟨_, _, _, h⟩ := s.ev_changes pg b; rw [h]
@[simp] theorem State.beacons_ev (pg b : Nat) : (s.ev pg b).beacons = s.beacons := by
  obtain ⟨_, _, _, h⟩ := s.ev_changes pg b; rw [h]
@[simp] theorem State.launch_ev (pg b : Nat) : (s.ev pg b).launch = s.launch := by
  obtain ⟨_, _, _, h⟩ := s.ev_changes pg b; rw [h]
@[simp] theorem State.banks_ev (pg b : Nat) : (s.ev pg b).banks = s.banks := by
  obtain ⟨_, _, _, h⟩ := s.ev_changes pg b; rw [h]
@[simp] theorem State.seqs_ev (pg b : Nat) : (s.ev pg b).seqs = s.seqs := by
  obtain ⟨_, _, _, h⟩ := s.ev_changes pg b; rw [h]
@[simp] theorem State.weftTab_ev (pg b : Nat) : (s.ev pg b).weftTab = s.weftTab := by
  obtain ⟨_, _, _, h⟩ := s.ev_changes pg b; rw [h]
@[simp] theorem State.cats_ev (pg b : Nat) : (s.ev pg b).cats = s.cats := by
  obtain ⟨_, _, _, h⟩ := s.ev_changes pg b; rw [h]
@[simp] theorem State.spls_ev (pg b : Nat) : (s.ev pg b).spls = s.spls := by
  obtain ⟨_, _, _, h⟩ := s.ev_changes pg b; rw [h]
@[simp] theorem State.drcs_ev (pg b : Nat) : (s.ev pg b).drcs = s.drcs := by
  obtain ⟨_, _, _, h⟩ := s.ev_changes pg b; rw [h]
@[simp] theorem State.slots_ev (pg b : Nat) : (s.ev pg b).slots = s.slots := by
  obtain ⟨_, _, _, h⟩ := s.ev_changes pg b; rw [h]
@[simp] theorem State.regions_ev (pg b : Nat) : (s.ev pg b).regions = s.regions := by
  obtain ⟨_, _, _, h⟩ := s.ev_changes pg b; rw [h]
@[simp] theorem State.nocs_ev (pg b : Nat) : (s.ev pg b).nocs = s.nocs := by
  obtain ⟨_, _, _, h⟩ := s.ev_changes pg b; rw [h]
@[simp] theorem State.govBal_ev (pg b : Nat) : (s.ev pg b).govBal = s.govBal := by
  obtain ⟨_, _, _, h⟩ := s.ev_changes pg b; rw [h]
@[simp] theorem State.pats_ev (pg b : Nat) : (s.ev pg b).pats = s.pats := by
  obtain ⟨_, _, _, h⟩ := s.ev_changes pg b; rw [h]
@[simp] theorem State.ports_ev (pg b : Nat) : (s.ev pg b).ports = s.ports := by
  obtain ⟨_, _, _, h⟩ := s.ev_changes pg b; rw [h]
@[simp] theorem State.rt_ev (pg b : Nat) : (s.ev pg b).rt = s.rt := by
  obtain ⟨_, _, _, h⟩ := s.ev_changes pg b; rw [h]
@[simp] theorem State.egr_ev (pg b : Nat) : (s.ev pg b).egr = s.egr := by
  obtain ⟨_, _, _, h⟩ := s.ev_changes pg b; rw [h]
@[simp] theorem State.egrGen_ev (pg b : Nat) : (s.ev pg b).egrGen = s.egrGen := by
  obtain ⟨_, _, _, h⟩ := s.ev_changes pg b; rw [h]
@[simp] theorem State.answers_ev (pg b : Nat) : (s.ev pg b).answers = s.answers := by
  obtain ⟨_, _, _, h⟩ := s.ev_changes pg b; rw [h]
@[simp] theorem State.sinks_ev (pg b : Nat) : (s.ev pg b).sinks = s.sinks := by
  obtain ⟨_, _, _, h⟩ := s.ev_changes pg b; rw [h]
@[simp] theorem State.engs_ev (pg b : Nat) : (s.ev pg b).engs = s.engs := by
  obtain ⟨_, _, _, h⟩ := s.ev_changes pg b; rw [h]
@[simp] theorem State.clus_ev (pg b : Nat) : (s.ev pg b).clus = s.clus := by
  obtain ⟨_, _, _, h⟩ := s.ev_changes pg b; rw [h]
@[simp] theorem State.quads_ev (pg b : Nat) : (s.ev pg b).quads = s.quads := by
  obtain ⟨_, _, _, h⟩ := s.ev_changes pg b; rw [h]
@[simp] theorem State.cfg_ev (pg b : Nat) : (s.ev pg b).cfg = s.cfg := by
  obtain ⟨_, _, _, h⟩ := s.ev_changes pg b; rw [h]
@[simp] theorem State.darns_ev (pg b : Nat) : (s.ev pg b).darns = s.darns := by
  obtain ⟨_, _, _, h⟩ := s.ev_changes pg b; rw [h]
@[simp] theorem State.fabs_ev (pg b : Nat) : (s.ev pg b).fabs = s.fabs := by
  obtain ⟨_, _, _, h⟩ := s.ev_changes pg b; rw [h]
@[simp] theorem State.sers_ev (pg b : Nat) : (s.ev pg b).sers = s.sers := by
  obtain ⟨_, _, _, h⟩ := s.ev_changes pg b; rw [h]
@[simp] theorem State.pow_ev (pg b : Nat) : (s.ev pg b).pow = s.pow := by
  obtain ⟨_, _, _, h⟩ := s.ev_changes pg b; rw [h]
@[simp] theorem State.store_ev (pg b : Nat) : (s.ev pg b).store = s.store := by
  obtain ⟨_, _, _, h⟩ := s.ev_changes pg b; rw [h]
@[simp] theorem State.hub_ev (pg b : Nat) : (s.ev pg b).hub = s.hub := by
  obtain ⟨_, _, _, h⟩ := s.ev_changes pg b; rw [h]
@[simp] theorem State.movers_ev (pg b : Nat) : (s.ev pg b).movers = s.movers := by
  obtain ⟨_, _, _, h⟩ := s.ev_changes pg b; rw [h]
@[simp] theorem State.sram_ev (pg b : Nat) : (s.ev pg b).sram = s.sram := by
  obtain ⟨_, _, _, h⟩ := s.ev_changes pg b; rw [h]
@[simp] theorem State.dp_ev (pg b : Nat) : (s.ev pg b).dp = s.dp := by
  obtain ⟨_, _, _, h⟩ := s.ev_changes pg b; rw [h]
@[simp] theorem State.dpAnswer_ev (pg b : Nat) : (s.ev pg b).dpAnswer = s.dpAnswer := by
  obtain ⟨_, _, _, h⟩ := s.ev_changes pg b; rw [h]
@[simp] theorem State.pending_ev (pg b : Nat) : (s.ev pg b).pending = s.pending := by
  obtain ⟨_, _, _, h⟩ := s.ev_changes pg b; rw [h]
@[simp] theorem State.die_ev (pg b : Nat) (u : Nat) : (s.ev pg b).die u = s.die u := by
  obtain ⟨_, _, _, h⟩ := s.ev_changes pg b; rw [h]; rfl
@[simp] theorem State.page_ev (pg b : Nat) (u : Nat) : (s.ev pg b).page u = s.page u := by
  obtain ⟨_, _, _, h⟩ := s.ev_changes pg b; rw [h]; rfl
@[simp] theorem State.lslot_ev (pg b : Nat) (u : Nat) : (s.ev pg b).lslot u = s.lslot u := by
  obtain ⟨_, _, _, h⟩ := s.ev_changes pg b; rw [h]; rfl
@[simp] theorem State.bank_ev (pg b : Nat) (u : Nat) : (s.ev pg b).bank u = s.bank u := by
  obtain ⟨_, _, _, h⟩ := s.ev_changes pg b; rw [h]; rfl
@[simp] theorem State.seq_ev (pg b : Nat) (u : Nat) : (s.ev pg b).seq u = s.seq u := by
  obtain ⟨_, _, _, h⟩ := s.ev_changes pg b; rw [h]; rfl
@[simp] theorem State.cat_ev (pg b : Nat) (u : Nat) : (s.ev pg b).cat u = s.cat u := by
  obtain ⟨_, _, _, h⟩ := s.ev_changes pg b; rw [h]; rfl
@[simp] theorem State.spl_ev (pg b : Nat) (u : Nat) : (s.ev pg b).spl u = s.spl u := by
  obtain ⟨_, _, _, h⟩ := s.ev_changes pg b; rw [h]; rfl
@[simp] theorem State.drc_ev (pg b : Nat) (u : Nat) : (s.ev pg b).drc u = s.drc u := by
  obtain ⟨_, _, _, h⟩ := s.ev_changes pg b; rw [h]; rfl
@[simp] theorem State.lin_ev (pg b : Nat) (u : Nat) : (s.ev pg b).lin u = s.lin u := by
  obtain ⟨_, _, _, h⟩ := s.ev_changes pg b; rw [h]; rfl
@[simp] theorem State.noc_ev (pg b : Nat) (u : Nat) : (s.ev pg b).noc u = s.noc u := by
  obtain ⟨_, _, _, h⟩ := s.ev_changes pg b; rw [h]; rfl
@[simp] theorem State.pat_ev (pg b : Nat) (u : Nat) : (s.ev pg b).pat u = s.pat u := by
  obtain ⟨_, _, _, h⟩ := s.ev_changes pg b; rw [h]; rfl
@[simp] theorem State.port_ev (pg b : Nat) (u : Nat) : (s.ev pg b).port u = s.port u := by
  obtain ⟨_, _, _, h⟩ := s.ev_changes pg b; rw [h]; rfl
@[simp] theorem State.eng_ev (pg b : Nat) (u : Nat) : (s.ev pg b).eng u = s.eng u := by
  obtain ⟨_, _, _, h⟩ := s.ev_changes pg b; rw [h]; rfl
@[simp] theorem State.clu_ev (pg b : Nat) (u : Nat) : (s.ev pg b).clu u = s.clu u := by
  obtain ⟨_, _, _, h⟩ := s.ev_changes pg b; rw [h]; rfl
@[simp] theorem State.quad_ev (pg b : Nat) (u : Nat) : (s.ev pg b).quad u = s.quad u := by
  obtain ⟨_, _, _, h⟩ := s.ev_changes pg b; rw [h]; rfl
@[simp] theorem State.darn_ev (pg b : Nat) (u : Nat) : (s.ev pg b).darn u = s.darn u := by
  obtain ⟨_, _, _, h⟩ := s.ev_changes pg b; rw [h]; rfl
@[simp] theorem State.fab_ev (pg b : Nat) (u : Nat) : (s.ev pg b).fab u = s.fab u := by
  obtain ⟨_, _, _, h⟩ := s.ev_changes pg b; rw [h]; rfl
@[simp] theorem State.ser_ev (pg b : Nat) (u : Nat) : (s.ev pg b).ser u = s.ser u := by
  obtain ⟨_, _, _, h⟩ := s.ev_changes pg b; rw [h]; rfl
@[simp] theorem State.slot_ev (pg b : Nat) (u : Nat) : (s.ev pg b).slot u = s.slot u := by
  obtain ⟨_, _, _, h⟩ := s.ev_changes pg b; rw [h]; rfl

theorem State.reg_wr_alarm (f : Fld) (v pg' off' : Nat) (h : ¬ AlarmReg pg' off') (ho : off' < 2 ^ 20)
    (hf : f.off = 0x08 ∨ f.off = 0x40 ∨ f.off = 0x48 ∨ f.off = 0x4C) :
    (s.wr pgAlm f v).reg pg' off' = s.reg pg' off' := by
  by_cases hp : pg' = pgAlm
  · have : off' ≠ f.off := fun e => h ⟨hp, e ▸ hf⟩
    exact s.reg_wr_of_off _ _ _ _ _ this (by omega) ho
  · exact s.reg_wr_of_page _ _ _ _ _ hp (by omega) ho

theorem State.reg_raiseCore (pg cls : Nat) (b : Option Nat) (d pg' off' : Nat) (h : ¬ AlarmReg pg' off')
    (ho : off' < 2 ^ 20) : (s.raiseCore pg cls b d).1.reg pg' off' = s.reg pg' off' := by
  unfold State.raiseCore
  simp only
  split
  · unfold State.bump
    rw [State.reg_wr_alarm _ _ _ _ _ h ho (by decide), State.reg_wr_alarm _ _ _ _ _ h ho (by decide)]
  · split
    · rw [State.reg_wr_alarm _ _ _ _ _ h ho (by decide)]
      exact State.reg_wr_alarm s _ _ _ _ h ho (by decide)
    · unfold State.bump
      rw [State.reg_wr_alarm _ _ _ _ _ h ho (by decide), State.reg_wr_alarm _ _ _ _ _ h ho (by decide)]

theorem State.reg_alarmSync (pg' off' : Nat) (h : ¬ AlarmReg pg' off') (ho : off' < 2 ^ 20) :
    s.alarmSync.reg pg' off' = s.reg pg' off' :=
  s.reg_wr_alarm _ _ _ _ h ho (by decide)

/-- A raise of the hub alarm changes only the alarm page's own reports. -/
theorem State.reg_raise (pg cls : Nat) (b : Option Nat) (d pg' off' : Nat) (h : ¬ AlarmReg pg' off')
    (ho : off' < 2 ^ 20) : (s.raise pg cls b d).reg pg' off' = s.reg pg' off' := by
  unfold State.raise
  have hc := s.reg_raiseCore pg cls b d pg' off' h ho
  generalize s.raiseCore pg cls b d = c at hc
  obtain ⟨c1, lost⟩ := c
  simp only at hc ⊢
  rw [State.reg_alarmSync _ _ _ h ho]
  split
  · split
    · rw [State.reg_raiseCore _ _ _ _ _ _ _ h ho, State.reg_wr_alarm _ _ _ _ _ h ho (by decide), hc]
    · rw [State.reg_wr_alarm _ _ _ _ _ h ho (by decide), hc]
  · exact hc

/-- A page event changes no register but the alarm page's reports and the page's PAGE_STAT. -/
theorem State.reg_ev (pg b pg' off' : Nat) (h : ¬ AlarmReg pg' off') (ho : off' < 2 ^ 20)
    (hs : pg' ≠ pg ∨ off' ≠ 8) : (s.ev pg b).reg pg' off' = s.reg pg' off' := by
  have hk : regKey pg' off' ≠ regKey pg PAGE_STAT.DONE.off := by
    show regKey pg' off' ≠ regKey pg 8
    unfold regKey; omega
  unfold State.ev
  simp only
  split
  · exact s.reg_setReg_of_key _ hk
  · split
    · rw [State.reg_raise _ _ _ _ _ _ _ h ho]; exact s.reg_setReg_of_key _ hk
    · exact s.reg_setReg_of_key _ hk

/-- A field outside PAGE_STAT and the alarm page reads the same after a page event. -/
theorem State.rd_ev (pg b pg' : Nat) (f : Fld) (h : ¬ AlarmReg pg' f.off) (ho : f.off < 2 ^ 20)
    (hs : pg' ≠ pg ∨ f.off ≠ 8) : (s.ev pg b).rd pg' f = s.rd pg' f := by
  unfold State.rd
  rw [State.reg_ev _ _ _ _ _ h ho hs]

/-- A page event sets its bit of PAGE_STAT and leaves the page's other events. -/
theorem State.reg_ev_stat (pg b : Nat) (h : pg ≠ pgAlm) :
    (s.ev pg b).reg pg 8 = BitVec.ofNat 32 (maskSet (s.reg pg 8).toNat b true) := by
  unfold State.ev
  simp only
  split
  · exact s.reg_setReg_self _ _ _
  · split
    · rw [State.reg_raise _ _ _ _ _ _ _ (fun a => h a.1) (by decide)]; exact s.reg_setReg_self _ _ _
    · exact s.reg_setReg_self _ _ _

theorem maskBit_eq_testBit (m d : Nat) : maskBit m d = m.testBit d := by
  rw [maskBit, Nat.testBit_eq_decide_div_mod_eq]; rfl

theorem maskBit_maskSet (m d e : Nat) (b : Bool) :
    maskBit (maskSet m d b) e = if e = d then b else maskBit m e := by
  rw [maskBit_eq_testBit, maskBit_eq_testBit, maskSet, testBit_putBits _ _ _ _ _ (Nat.le_refl d)]
  by_cases h : e = d
  · subst h; cases b <;> simp [bit]
  · simp [h, show ¬ (d ≤ e ∧ e ≤ d) by omega]

theorem maskSet_lt (m d w : Nat) (b : Bool) (hd : d < w) (hm : m < 2 ^ w) : maskSet m d b < 2 ^ w :=
  putBits_lt _ _ _ _ _ (Nat.le_refl d) hd hm

/-- After a page event its bit of PAGE_STAT reads 1, and every other bit as before. -/
theorem State.maskBit_ev_stat (pg b e : Nat) (h : pg ≠ pgAlm) (hb : b < 32) :
    maskBit ((s.ev pg b).reg pg 8).toNat e = (decide (e = b) || maskBit (s.reg pg 8).toNat e) := by
  rw [State.reg_ev_stat _ _ _ h, BitVec.toNat_ofNat,
    Nat.mod_eq_of_lt (maskSet_lt _ _ _ _ hb (BitVec.isLt _)), maskBit_maskSet]
  by_cases he : e = b <;> simp [he]

end Sys2Proof.Machine
end

