-- ==== Sys2Proof/Laws/Pages.lean ====
section
/-! SUPPORT. What the shared operations of register pages do: the disarming of a page, shadows, the pending set
and its application, and an answer. -/

namespace Sys2Proof.Machine

variable (s : State)

@[simp] theorem State.resp_answer (st : BusStatus) (d : Nat) :
    (s.answer st d).resp = ⟨st, d, false, true, 0, 0⟩ := (rfl)

/-- What the spoiling of a commit's pass can change: the pages' passes. -/
theorem State.crcSpoil_changes (pg : Nat) : ∃ p, s.crcSpoil pg = { s with pages := p } := by
  unfold State.crcSpoil
  split
  · exact ⟨_, rfl⟩
  · exact ⟨_, rfl⟩

theorem State.crcTouch_changes (pg : Nat) : ∃ p, s.crcTouch pg = { s with pages := p } := by
  unfold State.crcTouch
  split
  · exact ⟨_, rfl⟩
  · exact ⟨_, rfl⟩

@[simp] theorem State.reg_crcSpoil (pg pg' off : Nat) : (s.crcSpoil pg).reg pg' off = s.reg pg' off := by
  obtain ⟨p, h⟩ := s.crcSpoil_changes pg; rw [h]; rfl
@[simp] theorem State.rd_crcSpoil (pg pg' : Nat) (f : Fld) : (s.crcSpoil pg).rd pg' f = s.rd pg' f := by
  obtain ⟨p, h⟩ := s.crcSpoil_changes pg; rw [h]; rfl
@[simp] theorem State.shadow_crcSpoil (pg : Nat) : (s.crcSpoil pg).shadow = s.shadow := by
  obtain ⟨p, h⟩ := s.crcSpoil_changes pg; rw [h]

/-- What disarming a page can change: registers, passes, and what a page event changes. -/
theorem State.disarm_changes (pg : Nat) :
    ∃ r g a p, s.disarm pg = { s with regs := r, pages := g, alarms := a, pins := p } := by
  unfold State.disarm
  obtain ⟨g, h⟩ := s.crcSpoil_changes pg
  simp only [h]
  split
  · obtain ⟨r, a, p, h2⟩ := State.ev_changes
      (((({ s with pages := g } : State).wr pg PAGE_LEVEL.ARMED 0).wr pg PAGE_LEVEL.CRC_BAD 0)) pg 1
    rw [h2]; exact ⟨_, _, _, _, rfl⟩
  · exact ⟨_, _, _, _, rfl⟩

@[simp] theorem State.shadow_disarm (pg : Nat) : (s.disarm pg).shadow = s.shadow := by
  obtain ⟨_, _, _, _, h⟩ := s.disarm_changes pg; rw [h]

/-- Disarming a page changes no register but its PAGE_LEVEL and PAGE_STAT and the alarm page's reports. -/
theorem State.reg_disarm (pg pg' off : Nat) (h : ¬ AlarmReg pg' off) (ho : off < 2 ^ 20)
    (hp : pg' ≠ pg ∨ (off ≠ 8 ∧ off ≠ 0x0C)) : (s.disarm pg).reg pg' off = s.reg pg' off := by
  have hk : ∀ (u : State) (f : Fld) v, f.off = 0x0C → (u.wr pg f v).reg pg' off = u.reg pg' off := by
    intro u f v hf
    apply State.reg_wr_of_key
    rw [hf]; unfold regKey; omega
  unfold State.disarm
  simp only
  split
  · rw [State.reg_ev _ _ _ _ _ h ho (by omega), hk _ _ _ rfl, hk _ _ _ rfl, State.reg_crcSpoil]
  · rw [State.reg_crcSpoil]

theorem State.rd_disarm (pg pg' : Nat) (f : Fld) (h : ¬ AlarmReg pg' f.off) (ho : f.off < 2 ^ 20)
    (hp : pg' ≠ pg ∨ (f.off ≠ 8 ∧ f.off ≠ 0x0C)) : (s.disarm pg).rd pg' f = s.rd pg' f := by
  unfold State.rd; rw [State.reg_disarm _ _ _ _ h ho hp]

theorem not_alarmReg_of_page {pg off : Nat} (h : pg ≠ pgAlm) : ¬ AlarmReg pg off := fun a => h a.1

theorem not_alarmReg_of_off {pg off : Nat} (h : off ≠ 0x08 ∧ off ≠ 0x40 ∧ off ≠ 0x48 ∧ off ≠ 0x4C) :
    ¬ AlarmReg pg off := by
  rintro ⟨_, a⟩; omega

/-- After a disarming write the page is not armed (R50). -/
theorem State.armed_disarm (pg : Nat) : (s.disarm pg).rd pg PAGE_LEVEL.ARMED = 0 := by
  unfold State.disarm
  simp only
  split
  · rw [State.rd_ev _ _ _ _ _ (not_alarmReg_of_off (by decide)) (by decide) (Or.inr (by decide)),
      State.rd_wr_of_disjoint _ _ PAGE_LEVEL.CRC_BAD PAGE_LEVEL.ARMED _ (by decide) (by decide) rfl (by decide),
      State.rd_wr_self _ _ PAGE_LEVEL.ARMED _ (by decide) (by decide)]
    rfl
  · next h => simpa [State.on] using h

/-! ### Shadows -/

theorem State.staged_congr {s t : State} (hr : ∀ pg off, t.reg pg off = s.reg pg off) (hs : t.shadow = s.shadow)
    (pg off : Nat) : t.staged pg off = s.staged pg off := by
  unfold State.staged; rw [hs, hr]

@[simp] theorem State.shadow_dropPending (pg : Nat) :
    (s.dropPending pg).shadow = s.shadow.clear (regKey pg 0) (regKey (pg + 1) 0) := (rfl)

@[simp] theorem State.pendingSet_dropPending (pg : Nat) : (s.dropPending pg).pendingSet pg = [] := by
  simp only [State.pendingSet, State.shadow_dropPending, Tbl.range, Tbl.clear, List.filter_filter]
  rw [List.filter_eq_nil_iff]
  intro e _
  by_cases h : regKey pg 0 ≤ e.1 ∧ e.1 < regKey (pg + 1) 0 <;> simp [h]

/-- Dropping the pending set changes no register but PAGE_PEND. -/
theorem State.reg_dropPending (pg pg' off : Nat) (ho : off < 2 ^ 20) (h : pg' ≠ pg ∨ off ≠ 0x10) :
    (s.dropPending pg).reg pg' off = s.reg pg' off := by
  have hk : ∀ (u : State) (f : Fld) v, f.off = 0x10 → (u.wr pg f v).reg pg' off = u.reg pg' off := by
    intro u f v hf
    apply State.reg_wr_of_key
    rw [hf]; unfold regKey; omega
  unfold State.dropPending
  simp only
  rw [hk _ _ _ rfl, hk _ _ _ rfl, hk _ _ _ rfl]
  rfl

/-- After the set is gone PENDING, KIND and COUNT read 0, and the record of applications stays. -/
theorem State.pend_dropPending (pg : Nat) :
    (s.dropPending pg).rd pg PAGE_PEND.PENDING = 0 ∧ (s.dropPending pg).rd pg PAGE_PEND.KIND = 0
      ∧ (s.dropPending pg).rd pg PAGE_PEND.COUNT = 0
      ∧ (s.dropPending pg).rd pg PAGE_PEND.LAST_KIND = s.rd pg PAGE_PEND.LAST_KIND
      ∧ (s.dropPending pg).rd pg PAGE_PEND.SEQ = s.rd pg PAGE_PEND.SEQ := by
  unfold State.dropPending
  simp only
  simp (disch := decide) only [State.rd_wr_of_disjoint, State.rd_wr_self]
  exact ⟨rfl, rfl, rfl, rfl, rfl⟩

theorem Tbl.find_filter {α : Type} (t : Tbl α) (p : Nat → Bool) (k : Nat) :
    Tbl.find (t.filter fun e => p e.1) k = if p k then t.find k else none := by
  induction t with
  | nil => simp
  | cons e r ih =>
    obtain ⟨j, v⟩ := e
    simp only [List.filter_cons]
    by_cases hj : p j = true
    · simp only [hj, if_true, Tbl.find]
      split
      · next h => subst h; simp [hj]
      · exact ih
    · rw [if_neg hj]
      refine Eq.trans ih ?_
      by_cases hk : k = j
      · subst hk; simp [hj]
      · simp [Tbl.find, hk]

/-- The move of the shadows gives every register of the page its staged value, and other pages nothing. -/
theorem State.reg_moveShadows (pg off : Nat) (ho : off < 2 ^ 20) :
    (s.moveShadows pg).reg pg off = s.staged pg off ∧ (s.moveShadows pg).shadow = s.shadow := by
  have step : ∀ (l : List (Nat × Word)) (u : State),
      (∀ e ∈ l, regKey pg 0 ≤ e.1 ∧ e.1 < regKey (pg + 1) 0) →
      (l.foldl (fun s e => let off := e.1 - regKey pg 0; s.setReg pg off (s.staged pg off)) u).shadow = u.shadow
      ∧ (l.foldl (fun s e => let off := e.1 - regKey pg 0; s.setReg pg off (s.staged pg off)) u).reg pg off
          = (if l.any (fun e => e.1 == regKey pg off) then u.staged pg off else u.reg pg off) := by
    intro l
    induction l with
    | nil => intro u _; simp
    | cons e r ih =>
      intro u hl
      have he := hl e List.mem_cons_self
      obtain ⟨h1, h2⟩ := ih (u.setReg pg (e.1 - regKey pg 0) (u.staged pg (e.1 - regKey pg 0)))
        (fun f hf => hl f (List.mem_cons_of_mem _ hf))
      simp only [List.foldl_cons]
      refine ⟨by rw [h1]; rfl, ?_⟩
      rw [h2]
      simp only [List.any_cons]
      by_cases hk : e.1 = regKey pg off
      · have hoff : e.1 - regKey pg 0 = off := by rw [hk]; unfold regKey; omega
        rw [hoff]
        have hst : (u.setReg pg off (u.staged pg off)).staged pg off = u.staged pg off := by
          unfold State.staged
          simp only [State.shadow_setReg, State.reg_setReg_self]
          split
          · rfl
          · next w hw =>
            simp only [merge]
            generalize rwsMask pg off = m
            generalize u.reg pg off = r
            apply BitVec.eq_of_getElem_eq
            intro i hi
            simp
            cases m[i] <;> simp
        rw [hst]
        simp [hk]
      · have hne : regKey pg off ≠ regKey pg (e.1 - regKey pg 0) := by
          unfold regKey at *; omega
        have hst : (u.setReg pg (e.1 - regKey pg 0) (u.staged pg (e.1 - regKey pg 0))).staged pg off
            = u.staged pg off := by
          unfold State.staged
          simp only [State.shadow_setReg, u.reg_setReg_of_key _ hne]
        rw [hst, u.reg_setReg_of_key _ hne]
        simp [hk]
  obtain ⟨h1, h2⟩ := step (s.pendingSet pg) s (by
    intro e he
    simp [State.pendingSet, Tbl.range] at he
    exact he.2)
  refine ⟨?_, h1⟩
  unfold State.moveShadows
  rw [h2]
  split
  · rfl
  · next h =>
    unfold State.staged
    have : s.shadow.find (regKey pg off) = none := by
      have hf := Tbl.find_filter s.shadow (fun k => decide (regKey pg 0 ≤ k ∧ k < regKey (pg + 1) 0)) (regKey pg off)
      rw [if_pos (by simp only [decide_eq_true_eq]; unfold regKey; omega)] at hf
      rw [← hf]
      have hany : ¬ (s.pendingSet pg).any (fun e => e.1 == regKey pg off) = true := h
      have gen : ∀ l : Tbl Word, ¬ l.any (fun e => e.1 == regKey pg off) = true → Tbl.find l (regKey pg off) = none := by
        intro l
        induction l with
        | nil => intro _; rfl
        | cons e r ih =>
          intro hl
          simp only [List.any_cons, Bool.or_eq_true, not_or] at hl
          obtain ⟨j, v⟩ := e
          simp only [Tbl.find]
          rw [if_neg (by intro hh; exact hl.1 (by simp [hh])), ih hl.2]
      exact gen _ hany
    rw [this]

end Sys2Proof.Machine
end

