-- ==== Sys2Proof/Machine/Outputs.lean ====
section
/-! DEFINITION. What the balls of the device carry (R382, R400, R424, R427, R443, R487, R494): the groups beside the
edge channels, whose outputs are `ChanX.drv` and `ChanX.ena`, and the status pins of `Pins`. Nothing reads these but
an observer of the board. -/

namespace Sys2Proof.Machine

/-- An output group: floating, a transmitter in electrical idle, driven, or an open-drain line that is pulled low or
let go. -/
inductive Drives where
  | floats | idle | driven | openDrain
  deriving DecidableEq, Repr

/-- The outputs of a page's domain float: the domain is not on, or the shell is in its power-on reset (R427, R443). -/
def State.floating (s : State) (pg : Nat) : Bool := !s.tu.porDone || s.pageDomain pg != 0

/-- DDd_*, the host interface of DRAM channel `k`. -/
def State.ddrOut (s : State) (k : Nat) : Drives := if s.floating (pgDrc k) then .floats else .driven

/-- A general lane's transmitter: it floats with its quad's domain, is idle unless its lane runs (R372, R380, R382,
R400), and sends the words of `QuadX.sent` otherwise. -/
def State.glnOut (s : State) (p l : Nat) : Drives :=
  if s.floating (pgLane (laneQuad p l)) then .floats else if s.laneLive p l then .driven else .idle

/-- A lane of a Kelef port whose EN is 0 sends the pattern of its PAT (R379). -/
def State.patternOut (s : State) (p l : Nat) : Bool :=
  s.portRuns p && s.quadActive p && s.on pgClk CLK_ROOT_STAT.JUDGED && !s.on (pgKlf p) KLF_CTL.EN
    && (s.laneRd p l LANE_TXl.PAT == 1 || s.laneRd p l LANE_TXl.PAT == 2)

/-- A Kelef transmitter: in the shell's power-on reset it is idle (R427), it floats with its quad's domain (R380), and
it drives the column of `State.lineColumn`, or the pattern of a port that is not enabled (R379). -/
def State.klfOut (s : State) (p l t : Nat) : Drives :=
  if !s.tu.porDone then .idle
  else if s.pageDomain (pgLane p) ≠ 0 then .floats
  else if (s.lineColumn p t).isSome || s.patternOut p l then .driven else .idle

/-- PSPn_IOm of serial port `i` (R424, R443): outputs by MODE, and inputs and unused balls float; a port whose tile is
held is stopped, and still holds its lines as its MODE has them. -/
def State.pspOut (s : State) (i m : Nat) : Drives :=
  if s.floating (pgFab (i / 4 + 1)) then .floats
  else
    let mode := s.serRd i FAB_SPk_CFG.MODE
    if mode = 1 then if m = 0 ∨ m = 2 then .driven else .floats
    else if mode = 2 then if m = 2 then .floats else .driven
    else if (mode = 3 ∨ mode = 4) ∧ m < 2 then .openDrain
    else .floats

/-- DBG_IO, which the device drives only while it answers a read; it floats in the shell's power-on reset. -/
def State.dbgOut (s : State) : Drives := if s.tu.porDone && s.dpAnswer.isSome then .driven else .floats

/-- SBn_SCL and SBn_SDA, open-drain lines of the shell (R494). -/
def State.sbOut (s : State) : Drives := if s.tu.porDone then .openDrain else .floats

/-- An edge channel's two outputs float (R94, R427, R443). -/
def State.edgeFloats (s : State) (b c : Nat) : Bool :=
  s.floating (pgEdg b) || ((((s.bank b).chan c).drv).isNone && (((s.bank b).chan c).ena).isNone)

end Sys2Proof.Machine
end

