-- ==== Sys2Proof/WellFormed.lean ====
section
/-! DEFINITION. Well-formed commands: every operand that names a unit, an initiator, a page or a place lies
in the range that the spec gives it. The machine answers ill-formed commands too; what it does with them
is no claim about the device. -/

namespace Sys2Proof

open Sys2Proof.Machine

/-- The check of one command. -/
def wellFormed (i : Instr) : Bool :=
  match i with
  | .registerWrite addr _ _ init src _ _ => decide (addr < 2 ^ 48) && initListed init && decide (src < 4096)
  | .rcRegisterRead addr _ init src _ => decide (addr < 2 ^ 48) && initListed init && decide (src < 4096)
  | .stalledAccessComplete _ => true
  | .pageSoftReset pg => decide (pg < 4096)
  | .softResetDone pg => decide (pg < 4096)
  | .pageCommitNow pg _ => decide (pg < 4096)
  | .pageAbort pg => decide (pg < 4096)
  | .pageDiscard pg => decide (pg < 4096)
  | .pageClkEnWrite pg _ => decide (pg < 4096)
  | .budgetPeriodBoundary _ => true
  | .crcPassStart pg off flip => decide (pg < 4096) && decide (off < 2 ^ 20) && decide (flip < 2 ^ 32)
  | .crcPassEnd pg => decide (pg < 4096)
  | .crcCommit pg => decide (pg < 4096)
  | .almPendClear v => decide (v < 2 ^ 32)
  | .almClearLog => true
  | .shellPorEnd => true
  | .diePorEnd d _ _ _ _ _ _ _ => decide (d ≤ 6)
  | .firmwareStart => true
  | .fwStartTimeout => true
  | .hubWdogExpire => true
  | .refSignalQualify p _ => decide (p < 16)
  | .judgeWindowEnd _ _ => true
  | .judgeTimeout => true
  | .panelMultLock p => panelOk p
  | .panelMultTimeout p => panelOk p
  | .beaconStart p => decide (p < 16)
  | .bcnReceive p _ _ _ => decide (p < 16)
  | .brpReceive p _ _ => decide (p < 16)
  | .beaconTimeout p => decide (p < 16)
  | .parentDriftMeasured _ => true
  | .switchRetry => true
  | .parentSignalLoss => true
  | .parentSignalReturn => true
  | .holdoverExpiry => true
  | .clockRecovery p _ => decide (p < 16)
  | .ungate => true
  | .launchAdd _ => true
  | .launchCancel ix gen => decide (ix < 1024) && decide (gen < 64)
  | .launchRead ix gen => decide (ix < 1024) && decide (gen < 64)
  | .launchCommit ix => decide (ix < 1024)
  | .launchRelease ix => decide (ix < 1024)
  | .launchSnapshot ix => decide (ix < 1024)
  | .launchStartSeq ix => decide (ix < 1024)
  | .launchEvent ix => decide (ix < 1024)
  | .launchMissedFree => true
  | .seamRoleWrite _ v => decide (v < 2 ^ 32)
  | .seamReleaseWrite init v => initListed init && decide (v < 2 ^ 32)
  | .heartbeatMiss d => decide (1 ≤ d ∧ d ≤ 6)
  | .seamReqToLostDie d => decide (1 ≤ d ∧ d ≤ 6)
  | .seamLateResponse d => decide (1 ≤ d ∧ d ≤ 6)
  | .detourLoad _ => true
  | .detourWithdraw _ => true
  | .selvageReset => true
  | .recordDecode l => decide (l < 16)
  | .cycleIssue l _ _ _ => decide (l < 16)
  | .failVectorDeliver b _ => decide (b < 16)
  | .branchResolve l => decide (l < 16)
  | .waitExpire l => decide (l < 16)
  | .maskArrives b => decide (b < 16)
  | .seqArm b => decide (b < 16)
  | .seqReady l => decide (l < 16)
  | .startNow b => decide (b < 16)
  | .seqPendingStart l => decide (l < 16)
  | .partnerLostDeclare b => decide (b < 16)
  | .walkerSegmentRequest l => decide (l < 16)
  | .segmentFetchReturn l _ _ => decide (l < 16)
  | .partnerProbe l _ => decide (l < 16)
  | .probeTimeout l _ => decide (l < 16)
  | .waveWrite b => decide (b < 16)
  | .waveWriteDone b => decide (b < 16)
  | .waveRead b => decide (b < 16)
  | .waveReadDone b _ => decide (b < 16)
  | .tsFifoPop b => decide (b < 16)
  | .calExchange b _ => decide (b < 16)
  | .calStale b => decide (b < 16)
  | .wftTblWrite b v => decide (b < 16) && decide (v < 2 ^ 32)
  | .wftTblRead b _ => decide (b < 16)
  | .catMaskClear p _ v => panelOk p && decide (v < 2 ^ 32)
  | .catMaskSet p _ v => panelOk p && decide (v < 2 ^ 32)
  | .cacheWriteback p => panelOk p
  | .mergeAck p _ => panelOk p
  | .flush p => panelOk p
  | .clearSites p => panelOk p
  | .clearTally p => panelOk p
  | .clearCounters p => panelOk p
  | .catCmdDone p => panelOk p
  | .spoolPush h init dev cell _ _ => decide (h < 2 ^ 13) && initListed init && decide (dev < 4096) && decide (cell < 2 ^ 512)
  | .spoolPop h init _ => decide (h < 2 ^ 13) && initListed init
  | .spoolFlush h init => decide (h < 2 ^ 13) && initListed init
  | .splOpPush p h init dev _ _ => panelOk p && decide (h < 2 ^ 13) && initListed init && decide (dev < 4096)
  | .splOpPop p h init _ => panelOk p && decide (h < 2 ^ 13) && initListed init
  | .engineStart e => engOk e
  | .engineKill e => engOk e
  | .wdogKick e => engOk e
  | .doorbellRing e => engOk e
  | .intPendClear e v => engOk e && decide (v < 2 ^ 32)
  | .interruptTake e _ => engOk e
  | .timerExpire e => engOk e
  | .wdogExpire e => engOk e
  | .fetchGo e dir => engOk e && decide (dir < 2)
  | .fetchResponse e _ _ _ => engOk e
  | .clusterMemGrant e _ _ => engOk e
  | .lockGrant e _ => engOk e
  | .ondieMemAccess init dev op addr n _ _ => initListed init && decide (dev < 4096) && decide (op < 3) && decide (addr < 2 ^ 48) && decide (1 ≤ n ∧ n ≤ 64)
  | .xfer e _ _ => engOk e
  | .mul e _ _ => engOk e
  | .muln e _ _ => engOk e
  | .madd e _ _ => engOk e
  | .msub e _ _ => engOk e
  | .add e _ _ => engOk e
  | .sub e _ _ => engOk e
  | .zero e _ _ => engOk e
  | .cmp e _ _ => engOk e
  | .copy e _ _ => engOk e
  | .neg e _ _ => engOk e
  | .abs e _ _ => engOk e
  | .shl e _ _ => engOk e
  | .shr e _ _ => engOk e
  | .max e _ _ => engOk e
  | .move e _ _ => engOk e
  | .movi e _ _ => engOk e
  | .adda e _ _ => engOk e
  | .ldm e _ _ => engOk e
  | .stm e _ _ => engOk e
  | .ldc e _ _ => engOk e
  | .stc e _ _ => engOk e
  | .pioRead e _ _ => engOk e
  | .pioWrite e _ _ => engOk e
  | .bra e _ _ => engOk e
  | .call e _ _ => engOk e
  | .ret e _ _ => engOk e
  | .rti e _ _ => engOk e
  | .rptn e _ _ => engOk e
  | .loop e _ _ => engOk e
  | .lpop e _ _ => engOk e
  | .stop e _ _ => engOk e
  | .kick e _ _ => engOk e
  | .signal e _ _ => engOk e
  | .lock e _ _ => engOk e
  | .unlock e _ _ => engOk e
  | .waiti e _ _ => engOk e
  | .spush e _ _ => engOk e
  | .spop e _ _ => engOk e
  | .spflush e _ _ => engOk e
  | .spushResponse e _ => engOk e
  | .spopResponse e _ _ => engOk e
  | .dramRead init dev _ addr len _ _ => initListed init && decide (dev < 4096) && memReqOk init addr len
  | .dramWrite init dev _ addr len _ _ _ => initListed init && decide (dev < 4096) && memReqOk init addr len
  | .dramMerge init dev _ addr len _ _ _ => initListed init && decide (dev < 4096) && memReqOk init addr len
  | .neighbourRefresh k => decide (k < 8)
  | .scrubRead k _ => decide (k < 8)
  | .openRowIdleClose k bank => decide (k < 8) && decide (bank < 1024)
  | .refreshIntervalEnd k _ _ => decide (k < 8)
  | .hammerTallyClear k => decide (k < 8)
  | .dramTrainEnd k _ _ => decide (k < 8)
  | .drcClearLog k => decide (k < 8)
  | .drcClearCounts k => decide (k < 8)
  | .flipArm k sub => decide (k < 8) && decide (sub < 2)
  | .enable r => decide (r < 16)
  | .rekey r => decide (r < 16)
  | .disable r => decide (r < 16)
  | .sweepGroup r _ => decide (r < 16)
  | .fenceAck r _ => decide (r < 16)
  | .nocTblWrite d v => nocOk d && decide (v < 2 ^ 32)
  | .nocTblRead d => nocOk d
  | .nocSwitch d => nocOk d
  | .nocVersionResume init => initListed init
  | .nocClrStats d => nocOk d
  | .routerDisable d v => nocOk d && decide (v < 2 ^ 32)
  | .routerPowerDown p l => panelOk p && decide (l < 16)
  | .guestRequest site _ init dev op ddev addr len _ _ _ _ => (site == 5 || site == 6) && initListed init && decide (dev < 4096) && decide (op < 6) && decide (ddev < 4096) && decide (addr < 2 ^ 48) && decide (1 ≤ len ∧ len ≤ 64)
  | .restore site => (site == 5 || site == 6)
  | .fabricPortRequest ix op addr len be _ spf _ => decide (ix < 64) && decide (op < 16) && decide (addr < 2 ^ 64) && decide (len < 64) && decide (be < 2 ^ 64) && decide (spf < 4)
  | .fabricPortResponse ix _ _ _ _ => decide (ix < 64)
  | .fabricStreamSend ix _ => decide (ix < 64)
  | .streamPacketReceive ix _ => decide (ix < 64)
  | .fabricStreamTake ix => decide (ix < 64)
  | .serialRxByte ix v _ => decide (ix < 16) && decide (v < 2 ^ 9)
  | .klfPortEnable p _ => decide (p < 16)
  | .retrain p => decide (p < 16)
  | .laneSignalDetect q l => decide (q < 48) && decide (l < 4)
  | .laneSignalLoss q l => decide (q < 48) && decide (l < 4)
  | .laneLock q l _ => decide (q < 48) && decide (l < 4)
  | .laneLockLoss q l => decide (q < 48) && decide (l < 4)
  | .klfAlignDone p _ => decide (p < 16)
  | .trnReceive p dev port _ => decide (p < 16) && decide (dev < 4096) && decide (port < 16)
  | .klfParamDone p => decide (p < 16)
  | .klfTrainTimeout p => decide (p < 16)
  | .klfDownQuietEnd p => decide (p < 16)
  | .idlInsert p => decide (p < 16)
  | .lnkSend p => decide (p < 16)
  | .lnkReceive p _ => decide (p < 16)
  | .frameSend p vc => decide (p < 16) && decide (vc < 4)
  | .frameReceive p _ ds _ => decide (p < 16) && decide (ds.length < 16)
  | .replayTimeout p => decide (p < 16)
  | .sourceRoutedReceive p _ _ => decide (p < 16)
  | .klfRequestIngress p _ _ => decide (p < 16)
  | .klfRespReceive p => decide (p < 16)
  | .klfRspTimeout t => decide (t < 4096)
  | .klfStreamReceive p => decide (p < 16)
  | .probe p => decide (p < 16)
  | .probeResponse l _ => decide (l < 16)
  | .runend p => decide (p < 16)
  | .bcastReceive p => decide (p < 16)
  | .devidWrite v => decide (v < 2 ^ 32)
  | .rtWrite v _ => decide (v < 2 ^ 32)
  | .rtRead => true
  | .failedClear m => decide (m < 2 ^ 16)
  | .lanePllRelock q => decide (q < 48)
  | .lanePowerMoveDone q => decide (q < 48)
  | .scanPoint q l phase volt dwell => decide (q < 48) && decide (l < 4) && decide (phase < 64) && decide (volt < 128) && decide (dwell < 8)
  | .scanSweep q l phase volt dwell => decide (q < 48) && decide (l < 4) && decide (phase < 64) && decide (volt < 128) && decide (dwell < 8)
  | .scanEnd q l _ _ => decide (q < 48) && decide (l < 4)
  | .cfgStreamPacket => true
  | .cfgHeaderVerified => true
  | .cfgBlockProcess => true
  | .cfgStreamTimeout => true
  | .clrErr => true
  | .releaseStage r => decide (r < 32)
  | .darnFrameVisit p _ _ _ _ => panelOk p
  | .darnHeartbeat p => panelOk p
  | .darnHeartbeatMiss p => panelOk p
  | .domainTransitionDone d => domListed d
  | .brownOut _ _ _ => true
  | .tempSample _ => true
  | .napSample _ _ _ _ => true
  | .attGo => true
  | .attReportReady => true
  | .getInfo => true
  | .release _ => true
  | .readmit _ => true
  | .dramReport => true
  | .sigkeySet _ => true
  | .sigkeyRevoke _ => true
  | .keyImport => true
  | .keyDrop => true
  | .svnRaise _ => true
  | .minrevRaise _ => true
  | .fwWrite _ => true
  | .fwCommit _ => true
  | .fwConfirm _ => true
  | .getCert => true
  | .getCrash => true
  | .getLog => true
  | .clearCrash _ => true
  | .debugLock _ => true
  | .resetPackage => true
  | .noteAck => true
  | .moverGo m => decide (m < 4)
  | .moverStop m => decide (m < 4)
  | .moverResponse m _ _ _ => decide (m < 4)
  | .dpRead start opc reg _ => decide (start < 16) && decide (opc < 4) && decide (reg < 128)
  | .dpWrite start reg _ _ => decide (start < 16) && decide (reg < 128)
  | .dpLineReset => true
  | .dpAttach => true
  | .dpDetach => true
  | .dpClrErr => true
  | .dpMemRead _ _ => true
  | .dpMemWrite _ _ => true
  | .dpAccessDone _ _ => true
  | .shuHalt init _ => initListed init
  | .shuHaltForce e => engOk e
  | .shuStep init _ => initListed init
  | .shuResume init _ => initListed init
  | .shuRvalWrite init _ v => initListed init && decide (v < 2 ^ 32)
  | .seqHalt init => initListed init
  | .seqStep init => initListed init
  | .seqResume init => initListed init
  | .seqResumeStart l => decide (l < 16)
  | .idle8GBoundary b _ => decide (b < 16)
  | .undefinedInstruction e _ _ => engOk e
  | .badCmd => true
  | .blockLockAcquire q l => decide (q < 48) && decide (l < 4)
  | .blockLockLost q l => decide (q < 48) && decide (l < 4)
  | .klfSkewExceeded p _ => decide (p < 16)
  | .ctlColumnDiscard p _ => decide (p < 16)
  | .routerRestoreDone p l => panelOk p && decide (l < 16)
  | .heartbeatReturn d => decide (1 ≤ d ∧ d ≤ 6)
  | .tmrFix p => panelOk p
  | .tclkEdge p _ _ _ _ _ _ => panelOk p
  | .serialTxByte ix => decide (ix < 16)

end Sys2Proof
end

