-- ==== Sys2Proof/Tests/Slice0.lean ====
section
/-! SUPPORT. Small tests: the checks of well-formed commands, worked examples of the spec, and for each statement
with hypotheses a state that meets them. -/

namespace Sys2Proof.Machine.Slice0

-- One theorem at a time: side by side their threads can outrun the memory of a small machine.
set_option Elab.async false

/-- The state with fields of registers replaced. -/
def setAll (s : State) (l : List (Nat × Fld × Nat)) : State := l.foldl (fun s e => s.wr e.1 e.2.1 e.2.2) s

/-- The power-on resets are over, the reference is judged, the panels are present, up and released, the first release
is made, firmware runs, and the named pages have their clocks. -/
def live (pgs : List Nat) : State :=
  let s := setAll { tu := { porDone := true } }
    [(pgClk, CLK_ROOT_STAT.PLL_LOCK, 1), (pgClk, CLK_ROOT_STAT.JUDGED, 1), (pgSeam, SEAM_PKG.PRESENT, 0x1F),
     (pgSeam, SEAM_PKG.UP, 0x1F), (pgSeam, SEAM_PKG.RELEASED, 0x1E), (pgHub, HUB_BOOT.STATUS, 1),
     (pgSeam, SEAM_DIEn_CAP.CAP.nth 0, 0xFFFFFFFF), (pgSeam, SEAM_CAP_EFF.CAP, 0xFFFFFFFF)]
  let s : State := { s with dies := (List.range 5).map fun d => (d, { answered := true, porDone := true }), hub := { first := true, locked := true } }
  pgs.foldl (fun s pg => s.wr pg PAGE_CTL.CLK_EN 1) s

/-- The command completes, and the state that it leaves passes the test. -/
def after (c : Instr) (s : State) (p : State → Bool) : Bool :=
  match exec c s with
  | .next t => p t
  | _ => false
/-! ### Well-formed commands -/

/-- One ill-formed command for each operand that is checked: part 1. -/
theorem test_wellFormed_refuses0 :
  ([.registerWrite (2 ^ 64) 1 1 1 1 false false, .registerWrite 1 1 1 (2 ^ 64) 1 false false,
   .registerWrite 1 1 1 1 (2 ^ 64) false false, .rcRegisterRead (2 ^ 64) 1 1 1 false,
   .rcRegisterRead 1 1 (2 ^ 64) 1 false, .rcRegisterRead 1 1 1 (2 ^ 64) false, .pageSoftReset (2 ^ 64),
   .softResetDone (2 ^ 64), .pageCommitNow (2 ^ 64) false, .pageAbort (2 ^ 64), .pageDiscard (2 ^ 64),
   .pageClkEnWrite (2 ^ 64) false, .crcPassStart (2 ^ 64) 1 1, .crcPassStart 1 (2 ^ 64) 1,
   .crcPassStart 1 1 (2 ^ 64), .crcPassEnd (2 ^ 64), .crcCommit (2 ^ 64), .almPendClear (2 ^ 64),
   .diePorEnd (2 ^ 64) false 1 1 1 1 1 1, .refSignalQualify (2 ^ 64) [], .panelMultLock (2 ^ 64),
   .panelMultTimeout (2 ^ 64), .beaconStart (2 ^ 64), .bcnReceive (2 ^ 64) (.ctl 0 0 0) 1 1,
   .brpReceive (2 ^ 64) (.ctl 0 0 0) 1, .beaconTimeout (2 ^ 64), .clockRecovery (2 ^ 64) [],
   .launchCancel (2 ^ 64) 1, .launchCancel 1 (2 ^ 64), .launchRead (2 ^ 64) 1, .launchRead 1 (2 ^ 64),
   .launchCommit (2 ^ 64), .launchRelease (2 ^ 64), .launchSnapshot (2 ^ 64), .launchStartSeq (2 ^ 64),
   .launchEvent (2 ^ 64), .seamRoleWrite 1 (2 ^ 64), .seamReleaseWrite (2 ^ 64) 1, .seamReleaseWrite 1 (2 ^ 64),
   .heartbeatMiss (2 ^ 64), .seamReqToLostDie (2 ^ 64), .seamLateResponse (2 ^ 64), .recordDecode (2 ^ 64),
   .cycleIssue (2 ^ 64) [] [] [], .failVectorDeliver (2 ^ 64) [], .branchResolve (2 ^ 64), .waitExpire (2 ^ 64),
   .maskArrives (2 ^ 64), .seqArm (2 ^ 64), .seqReady (2 ^ 64)] : List Instr).all (fun i => !wellFormed i) = true := by
  decide +kernel

/-- One ill-formed command for each operand that is checked: part 2. -/
theorem test_wellFormed_refuses1 :
  ([.startNow (2 ^ 64), .seqPendingStart (2 ^ 64), .partnerLostDeclare (2 ^ 64), .walkerSegmentRequest (2 ^ 64),
   .segmentFetchReturn (2 ^ 64) 1 [], .partnerProbe (2 ^ 64) 1, .probeTimeout (2 ^ 64) 1, .waveWrite (2 ^ 64),
   .waveWriteDone (2 ^ 64), .waveRead (2 ^ 64), .waveReadDone (2 ^ 64) [], .tsFifoPop (2 ^ 64),
   .calExchange (2 ^ 64) 1, .calStale (2 ^ 64), .wftTblWrite (2 ^ 64) 1, .wftTblWrite 1 (2 ^ 64),
   .wftTblRead (2 ^ 64) .clean, .catMaskClear (2 ^ 64) false 1, .catMaskClear 1 false (2 ^ 64),
   .catMaskSet (2 ^ 64) false 1, .catMaskSet 1 false (2 ^ 64), .cacheWriteback (2 ^ 64), .mergeAck (2 ^ 64) [],
   .flush (2 ^ 64), .clearSites (2 ^ 64), .clearTally (2 ^ 64), .clearCounters (2 ^ 64), .catCmdDone (2 ^ 64),
   .spoolPush (2 ^ 64) 1 1 1 false false, .spoolPush 1 (2 ^ 64) 1 1 false false,
   .spoolPush 1 1 (2 ^ 64) 1 false false, .spoolPush 1 1 1 (2 ^ 600) false false, .spoolPop (2 ^ 64) 1 .clean,
   .spoolPop 1 (2 ^ 64) .clean, .spoolFlush (2 ^ 64) 1, .spoolFlush 1 (2 ^ 64),
   .splOpPush (2 ^ 64) 1 1 1 false false, .splOpPush 1 (2 ^ 64) 1 1 false false,
   .splOpPush 1 1 (2 ^ 64) 1 false false, .splOpPush 1 1 1 (2 ^ 64) false false, .splOpPop (2 ^ 64) 1 1 .clean,
   .splOpPop 1 (2 ^ 64) 1 .clean, .splOpPop 1 1 (2 ^ 64) .clean, .engineStart (2 ^ 64), .engineKill (2 ^ 64),
   .wdogKick (2 ^ 64), .doorbellRing (2 ^ 64), .intPendClear (2 ^ 64) 1, .intPendClear 1 (2 ^ 64),
   .interruptTake (2 ^ 64) 1] : List Instr).all (fun i => !wellFormed i) = true := by
  decide +kernel

/-- One ill-formed command for each operand that is checked: part 3. -/
theorem test_wellFormed_refuses2 :
  ([.timerExpire (2 ^ 64), .wdogExpire (2 ^ 64), .fetchGo (2 ^ 64) 1, .fetchGo 1 (2 ^ 64),
   .fetchResponse (2 ^ 64) 1 [] [], .clusterMemGrant (2 ^ 64) 1 [], .lockGrant (2 ^ 64) 1,
   .ondieMemAccess (2 ^ 64) 1 1 1 1 1 [], .ondieMemAccess 1 (2 ^ 64) 1 1 1 1 [],
   .ondieMemAccess 1 1 (2 ^ 64) 1 1 1 [], .ondieMemAccess 1 1 1 (2 ^ 64) 1 1 [],
   .ondieMemAccess 1 1 1 1 (2 ^ 64) 1 [], .xfer (2 ^ 64) 1 [], .mul (2 ^ 64) 1 [], .muln (2 ^ 64) 1 [],
   .madd (2 ^ 64) 1 [], .msub (2 ^ 64) 1 [], .add (2 ^ 64) 1 [], .sub (2 ^ 64) 1 [], .zero (2 ^ 64) 1 [],
   .cmp (2 ^ 64) 1 [], .copy (2 ^ 64) 1 [], .neg (2 ^ 64) 1 [], .abs (2 ^ 64) 1 [], .shl (2 ^ 64) 1 [],
   .shr (2 ^ 64) 1 [], .max (2 ^ 64) 1 [], .move (2 ^ 64) 1 [], .movi (2 ^ 64) 1 [], .adda (2 ^ 64) 1 [],
   .ldm (2 ^ 64) 1 [], .stm (2 ^ 64) 1 [], .ldc (2 ^ 64) 1 [], .stc (2 ^ 64) 1 [], .pioRead (2 ^ 64) 1 [],
   .pioWrite (2 ^ 64) 1 [], .bra (2 ^ 64) 1 [], .call (2 ^ 64) 1 [], .ret (2 ^ 64) 1 [], .rti (2 ^ 64) 1 [],
   .rptn (2 ^ 64) 1 [], .loop (2 ^ 64) 1 [], .lpop (2 ^ 64) 1 [], .stop (2 ^ 64) 1 [], .kick (2 ^ 64) 1 [],
   .signal (2 ^ 64) 1 [], .lock (2 ^ 64) 1 [], .unlock (2 ^ 64) 1 [], .waiti (2 ^ 64) 1 [],
   .spush (2 ^ 64) 1 []] : List Instr).all (fun i => !wellFormed i) = true := by
  decide +kernel

/-- One ill-formed command for each operand that is checked: part 4. -/
theorem test_wellFormed_refuses3 :
  ([.spop (2 ^ 64) 1 [], .spflush (2 ^ 64) 1 [], .spushResponse (2 ^ 64) 1, .spopResponse (2 ^ 64) 1 .clean,
   .dramRead (2 ^ 64) 1 false 1 1 false [], .dramRead 1 (2 ^ 64) false 1 1 false [],
   .dramRead 1 1 false (2 ^ 64) 1 false [], .dramRead 1 1 false 1 (2 ^ 64) false [],
   .dramWrite (2 ^ 64) 1 false 1 1 1 false [], .dramWrite 1 (2 ^ 64) false 1 1 1 false [],
   .dramWrite 1 1 false (2 ^ 64) 1 1 false [], .dramWrite 1 1 false 1 (2 ^ 64) 1 false [],
   .dramMerge (2 ^ 64) 1 false 1 1 1 false [], .dramMerge 1 (2 ^ 64) false 1 1 1 false [],
   .dramMerge 1 1 false (2 ^ 64) 1 1 false [], .dramMerge 1 1 false 1 (2 ^ 64) 1 false [],
   .neighbourRefresh (2 ^ 64), .scrubRead (2 ^ 64) [], .openRowIdleClose (2 ^ 64) 1, .openRowIdleClose 1 (2 ^ 64),
   .refreshIntervalEnd (2 ^ 64) false [], .hammerTallyClear (2 ^ 64), .dramTrainEnd (2 ^ 64) false 1,
   .drcClearLog (2 ^ 64), .drcClearCounts (2 ^ 64), .flipArm (2 ^ 64) 1, .flipArm 1 (2 ^ 64), .enable (2 ^ 64),
   .rekey (2 ^ 64), .disable (2 ^ 64), .sweepGroup (2 ^ 64) [], .fenceAck (2 ^ 64) 1, .nocTblWrite (2 ^ 64) 1,
   .nocTblWrite 1 (2 ^ 64), .nocTblRead (2 ^ 64), .nocSwitch (2 ^ 64), .nocVersionResume (2 ^ 64),
   .nocClrStats (2 ^ 64), .routerDisable (2 ^ 64) 1, .routerDisable 1 (2 ^ 64), .routerPowerDown (2 ^ 64) 1,
   .routerPowerDown 1 (2 ^ 64), .guestRequest (2 ^ 64) false 1 1 1 1 1 1 1 false [] [],
   .guestRequest 5 false (2 ^ 64) 1 1 1 1 1 1 false [] [], .guestRequest 5 false 1 (2 ^ 64) 1 1 1 1 1 false [] [],
   .guestRequest 5 false 1 1 (2 ^ 64) 1 1 1 1 false [] [], .guestRequest 5 false 1 1 1 (2 ^ 64) 1 1 1 false [] [],
   .guestRequest 5 false 1 1 1 1 (2 ^ 64) 1 1 false [] [], .guestRequest 5 false 1 1 1 1 1 (2 ^ 64) 1 false [] [],
   .restore (2 ^ 64)] : List Instr).all (fun i => !wellFormed i) = true := by
  decide +kernel

/-- One ill-formed command for each operand that is checked: part 5. -/
theorem test_wellFormed_refuses4 :
  ([.fabricPortRequest (2 ^ 64) 1 1 1 1 1 1 false, .fabricPortRequest 1 (2 ^ 64) 1 1 1 1 1 false,
   .fabricPortRequest 1 1 (2 ^ 64) 1 1 1 1 false, .fabricPortRequest 1 1 1 (2 ^ 64) 1 1 1 false,
   .fabricPortRequest 1 1 1 1 (2 ^ 64) 1 1 false, .fabricPortRequest 1 1 1 1 1 1 (2 ^ 64) false,
   .fabricPortResponse (2 ^ 64) 1 false [] [], .fabricStreamSend (2 ^ 64) 1, .streamPacketReceive (2 ^ 64) false,
   .fabricStreamTake (2 ^ 64), .serialRxByte (2 ^ 64) 1 false, .serialRxByte 1 (2 ^ 64) false,
   .klfPortEnable (2 ^ 64) false, .retrain (2 ^ 64), .laneSignalDetect (2 ^ 64) 1, .laneSignalDetect 1 (2 ^ 64),
   .laneSignalLoss (2 ^ 64) 1, .laneSignalLoss 1 (2 ^ 64), .laneLock (2 ^ 64) 1 [], .laneLock 1 (2 ^ 64) [],
   .laneLockLoss (2 ^ 64) 1, .laneLockLoss 1 (2 ^ 64), .klfAlignDone (2 ^ 64) 1, .trnReceive (2 ^ 64) 1 1 false,
   .trnReceive 1 (2 ^ 64) 1 false, .trnReceive 1 1 (2 ^ 64) false, .klfParamDone (2 ^ 64), .klfTrainTimeout (2 ^ 64),
   .klfDownQuietEnd (2 ^ 64), .idlInsert (2 ^ 64), .lnkSend (2 ^ 64), .lnkReceive (2 ^ 64) (.ctl 0 0 0),
   .frameSend (2 ^ 64) 1, .frameSend 1 (2 ^ 64), .frameReceive (2 ^ 64) (.ctl 0 0 0) [] .clean,
   .frameReceive 1 (.ctl 0 0 0) (List.replicate 16 (.ctl 0 0 0)) .clean, .replayTimeout (2 ^ 64),
   .sourceRoutedReceive (2 ^ 64) [] [], .klfRequestIngress (2 ^ 64) [] [], .klfRespReceive (2 ^ 64),
   .klfRspTimeout (2 ^ 64), .klfStreamReceive (2 ^ 64), .probe (2 ^ 64), .probeResponse (2 ^ 64) 1, .runend (2 ^ 64),
   .bcastReceive (2 ^ 64), .devidWrite (2 ^ 64), .rtWrite (2 ^ 64) .clean, .failedClear (2 ^ 64),
   .lanePllRelock (2 ^ 64)] : List Instr).all (fun i => !wellFormed i) = true := by
  decide +kernel

/-- One ill-formed command for each operand that is checked: part 6. -/
theorem test_wellFormed_refuses5 :
  ([.lanePowerMoveDone (2 ^ 64), .scanPoint (2 ^ 64) 1 1 1 1, .scanPoint 1 (2 ^ 64) 1 1 1,
   .scanPoint 1 1 (2 ^ 64) 1 1, .scanPoint 1 1 1 (2 ^ 64) 1, .scanPoint 1 1 1 1 (2 ^ 64),
   .scanSweep (2 ^ 64) 1 1 1 1, .scanSweep 1 (2 ^ 64) 1 1 1, .scanSweep 1 1 (2 ^ 64) 1 1,
   .scanSweep 1 1 1 (2 ^ 64) 1, .scanSweep 1 1 1 1 (2 ^ 64), .scanEnd (2 ^ 64) 1 [] [], .scanEnd 1 (2 ^ 64) [] [],
   .releaseStage (2 ^ 64), .darnFrameVisit (2 ^ 64) 1 1 .clean 1, .darnHeartbeat (2 ^ 64),
   .darnHeartbeatMiss (2 ^ 64), .domainTransitionDone (2 ^ 64), .moverGo (2 ^ 64), .moverStop (2 ^ 64),
   .moverResponse (2 ^ 64) 1 [] [], .dpRead (2 ^ 64) 1 1 1, .dpRead 1 (2 ^ 64) 1 1, .dpRead 1 1 (2 ^ 64) 1,
   .dpWrite (2 ^ 64) 1 1 1, .dpWrite 1 (2 ^ 64) 1 1, .shuHalt (2 ^ 64) false, .shuHaltForce (2 ^ 64),
   .shuStep (2 ^ 64) false, .shuResume (2 ^ 64) false, .shuRvalWrite (2 ^ 64) false 1,
   .shuRvalWrite 1 false (2 ^ 64), .seqHalt (2 ^ 64), .seqStep (2 ^ 64), .seqResume (2 ^ 64),
   .seqResumeStart (2 ^ 64), .idle8GBoundary (2 ^ 64) [], .undefinedInstruction (2 ^ 64) 1 [],
   .blockLockAcquire (2 ^ 64) 1, .blockLockAcquire 1 (2 ^ 64), .blockLockLost (2 ^ 64) 1, .blockLockLost 1 (2 ^ 64),
   .klfSkewExceeded (2 ^ 64) 1, .ctlColumnDiscard (2 ^ 64) (.ctl 0 0 0), .routerRestoreDone (2 ^ 64) 1,
   .routerRestoreDone 1 (2 ^ 64), .heartbeatReturn (2 ^ 64), .tmrFix (2 ^ 64), .tclkEdge (2 ^ 64) [] [] [] [] [] [],
   .serialTxByte (2 ^ 64)] : List Instr).all (fun i => !wellFormed i) = true := by
  decide +kernel

/-- One command of every kind of check, accepted. -/
theorem test_wellFormed_accepts : [.registerWrite 0x0C0000000040 4 0 1 0 false false, .pageSoftReset 4095, .diePorEnd 6 true 0 0 0 0 0 0,
    .panelMultLock 4, .beaconStart 15, .seamReleaseWrite 2 0, .heartbeatMiss 6, .engineStart 255, .spoolPush 0x1FFF 8 0 0 true true,
    .dramRead 8 0 false 0 64 false [], .guestRequest 6 true 0x10 0 2 0xFFF 0 64 0 false [] [], .nocTblRead 0,
    .domainTransitionDone 144, .dpRead 10 1 127 0, .scanPoint 47 3 63 127 7].all wellFormed = true := by
  decide +kernel

/-! ### Worked examples of the spec -/

/-- 01: with panel 4 at 0x0001_0FF7 and every other die at 0x0003_0FFF, SEAM_CAP_EFF is 0x0001_0FF7. -/
theorem test_capability_join :
    (setAll (live []) ([0, 1, 2, 3, 4].map fun d => (pgSeam, SEAM_DIEn_CAP.CAP.nth d, if d = 4 then 0x10FF7 else 0x30FFF))).capJoin
      = 0x10FF7 := by decide +kernel

/-- 03: the beacon exchange with ASYM 20 gives θ = 37 VS and d_fwd = 16,400 VS. -/
def beaconState : State :=
  { (setAll (live [pgTime]) [(pgTime, TIME_TRIMp.ASYM.nth 3, 20), (pgTime, TIME_STAT.ACTIVE_PORT, 3),
      (pgKlf 3, KLF_STAT.STATE, 5), (pgKlf 3, KLF_CTL.EN, 1)]) with beacons := [(3, { t1 := some 256000000, seq := 7 })] }

/-- The BRP column of the example, its exchange numbered 7. -/
def replyColumn : Column := ctlColumn .brp (brpPayload 7 256016417 256020480 1 true false)

theorem replyColumn_kind : replyColumn.isCtl = true ∧ ctlKind replyColumn = some .brp :=
  ⟨ctlColumn_isCtl _ _, ctlKind_ctlColumn _ _ (by decide)⟩

theorem test_beacon_exchange :
    let t := beaconState.brpReceive 3 (brpPayload 7 256016417 256020480 1 true false) 256036843
    t.rd pgTime TIME_OFFSET.THETA = 37 ∧ t.rd pgTime (TIME_DELAYp.DFWD.nth 3) = 16400 := by decide +kernel

/-- 09: the table of rounding and scaling. -/
theorem test_rounding :
    [(0x00123456800000, 0), (0x00123457800000, 0), (0x00123456800001, 0), (0xFFFFFFFE800000, 0), (0x00C00000000000, 0),
      (0x00C00000000000, -1), (0x00200000C00000, 1), (0x007FFFFFFFFFFF, -3)].map (fun e : Nat × Int => wordOfAcc e.1 e.2)
    = [(0x123456, false), (0x123458, false), (0x123457, false), (0xFFFFFE, false), (0x7FFFFF, true), (0x600000, false),
        (0x400002, false), (0x100000, false)] := by decide +kernel

/-- 11: the settings of the worked example, and where the first and the last line of site 3's map lie. -/
def mapState : State :=
  setAll (live []) ([(pgMap, DRC_WINw_BASE.VALUE.nth 0, 0), (pgMap, DRC_WINw_SIZE.VALUE.nth 0, 2048),
    (pgMap, DRC_WINw_CFG.EN.nth 0, 1), (pgMap, DRC_WINw_CFG.FIRST.nth 0, 0), (pgMap, DRC_WINw_CFG.WAYS.nth 0, 3),
    (pgMap, DRC_WINw_CFG.GRAIN.nth 0, 11), (pgMap, DRC_WINw_OFF.OFF.nth 0, 0)]
    ++ [0, 7].flatMap fun k => [(pgDrc k, DRC_GEOM.BGB, 3), (pgDrc k, DRC_GEOM.CB, 7), (pgDrc k, DRC_GEOM.BKB, 2),
      (pgDrc k, DRC_GEOM.RKB, 1), (pgDrc k, DRC_GEOM.ROWB, 18)])

theorem test_map_first : mapState.mapAddr 0x000B00000000 = some (0, 0x160000000)
    ∧ mapState.place 0 0x160000000 = ⟨0, 0, 0, 0, 0, 5632⟩ := by decide +kernel

theorem test_map_last : mapState.mapAddr 0x000BBFFFFFC0 = some (7, 0x177FFFFC0)
    ∧ mapState.place 7 0x177FFFFC0 = ⟨1, 7, 127, 3, 1, 6015⟩ := by decide +kernel

/-- 11: a one-DIMM channel with tRFC1 = 3,776 G reserves 163 credits. -/
theorem test_reserve : rsvOf 1024 3776 = 163 := by decide

/-- 14: the reply of the device that consumes the packet at k = 1 leaves with ROUTE[0] = 1, ROUTE[1] = 3 reversed:
first port 1, then 3. -/
theorem test_route_reversed : routeAt (routeRev (routePut (routePut 0 0 3) 1 1) 2) 0 = 1
    ∧ routeAt (routeRev (routePut (routePut 0 0 3) 1 1) 2) 1 = 3 := by decide

/-- 21: a request whose check is wrong latches CHK_ERR; the right one is answered. -/
theorem test_dp_check :
    after (.dpRead 10 1 1 (readCheck 1 1)) (live []) (fun t => t.dpAnswer.map (·.status) == some .done) = true
    ∧ after (.dpRead 10 1 1 (readCheck 1 1 + 1)) (live []) (fun t => t.dp.chkErr) = true := by decide +kernel

/-! ### Premises that a state meets: register pages, dies, time -/

/-- GOV_CAP_KLF (0x44 of the governor's page), an RW register. -/
theorem witness_registerWrite : let s := live [pgGov]
    let a := 0x0C0000031000 + GOV_CAP_KLF.CAP.off
    s.tu.porDone = true ∧ siteOf a = none ∧ ctlPlace a = some (pgGov, GOV_CAP_KLF.CAP.off, false) ∧ s.ctlCheck true a 4 2 = none
      ∧ s.homeOff pgGov GOV_CAP_KLF.CAP.off = GOV_CAP_KLF.CAP.off ∧ hasReg pgGov GOV_CAP_KLF.CAP.off = true
      ∧ s.writeRefusal pgGov GOV_CAP_KLF.CAP.off 5 = none ∧ s.portBits pgGov GOV_CAP_KLF.CAP.off 5 = 5
      ∧ s.on pgGov PAGE_PEND.PENDING = false ∧ rwsMask pgGov GOV_CAP_KLF.CAP.off = 0 := by decide +kernel

theorem witness_registerWrite_plain (u : State) (init dev : Nat) :
    u.writeOp pgGov GOV_CAP_KLF.CAP.off 5 init dev = none := rfl

theorem test_registerWrite :
    after (.registerWrite (0x0C0000031000 + GOV_CAP_KLF.CAP.off) 4 5 2 0 false false) (live [pgGov])
      (fun t => t.rd pgGov GOV_CAP_KLF.CAP == 5) = true := by decide +kernel

/-- DARN_CFG of panel 1, whose fields are all RWS. -/
theorem witness_shadowedWrite : let s := live [pgDarn 1]
    let a := 0x0C0000000000 + pgDarn 1 * 2 ^ 12 + 0x40
    s.tu.porDone = true ∧ siteOf a = none ∧ ctlPlace a = some (pgDarn 1, 0x40, false) ∧ s.ctlCheck true a 4 2 = none
      ∧ s.homeOff (pgDarn 1) 0x40 = 0x40 ∧ hasReg (pgDarn 1) 0x40 = true ∧ nativeOf (pgDarn 1) ≠ .spool
      ∧ s.writeRefusal (pgDarn 1) 0x40 1 = none ∧ rwsMask (pgDarn 1) 0x40 ≠ 0
      ∧ typeMask (pgDarn 1) 0x40 (· == .rw) = 0 ∧ s.on (pgDarn 1) PAGE_PEND.PENDING = false
      ∧ s.rd (pgDarn 1) PAGE_BNDRY.KIND ≠ 3 := by decide +kernel

theorem witness_shadowedWrite_plain (u : State) (init dev : Nat) :
    u.writeOp (pgDarn 1) 0x40 1 init dev = none ∧ u.wrote (pgDarn 1) 0x40 1 = u := ⟨rfl, rfl⟩

theorem test_shadowedWrite :
    after (.registerWrite (0x0C0000000000 + pgDarn 1 * 2 ^ 12 + 0x40) 4 0x1E00 2 0 false false) (live [pgDarn 1])
      (fun t => t.rd (pgDarn 1) DARN_CFG.PACE == 0x18 && t.rdStaged (pgDarn 1) DARN_CFG.PACE == 0x1E) = true := by
  decide +kernel

/-- DARN_CORR, an RC counter: read, and peeked. -/
theorem witness_rcRead : let s := live [pgDarn 1]
    let a := 0x0C0000000000 + pgDarn 1 * 2 ^ 12 + DARN_CORR.COUNT.off
    s.tu.porDone = true ∧ siteOf a = none ∧ ctlPlace a = some (pgDarn 1, DARN_CORR.COUNT.off, false) ∧ s.ctlCheck false a 4 2 = none
      ∧ siteOf (a + 2 ^ 24) = none ∧ ctlPlace (a + 2 ^ 24) = some (pgDarn 1, DARN_CORR.COUNT.off, true)
      ∧ s.ctlCheck false (a + 2 ^ 24) 4 2 = none ∧ pageKind (pgDarn 1) ∉ [some .noc, some .klfRt, some .wft, some .edg] := by
  decide +kernel

theorem witness_stall : let a := 0x0C0000000000 + pgDarn 1 * 2 ^ 12 + DARN_CORR.COUNT.off
    let x : Stall := ⟨a, 4, true, 0, 2, 0, false, none⟩
    let y : Stall := { x with stop := some .off }
    let s : State := { live [pgDarn 1] with stalls := [x, y] }
    s.tu.porDone = true ∧ siteOf a = none ∧ canStall a = true ∧ s.ctlCheck true a 4 2 = none ∧ s.stalls[0]? = some x ∧ s.stallEnd x = none
      ∧ ({ s with stalls := s.stalls.eraseIdx 0 } : State).ctlCheck true a 4 2 = none
      ∧ s.stalls[1]? = some y ∧ y.stop = some .off ∧ BusStatus.off ≠ .dieDown := by decide +kernel

theorem witness_peek : 0x0C0001000000 ≤ 0x0C0001FFFFF8 ∧ siteOf 0x0C0001000040 = none
    ∧ Opens (live []) pgSeam 0x40 ∧ ctlPlace 0x0C0001000040 = some (pgSeam, 0x40, true) := by decide +kernel

theorem witness_commit : let s := setAll (live []) [(pgWft 5, PAGE_PEND.PENDING, 1)]
    Opens s (pgWft 5) 0x04 ∧ s.on (pgWft 5) PAGE_PEND.PENDING = true ∧ pageKind (pgWft 5) = some .wft
      ∧ (s.page (pgWft 5)).upset = false ∧ pgWft 5 ≠ pgGov
      ∧ ((s.setPage (pgWft 5) { upset := true }).page (pgWft 5)).upset = true := by decide +kernel

theorem test_commit :
    after (.pageCommitNow (pgWft 5) false) (setAll { live [] with shadow := [(regKey (pgWft 5) 0x40, 3#32)] }
        [(pgWft 5, PAGE_PEND.PENDING, 1), (pgWft 5, PAGE_PEND.COUNT, 1)])
      (fun t => t.reg (pgWft 5) 0x40 == 3#32 && t.rd (pgWft 5) PAGE_PEND.LAST_KIND == 4) = true := by decide +kernel

theorem witness_softReset : Opens (live []) (pgWft 15) 0x04
    ∧ (setAll (live []) [(pgWft 15, PAGE_CTL.SOFT_RESET, 1)]).on (pgWft 15) PAGE_CTL.SOFT_RESET = true
    ∧ ¬ (pageKind (pgWft 15) = some .clkPnl)
    ∧ (let s : State := { setAll (live []) [(pgClkPnl 4, PAGE_CTL.SOFT_RESET, 1)] with dies := [(4, { refAt := some 0 })] }
      s.on (pgClkPnl 4) PAGE_CTL.SOFT_RESET = true ∧ pageKind (pgClkPnl 4) = some .clkPnl
        ∧ (s.die (pgClkPnl 4 / 512)).refAt.isSome = true) := by
  decide +kernel

theorem witness_abort : let s : State := { live [] with banks := [(15, { op := some (.read 1 2 3) })] }
    Opens s (pgEdg 15) 0x04 ∧ (s.bank 15).op = some (.read 1 2 3)
      ∧ maskBit (s.pageLevel (pgWft 0)) 5 = false ∧ s.on (pgWft 0) PAGE_PEND.PENDING = false := by decide +kernel

theorem witness_crc : let s : State := { live [] with pages := [(pgSeam, ⟨some ⟨0, true, true, false⟩, 0, false⟩), (pgGov, ⟨some ⟨0, true, false, false⟩, 0, false⟩), (pgWft 0, ⟨some ⟨0, false, true, false⟩, 0, false⟩)] }
    s.crcRuns pgHub = true ∧ (s.page pgHub).pass = none ∧ Opens s pgHub 0x20 ∧ covered pgGov GOV_CAP_KLF.CAP.off = true
      ∧ s.crcRuns pgSeam = true ∧ (s.page pgSeam).pass = some ⟨0, true, true, false⟩ ∧ s.crcRuns pgGov = true
      ∧ s.crcRuns (pgWft 0) = true ∧ (setAll s [(pgWft 0, PAGE_LEVEL.ARMED, 1), (pgWft 0, PAGE_CRC_CTL.CHECK_EN, 1)]).on
        (pgWft 0) PAGE_LEVEL.ARMED = true := by decide +kernel

theorem witness_period : let s := live []
    s.clocksOn = true ∧ s.launchDue (boundaryAt 16384 s.now s.tu.periodAt) = false ∧ s.pendingPages = []
      ∧ (∀ k, k < 8 → (s.drc k).wback = []) ∧ (∀ p, p < 5 → (s.spl p).host = []) ∧ ∀ d, d < 145 → s.on pgPwr (PWR_Dd.EMUL.nth d) = false := by decide +kernel

/-- 02 and 13: the boundary after 3,277,000 G; balances after reset. -/
theorem test_boundary : boundaryAt 16384 3277000 0 = 3293184 ∧ boundaryAt 16384 16384 0 = 16384 ∧ boundaryAt 16384 16384 16384 = 32768 ∧ State.reset.balance 0x86 7 = 64 ∧ State.reset.balance 0x84 8 = 0 := by
  decide +kernel

theorem witness_idleBoundary : let s := setAll (live [pgSeq 15]) [(pgSeq 15, PAGE_PEND.PENDING, 1)]
    s.hasRun 15 = false ∧ s.nativeWaits (pgSeq 15) = true ∧ (s.page (pgSeq 15)).upset = false := by decide +kernel

theorem witness_alarmPage : Opens (live [pgAlm]) pgAlm 0x40 ∧ Opens (live []) pgAlm 0x54 := by
  decide +kernel

theorem witness_dies : State.reset.tu.porDone = false ∧ (State.reset.die 4).porDone = false ∧ panelOk 4 = true
    ∧ ((live []).die 4).porDone = true ∧ roleOff 0xC0 = true ∧ Opens (live []) pgSeam 0xC0
    ∧ State.reset.hub.locked = false ∧ State.reset.hub.reasons = [] ∧ Opens { State.reset with tu := { porDone := true } } pgSeam 0xC0
    ∧ (live []).hub.locked = true ∧ Opens (live []) pgSeam 0x48 := by decide +kernel

theorem witness_lostDie : let s : State := { setAll (live []) [(pgSeam, SEAM_PKG.PKG_VAR, 3), (pgClkPnl 4, CLK_PNL_STAT.REF_OK, 1)] with
      dies := [(2, { answered := true, lost := true }), (4, { answered := true, refAt := some 0 }), (6, { answered := true })] }
    s.fitted 6 = true ∧ panelOk 6 = false ∧ (s.die 6).answered = true ∧ (s.die 4).refAt = some 0 ∧ (s.die 6).lost = false ∧ (s.die 4).answered = true
      ∧ (s.die 4).lost = false ∧ s.on (pgClkPnl 4) CLK_PNL_STAT.REF_OK = true
      ∧ s.on (pgClkPnl 4) CLK_PNL_STAT.MULT_LOCK = false ∧ (s.die 2).lost = true ∧ (s.die 2).liveSince = none := by
  decide +kernel

theorem test_lostDie_answer :
    after (.seamReqToLostDie 6) { live [] with dies := [(6, { lost := true })] }
      (fun t => t.resp.status == .dieDown && t.rd pgSeam (SEAM_DDn.COUNT.nth 6) == 1) = true := by decide +kernel

/-- Panels 1 to 3 lost, a detour loaded around panel 4, which is back, and torus group 0 of edge 34 in stream mode:
the tables of dimension order lead through panel 4. -/
def detourState : State :=
  { setAll (live [pgNoc 0]) [(pgHub, HUB_BOOT.FW_RUN, 1), (pgSeam, SEAM_ROLE_E34.NET, 0xFE)] with
    now := 12800000,
    dies := [(1, { lost := true }), (2, { lost := true }), (3, { lost := true }),
      (4, { detour := true, liveSince := some 0 })] }

theorem witness_detours : let s := detourState
    s.detourReady = true ∧ s.linksOpen = true ∧ (s.die 1).lost = true ∧ (s.die 1).detour = false ∧ (s.die 4).lost = false
      ∧ (s.die 4).detour = true ∧ (s.die 4).liveSince = some 0 := by decide +kernel

theorem witness_detoursLead : detourState.detoursLead [] = true := by decide +kernel

theorem witness_boot : let s := setAll (live []) [(pgHub, HUB_BOOT.STATUS, 0)]
    s.tu.porDone = true ∧ s.rd pgHub HUB_BOOT.STATUS = 0
      ∧ ({ s with store := { stale := [0, 1] } } : State).imagePasses 0 = false
      ∧ ({ s with store := { stale := [0, 1] } } : State).imagePasses 1 = false := by decide +kernel

theorem witness_watchdog : let s : State := { live [] with hub := { first := true, restarts := [0, 0, 0] } }
    s.fwRuns = true ∧ (setAll s [(pgMbx, MBX_STAT.BUSY, 1)]).on pgMbx MBX_STAT.BUSY = true
      ∧ ({ live [] with store := { stale := [0, 1] } } : State).imagePasses 0 = false ∧ s.on pgMbx MBX_STAT.BUSY = false
      ∧ (setAll s [(pgMbx, MBX_STAT.NOTE, 1)]).on pgMbx MBX_STAT.NOTE = true
      ∧ (s.hub.restarts.filter fun t => decide (s.now < t + 128000000000)).length = 3
      ∧ (live []).hub.restarts = [] := by decide +kernel

theorem witness_reference : let s := setAll { live [] with tu := { porDone := true, hasRef := true, tried := 63 } } [(pgClk, CLK_ROOT_STAT.JUDGED, 0), (pgClk, CLK_ROOT_STAT.WINDOWS, 15), (pgClkPnl 4, CLK_PNL_STAT.REF_OK, 1)]
    s.implemented (pgKlf 15) = true ∧ CanLock s 15 ∧ s.tu.hasRef = true ∧ s.on pgClk CLK_ROOT_STAT.JUDGED = false ∧ s.tu.tried < 64
      ∧ s.rd pgClk CLK_ROOT_STAT.WINDOWS = 15 ∧ s.on (pgClkPnl 4) CLK_PNL_STAT.REF_OK = true ∧ (s.die 4).lost = false
      ∧ ({ s with tu := { s.tu with tried := 64 } } : State).tu.tried = 64 := by decide +kernel

theorem test_judged :
    after (.judgeWindowEnd 32768 true) (setAll { live [] with tu := { porDone := true, hasRef := true, tried := 63 } }
        [(pgClk, CLK_ROOT_STAT.JUDGED, 0), (pgClk, CLK_ROOT_STAT.WINDOWS, 15)])
      (fun t => t.on pgClk CLK_ROOT_STAT.JUDGED) = true
    ∧ after (.judgeWindowEnd 0 true) (setAll { live [] with tu := { porDone := true, hasRef := true, tried := 63 } }
        [(pgClk, CLK_ROOT_STAT.JUDGED, 0), (pgClk, CLK_ROOT_STAT.WINDOWS, 15)])
      (fun t => !t.on pgClk CLK_ROOT_STAT.JUDGED && t.rd pgClk CLK_ROOT_STAT.WINDOWS == 0) = true := by decide +kernel

theorem witness_beacons : let s := beaconState
    s.klfUp 3 = true ∧ s.clocksOnFor (pgKlf 3) = true ∧ s.portRuns 3 = true ∧ Hears s 3 ∧ s.now ≤ 1000 / 256 ∧ (s.beacon 3).t1 = some 256000000
      ∧ (let w := brpPayload 7 256016417 256020480 1 true false
        w = w % 2 ^ 208 ∧ bitsOf w 15 0 = (s.beacon 3).seq ∧ 256036843 ≤ 256000000 + 12800 * 256
          ∧ (((256036843 : Int) - 256000000) - ((bitsOf w 159 88 : Int) - bitsOf w 87 16)
            + signed 16 (s.rd pgTime (TIME_TRIMp.ASYM.nth 3))) % 2 = 0) := by decide +kernel

theorem beaconState_colRx (c : Column) : beaconState.colRx 3 c = c := by
  have h : ∀ l, l < 4 → (beaconState.laneRd 3 l LANE_RXl.INV == 1) = false := by decide +kernel
  simp [State.colRx, Column.turned, h]

theorem witness_beacon_columns (c : Column) (hc : c = ctlColumn .bcn 5) :
    c.isCtl = true ∧ ctlKind c = some .bcn ∧ c = beaconState.colRx 3 c :=
  hc ▸ ⟨ctlColumn_isCtl _ _, ctlKind_ctlColumn _ _ (by decide), (beaconState_colRx _).symm⟩

theorem witness_switch :
    let s : State := { setAll beaconState [(pgTime, TIME_STAT.VALID, 1), (pgTime, TIME_STAT.HOLDOVER, 1),
        (pgClk, CLK_ROOT_STAT.HOLDOVER, 1)] with
      tu := { switch := some ⟨15, .deliberate, 0⟩ }, beacons := [(3, { reply := some ⟨true, false, 31⟩ })] }
    let r : State := { s with tu := { wish := some 3, alt := some 3 } }
    s.tu.switch = some ⟨15, .deliberate, 0⟩ ∧ s.clocksOnFor pgTime = true ∧ r.clocksOnFor pgTime = true
      ∧ r.tu.wish = some 3 ∧ r.tu.switch = none ∧ r.tu.alt = some 3 ∧ r.parentOk 3 = true
      ∧ 3 ≠ r.rd pgTime TIME_PARENT.PRIMARY ∧ r.on pgTime TIME_STAT.HOLDOVER = true
      ∧ r.on pgClk CLK_ROOT_STAT.HOLDOVER = true := by decide +kernel

/-! ### Premises that a state meets: holdover, launches, sequencers -/

theorem witness_holdover :
    let s := setAll (live []) [(pgTime, TIME_STAT.HOLDOVER, 1), (pgClk, CLK_ROOT_STAT.HOLDOVER, 1),
      (pgTime, TIME_PARENT.PRIMARY, 15)]
    let a : State := { setAll s [(pgTime, TIME_PARENT.ALT_EN, 1), (pgKlf 3, KLF_STAT.STATE, 5)] with
      tu := { porDone := true, alt := some 3 }, beacons := [(3, { reply := some ⟨true, false, 31⟩ })] }
    let d : State := { live [] with tu := { porDone := true, dark := true } }
    (live [pgTime]).clocksOnFor pgTime = true ∧ s.clocksOnFor pgTime = true ∧ s.tu.porDone = true ∧ s.tu.dark = false
      ∧ s.rd pgTime TIME_PARENT.PRIMARY = 15 ∧ s.quadState 15 < 2 ∧ (s.quad 15).move ≠ some 2
      ∧ s.on (pgLane 15) (LANE_STATl.SD.nth 0) = false
      ∧ a.clocksOnFor pgTime = true ∧ a.tu.switch = none ∧ a.quadState 15 < 2 ∧ (a.quad 15).move ≠ some 2
      ∧ a.on (pgLane 15) (LANE_STATl.SD.nth 0) = false ∧ a.on pgTime TIME_STAT.HOLDOVER = true
      ∧ a.on pgClk CLK_ROOT_STAT.HOLDOVER = true ∧ a.tu.porDone = true ∧ a.rd pgTime TIME_PARENT.PRIMARY = 15
      ∧ a.tu.alt = some 3 ∧ a.on pgTime TIME_PARENT.ALT_EN = true ∧ a.parentOk 3 = true
      ∧ d.tu.dark = true ∧ d.portOk (d.rd pgTime TIME_PARENT.PRIMARY) = true ∧ CanLock d (d.rd pgTime TIME_PARENT.PRIMARY)
      ∧ (live []).on pgTime TIME_STAT.HOLDOVER = false ∧ (live []).on pgClk CLK_ROOT_STAT.HOLDOVER = false
      ∧ s.on pgTime TIME_STAT.HOLDOVER = true ∧ s.on pgClk CLK_ROOT_STAT.HOLDOVER = true
      ∧ s.tu.alt = none ∧ s.tu.switch = none
      ∧ (live []).on pgTime TIME_STAT.SUSPECT = false := by decide +kernel

theorem witness_ungate : let s := setAll (live []) [(pgClk, CLK_ROOT_STAT.GATED, 1)]
    s.on pgClk CLK_ROOT_STAT.GATED = true ∧ Opens s pgClk 0x48 ∧ s.on pgTime TIME_STAT.VALID = false
      ∧ (setAll s [(pgTime, TIME_STAT.VALID, 1)]).on pgTime TIME_STAT.VALID = true
      ∧ s.on pgClk CLK_ROOT_STAT.JUDGED = true := by decide +kernel

theorem test_switch :
    after (.parentDriftMeasured 16) { live [] with tu := { switch := some ⟨15, .back, 0⟩ } }
      (fun t => t.rd pgTime TIME_STAT.ACTIVE_PORT == 15 && t.tu.switch.isNone) = true
    ∧ after (.parentDriftMeasured 17) { live [] with tu := { switch := some ⟨15, .deliberate, 4⟩ } }
      (fun t => t.tu.switch.isNone && t.tu.triedAt == 25604) = true := by decide +kernel

/-- An entry of the launch table at T = 8,192, in slot 1023 with generation 63. -/
def launchState (action : Nat) : State :=
  setAll { live [pgTime] with launch := [(1023, ⟨some ⟨8192, action, false, 15, 2, 63⟩, 63, false, true⟩)] }
    [(pgTime, TIME_STAT.VALID, 1), (pgTime, TIME_LNCH_ACT.ACTION, 5), (pgTime, TIME_LNCH_T_LO.T, 2048)]

theorem witness_launchTable : let s := launchState 5
    Opens s pgTime 0x110 ∧ 1 ≤ s.rd pgTime TIME_LNCH_ACT.ACTION ∧ s.rd pgTime TIME_LNCH_ACT.ACTION ≤ 5
      ∧ s.on pgTime TIME_STAT.VALID = true ∧ s.rdPair pgTime TIME_LNCH_T_LO.T TIME_LNCH_T_HI.T % 8 = 0
      ∧ s.time + 2048 ≤ s.rdPair pgTime TIME_LNCH_T_LO.T TIME_LNCH_T_HI.T
      ∧ s.launchSlotFor 0 = some 0 ∧ s.launchSlotFor 1022 = some 1022 ∧ s.launchSlotFor 1023 = some 0
      ∧ (s.lslot 1023).ent = some ⟨8192, 5, false, 15, 2, 63⟩ ∧ (s.lslot 0).ent = none := by decide +kernel

theorem test_launchAdd : let s := launchState 5
    after (.launchAdd 1023) s (fun t => (t.lslot 0).gen == 1 && t.rd pgTime TIME_LNCH_RES.STATUS == 0) = true
    ∧ after (.launchAdd 0) (setAll s [(pgTime, TIME_LNCH_T_LO.T, 2040)])
        (fun t => (t.lslot 0).ent.isNone && t.rd pgTime TIME_LNCH_RES.STATUS == 2) = true := by decide +kernel

theorem witness_missed : let s : State := { launchState 5 with now := 8193 }
    s.launchOn = true ∧ (s.launchEnts.filter fun e => decide (e.2.t < s.time)) ≠ [] := by decide +kernel

theorem witness_launches : ∀ a ∈ [1, 2, 3, 4, 5], ({ launchState a with now := 8192 } : State).launchNext 1023 a
    = some ⟨8192, a, false, 15, 2, 63⟩ := by decide +kernel

theorem witness_snapshot : (launchState 4).snapWaits 8192 = false := by decide +kernel

/-- R179: a removal reaches the bank 32 G after its write, a new mask at once. -/
theorem test_maskArrives :
    let s : State := { live [] with now := 100, cats := [(4, { unmaskAt := [(7, 90)] })], banks := [(15, { maskIn := 2 ^ 7 })] }
    after (.maskArrives 15) s (fun t => (t.bank 15).maskIn == 0 && t.now == 122) = true
    ∧ after (.maskArrives 15) (setAll s [(pgCat 4, CAT_MASK_LO.MASK, 1)])
      (fun t => (t.bank 15).maskIn == 2 ^ 7 + 1 && t.now == 100) = true := by decide +kernel

theorem test_launchEvent : after (.launchEvent 1023) (launchState 5)
    (fun t => t.now == 8192 && t.rd pgTime TIME_EVT.EVT == 2 ^ 15) = true := by decide +kernel

/-- Sequencer 15 in a run, with its period 256 G in every timing set. -/
def seqState (x : SeqX) : State :=
  setAll { live [pgSeq 15, pgEdg 15] with seqs := [(15, x)], banks := [(15, { held := false })] }
    [(pgSeq 15, SEQ_RUN.STATE, 3), (pgEdg 15, EDG_PERIODt.PERIOD.nth 0, 65535), (pgEdg 15, EDG_TS_EN.EN, 2 ^ 32 - 1)]

theorem witness_arm : let s := setAll (live [pgSeq 15]) [(pgSeq 12, SEQ_GANG.MODE, 4)]
    Opens (live [pgSeq 15]) (pgSeq 15) 0x40 ∧ (live [pgSeq 15]).isMember 15 = false
      ∧ (live [pgSeq 15]).seqBusy 15 = false ∧ Opens s (pgSeq 15) 0x40 ∧ s.isMember 15 = true
      ∧ (seqState {}).seqBusy 15 = true ∧ (seqState {}).leader 15 = 15 ∧ (seqState {}).running (pgSeq 15) = true := by
  decide +kernel

theorem witness_ready :
    let s := setAll (seqState { walk := { reached := List.range 64 }, segs := (List.range 64).map (·, ⟨0, false, 0, 0⟩) })
      [(pgSeq 15, SEQ_RUN.STATE, 1)]
    let u := setAll (seqState { walk := { atEnd := true } }) [(pgSeq 15, SEQ_RUN.STATE, 1)]
    s.rd (pgSeq 15) SEQ_RUN.STATE = 1 ∧ s.leader 15 = 15 ∧ s.running (pgSeq 15) = true ∧ 64 ≤ (s.seq 15).reachedNow
      ∧ (u.seq 15).paused 1 = true ∧ (∀ q ∈ (u.seq 15).walk.reqs, q.sink = true) ∧ (u.seq 15).walk.wanted = [] := by decide +kernel

theorem witness_start : let s := setAll (seqState { pendStart := some (4096, 15) }) [(pgSeq 15, SEQ_RUN.STATE, 2)]
    s.rd (pgSeq (s.leader 15)) SEQ_RUN.STATE = 2 ∧ (s.seq 15).pendStart = some (4096, 15)
      ∧ s.running (pgSeq 15) = true ∧ (∀ m ∈ s.members 15, (s.bank m).held = false)
      ∧ s.launchStarts 15 4096 = false ∧ ((seqState {}).seq 15).pendStart = none := by decide +kernel

theorem witness_lateStart : let s := seqState { pendStart := some (4096, 15) }
    s.hasRun 15 = true ∧ s.leader 15 = 15 ∧ s.running (pgSeq 15) = true ∧ s.launchStarts 15 4096 = false
      ∧ s.rdPair (pgSeq 15) SEQ_RUN_T_LO.TIME SEQ_RUN_T_HI.TIME ≠ 4096 := by decide +kernel

/-- A bank whose region is held during a cycle is HELD at the end of that cycle, not before (R96). -/
theorem test_hold : let s := (seqState { run := 1, n := 5, sNext := 2 ^ 20 }).bankHold 15
    (s.bank 15).held = false ∧ s.hasRun 15 = true ∧ ((s.endRun 15).bank 15).held = true
      ∧ (s.endRun 15).hasRun 15 = false := by decide +kernel

/-- After a start at 4,096 G: cycle 0 is to start there, and the run is the first. -/
theorem test_start : after (.seqPendingStart 15)
      (setAll (seqState { pendStart := some (4096, 15) }) [(pgSeq 15, SEQ_RUN.STATE, 2)])
    (fun t => t.hasRun 15 && (t.seq 15).sNext == 4096 * 256 && (t.seq 15).run == 1) = true := by decide +kernel

theorem witness_walker : let s := seqState { walk := { active := true, wanted := [7], reqs := [⟨6, 32, 32, [], false⟩] } }
    s.running (pgSeq 15) = true ∧ (s.seq 15).walk.active = true ∧ (∀ q ∈ (s.seq 15).walk.reqs, q.lines = 32)
      ∧ (s.seq 15).walk.wanted = [7] ∧ (s.seq 15).segs.length + ((s.seq 15).walk.reqs.filter fun q => !q.sink).length < 256 * (s.members 15).length
      ∧ (s.seq 15).walk.reqs.find? (fun q => q.seg == 6 && q.lines == 32) = some ⟨6, 32, 32, [], false⟩
      ∧ s.segFirst 15 6 = true ∧ s.segWaits 15 ⟨6, 32, 32, [], false⟩ = none := by decide +kernel

/-- A buffer whose record at offset 0 is the word `w` with symbols 0. -/
def decodeState (w : Nat) : State := seqState { nextOff := some 0, n := 1, segs := [(0, ⟨w, false, 0, 0⟩)] }

/-- A RUN record of one cycle; OP 15, which no record has; an end of a loop on an empty stack. -/
theorem witness_decode : let s := decodeState 0
    s.leader 15 = 15 ∧ s.hasRun 15 = true ∧ s.running (pgSeq 15) = true ∧ s.decodeDue 15 = true
      ∧ (s.seq 15).nextOff = some 0 ∧ (s.seq 15).fetch (s.members 15).length 0 = .data 0
      ∧ (recOf 1 0 0).malformed = false ∧ (recOf 1 0 0).stackBad (s.seq 15) = false ∧ s.tsetOff 15 (recOf 1 0 0) = false
      ∧ (decodeState 0xF00 |>.seq 15).fetch 1 0 = .data 0xF00 ∧ (recOf 1 0 0xF00).malformed = true
      ∧ (recOf 1 0 0x200).stackBad (s.seq 15) = true ∧ (s.seq 15).n ≠ 0
      ∧ (setAll s [(pgEdg 15, EDG_TS_EN.EN, 0)]).tsetOff 15 (recOf 1 0 0) = true := by decide +kernel

theorem witness_branch :
    let x : SeqX := { cur := some { recOf 1 4 0 with op := 6, arg := 9 }, issued := 1, brD := [(15, 256)], sNext := 65536, sCur := 0 }
    let s := seqState x
    (s.seq 15).openOp = some { recOf 1 4 0 with op := 6, arg := 9 } ∧ s.branchTime 15 = some (73 * 256)
      ∧ 73 * 256 ≤ (s.seq 15).sNext ∧ s.hasRun 15 = true := by decide +kernel

/-- R132: F is 0 and OP 6 goes on at the next record, OP 7 at its argument. -/
theorem test_branch :
    after (.branchResolve 15) (seqState { cur := some { recOf 1 4 0 with op := 6, arg := 9 }, issued := 1, brD := [(15, 256)], sNext := 65536 })
      (fun t => (t.seq 15).nextOff == some 6) = true
    ∧ after (.branchResolve 15) (seqState { cur := some { recOf 1 4 0 with op := 7, arg := 9 }, issued := 1, brD := [(15, 256)], sNext := 65536 })
      (fun t => (t.seq 15).nextOff == some 9) = true := by decide +kernel

theorem witness_wait : let s := seqState { cur := some { recOf 1 4 0 with op := 9, arg := 2 }, issued := 1, sNext := 65536 }
    (s.seq 15).openOp = some { recOf 1 4 0 with op := 9, arg := 2 } ∧ s.waitTime 15 { recOf 1 4 0 with op := 9, arg := 2 } ≤ (s.seq 15).sNext
      ∧ s.hasRun 15 = true := by decide +kernel

theorem witness_cycle : let s := seqState { ahead := [recOf 1 0 0], n := 1 }
    s.hasRun 15 = true ∧ s.running (pgSeq 15) = true ∧ (s.seq 15).halted = false ∧ (s.seq 15).haltReq = false
      ∧ (s.seq 15).openOp = none ∧ s.decodeDue 15 = false ∧ (s.seq 15).finals = []
      ∧ (s.seq 15).pick = some (recOf 1 0 0, .normal, 0, true)
      ∧ (((s.members 15).foldl (fun u b => u.bankBoundary [] b (s.seq 15).sNext) (s.weftEnd 15)).cycleFaults 15
          0 [] []).1 = []
      ∧ ((seqState { causes := [1] }).seq 15).finals ≠ [] := by decide +kernel

theorem test_cycle : after (.cycleIssue 15 [] [] []) (seqState { ahead := [recOf 1 0 0], n := 1, sNext := 256 })
    (fun t => (t.seq 15).n == 2 && (t.seq 15).sNext == 256 + 65536 && t.now == 1) = true := by decide +kernel

/-- A vector of cycle 3 without strobes that ended at 100 G. -/
def vecOf : Vec := ⟨3, 0, 25600, true, 0, [], 0, 0, ⟨0, 0, 0, 0, false⟩, [15], 1, 0, false, false⟩

theorem witness_vector : let s : State := { seqState { run := 1, n := 5 } with banks := [(15, { held := false, vecs := [vecOf] })] }
    s.running (pgEdg 15) = true ∧ (s.bank 15).vecs = [vecOf] ∧ vecOf.n + 1 ≠ (s.seq (vecOf.gang.headD 15)).n
      ∧ s.vecTurn 15 ((s.bank 15).delivery vecOf) = true := by
  decide +kernel

/-- Panel 4 with bank 15's channels 48, 50 and 63 on lanes 0, 1 and 63 of site 5, which has a map, tallies, a log and a
mask policy, and whose initiator a table switch holds; bank 15 is to deliver a vector whose channels 0 and 2 fail. -/
def catchState (v : Vec) : State :=
  setAll { seqState { run := 1, n := 5 } with
      banks := [(15, { held := false, vecs := [v] })], nocs := [(4, { paused := [catInit 4] })] }
    ([(pgCat 4, PAGE_CTL.CLK_EN, 1), (pgCat 4, CAT_S_CFG.MAP_EN.nth 5, 1), (pgCat 4, CAT_S_CFG.TALLY_EN.nth 5, 1),
      (pgCat 4, CAT_S_CFG.LOG.nth 5, 2), (pgCat 4, CAT_S_CFG.MASK_MODE.nth 5, 1), (pgCat 4, CAT_S_MAP_FMT.XB.nth 5, 10),
      (pgCat 4, CAT_S_MAP_FMT.CB.nth 5, 6), (pgCat 4, CAT_S_TALLY.RB.nth 5, 10), (pgCat 4, CAT_S_TALLY.LB.nth 5, 6),
      (pgCat 4, CAT_S_TCOL.BASE.nth 5, 2048), (pgSeq 15, SEQ_COND_MASK.MASK, 4)]
      ++ [(48, 0), (50, 1), (63, 63)].flatMap fun e => [(pgCat 4, CAT_CHMAPn.EN.nth e.1, 1), (pgCat 4, CAT_CHMAPn.SITE.nth e.1, 5),
          (pgCat 4, CAT_CHMAPn.LANE.nth e.1, e.2)])

def failVec (gang : List Nat) (compared : Bool) : Vec :=
  ⟨3, 0, 25600, compared, 0, [], 5, 0, ⟨7, 8, 9, 1, true⟩, gang, 1, 0, false, false⟩

theorem witness_catchVector : let v := failVec [15] true
    let s := catchState v
    s.running (pgEdg 15) = true ∧ (s.bank 15).vecs = [v] ∧ v.iter = 0 ∧ v.n + 1 ≠ (s.seq 15).n
      ∧ s.vecTurn 15 ((s.bank 15).delivery v) = true ∧ v.compared = true ∧ v.gang = [15] ∧ (s.cat 4).gang = []
      ∧ s.running (pgCat 4) = true ∧ (s.cat 4).op = none ∧ ((s.bank 15).see []).failBits v = 5
      ∧ s.siteLanes 4 5 (vecChans [(15, 5)] true) = 3 ∧ s.mapOff 4 5 = false
      ∧ (s.noc 4).paused.contains (catInit 4) = true ∧ (s.noc 4).deferred = []
      ∧ s.on (pgCat 4) (CAT_CHMAPn.EN.nth 63) = true ∧ s.rd (pgCat 4) (CAT_CHMAPn.SITE.nth 63) = 5
      ∧ (setAll s [(pgCat 4, PAGE_CTL.CLK_EN, 0)]).running (pgCat 4) = false := by decide +kernel

theorem witness_catchVectors : let v := failVec [12, 15] true
    let s := catchState v
    s.running (pgEdg 15) = true ∧ (s.bank 15).vecs = [v] ∧ v.iter = 0 ∧ (s.seq 12).run ≠ v.run
      ∧ s.vecTurn 15 ((s.bank 15).delivery v) = true ∧ 2 ≤ v.gang.length ∧ (s.cat 4).gang = []
      ∧ (failVec [15] false).compared = false := by decide +kernel

/-- R131, R177, R180, R192: channel 2 fails and is in the mask, channels 48 and 50 count, site 5 keeps the vector. -/
theorem test_catchVector : after (.failVectorDeliver 15 []) (catchState (failVec [15] true)) (fun t =>
    (t.seq 15).f && t.rd (pgCat 4) (CAT_FCNTn_LO.COUNT.nth 50) == 1 && t.rd (pgCat 4) (CAT_S_FF_X.VALUE.nth 5) == 8
      && (t.cat 4).tally.getD 8 0 == 2 && (t.cat 4).lines.length == 1 && maskBit (t.rd (pgCat 4) CAT_MASK_LO.MASK) 5) = true := by
  decide +kernel

theorem witness_partner :
    let s : State := { seqState { partners := [⟨0x123, 14, none, 0, false⟩, ⟨0x124, 15, some 0, 0, false⟩] } with answers := [⟨0, 241, 0, false, 0, 0, 0x20⟩] }
    let u := setAll s [(pgKlfRt, KLF_DEVID.ID, 0x123)]
    Opens s (pgSeq 15) 0x40 ∧ s.leader 15 = 15 ∧ s.hasRun 15 = true
      ∧ (u.seq 15).partners[0]? = some ⟨0x123, 14, none, 0, false⟩ ∧ u.ownDev = 0x123
      ∧ 2 ≤ bitsOf ((setAll u [(pgSeq 14, SEQ_RUN.CAUSE, 2)]).probeWord 14) 7 4 ∧ bitsOf (u.probeWord 14) 7 4 < 2
      ∧ (u.die (14 / 4 + 1)).lost = false
      ∧ (s.seq 15).partners[1]?.bind (·.probe) = some 0
      ∧ s.answers.find? (fun a => a.init == 0 && a.num == 241) = some ⟨0, 241, 0, false, 0, 0, 0x20⟩
      ∧ 2 ≤ bitsOf 0x20 7 4 := by decide +kernel

/-- Channel 0 is open to all, under one window of the address map at 0. -/
def dramOn (s : State) : State :=
  setAll s [(pgDrc 0, PAGE_CTL.CLK_EN, 1), (pgDrc 0, DRC_STAT.STATE, 5), (pgMap, DRC_WINw_CFG.EN.nth 0, 1),
    (pgMap, DRC_WINw_SIZE.VALUE.nth 0, 1), (pgMap, DRC_WINw_CFG.GRAIN.nth 0, 8)]

/-- The line at 0x1000 is stored with data 5. -/
def lineOn (s : State) : State := dramOn { s with drcs := [(0, { lines := [(64, encodeLine 5)] })] }

/-! ### Premises that a state meets: banks, weft tables, catch units -/

theorem witness_wave : let s := setAll (live [pgEdg 15]) [(pgEdg 15, EDG_WAVE_CHMASK.MASK, 0x8001)]
    let bad := setAll s [(pgEdg 15, EDG_WAVE_EVk_HI.WORD.nth 0, 0xFFFFFFFF)]
    Opens s (pgEdg 15) 0x108 ∧ (s.bank 15).op = none ∧ s.waveCheck 15 (s.staging 15) = none
      ∧ s.rd (pgEdg 15) EDG_WAVE_CHMASK.MASK ≠ 0 ∧ (bad.waveCheck 15 (bad.staging 15)).isSome = true := by decide +kernel

theorem witness_waveDone : let s := seqState {}
    let w : State := { s with banks := [(15, { op := some (.write 31 15 0x8001 [5] 0) })] }
    let r : State := { s with banks := [(15, { op := some (.read 31 15 15) })] }
    w.running (pgEdg 15) = true ∧ (w.bank 15).op = some (.write 31 15 0x8001 [5] 0) ∧ (w.bank 15).op.isSome = true
      ∧ Opens w (pgEdg 15) 0x108 ∧ (r.bank 15).op = some (.read 31 15 15) := by decide +kernel

theorem test_waveDone :
    after (.waveWriteDone 15) { seqState {} with banks := [(15, { op := some (.write 31 15 0x8001 [5] 0) })] }
      (fun t => (t.bank 15).waveWord 15 31 15 0 == 5 && (t.bank 15).waveWord 14 31 15 0 == 0) = true := by decide +kernel

theorem witness_stamps : let s : State := { seqState {} with now := 5120000, banks := [(15, { tsq := [7, 8] })] }
    Opens s (pgEdg 15) 0x300 ∧ (s.bank 15).tsq.length ≤ 256 ∧ s.pageDomain (pgEdg 15) = 0
      ∧ (s.die (15 / 4 + 1)).lost = false ∧ s.clocksOnFor (pgEdg 15) = true ∧ 5120000 ≤ s.calAge 15
      ∧ (s.bank 15).stale = false := by decide +kernel

/-- R118: an exchange changes the copy of every line but those that failed. -/
theorem test_calExchange : after (.calExchange 15 4) (seqState {})
    (fun t => (t.bank 15).copies == 2 ^ 48 - 1 - 4 && t.now == 1280000 && t.rd (pgEdg 15) (EDG_CHn_STAT.CAL_FAIL.nth 0) == 1) = true := by
  decide +kernel

theorem test_stamps : after (.tsFifoPop 15) { seqState {} with banks := [(15, { tsq := [7, 8] })] }
    (fun t => t.resp.data == 7 && (t.bank 15).tsq == [8]) = true := by decide +kernel

theorem witness_weft : let s := setAll (live [pgWft 15]) [(pgWft 15, WFT_TBL_ADDR.TBL, 2), (pgWft 15, WFT_TBL_ADDR.INDEX, 255), (pgWft 15, WFT_TBL_ADDR.AUTOINC, 1)]
    Opens s (pgWft 15) 0x104 ∧ s.seqBusy 15 = false ∧ s.rd (pgWft 15) WFT_TBL_ADDR.TBL = 2
      ∧ (setAll s [(pgSeq 15, SEQ_RUN.STATE, 1)]).seqBusy 15 = true
      ∧ (setAll s [(pgWft 15, WFT_TBL_ADDR.TBL, 3)]).rd (pgWft 15) WFT_TBL_ADDR.TBL = 3 := by decide +kernel

/-- R169: INDEX goes on within the eight low bits in the topology table. -/
theorem test_weft : after (.wftTblWrite 15 7) (setAll (live [pgWft 15]) [(pgWft 15, WFT_TBL_ADDR.TBL, 2), (pgWft 15, WFT_TBL_ADDR.INDEX, 255), (pgWft 15, WFT_TBL_ADDR.AUTOINC, 1)])
    (fun t => t.weftEntry 15 2 255 == 3 && t.rd (pgWft 15) WFT_TBL_ADDR.INDEX == 0) = true := by decide +kernel

/-- The catch unit of panel 4 with one dirty line. -/
def catState (x : CatX) : State := { live [pgCat 4] with cats := [(4, x)] }

theorem witness_catch : let s := catState { lines := [(0x1000, { bits := 3 })] }
    panelOk 4 = true ∧ Opens s (pgCat 4) 0x70 ∧ Opens s (pgCat 4) 0x40 ∧ (s.cat 4).op = none
      ∧ (s.cat 4).lines ≠ [] ∧ s.panelBusy 4 = false ∧ (setAll s [(pgSeq 15, SEQ_RUN.STATE, 3)]).panelBusy 4 = true
      ∧ s.running (pgCat 4) = true ∧ ((catState { op := some (.clearTally 0 (2 ^ 20)) }).cat 4).op.isSome = true
      ∧ ((catState { op := some .clearCounters }).cat 4).op = some .clearCounters
      ∧ ((catState { op := some (.clearSites (2 ^ 63)) }).cat 4).op = some (.clearSites (2 ^ 63)) := by decide +kernel

theorem witness_writeback : let s := catState { lines := [(0x1000, { bits := 3 })], op := some (.flush [(0x1000, 3)]) }
    s.nextMerge 4 = some (0x1000, { bits := 3 }) ∧ (s.cat 4).logq = []
      ∧ s.running (pgCat 4) = true ∧ (s.memSend ⟨catInit 4, 0, false, 0x1000, false⟩ (.merge 3) 64).1 = .go := by decide +kernel

theorem witness_mergeAck : let s := lineOn (catState { lines := [(0x1000, { out := true, sent := 3 })], flight := [(0x1000, 3, false)] })
    (s.cat 4).flight = [(0x1000, 3, false)] ∧ s.memWaits ⟨catInit 4, 0, false, 0x1000, false⟩ = none
      ∧ (s.cat 4).lines.find 0x1000 = some { out := true, sent := 3 }
      ∧ ((s.setCat 4 { s.cat 4 with flight := [] }).memGo ⟨catInit 4, 0, false, 0x1000, false⟩ (.merge 3)).1.1 = .ok := by
  decide +kernel

theorem test_clearTally : after (.catCmdDone 4) (catState { op := some (.clearTally 5 9), tally := [(4, 1), (5, 1), (8, 1), (9, 1)] })
    (fun t => (t.cat 4).tally == [(4, 1), (9, 1)] && (t.cat 4).op.isNone) = true := by decide +kernel

/-- R194: after 24 G a CLEAR_TALLY that began at counter 5 has zeroed 24 counters. -/
theorem test_clearPace : let s : State := { catState { op := some (.clearTally 5 100), tally := [(28, 1), (29, 1)] } with now := 24 }
    s.tallyNext 4 5 100 = 29 ∧ s.tallyCell 4 28 = 0 ∧ s.tallyCell 4 29 = 1
      ∧ bitsOf (s.value (pgCat 4) 0x44) 31 12 = 29 := by decide +kernel

/-! ### Premises that a state meets: shuttle engines -/

/-- Engine 255 runs, with one instruction in its program memory at 0. -/
def engWith (i : ShuInstr) (x : EngX := {}) : State :=
  setAll { live [pgShu 15] with engs := [(255, { x with prog := [(0, encodeShu i)] })] }
    [(pgShu 15, SHU_En_STAT.STATE.nth 15, 1)]

/-- The premises of an instruction are met there. -/
def at255 (i : ShuInstr) (x : EngX := {}) : Bool :=
  let s := engWith i x
  (s.eng 255).instr == some i && s.engGo 255 && ((s.eng 255).misplaced i).isNone && (s.eng 255).haltAt.isNone
    && !(s.eng 255).stepping

theorem witness_par : (∀ op ∈ [1, 2, 3, 4], at255 (.par op 3 0 1 none none) = true) ∧ (∀ op ∈ [5, 6, 8, 9, 14], at255 (.par op 3 9 0 none none) = true)
    ∧ (∀ op ∈ [7, 10, 11, 12, 13], at255 (.par op 3 0 0 none none) = true) ∧ at255 (.par 0 0 0 0 none none) = true := by decide +kernel

theorem witness_par_moves : at255 (.par 3 3 0 1 (some ⟨false, 0, 1, 2⟩) (some ⟨true, 4, 2, 11⟩)) = true
    ∧ at255 (.par 1 3 8 1 none none) = true ∧ loadsAcc 3 (some ⟨false, 0, 1, 11⟩) = true
    ∧ at255 (.par 1 3 0 1 (some ⟨false, 0, 1, 11⟩) none) = true := by decide +kernel

theorem witness_moves : at255 (.move 8 11) = true ∧ at255 (.move 0 8) = true ∧ at255 (.movi 0x18 5) = true
    ∧ at255 (.adda 0x1F true 0xFFFF) = true ∧ at255 (.adda 0x20 true 1) = true ∧ at255 (.adda 0 false 1) = true
    ∧ at255 (.mem false 1 7 0) = true ∧ at255 (.mem true 1 7 0) = true ∧ at255 (.clu false 1 0 0 2) = true
    ∧ at255 (.clu true 1 0 0 1) = true ∧ at255 (.pio false 1 0) = true ∧ at255 (.pio true 1 0) = true := by
  decide +kernel

/-- R214: −1.0 × −1.0 overflows the 24-bit fraction, not the 56-bit accumulator. -/
theorem test_mul : after (.mul 255 1 []) (engWith (.par 1 0 0 1 none none) { r := [(0, 0x800000), (1, 0x800000)] })
    (fun t => (t.eng 255).get 8 == 2 ^ 47 && (t.eng 255).pc == 1) = true := by decide +kernel

theorem test_sub : after (.sub 255 1 []) (engWith (.par 6 0 9 0 none none) { r := [(8, 1), (9, 2)] })
    (fun t => (t.eng 255).get 8 == 2 ^ 56 - 1 && maskBit (t.eng 255).sr fC) = true := by decide +kernel

theorem witness_cluGrant : let s := engWith .halt { wait := some (.mem (.clu true 1 0 0 1)) }
    (s.eng 255).wait = some (.mem (.clu true 1 0 0 1)) ∧ s.engState 255 = 1 ∧ s.running (pgShu 15) = true
      ∧ s.cluOpen 255 = true ∧ s.bankTurn 15 15 ((s.eng 255).cluAddr 0 % 16) = true ∧ (s.eng 255).locked = false
      ∧ (s.eng 255).haltAt = none := by decide +kernel

theorem witness_flow : at255 (.bra 0 9) = true ∧ at255 (.call 0 9) = true ∧ condHolds 0 0 = true
    ∧ at255 (.call 0 9) { calls := List.replicate 16 (1, 0) } = true ∧ at255 (.ret 0) { calls := [(9, 0)] } = true
    ∧ at255 (.ret 0) = true ∧ condHolds 1 0 = false ∧ at255 (.ret 1) = true ∧ at255 (.call 1 9) = true
    ∧ at255 .rti { calls := [(9, 0)] } = true ∧ at255 .rti = true ∧ at255 (.rptn (.imm 0)) = true
    ∧ at255 (.rptn (.imm 65535)) = true ∧ at255 (.loop 9 (.imm 0)) = true ∧ at255 (.loop 9 (.imm 1)) = true
    ∧ at255 (.loop 9 (.imm 1)) { loops := [(20, 29, 2), (21, 29, 2), (22, 29, 2), (23, 29, 2)] } = true
    ∧ at255 .lpop { loops := [(20, 29, 2)] } = true ∧ at255 .lpop = true := by decide +kernel

theorem witness_flow_plain : at255 (.movi 0 1) { rpt := some 2 } = true ∧ at255 (.movi 0 1) { br := some (2, 9) } = true
    ∧ at255 (.movi 0 1) { br := some (1, 9) } = true ∧ at255 (.movi 0 1) { loops := [(0, 0, 2)] } = true
    ∧ at255 (.movi 0 1) { loops := [(0, 5, 2)] } = true := by decide +kernel

theorem test_bra : after (.bra 255 1 []) (engWith (.bra 0 9))
    (fun t => (t.eng 255).pc == 1 && (t.eng 255).br == some (2, 9)) = true := by decide +kernel

theorem witness_system : at255 .halt = true ∧ at255 .kick = true ∧ at255 (.signal 15) = true ∧ at255 .waiti = true
    ∧ at255 .lock = true ∧ at255 (.spush 0 0 true true (.imm 8191)) = true ∧ at255 (.spop 0 0 1 (.imm 8191)) = true
    ∧ at255 (.spflush (.imm 0)) = true ∧ ((engWith .lock).clu 15).owner = none
    ∧ (engWith .lock).lockNext 15 = none ∧ ((engWith .halt).spIssue (cluInit 15) (spFlush 0)).1 = .go
    ∧ ({ engWith .lock with clus := [(15, { owner := some 3 })] } : State).engGo 255 = true
    ∧ ((engWith .halt).clu 15).sps = [] := by decide +kernel

theorem witness_undefined :
    let s := setAll { live [pgShu 15] with engs := [(255, { prog := [(0, 2 ^ 48 - 1)] })] } [(pgShu 15, SHU_En_STAT.STATE.nth 15, 1)]
    (s.eng 255).instr = none ∧ s.engGo 255 = true := by decide +kernel

theorem witness_lockGrant : let s := engWith .halt { wait := some .lock }
    s.running (pgShu 15) = true ∧ s.engState 255 = 1 ∧ (s.clu 15).owner = none ∧ s.lockNext 15 = some 15 := by
  decide +kernel

/-- The lock is held, and a store and a push are held back. -/
theorem witness_unlock : at255 .unlock ((({} : EngX).setSr (2 ^ fLK)).set 3 1) = true
    ∧ at255 .unlock { (({} : EngX).setSr (2 ^ fLK)) with lockBuf := [.store 524287 (2 ^ 32 - 1) 5, .push 7 true true 9] } = true := by
  decide +kernel

theorem test_unlock :
    after (.unlock 255 1 []) { engWith .unlock { (({} : EngX).setSr (2 ^ fLK)) with lockBuf := [.store 524287 (2 ^ 32 - 1) 5, .push 7 true true 9] } with clus := [(15, { owner := some 15 })] }
      (fun t => t.cluWord 15 524287 == 5 && (t.clu 15).sps == [⟨15, 7, .push true true 9, false, true⟩]) = true := by
  decide +kernel

/-- Queue 0 of panel 1 enabled, with a pool of four cells. -/
def splOn (s : State) : State :=
  setAll s [(pgSpl 1, PAGE_CTL.CLK_EN, 1), (pgSpl 1, SPL_POOL_FREE.FREE, 4), (pgSpl 1, SPL_Q_CFG.EN.nth 0, 1), (pgSpl 1, SPL_Q_CFG.LIMIT.nth 0, 4)]

theorem witness_spoolAnswers :
    let s := splOn { engWith .halt with clus := [(15, { sps := [⟨15, 0, .push true true 9, false, true⟩] })] }
    let t : State := splOn { engWith .halt { wait := some (.pop (.spop 0 0 1 (.imm 0))) } with
      clus := [(15, { sps := [⟨15, 0, .pop, false, true⟩] })], spls := [(1, { queues := [(0, { items := [.cells [⟨0, 5⟩] false] })] })] }
    s.running (pgShu 15) = true ∧ (s.clu 15).sps = [⟨15, 0, .push true true 9, false, true⟩]
      ∧ (s.eng 255).wait = none ∧ s.spCircles (cluInit 15) 0 = false ∧ t.spCircles (cluInit 15) 0 = false
      ∧ t.cluOpen 255 = true ∧ (t.eng 255).haltAt = none ∧ ((s.setClu 15 {}).spoolPush 0 (cluInit 15) 0 9 true true).1.status = .ok
      ∧ (t.eng 255).wait = some (.pop (.spop 0 0 1 (.imm 0)))
      ∧ ((t.setClu 15 {}).spoolPop 0 (cluInit 15) .clean).1.status = .ok
      ∧ ((t.setClu 15 {}).spoolPop 0 (cluInit 15) .clean).1.st = 0 ∧ (t.eng 255).lockBuf = [] := by decide +kernel

theorem witness_engine : let s := setAll (engWith .halt { tmr := some 0 }) [(pgShu 15, SHU_En_WDOG.PERIOD.nth 15, 1)]
    let u := setAll (engWith .halt) [(pgShu 15, SHU_En_INT_EN.EN.nth 15, 1), (pgShu 15, SHU_En_INT_PEND.PEND.nth 15, 1)]
    let v : State := { u with engs := [(255, ({} : EngX).setSr 0x800)] }
    Opens s (pgEng 255) 0x400 ∧ s.engState 255 % 2 = 1 ∧ (live [pgShu 15]).engState 255 % 2 = 0
      ∧ Opens s (pgEng 255) 0x418 ∧ Opens s (pgEng 255) 0x414 ∧ v.engIrq 255 = some 0
      ∧ v.engState 255 = 1 ∧ v.running (pgEng 255) = true ∧ (v.eng 255).timerDue = false ∧ v.wdogDue 255 = false
      ∧ (s.eng 255).timerDue = true
      ∧ (setAll (engWith .halt { cyc := 1024 }) [(pgShu 15, SHU_En_WDOG.PERIOD.nth 15, 1)]).wdogDue 255 = true := by
  decide +kernel

theorem test_start_engine : after (.engineStart 255) (setAll (live [pgShu 15]) [(pgShu 15, SHU_En_ENTRY.PC.nth 15, 7)])
    (fun t => t.engState 255 == 1 && (t.eng 255).pc == 7 && (t.eng 255).sr == 0x800) = true := by decide +kernel

theorem witness_fetch : let s := setAll (live [pgShu 15]) [(pgShu 15, SHU_Fi_SRC_LO.ADDR.nth 15, 0x104)]
    let u := setAll s [(pgShu 15, SHU_Fi_SRC_LO.ADDR.nth 15, 0x102)]
    Opens s (pgEng 255) 0x814 ∧ (s.eng 255).fet = none
      ∧ s.rdPair (pgEng 255) (SHU_Fi_SRC_LO.ADDR.nth 15) (SHU_Fi_SRC_HI.ADDR.nth 15) % 4 = 0
      ∧ s.eRd 255 SHU_Fi_STRIDE.BYTES % 4 = 0
      ∧ u.rdPair (pgEng 255) (SHU_Fi_SRC_LO.ADDR.nth 15) (SHU_Fi_SRC_HI.ADDR.nth 15) % 4 ≠ 0 := by decide +kernel

/-- A fetch of a word of panel 1's patch memory into the data memory, and the same with another request out. -/
theorem witness_fetchResponse : let a := 0x080000000000 + 2 ^ 27
    let f : FetReq := ⟨a, 1, 0, 7, true, false, false⟩
    let g : FetX := ⟨a, 7, true, 0, 0, 0, false, 1, 0, 0⟩
    let s : State := { live [pgShu 0, pgShu 15] with engs := [(255, { fet := some g, fetOut := [f] })] }
    let w : State := { live [pgShu 0, pgShu 15] with engs := [(255, { fet := some g, fetOut := [f, f] })] }
    let r := (s.modEng 255 fun x => { x with fetOut := x.fetOut.eraseIdx 0 }).busServe (s.fetBus 255 f [])
    s.running (pgEng 255) = true ∧ (s.die 4).lost = false ∧ s.engState 255 ≠ 3 ∧ (∀ i, i < 16 → s.fetCan (240 + i) = none)
      ∧ (s.eng 255).fet = some g ∧ g.issued = true ∧ (s.eng 255).fetOut[0]? = some f ∧ f.sink = false ∧ f.out = false
      ∧ f.dspace = true ∧ f.words ≤ 16 ∧ s.busFirst (s.fetBus 255 f []) = true ∧ (∀ i, i < 16 → r.2.fetCan (240 + i) = none) ∧ r.1 = some (.ok, 0)
      ∧ r.2.eng 255 = { s.eng 255 with fetOut := [] } ∧ r.2.running (pgEng 255) = true
      ∧ (w.eng 255).fetOut.eraseIdx 0 = [f] := by decide +kernel

theorem test_fetchIssue : let a := 0x080000000000 + 2 ^ 27
    let s : State := { live [pgShu 0, pgShu 15] with engs := [(255, { fet := some ⟨a, 7, true, 17, 0, 0, false, 0, 0, 0⟩ })] }
    (s.fetIssue 255).1 = true ∧ ((s.fetIssue 255).2.eng 255).fetOut = [⟨a, 16, 0, 7, true, false, false⟩] := by
  decide +kernel

theorem witness_ondie : let a := 0x080000000000 + 2 ^ 27
    initListed 2 = true ∧ busDie a = some (1, false)
      ∧ ((live [pgShu 0]).bus { init := 2, op := 0, addr := a, n := 4 }).1.isSome = true := by decide +kernel

/-- Word 3 of the data memory of engine 127, the last of panel 2. -/
theorem witness_ondieWord : let s := live [pgShu 7]
    let r : BusReq := { init := 2, op := 1, addr := 0x080000000000 + 2 ^ 27 * 2 + (63 * 2 ^ 18 + 12), n := 4, data := 5 }
    let u := (s.send 2 [] (r.net 2)).2
    initListed 2 = true ∧ panelOk 2 = true ∧ s.circles 2 2 (busRouter r.addr) = false ∧ (s.send 2 [] (r.net 2)).1 = .go
      ∧ u.way 2 2 (busRouter r.addr) = none ∧ u.dieCheck 2 = none
      ∧ u.pageCheck (pgShu (4 * (2 - 1) + (63 * 2 ^ 18 + 12) / 2 ^ 22)) 0x40 = none := by decide +kernel

theorem test_ondieWord : let a := 0x080000000000 + 2 ^ 27 * 2 + (63 * 2 ^ 18 + 12)
    after (.ondieMemAccess 2 0 1 a 4 5 []) (live [pgShu 7]) (fun t => (t.eng 127).load 3 == 5 && t.resp.status == .ok) = true := by
  decide +kernel

theorem witness_spool : let s := splOn (live [])
    let t : State := { s with spls := [(1, { queues := [(0, { items := [.cells [⟨0, 5⟩, ⟨1, 6⟩] false] })] })] }
    s.splCheck 0 2 = none ∧ s.on (pgSpl (handlePanel 0)) (SPL_Q_CFG.EN.nth (handleQueue 0)) = true
      ∧ (s.spl 1).openOf 0 2 0 = none ∧ s.splFull 1 0 (s.splLimit 1 0) = none ∧ ((s.spl 1).queue 0).flushed = false
      ∧ ((s.spl 1).queue 0).items = [] ∧ ((t.spl 1).queue 0).items = [.cells [⟨0, 5⟩, ⟨1, 6⟩] false]
      ∧ panelOk 1 = true ∧ Opens s (pgSpl 1) 0x140
      ∧ (s.spIssue 2 (spPush 0 0 5 true true)).1 = .go ∧ (s.spIssue 2 (spPush 0 0 5 true true)).2.splCheck 0 2 = none
      ∧ (t.spIssue 2 (spPop 0)).1 = .go ∧ (t.spIssue 2 (spPop 0)).2.splCheck 0 2 = none
      ∧ (s.spIssue 2 (spFlush 0)).1 = .go ∧ (s.spIssue 2 (spFlush 0)).2.splCheck 0 2 = none
      ∧ (s.spl 1).host = [] ∧ handlePanel 0 = 1 ∧ (t.splPop 1 0 .clean).1.status = .ok := by
  decide +kernel

/-- The host port of panel 2 forwards to panel 1's manager; while a table switch holds its initiator it waits. -/
theorem witness_spoolForward : let s := setAll (splOn (live [])) [(pgSpl 2, PAGE_CTL.CLK_EN, 1)]
    let w : State := { s with nocs := [(0, { paused := [2] })] }
    handlePanel 0 ≠ 2 ∧ Opens s (pgSpl 2) 0x140 ∧ (s.spl 2).host = []
      ∧ (s.splHost 2 ⟨true, 0, 2, 0, s.portCell 2, true, true⟩ .clean).1 = some {}
      ∧ ((s.splHost 2 ⟨false, 0, 2, 0, 0, false, false⟩ .clean).1.map (·.status)) = some .ok
      ∧ (w.splHost 2 ⟨true, 0, 2, 0, w.portCell 2, true, true⟩ .clean).1 = none := by decide +kernel

theorem test_spool : let t : State := { splOn (live []) with spls := [(1, { queues := [(0, { items := [.cells [⟨0, 5⟩, ⟨1, 6⟩] false] })] })] }
    after (.spoolPop 0 2 .clean) t (fun u => u.resp.data == 5 && u.resp.spf == 1) = true := by decide +kernel

/-! ### Premises that a state meets: memory, lined regions, network -/

/-- A read, a full-line write and a merge at 0x1000, which are admitted and reach channel 0. -/
theorem witness_dram : let s := lineOn (live [])
    let q : MemReq := ⟨2, 0, false, 0x1000, false⟩
    let u := (s.memSend q .read 64).2
    memReqOk 2 0x1000 64 = true ∧ s.memWaits q = none ∧ s.memCircles 2 0x1000 = false ∧ u.memWay 2 0x1000 = none ∧ u.regionOf 0x1000 = none
      ∧ (u.reach 0x1000 2).toOption = some (0, 0x1000) ∧ (s.memSend q .read 64).1 = .go
      ∧ anyBad (decodeLine (u.erased 0 (u.place 0 0x1000)) (u.rawLine 0 64)) = false
      ∧ u.on (pgDrc 0) DRC_FLIP_CTL.ARMED = false := by
  decide +kernel

/-- The premises for a write and a merge, which are admitted as the read is. -/
theorem witness_dramStores : let s := lineOn (live [])
    let q : MemReq := ⟨2, 0, false, 0x1000, false⟩
    ∀ op ∈ [LineOp.write 7 (2 ^ 64 - 1), .merge 8], let u := (s.memSend q op 64).2
      (s.memSend q op 64).1 = .go ∧ u.memWay 2 0x1000 = none ∧ u.regionOf 0x1000 = none
        ∧ (u.reach 0x1000 2).toOption = some (0, 0x1000) ∧ u.on (pgDrc 0) DRC_FLIP_CTL.ARMED = false
        ∧ anyBad (decodeLine (u.erased 0 (u.place 0 0x1000)) (u.rawLine 0 64)) = false := by
  decide +kernel

theorem test_dram :
    after (.dramRead 2 0 false 0x1000 64 false []) (lineOn (live [])) (fun t => t.resp.data == 5) = true
    ∧ after (.dramWrite 2 0 false 0x1000 64 7 false []) (lineOn (live [])) (fun t => t.rawLine 0 64 == encodeLine 7) = true
    ∧ after (.dramMerge 2 0 false 0x1000 8 8 false []) (lineOn (live [])) (fun t => t.rawLine 0 64 == encodeLine 13) = true := by
  decide +kernel

/-- Region 0 is lined at 0 and active. -/
def linedOn (s : State) : State :=
  setAll { s with regions := [(0, { size := 1 })] } [(pgLin, PAGE_CTL.CLK_EN, 1), (pgLin, LIN_Rr_STAT.STATE.nth 0, 2), (pgLin, LIN_Rr_SIZE.VALUE.nth 0, 1)]

theorem witness_denied : let s := linedOn (lineOn (live []))
    let q : MemReq := ⟨2, 0, false, 0x1000, false⟩
    s.memWaits q = none ∧ s.memCircles 2 0x1000 = false
      ∧ ∀ op ∈ [LineOp.read, .write 7 (2 ^ 64 - 1), .merge 8], let u := (s.memSend q op 64).2
        (s.memSend q op 64).1 = .go ∧ u.memWay 2 0x1000 = none ∧ u.regionOf 0x1000 = some 0
          ∧ u.aclMatch 0 2 0 = false := by decide +kernel

theorem witness_channel : let x : DrcX := { nbr := [(3, 9)], rows := [(3, (9, 0))], intervals := 8192, training := true }
    let s := setAll { live [pgDrc 7] with drcs := [(7, x)] } [(pgDrc 7, DRC_STAT.STATE, 5), (pgDrc 7, DRC_ECC_CFG.SCRUB_EN, 1)]
    let u := setAll { s with drcs := [(7, { x with nbr := [] })] } [(pgDrc 7, DRC_STAT.STATE, 2)]
    let r := setAll u [(pgDrc 7, DRC_STAT.STATE, 3)]
    (s.drc 7).nbr = [(3, 9)] ∧ s.running (pgDrc 7) = true ∧ s.rd (pgDrc 7) DRC_STAT.STATE = 5
      ∧ (s.send 0x85 [(7, 1)] (s.drcNet 7 0 0)).1 = .go
      ∧ (r.send 0x86 [(7, 1)] (r.drcNet 7 0 0)).1 = .go ∧ (r.drc 7).nbr = [] ∧ (r.drc 7).scrub = 0
      ∧ r.rd (pgDrc 7) DRC_STAT.STATE = 3 ∧ r.running (pgDrc 7) = true ∧ r.on (pgDrc 7) DRC_ECC_CFG.SCRUB_EN = true ∧ (s.drc 7).rows.find 3 = some (9, 0) ∧ s.clocksOn = true
      ∧ (s.die (7 / 2 + 1)).lost = false ∧ s.pageDomain (pgDrc 7) = 0 ∧ s.on (pgDrc 7) PAGE_PEND.PENDING = false
      ∧ (s.drc 7).marks = [] ∧ 8192 ≤ (s.drc 7).intervals ∧ u.fwRuns = true ∧ (u.drc 7).training = true
      ∧ u.rd (pgDrc 7) DRC_STAT.STATE = 2 ∧ u.rd (pgDrc 7) PAGE_BNDRY.KIND ≠ 3 ∧ Opens s (pgDrc 7) 0x78
      ∧ Opens s (pgDrc 7) 0x10C := by decide +kernel

theorem witness_lined : let s := setAll (live [pgLin]) [(pgLin, LIN_Rr_SIZE.VALUE.nth 15, 1), (pgLin, LIN_Rr_BASE.VALUE.nth 15, 4095)]
    let a := setAll s [(pgLin, LIN_Rr_STAT.STATE.nth 15, 2)]
    Opens s pgLin 0x40 ∧ s.on pgLin PAGE_LEVEL.BUSY = false ∧ s.cap 6 = true ∧ s.linState 15 = 0
      ∧ s.rd pgLin (LIN_Rr_SIZE.VALUE.nth 15) ≠ 0
      ∧ s.rd pgLin (LIN_Rr_BASE.VALUE.nth 15) + s.rd pgLin (LIN_Rr_SIZE.VALUE.nth 15) ≤ 4096
      ∧ (∀ q < 16, q ≠ 15 → s.linState q = 0) ∧ (s.slot 63).state = 0 ∧ a.linState 15 = 2
      ∧ a.fenceLive (pgDrc 0) 1 = true ∧ (setAll s [(pgLin, PAGE_LEVEL.BUSY, 1)]).on pgLin PAGE_LEVEL.BUSY = true := by
  decide +kernel

theorem witness_sweep : let s := setAll { live [pgLin] with regions := [(15, { size := 1 })] } [(pgLin, LIN_Rr_STAT.STATE.nth 15, 1)]
    s.linState 15 = 1 ∧ s.clocksOn = true
      ∧ s.linesWait 0x84 (sweepLines true (s.groupAt 15 0).1 (s.groupAt 15 0).2) = none
      ∧ ((s.groupAt 15 0).1 :: (s.groupAt 15 0).2).any (s.memCircles 0x84) = false
      ∧ (s.sweepAdmit 15 ((s.sweepReqs 15 (s.groupAt 15 0).1 (s.groupAt 15 0).2).drop (s.lin 15).paid)).1 = true
      ∧ (s.lin 15).group + 1 < (s.lin 15).size * 1835008 ∧ (s.lin 15).size ≤ 2048 := by decide +kernel

theorem witness_fence : let s := setAll { live [pgLin] with regions := [(15, { ctlOut := [7] })] } [(pgLin, LIN_Rr_STAT.STATE.nth 15, 5)]
    s.linState 15 = 5 ∧ (s.lin 15).ctlOut = [7] ∧ (s.lin 15).catOut = [] ∧ (s.lin 15).splOut = []
      ∧ s.on pgLin (LIN_Rr_STAT.OLD_VALID.nth 15) = false := by decide +kernel

theorem witness_network : let s := setAll (live [pgNoc 4]) [(pgNoc 4, NOC_TBL_ADDR.DEST, 64), (pgNoc 4, NOC_TBL_ADDR.BANK, 1), (pgNoc 4, NOC_TBL_ADDR.AUTOINC, 1)]
    Opens s (pgNoc 4) 0x4C ∧ Opens s (pgNoc 4) 0x44 ∧ Opens s (pgNoc 4) 0x40
      ∧ Opens s (pgNoc 4) 0x50 ∧ s.rd (pgNoc 4) NOC_TBL_ADDR.DEST = 64
      ∧ s.rd (pgNoc 4) NOC_TBL_ADDR.BANK ≠ s.netBank ∧ s.rd (pgNoc 4) NOC_VER.OLD = 0
      ∧ (live []).rd (pgNoc 4) NOC_TBL_ADDR.BANK = (live []).netBank ∧ (s.noc (initDie 2)).old.getD 2 0 = 0 := by
  decide +kernel

/-- DEST goes from 64 to 0. -/
theorem test_network : after (.nocTblWrite 4 9) (setAll (live [pgNoc 4]) [(pgNoc 4, NOC_TBL_ADDR.DEST, 64), (pgNoc 4, NOC_TBL_ADDR.BANK, 1), (pgNoc 4, NOC_TBL_ADDR.AUTOINC, 1)])
    (fun t => t.rd (pgNoc 4) NOC_TBL_ADDR.DEST == 0 && (t.noc 4).tbl.getD (tblKey 1 0 64) 7 == 1) = true := by decide +kernel

theorem witness_router : let s := setAll (live []) [(pgNoc 4, NOC_RTR_STAT.DRAINING, 2 ^ 15), (pgNoc 4, NOC_RTR_CTL.DISABLE, 2 ^ 15)]
    panelOk 4 = true ∧ maskBit (s.rd (pgNoc 4) NOC_RTR_STAT.DRAINING) 15 = true
      ∧ maskBit (s.rd (pgNoc 4) NOC_RTR_CTL.DISABLE) 15 = true ∧ s.oldInFlight = 0
      ∧ maskBit ((live []).rd (pgNoc 4) NOC_RTR_CTL.DISABLE) 15 = false := by decide +kernel

/-- Site 6 is fitted; window 0 lets its reads pass, and no writes. -/
def guestState : State :=
  setAll (live [pgPat 6, pgShu 0]) [(pgSeam, SEAM_PKG.PRESENT, 0x7F), (pgSeam, SEAM_PKG.PKG_VAR, 3),
    (pgPat 6, PAT_Wk_CFG.EN.nth 0, 1), (pgPat 6, PAT_Wk_CFG.RD.nth 0, 1), (pgPat 6, PAT_Wk_SIZE_HI.SIZE.nth 0, 0xFFFF)]

theorem witness_guest : let s := guestState
    let a := 0x080000000000 + 2 ^ 27
    Opens s (pgPat 6) 0x44 ∧ (s.die 6).lost = false ∧ s.fitted 6 = true ∧ s.cap 11 = true
      ∧ (s.patJudge (pgPat 6) 0 0 a 4 false).toOption = some 0 ∧ s.patSpent 6 0 = false
      ∧ (s.patJudge (pgPat 6) 0 1 a 4 false).toOption = none
      ∧ (s.bus { init := siteInit 6, op := 0, addr := a, n := 4 }).1 = some (.ok, 0) := by decide +kernel

theorem test_guest : after (.guestRequest 6 true 0 0 1 0xFFF (0x080000000000 + 2 ^ 27) 4 9 false [] []) guestState
    (fun t => t.resp.status == .firewall && t.rd (pgPat 6) PAT_VIOL.COUNT == 1) = true := by decide +kernel

/-! ### Premises that a state meets: Kelef, lanes, fabric -/

/-- Kelef port 15 in a state of its training. -/
def klfState (st : Nat) (x : PortX := {}) : State :=
  setAll { live [pgKlf 15] with ports := [(15, x)] }
    [(pgKlf 15, KLF_STAT.STATE, st), (pgLane 15, LANE_PWR.STATE, 0), (pgKlf 15, KLF_CTL.EN, 1)]

theorem witness_kelef : let s := klfState 0
    (klfState 5).portOk 15 = true ∧ Opens s (pgKlf 15) 0x40 ∧ (s.port 15).quiet = none
      ∧ s.portRuns 15 = true ∧ s.running (pgKlf 15) = true ∧ s.on (pgKlf 15) KLF_CTL.EN = true ∧ Hears (klfState 5) 15
      ∧ s.on pgClk CLK_ROOT_STAT.JUDGED = true ∧ s.tu.porDone = true
      ∧ (setAll s [(pgKlf 15, KLF_CTL.EN, 0)]).on (pgKlf 15) KLF_CTL.EN = false ∧ s.quadActive 15 = true ∧ s.laneRd 15 0 LANE_STATl.SD = 0
      ∧ (∀ st ∈ [0, 2, 3, 4, 5], (klfState st).rd (pgKlf 15) KLF_STAT.STATE = st)
      ∧ ctlBad (Column.ctl 0 0 0) = true ∧ ctlBad (Column.ctl 0x1E 0x1E1E 0) = true
      ∧ 8 ≤ ((klfState 4 { trn := 8 }).port 15).trn ∧ ((klfState 0 { quiet := some 9 }).port 15).quiet = some 9 := by
  decide +kernel

/-- The lanes of the tested port do not invert what they receive. -/
theorem klfState_colRx (c : Column) : (klfState 5).colRx 15 c = c := by
  have h : ∀ l, l < 4 → ((klfState 5).laneRd 15 l LANE_RXl.INV == 1) = false := by decide +kernel
  simp [State.colRx, Column.turned, h]

theorem witness_badColumn : let c := Column.ctl 0 0 0
    ctlBad ((klfState 5).colRx 15 c) = true ∧ ctlBad ((klfState 3).colRx 15 c) = true := by decide +kernel

theorem test_align : after (.klfAlignDone 15 256) (klfState 3) (fun t => t.rd (pgKlf 15) KLF_STAT.STATE == 4) = true
    ∧ after (.klfAlignDone 15 257) (klfState 3) (fun t => t.rd (pgKlf 15) KLF_STAT.STATE == 0
        && t.rd (pgKlf 15) KLF_DOWN.CAUSE == 4) = true := by decide +kernel

theorem witness_lanes : let s := setAll (live [pgLane 47]) [(pgLane 47, LANE_PWR.STATE, 0), (pgLane 47, LANE_STATl.SD.nth 3, 1), (pgLane 47, LANE_CFG.CODING, 1)]
    let t := setAll { s with quads := [(47, { scans := [(3, ⟨1, 0, 8, 0, [], 0⟩)] })] } [(pgLane 47, LANE_STATl.LOCK.nth 3, 1), (pgLane 47, LANE_STATl.BLOCK_LOCK.nth 3, 1)]
    s.laneOk 47 3 = true ∧ CanLock s 47 ∧ s.tu.porDone = true ∧ (s.quad 47).move ≠ some 2 ∧ s.quadState 47 = 0 ∧ s.laneRd 47 3 LANE_STATl.SD = 1 ∧ (s.quad 47).relock = false
      ∧ s.laneRd 47 3 LANE_STATl.LOCK = 0 ∧ s.laneBlocks 47 = true ∧ t.laneRd 47 3 LANE_STATl.LOCK = 1
      ∧ t.laneRd 47 3 LANE_STATl.BLOCK_LOCK = 1 ∧ (t.quad 47).scans.find 3 = some ⟨1, 0, 8, 0, [], 0⟩
      ∧ s.quadOk 47 = true ∧ Opens s (pgLane 47) 0x110 ∧ (s.quad 47).scans.find 3 = none
      ∧ s.laneRd 47 3 LANE_SCAN_DSTl_LO.ADDR % 64 = 0 := by decide +kernel

theorem witness_laneFalls : let s := setAll (klfState 5) [(pgLane 15, LANE_STATl.SD.nth 0, 1), (pgLane 15, LANE_STATl.LOCK.nth 0, 1), (pgLane 15, LANE_STATl.BLOCK_LOCK.nth 0, 1)]
    s.laneOk 15 0 = true ∧ s.klfUp 15 = true ∧ s.portRuns 15 = true ∧ s.laneRd 15 0 LANE_STATl.SD = 1
      ∧ s.laneRd 15 0 LANE_STATl.LOCK = 1 ∧ s.laneRd 15 0 LANE_STATl.BLOCK_LOCK = 1 := by decide +kernel

theorem witness_quadMove : let s := setAll { live [pgLane 47] with quads := [(47, { move := some 1 })] } [(pgLane 47, LANE_PWR.REQ, 1)]
    (s.quad 47).move = some 1 ∧ s.rd (pgLane 47) LANE_PWR.REQ = 1 ∧ s.quadOk 47 = true ∧ s.laneRuns 47 = true := by decide +kernel

/-- An answer to a read of 64 bytes. -/
def respPkt : Packet := { typ := 6, len := 63, tag := 5, dst := 7, src := 9, ncol := 2, data := 2 ^ 512 - 1 }

theorem witness_frame : respPkt.typ < 16 ∧ respPkt.status < 16 ∧ respPkt.len < 256 ∧ respPkt.tag < 2 ^ 16 ∧ respPkt.addr < 2 ^ 48
    ∧ respPkt.ncol < 16 ∧ respPkt.ctl = false ∧ respPkt.data < 2 ^ (8 * (respPkt.len + 1)) ∧ respPkt.sr = false
    ∧ respPkt.data < 2 ^ (256 * respPkt.ncol) ∧ respPkt.hops = 0 ∧ respPkt.idx = 0 ∧ respPkt.route = 0 ∧ respPkt.ttl < 256 := by decide +kernel

theorem witness_routedFrame : let k : Packet := { sr := true, hops := 24, idx := 23, route := 2 ^ 96 - 1 }
    k.dst = 0 ∧ k.src = 0 ∧ k.orig = 0 ∧ k.ttl = 255 ∧ k.data = 0 ∧ k.ncol = 0
      ∧ Packet.ofFrame (k.linkFields 9) k.header k.data = k := by decide +kernel

theorem witness_send : let s := setAll (klfState 5 { txq := [⟨respPkt, none, 0⟩] }) [(pgKlf 15, creditFld 1, 3)]
    let f : KFrame := ⟨0, respPkt, 0, true⟩
    let r := setAll (klfState 5 { replay := [f] }) [(pgKlf 15, creditFld 1, 3)]
    s.klfUp 15 = true ∧ s.portRuns 15 = true ∧ (s.port 15).replay.find? (·.due) = none ∧ respPkt.vc = 1
      ∧ ((s.port 15).txq.find? fun e => e.pkt.vc == 1) = some ⟨respPkt, none, 0⟩ ∧ s.credited 15 respPkt = true
      ∧ (s.port 15).held + respPkt.cols ≤ 512 ∧ (s.port 15).replay.length < 256 ∧ s.portOk 15 = true ∧ (r.port 15).replay.find? (·.due) = some f ∧ r.credited 15 f.pkt = true := by
  decide +kernel

theorem test_send : after (.frameSend 15 1) (setAll (klfState 5 { txq := [⟨respPkt, none, 0⟩], nextSeq := 4095 }) [(pgKlf 15, creditFld 1, 3)])
    (fun t => (t.port 15).nextSeq == 0 && (t.port 15).txq == [] && t.rd (pgKlf 15) (creditFld 1) == 0) = true := by
  decide +kernel

theorem witness_replay : let f : KFrame := ⟨0, respPkt, 0, false⟩
    let s := setAll (klfState 5 { replay := [f], mark := some 0, stuck := 3, owe := [16, 0, 0, 0] }) [(pgKlf 15, KLF_RETRY_CFG.LIMIT, 4)]
    (s.port 15).mark = some (s.port 15).acked ∧ max 1 (s.rd (pgKlf 15) KLF_RETRY_CFG.LIMIT) ≤ (s.port 15).stuck + 1
      ∧ ((klfState 5 { replay := [f] }).port 15).mark ≠ some ((klfState 5 { replay := [f] }).port 15).acked
      ∧ 16 ≤ (s.port 15).owe.foldl (· + ·) 0 ∧ ((klfState 5 { ackDue := true }).port 15).ackDue = true
      ∧ ((klfState 5).port 15).owe.foldl (· + ·) 0 < 16 ∧ s.portRuns 15 = true ∧ s.klfUp 15 = true
      ∧ (s.port 15).replay = [f] := by decide +kernel

/-- A frame of a header of zeros: its column is well formed, its CRC holds, and its number is 0. -/
theorem witness_frameGood : let h := Column.ctl 0x78 0 (crc32 27 0)
    h.isCtl = true ∧ ctlKind h = some .hdr ∧ frameGood h [] = true ∧ hdrLink h % 2 ^ 12 = 0
      ∧ (Packet.ofFrame (hdrLink h) (hdrHeader h) (dataOf [])).typ < 11 := by
  have e : crc32 27 0 = crc32At Config.crc32Lsb Config.crc32Mirror 27 0 := rfl
  have g (l m : Bool) : let h := Column.ctl 0x78 0 (crc32At l m 27 0)
      h.isCtl = true ∧ ctlKind h = some .hdr ∧ hdrLink h = 0 ∧ hdrHeader h = 0
        ∧ bitsOf h.payload 31 0 = crc32At l m 27 0 := by cases l <;> cases m <;> decide +kernel
  obtain ⟨h1, h2, h3, h4, h5⟩ := g Config.crc32Lsb Config.crc32Mirror
  rw [← e] at h1 h2 h3 h4 h5
  refine ⟨h1, h2, ?_, by rw [h3] <;> rfl, by rw [h3, h4]; decide⟩
  have d : ([] : List Column).length = bitsOf 0 19 16 := by decide
  have z : frameSum 0 0 (dataOf []) 0 = crc32 27 0 := rfl
  simp only [frameGood, h3, h4, h5, List.all_nil, Bool.and_true, decide_eq_true d, Bool.true_and]
  exact decide_eq_true z.symm

theorem witness_frameBad : let h := Column.ctl 0x78 (2 ^ 16) 0
    h.isCtl = true ∧ ctlKind h = some .hdr ∧ frameGood h [] = false := by decide +kernel

theorem witness_frameOrder : ((klfState 5).port 15).expect = 0
    ∧ (((klfState 5 { expect := 1 }).port 15).expect + 4096 - 0) % 4096 ≤ 2048
    ∧ 2048 < (((klfState 5 { expect := 4000 }).port 15).expect + 4096 - 0) % 4096 := by decide +kernel

theorem noNak (f : Nat → Nat) {w p : Nat} (hw : w < 2 ^ 13) (hp : p = w % 2 ^ 208 + f (w % 2 ^ 208) * 2 ^ 208) :
    maskBit p 13 = false := by
  simp [maskBit]
  omega

theorem witness_lnk (w : Nat) (hw : w < 2 ^ 13) : let c := ctlColumn .lnk w
    c.isCtl = true ∧ ctlKind c = some .lnk ∧ maskBit c.payload 13 = false :=
  ⟨ctlColumn_isCtl _ _, ctlKind_ctlColumn _ _ (by decide), noNak crc16 hw (ctlColumn_payload _ _)⟩

/-- Port 15 has one accepted packet. -/
def rxState (q : Packet) : State := klfState 5 { rx := [q] }

theorem witness_rx : let st : Packet := { typ := 7, addr := 0x7F, len := 3 }
    let rq : Packet := { typ := 0, addr := 0x080000000000 + 2 ^ 27, len := 3, src := 9 }
    let rt : Packet := { typ := 0, sr := true, hops := 2, idx := 0, route := 0x3F }
    let bc : Packet := { typ := 7, bcast := true, addr := 0x700 }
    let sp : Packet := { typ := 3, addr := 0x20, len := 63 }
    let dl := setAll (rxState { rt with route := 0x3E }) [(pgKlfRt, KLF_PORT_DL.DL, 2 ^ 15), (pgKlf 14, KLF_STAT.STATE, 5)]
    let up := setAll (rxState bc) [(pgKlfRt, KLF_BCAST.UP_V, 1), (pgKlfRt, KLF_BCAST.UP_PORT, 15)]
    (rxState respPkt).rxFirst 15 .resp = some respPkt
      ∧ ({ rxState respPkt with egr := [(5, ⟨2, 1, 0⟩)] } : State).egr.find (respPkt.tag % 2 ^ 12) = some ⟨2, 1, 0⟩
      ∧ (rxState respPkt).egrGen.getD (respPkt.tag % 2 ^ 12) 0 = respPkt.tag / 2 ^ 12 % 16
      ∧ (rxState st).rxFirst 15 .stream = some st ∧ (rxState { typ := 8, addr := 15 }).rxFirst 15 .probe = some { typ := 8, addr := 15 }
      ∧ ((rxState { typ := 8, addr := 15 }).die 4).lost = false
      ∧ (({ rxState { typ := 8, addr := 15 } with dies := [(4, { lost := true })] } : State).die 4).lost = true
      ∧ ({ rxState { typ := 8, addr := 15 } with dies := [(4, { lost := true })] } : State).rxFirst 15 .probe = some { typ := 8, addr := 15 }
      ∧ (rxState { typ := 9, addr := 15 }).rxFirst 15 .runend = some { typ := 9, addr := 15 }
      ∧ (rxState rq).rxFirst 15 .request = some rq ∧ ((rxState rq).port 15).ing = none ∧ rq.addr % 64 + rq.len < 64
      ∧ ((setAll (rxState rq) [(pgShu 0, PAGE_CTL.CLK_EN, 1)]).bus (rq.piece 0 [])).1 = some (.ok, 0) ∧ rq.typ ≤ 2
      ∧ (rxState sp).rxFirst 15 .request = some sp ∧ ((rxState sp).spIssue 8 (spPush 0x20 0 0 false false)).1 = .go ∧ rt.idx + 1 < rt.hops
      ∧ (rxState rt).turnOk 15 15 = true
      ∧ dl.turnOk 15 (routeAt 0x3E 0) = false ∧ dl.klfUp (routeAt 0x3E 0) = true ∧ dl.portOk (routeAt 0x3E 0) = true
      ∧ up.rxFirst 15 .bcast = some bc ∧ up.on pgKlfRt KLF_BCAST.UP_V = true ∧ up.rd pgKlfRt KLF_BCAST.UP_PORT = 15
      ∧ up.rd pgKlfRt KLF_BCAST_FWD.FWD = 0
      ∧ (rxState rt).rxFirst 15 .route = some rt ∧ routeAt rt.route 0 = 15 ∧ (rxState rt).klfUp 15 = true
      ∧ (rxState bc).rxFirst 15 .bcast = some bc ∧ (rxState bc).sinkWaits bc = false ∧ bc.typ = 7
      ∧ (rxState bc).on pgKlfRt KLF_BCAST.UP_V = false
      ∧ maskBit ((setAll (rxState bc) [(pgKlfRt, KLF_BCAST.GROUPS, 0x80)]).rd pgKlfRt KLF_BCAST.GROUPS) (bitsOf bc.addr 10 8) = true := by
  decide +kernel

theorem witness_routing : let s := live [pgKlfRt]
    Opens s pgKlfRt 0x40 ∧ s.hasDev = false ∧ (setAll s [(pgKlfRt, KLF_DEVID.ID, 5)]).hasDev = true
      ∧ Opens s pgKlfRt 0x54 ∧ Opens s pgKlfRt 0x60 ∧ s.rtOpen 0 0 = true
      ∧ ({ setAll s [(pgKlfRt, KLF_DEVID.ID, 5)] with rt := [(0, 0x10)] } : State).rtOpen 0 0 = false
      ∧ ({ s with egr := [(4095, ⟨2, 1, 0⟩)] } : State).egr.find 4095 = some ⟨2, 1, 0⟩ := by decide +kernel

/-- Every base of panel 4 is released and fabric port 63 runs. -/
def fabState (x : FabX := {}) : State :=
  setAll { live [pgFab 4, pgShu 0] with fabs := [(63, x)] } [(pgCfg, baseFld 4, 3), (pgClkPnl 4, CLK_PNL_STAT.MULT_LOCK, 1),
    (pgFab 4, FAB_PORTf_CFG.CLK.nth 15, 8), (pgFab 4, FAB_PORTf_CFG.STREAM.nth 15, 1),
    (pgFab 4, FAB_PORTf_STAT.CREDITS.nth 15, 64), (pgFab 4, FAB_SPk_CFG.MODE.nth 3, 1)]

/-- A fabric port's read of bytes that its own device has. -/
def fabRead : FabReq := ⟨1023, 0, 0xFFF * 2 ^ 52 + 0x080000000000 + 2 ^ 27, 3, 0, 0, 0, false, none, false⟩

theorem witness_fabric : let s := fabState
    let u := fabState { queue := [fabRead] }
    let w := fabState { wait := [⟨7, 0, 0, 0, 9⟩] }
    s.fabLive 63 = true ∧ (s.fab 63).ready = true ∧ s.tagsFree (fabInit 63) 1 = true ∧ (s.fab 63).queue = []
      ∧ u.running (pgFabOf 63) = true ∧ (u.die 4).lost = false
      ∧ (u.answers.find? fun y => y.init == fabInit 63) = none ∧ (u.fab 63).queue = [fabRead]
      ∧ fabRead.gone = false ∧ u.fabHeld 63 = false ∧ u.global fabRead.addr = .here (0x080000000000 + 2 ^ 27)
      ∧ (u.busSend (fabRead.bus 63 (0x080000000000 + 2 ^ 27) [])).1 = .go
      ∧ w.fabLive 63 = true ∧ (w.fab 63).queue = [] ∧ (w.fab 63).wait = [⟨7, 0, 0, 0, 9⟩]
      ∧ (w.answers.find? fun y => y.init == fabInit 63) = none
      ∧ s.fabRd 63 FAB_PORTf_CFG.STREAM = 1 ∧ s.fabRd 63 FAB_PORTf_STAT.CREDITS ≠ 0 ∧ (s.fabDst 63).isSome = true
      ∧ (s.noc 4).paused.contains (0x40 + 63) = false
      ∧ s.serLive 15 = true ∧ s.netRuns 4 8 = true ∧ (s.darn 4).frames = [] := by decide +kernel

/-- An issued read of this device, and an issued spool pop, reach their targets. -/
theorem witness_fabricServe : let g : FabReq := { fabRead with gone := true }
    let q : FabReq := { g with op := 4, addr := 0 }
    let s := fabState { queue := [g] }
    let u := fabState { queue := [q] }
    let b := g.bus 63 (g.addr % 2 ^ 48) []
    ((s.fab 63).queue.filter fun y => y.gone && y.sent.isNone)[0]? = some g ∧ s.busFirst b = true
      ∧ (s.busServe b).1.isSome = true ∧ (s.busServe b).2.fabHeld 63 = false
      ∧ ((u.fab 63).queue.filter fun y => y.gone && y.sent.isNone)[0]? = some q
      ∧ u.spCircles (fabInit 63) q.spool.addr = false ∧ u.inTurn (fabInit 63) q.spool.is = true
      ∧ ((u.fabSpool 63 q []).2.spBack (fabInit 63) q.spool (u.fabSpool 63 q []).1).fabHeld 63 = false := by
  decide +kernel

/-- A fabric port's request to another device, and the answer that comes back. -/
theorem witness_fabricOut :
    let r : FabReq := { fabRead with addr := 7 * 2 ^ 52 + 0x080000000000 }
    let s := setAll { fabState { queue := [r] } with rt := [(7, 0x1F)], ports := [(15, {})], govBal := [(balKey (fabInit 63) 8, 64)] }
      [(pgKlfRt, KLF_DEVID.ID, 5), (pgKlfRt, KLF_DEVID.ASSIGNED, 1), (pgKlf 15, KLF_STAT.STATE, 5), (pgLane 15, LANE_PWR.STATE, 0),
        (pgGov, govB (fabInit 63) 8, 64), (pgKlfCom, PAGE_CTL.CLK_EN, 1), (pgKlfRt, PAGE_CTL.CLK_EN, 1), (pgKlf 15, PAGE_CTL.CLK_EN, 1)]
    let x : State := { fabState { queue := [{ r with gone := true, sent := some 3 }] } with answers := [⟨fabInit 63, 3, 0, false, 0, 0, 5⟩] }
    s.global r.addr = .there 7 0x080000000000 ∧ s.global (2 ^ 48) = .bad
      ∧ (s.sendRemote (fabInit 63) s.fresh (r.len + 1) (r.packet 7 0x080000000000)).1 = .out
      ∧ (∀ y ∈ (x.fab 63).queue, y.gone = true)
      ∧ (x.takeAnswer (fabInit 63) (x.fabBytes 63)).map (·.1.num) = some 3
      ∧ (x.takeAnswer (fabInit 63) (x.fabBytes 63)).map (·.2.fabHeld 63) = some false := by
  decide +kernel

/-- 1 where a way arrives, 2 where it stops. -/
def wayEnd : Option Way → Nat
  | some (.arrives _) => 1
  | some (.stops _) => 2
  | _ => 0

/-- A stream packet from port 0 that arrives, one whose way ends at a router that is off, and one from a Kelef sink. -/
theorem witness_fabricStreams : let k : FabPkt := ⟨some 0, 63, 5, some { (fabState {}).streamHdr 0 63 with dep := 0 }⟩
    let s := fabState { air := [k], sr := [k] }
    let t : State := { fabState with sinks := [(0x7F, [{ typ := 7, addr := 0x7F }])], sers := [(15, { rx := List.replicate 16 0, tx := [5] })] }
    let c := setAll s [(pgNoc 4, NOC_RTR_STAT.OFF, 2 ^ 16 - 1)]
    let h := setAll s [(pgCfg, baseFld 4, 2)]
    (s.fab 63).air = [k] ∧ (s.fab 63).sr.length < 64 ∧ s.fabLive 63 = true ∧ s.fabHeld 63 = false
      ∧ wayEnd (s.streamWay k) = 1 ∧ wayEnd (c.streamWay k) = 2 ∧ wayEnd (h.streamWay k) = 1 ∧ h.fabHeld 63 = true
      ∧ t.sinks.getD (0x40 + 63) [] = [{ typ := 7, addr := 0x7F }] ∧ (t.ser 15).rx.length = 16 ∧ (t.ser 15).tx = [5] := by
  decide +kernel

theorem witness_serial : let s := fabState
    let u : State := setAll { s with sers := [(15, { rx := List.replicate 16 0 })] } [(pgFab 4, FAB_SPk_CFG.PARITY.nth 3, 1), (pgFab 4, FAB_SPk_CFG.CLK.nth 3, 8)]
    s.serLive 15 = true ∧ s.serRd 15 FAB_SPk_CFG.PARITY = 0 ∧ (s.ser 15).rx.length < 16 ∧ u.serLive 15 = true
      ∧ u.serRd 15 FAB_SPk_CFG.MODE = 1 ∧ u.serRd 15 FAB_SPk_CFG.PARITY = 1 ∧ u.serRd 15 FAB_SPk_CFG.CLK = 8
      ∧ (u.ser 15).tx.length < 16 ∧ 16 ≤ (u.ser 15).rx.length := by decide +kernel

theorem witness_tap : let s := setAll fabState [(pgEdg 15, EDG_BANK_CFG.TS_TAP, 1)]
    s.on (pgEdg 15) EDG_BANK_CFG.TS_TAP = true ∧ s.tileHeld 4 (bankTile 15) = false := by decide +kernel

/-! ### Premises that a state meets: configuration and power -/

/-- A stream of CFG is in progress. -/
def cfgState (x : Option StreamX) (st : Nat) (l : List (Nat × Fld × Nat) := []) : State :=
  setAll { live [pgCfg] with cfg := { stream := x } } ([(pgCfg, CFG_CTL.STREAM_EN, 1), (pgCfg, CFG_STAT.STATE, st)] ++ l)

theorem witness_stream : let k : Packet := { typ := 7, tag := 0xFFFF, len := 255 }
    let s : State := { cfgState none 0 with sinks := [(0, [{ k with tag := 0 }])] }
    let t : State := { cfgState (some { tag := 0xFFFF }) 1 with sinks := [(0, [k])] }
    let u : State := { cfgState (some { tag := 3 }) 1 with sinks := [(0, [k])] }
    s.sinks.getD 0 [] = [{ k with tag := 0 }] ∧ s.cfgFull = false ∧ s.running pgCfg = true
      ∧ s.on pgCfg CFG_CTL.STREAM_EN = true ∧ s.hub.first = true ∧ s.cfg.stream = none
      ∧ t.cfg.stream = some { tag := 0xFFFF } ∧ t.cfgFull = false ∧ u.cfg.stream = some { tag := 3 } ∧ k.tag ≠ 3 := by
  decide +kernel

theorem test_stream : after .cfgStreamPacket { cfgState (some { tag := 0xFFFF }) 1 with sinks := [(0, [{ typ := 7, tag := 0xFFFF, len := 255 }])] }
    (fun t => t.cfg.stream.any fun x => x.tag == 0 && x.len == 256) = true := by decide +kernel

/-- A header whose MAGIC is wrong ends with cause 1. -/
theorem witness_header : let x : StreamX := { tag := 2, len := 512 }
    (cfgState (some x) 1).rd pgCfg CFG_STAT.STATE = 1 ∧ (cfgState (some x) 1).headerCause 0 = some 1
      ∧ (cfgState none 0).pageCheck pgCfg 0x40 = none := by decide +kernel

/-- The base point of P-384 as a public key, and the digest of its 96 bytes (calculated apart from the model). -/
def keyOf : Nat :=
  0x5f0eea907c1d437a9d817e1dceb1600ac0b8f0b51331dae97c149a28bd1df4f829dc9292bf989e5d6f2c26964ade1736 * 2 ^ 384 +
  0xb70a7672385e543a6c2955bf5df20255382a5482e041f759989ba78b623b1d6e74ad20f31ec7b18e37058bbe22ca87aa
def digestOf : Nat :=
  0x654b811f19e108eab70600d86aa5f04bfad296f7d87d69500977a9c8d122aa9478e155e5cfb05280eb82b571b14d9da1

/-- The ECDSA signature, by the private key 1 with the secret number 1, of the header below (calculated apart from the model). -/
def sigOf : Nat :=
  0x58d6e1c2000679de7a4343b59dbfe07d80bb5cf7a0413413fded571f04e95e6fda963c414ebfbfd190bfeb2382790b65 * 2 ^ 384 +
  0xb70a7672385e543a6c2955bf5df20255382a5482e041f759989ba78b623b1d6e74ad20f31ec7b18e37058bbe22ca87aa

/-- A header for tile 0 of panel 1 in region 31, of an unencrypted stream of one block signed with key 0. -/
def headerOf : Nat :=
  0x7440C0F1 + 2 ^ 32 + 2 ^ 64 + 31 * 2 ^ 112 + 2 ^ 384 + keyOf * 2 ^ (8 * 0x80) + sigOf * 2 ^ (8 * 0x1A0)

/-- Key 0 is provisioned with the key of that header. -/
def keyState : State :=
  let s := cfgState none 1 [(pgCfg, CFG_PK_STAT.VALID, 1), (pgCfg, baseFld 1, 3)]
  { s with store := { s.store with digests := [(0, digestOf)] } }

theorem test_sha384 : sha384 96 (hdrAt headerOf 0x80 96) = digestOf := by decide +kernel

theorem test_ecdsa :
    ecdsaOk (hdrAt headerOf 0x80 96) 0x1A0 (hdrAt headerOf 0 0x1A0) (hdrAt headerOf 0x1A0 96) = true := by decide +kernel

/-- FIPS 197, C.3. -/
theorem test_aes :
    aes256 0x000102030405060708090a0b0c0d0e0f101112131415161718191a1b1c1d1e1f 0x00112233445566778899aabbccddeeff
      = 0x8ea2b7ca516745bfeafc49904b496089 := by decide +kernel

theorem witness_header_good : keyState.headerCause headerOf = none := by
  have h : headerBad headerOf = false
      ∧ (hdrAt headerOf 0x10 4 &&& (2 ^ 32 - 1 - keyState.rd pgSeam SEAM_CAP_EFF.CAP % 2 ^ 32)) = 0
      ∧ keyState.rd pgCfg CFG_SVN_MIN.SVN = 0 ∧ keyState.headerRegionBad headerOf = false
      ∧ hdrAt headerOf 0xC 1 = 0 ∧ maskBit (keyState.rd pgCfg CFG_PK_STAT.VALID) 0 = true
      ∧ maskBit (keyState.rd pgCfg CFG_PK_STAT.REVOKED) 0 = false ∧ maskBit (hdrAt headerOf 6 2) 1 = false
      ∧ keyState.store.digests.getD 0 0 = digestOf := by decide +kernel
  obtain ⟨h1, h2, h3, h4, h5, h6, h7, h8, h9⟩ := h
  have hk : keyState.headerKeyBad headerOf = false := by
    simp only [State.headerKeyBad, h5, h6, h7, h8, h9, test_sha384]
    simp
  simp only [State.headerCause, h1, h2, h3, h4, hk, test_ecdsa]
  simp

/-- A block of one frame for frame 0 of panel 1, with the closing record as its trailer. -/
def blockOf : Nat := 1 + 2 ^ 8 + 2 ^ 33 + (1 + 0x0C105EDB * 2 ^ 32) * 2 ^ (8 * 65488)

theorem blockHash (f : Nat → Nat → Nat) :
    let x : StreamX := { tag := 1, buf := blockOf, len := 65536, mask := [1, 0, 0, 0], region := 31, hash := f 65536 blockOf }
    65536 ≤ x.len ∧ x.enc = false ∧ x.full = false ∧ f 65536 (x.buf % 2 ^ 524288) = x.hash
      ∧ f 65536 (x.buf % 2 ^ 524288) ≠ x.hash + 1 := by
  have : blockOf % 2 ^ 524288 = blockOf := by decide +kernel
  simp only [this]
  exact ⟨Nat.le_refl _, trivial, trivial, trivial, (Nat.succ_ne_self _).symm⟩

theorem witness_block :
    let x : StreamX := { tag := 1, buf := blockOf, len := 65536, mask := [1, 0, 0, 0], region := 31, hash := sha384 65536 blockOf }
    65536 ≤ x.len ∧ x.enc = false ∧ x.full = false ∧ sha384 65536 (x.buf % 2 ^ 524288) = x.hash
      ∧ sha384 65536 (x.buf % 2 ^ 524288) ≠ x.hash + 1 := blockHash sha384

theorem witness_block_records : (records true [1, 0, 0, 0] (hdrAt blockOf 0 65488) 8187 0).toOption = some [.frame 1 0 0 0]
    ∧ (records true [0, 0, 0, 0] (hdrAt blockOf 0 65488) 8187 0).toOption = none := by decide +kernel

theorem witness_close : let s := cfgState none 2 [(pgCfg, CFG_BLK.NBLK, 1)]
    s.closeOk { tag := 1 } (hdrAt blockOf 65488 48) = true ∧ s.closeOk { tag := 1 } 0 = false
      ∧ s.rd pgCfg CFG_BLK.NBLK ≤ s.rd pgCfg CFG_BLK.DONE + 1
      ∧ (cfgState none 2 [(pgCfg, CFG_BLK.NBLK, 2)]).rd pgCfg CFG_BLK.DONE + 1 < 2 ∧ s.released 1 = true
      ∧ (s.die 1).lost = false ∧ (setAll s [(pgSeam, SEAM_PKG.RELEASED, 0)]).released 1 = false := by decide +kernel

theorem witness_stage : (live [pgCfg]).running pgCfg = true ∧ ({ live [pgCfg] with cfg := { stages := [(31, [(9, 2)])] } } : State).cfg.stages.find 31 = some [(9, 2)] := by
  decide +kernel

theorem test_stage : after (.releaseStage 31) { live [pgCfg] with cfg := { stages := [(31, [(9, 2)])] } }
    (fun t => t.now == 9 && t.cfg.passed.getD 31 0 == 4 && t.cfg.stages == []) = true := by decide +kernel

/-- The darner of panel 4 at its last frame but one; the base of the panel is released. -/
def darnState (x : DarnX := {}) : State :=
  setAll { live [pgDarn 4] with darns := [(4, x)] } [(pgDarn 4, DARN_CFG.EN, 1), (pgDarn 4, DARN_POS.FRAME, 131070), (pgCfg, baseFld 4, 3)]

/-- A frame of which the darner has read another word than the one that stands. -/
theorem witness_changedWord :
    let r : CfgFrame := ⟨2 ^ 70, 0, 0, 0, crc32 512 ((darnState).unmasked 4 0 (2 ^ 70 ^^^ 2 ^ 70))⟩
    let f : CfgFrame := { r with data := 2 ^ 71 }
    let s := darnState { frames := [(131070, f)], read := some r }
    (s.darn 4).read = some r ∧ r.chk = 0 ∧ (s.darn 4).frames.getD 131070 {} = f
      ∧ crc32 512 (s.unmasked 4 r.cls (r.data ^^^ 2 ^ 70)) = r.gold := ⟨rfl, rfl, rfl, rfl⟩

theorem witness_changedBit : (2 ^ 70 ^^^ 0 : Nat) = 2 ^ 70
    ∧ 2 ^ 71 / 2 ^ (64 * (70 / 64)) % 2 ^ 64 ≠ 2 ^ 70 / 2 ^ (64 * (70 / 64)) % 2 ^ 64 := by decide

/-- A frame that nothing changed. -/
theorem witness_darner :
    let f : CfgFrame := ⟨0, 0, 0, 0, crc32 512 ((darnState).unmasked 4 0 0)⟩
    let s := darnState { frames := [(131070, f)] }
    (s.darn 4).frames.getD 131070 {} = f ∧ (s.darn 4).read = none ∧ f.data = f.orig ∧ f.chk = 0
      ∧ crc32 512 (s.unmasked 4 f.cls f.data) = f.gold := ⟨rfl, rfl, rfl, rfl, rfl⟩

theorem witness_darner_runs : let s := darnState
    panelOk 4 = true ∧ s.running (pgDarn 4) = true ∧ s.on (pgDarn 4) DARN_CFG.EN = true ∧ (s.die 4).lost = false
      ∧ s.rd (pgDarn 4) DARN_POS.FRAME = 131070 ∧ 131070 ∉ (s.darn 4).newly ∧ s.scrubbed 4 (131070 / 2048) = true ∧ s.cap 7 = true
      ∧ (setAll s [(pgSeam, SEAM_CAP_EFF.CAP, 0)]).cap 7 = false ∧ s.released 4 = true ∧ s.domState (32 * 3) ≠ 3
      ∧ maskBit (s.rd pgAlm HUB_ALM_HB.MISSED) 3 = false := by decide +kernel

theorem witness_domains : domListed 144 = true ∧ domListed 117 = true ∧ domListed 118 = false
    ∧ (∀ g < 3, ({ live [] with pow := { moves := [(117, g)] } } : State).pow.moves.find 117 = some g)
    ∧ (live []).rd pgPwr (PWR_Dd.REQ.nth 117) = 0 ∧ domBank 117 = none ∧ 117 % 32 ≠ 6 := by decide +kernel

theorem witness_brown : let s := setAll (live []) [(pgPwr, PWR_Dd.STATE.nth 117, 1)]
    s.canBrown 117 1 1501 = true ∧ (live []).canBrown 96 0 0 = true ∧ domCore 96 = true ∧ domCore 117 = false
      ∧ s.canBrown 117 1 1500 = false ∧ (live []).canBrown 144 0 0 = true := by decide +kernel

theorem witness_samples : let s := setAll (live []) [(pgPwr, PWR_NAP_CFG.EN, 1), (pgPwr, PWR_NAP_SDMASK_HI.QUADS, 0x8000), (pgLane 47, LANE_PWR.STATE, 2)]
    s.tu.porDone = true ∧ s.on pgPwr PWR_NAP_CFG.EN = true ∧ s.pow.napped = none
      ∧ ({ s with pow := { napped := some 5 } } : State).pow.napped = some 5 ∧ 47 ∈ s.napQuads
      ∧ maskBit (2 ^ 47) 47 ≠ maskBit s.napRef 47 ∧ domListed 96 = true ∧ s.domState 96 = 0
      ∧ s.setpoint 96 + 5 * s.rd pgPwr PWR_NAP_CFG.VTOL < 10000 := by decide +kernel

/-- R444: at the limit THERM is asserted, and stays so down to the limit less the hysteresis. -/
theorem test_therm : let s := setAll (live []) [(pgPwr, PWR_THERM.LIMIT, 95), (pgPwr, PWR_THERM.HYST, 5)]
    after (.tempSample [0, 95, 0, 0, 0]) s (fun t => maskBit (t.rd pgPwr PAGE_LEVEL.BLOCK) 1
      && after (.tempSample [90, -1, 0, 0, 0]) t (fun u => maskBit (u.rd pgPwr PAGE_LEVEL.BLOCK) 1)
      && after (.tempSample [89, -1, 0, 0, 0]) t (fun u => !maskBit (u.rd pgPwr PAGE_LEVEL.BLOCK) 1)) = true
    ∧ after (.tempSample [94, 0, 0, 0, -128]) s (fun t => !maskBit (t.rd pgPwr PAGE_LEVEL.BLOCK) 1) = true := by decide +kernel

/-! ### Premises that a state meets: the hub controller and debug -/

/-- Mover 3 copies one line, whose read has been issued: to another device under number 5, or to the hub's SRAM. -/
def lineOf (out : Option Nat) : MovLine := ⟨0, 0xFFF * 2 ^ 52 + 0x0D0000000000, none, true, out, false⟩
def moverState (out : Option Nat) (st : Nat) : State :=
  { live [pgHub] with
    movers := [(3, ⟨true, 0xFFF * 2 ^ 52 + 0x0D0000000000, 64, 64, 64, 0, [lineOf out]⟩)]
    answers := [⟨moverInit 3, 5, st, false, 0, 0, 7⟩] }

theorem witness_attest : let s := live [pgHub]
    Opens s pgHub 0xE0 ∧ s.hub.notes = [] ∧ s.on pgHub HUB_ATT_STAT.BUSY = false
      ∧ (setAll s [(pgHub, HUB_ATT_STAT.BUSY, 1)]).on pgHub HUB_ATT_STAT.BUSY = true ∧ Opens s pgMbx 0x4C
      ∧ Opens s pgHub 0x214 ∧ (s.mover 3).run = false ∧ ((moverState none 0).mover 3).run = true
      ∧ s.overlap 0 64 64 = false ∧ s.overlap 0 32 64 = true := by decide +kernel

theorem witness_mover : let u := (moverState (some 5) 0).moverPump 3
    u.running pgHub = true ∧ (u.mover 3).lines[0]? = some (lineOf (some 5)) ∧ (lineOf (some 5)).sent = true
      ∧ u.answers.find? (fun b => b.init == moverInit 3 && b.num == 5) = some ⟨moverInit 3, 5, 0, false, 0, 0, 7⟩
      ∧ (lineOf none).sink = false ∧ (lineOf none).data = none ∧ ({ lineOf none with data := some 7 } : MovLine).data.isSome = true
      ∧ ({ lineOf none with sink := true } : MovLine).sink = true ∧ (u.mover 3).run = true
      ∧ (u.mover 3).len ≤ (u.mover 3).done + 64 := by decide +kernel

theorem witness_moverHere : let u := (moverState none 0).moverPump 3
    (u.mover 3).lines[0]? = some (lineOf none)
      ∧ (u.busServe ((lineOf none).bus 3 ((lineOf none).ga % 2 ^ 48) [])).1.isSome = true := by decide +kernel

theorem test_mover : after (.moverGo 3) (setAll (live [pgHub]) [(pgHub, MVRm_DST_LO.DST.nth 3, 128), (pgHub, MVRm_LEN.LEN.nth 3, 64)])
      (fun t => (t.mover 3).run && (t.mover 3).dst == 128) = true
    ∧ after (.moverGo 3) (live [pgHub]) (fun t => t.rd pgHub (MVRm_STAT.STATUS.nth 3) == 3) = true
    ∧ after (.moverResponse 3 0 [] []) (moverState (some 5) 0xF) (fun t => !(t.mover 3).run
        && t.rd pgHub (MVRm_STAT.ERR.nth 3) == 0xF && t.rd pgHub (MVRm_MOVED.MOVED.nth 3) == 0) = true := by decide +kernel

/-- A mailbox command of `n` bytes waits for firmware. -/
def mbxState (cmd n pay : Nat) : State :=
  setAll (live []) [(pgMbx, MBX_STAT.BUSY, 1), (pgMbx, MBX_CMDk.DATA.nth 0, cmd + n * 2 ^ 16), (pgMbx, MBX_CMDk.DATA.nth 2, pay)]

theorem witness_mailbox : (mbxState 0x13 0 0).mbxServes = true
    ∧ (∀ c < 20, (mbxState c 245 0).mbxCmd = c ∧ (mbxState c 245 0).mbxLen = 245)
    ∧ (mbxState 0x12 1 1).pay 0 1 = 1 ∧ (mbxState 0x12 1 2).pay 0 1 = 2
    ∧ (setAll (mbxState 0x12 1 1) [(pgShu 15, SHU_En_STAT.STATE.nth 15, 3)]).anyHalted = true
    ∧ (mbxState 0x12 1 1).anyHalted = false ∧ (mbxState 0x0F 2 0).pay 0 2 = 0
    ∧ (mbxState 0x0F 2 0).store.crash = none := by decide +kernel

theorem test_mailbox : after .badCmd (mbxState 0x14 0 0) (fun t => !t.on pgMbx MBX_STAT.BUSY && t.on pgMbx MBX_STAT.REPLY) = true := by
  decide +kernel

theorem witness_keys : (mbxState 0x05 49 3).pay 0 1 = 3 ∧ (mbxState 0x05 49 4).pay 0 1 = 4
    ∧ maskBit (mbxState 0x05 49 3).store.pkValid 3 = false ∧ maskBit (mbxState 0x05 49 3).store.pkRevoked 3 = false
    ∧ ((mbxState 0x07 136 0).slot 63).state = 0
    ∧ (∀ j < 64, (({ mbxState 0x07 136 0 with slots := (List.range 64).map (·, ⟨3, 0, 0⟩) } : State).slot j).state ≠ 0)
    ∧ (({ mbxState 0x08 1 63 with slots := [(63, ⟨3, 5, 0⟩)] } : State).slot 63).state = 3
    ∧ ((mbxState 0x08 1 63).slot 63).state ≠ 3 ∧ (mbxState 0x08 1 64).pay 0 1 = 64 := by decide +kernel

theorem noPoint {pub w : Nat} (h : keyPoint pub = none) : keyUnwrap pub w = none := by
  rw [keyUnwrap, ecdh, h, Option.bind_none, Option.bind_none]

theorem payZero : (mbxState 0x07 136 0).pay 0 96 = 0 := by decide +kernel

theorem zeroPoint : keyPoint 0 = none := by decide +kernel

theorem witness_keyBad (w : Nat) : keyUnwrap ((mbxState 0x07 136 0).pay 0 96) w = none := by
  rw [payZero]; exact noPoint zeroPoint

/-- The private half of the device's identity key is open: a payload that unwraps under it is one by assumption. -/
theorem witness_keyGood (p : State) (key : Nat) (h : keyUnwrap (p.pay 0 96) (p.pay 96 40) = some key) :
    ∃ s : State, s.mbxCmd = p.mbxCmd ∧ (s.slot 0).state = 0 ∧ keyUnwrap (s.pay 0 96) (s.pay 96 40) = some key :=
  ⟨{ p with slots := [] }, rfl, rfl, h⟩

theorem witness_minima : (mbxState 0x09 4 5).rd pgCfg CFG_SVN_MIN.SVN ≤ (mbxState 0x09 4 5).pay 0 4
    ∧ (mbxState 0x09 4 5).pay 0 4 < (setAll (mbxState 0x09 4 5) [(pgCfg, CFG_SVN_MIN.SVN, 6)]).rd pgCfg CFG_SVN_MIN.SVN
    ∧ (mbxState 0x0A 3 0x091A02).pay 0 1 = 2 ∧ (mbxState 0x0A 3 0x091A02).pay 1 1 = 26 ∧ (mbxState 0x0A 3 0x091A02).pay 2 1 = 9
    ∧ (mbxState 0x0A 3 0x0A1A02).pay 2 1 = 10
    ∧ ({ mbxState 0x0A 3 0x091902 with store := { minRev := [(2, (26, 9))] } } : State).store.minRev.getD 2 (0, 0) = (26, 9) := by
  decide +kernel

theorem witness_images : (mbxState 0x0B 244 0).pay 0 4 = 0 ∧ (mbxState 0x0B 244 5).pay 0 4 ≠ 0 ∧ (mbxState 0x0B 244 5).store.wrEnd = none
    ∧ ({ mbxState 0x0B 244 5 with store := { wrEnd := some 5 } } : State).store.wrEnd = some 5
    ∧ 0x600000 < (mbxState 0x0B 244 0x600000).pay 0 4 + 240
    ∧ (mbxState 0x0C 0 0).store.stale.contains (mbxState 0x0C 0 0).spareImage = false
    ∧ ({ mbxState 0x0C 0 0 with store := { stale := [1] } } : State).store.stale.contains 1 = true
    ∧ (mbxState 0x0C 0 0).store.fwMin = 0 := by decide +kernel

/-- The first release is due: all multipliers have locked, and the selvage die is below its minimum revision. -/
def firstState : State :=
  { setAll (mbxState 0x02 0 0) [(pgClkPnl 1, CLK_PNL_STAT.MULT_LOCK, 1), (pgClkPnl 2, CLK_PNL_STAT.MULT_LOCK, 1),
      (pgClkPnl 3, CLK_PNL_STAT.MULT_LOCK, 1), (pgClkPnl 4, CLK_PNL_STAT.MULT_LOCK, 1)] with
    hub := {}, store := { minRev := [(0, (26, 9))] } }

theorem witness_firstRelease : firstState.mbxServes = true ∧ firstState.releaseReady = true ∧ firstState.hub.first = false
    ∧ firstState.hub.barred = false ∧ firstState.tooOld 0 = true ∧ firstState.firstChecks.2 = false := by decide +kernel

theorem witness_release : (mbxState 0x02 0 0).hub.first = true ∧ (mbxState 0x02 0 0).hub.barred = false
    ∧ ({ mbxState 0x02 0 0 with hub := {} } : State).releaseReady = false := by decide +kernel

theorem witness_readmit : let s : State := { mbxState 0x03 1 4 with dies := [(4, { answered := true, lost := true, dieId := 4, liveSince := some 0 })] }
    let u : State := { s with dies := [(4, { answered := true, lost := true, dieId := 4 })] }
    s.pay 0 1 = 4 ∧ s.hub.first = true ∧ (s.die 4).lost = true ∧ s.dieReason 4 = 0 ∧ u.dieReason 4 = 5
      ∧ (setAll s [(pgSeam, SEAM_DIEn_CAP.CAP.nth 4, 0xFFFFFFFF)]).rd pgSeam (SEAM_DIEn_CAP.CAP.nth 4) = 0xFFFFFFFF
      ∧ maskBit (s.rd pgSeam SEAM_PKG.PRESENT) 4 = true ∧ (mbxState 0x03 1 7).pay 0 1 = 7 ∧ (mbxState 0x03 1 0).pay 0 1 = 0 := by
  decide +kernel

/-- In a state where no register was written no write is pending anywhere. -/
theorem witness_nonePending (pg : Nat) : State.reset.on pg PAGE_PEND.PENDING = false := by
  have h : ∀ k : PageKind, rowAt k 0x10 = rowAt .seam 0x10 := by intro k; cases k <;> decide +kernel
  have : resetNat pg 0x10 = 0 := by
    unfold resetNat
    split
    · rfl
    · rename_i k _
      have e : (rowAt .seam 0x10).map (·.resetNat) = some 0 := by decide +kernel
      rw [h k]
      cases hr : rowAt .seam 0x10 with
      | none => rfl
      | some r =>
        rw [hr] at e
        simpa using e
  simp [State.on, State.rd, State.reg, State.reset, PAGE_PEND.PENDING, this, Tbl.getD, bitsOf]

/-- A release after the first one, and a READMIT of any die, where no write is pending on any page. -/
theorem witness_laterRelease (c n v pg : Nat) : (mbxState c n v).on pg PAGE_PEND.PENDING = false := by
  have h := witness_nonePending pg
  unfold State.on at h ⊢
  have e (t : State) a b : ({ t with dies := a, hub := b } : State).rd pg PAGE_PEND.PENDING = t.rd pg PAGE_PEND.PENDING := rfl
  simp (disch := decide) only [mbxState, setAll, live, List.foldl, State.rd_wr_of_off, e]
  exact h

/-! Debug. -/

theorem witness_debugPort : let s : State := { live [] with dp := { locked := false, attached := true } }
    (live []).dp.deaf = false ∧ readCheck 1 2 ≠ 0 ∧ readCheck 1 127 < 256 ∧ (live []).dp.locked = true
      ∧ s.dp.chkErr = false ∧ s.dp.busErr = false ∧ s.dp.acc = none ∧ s.dp.attached = true ∧ s.dp.addr < 2 ^ 64
      ∧ s.global (2 ^ 48) = .bad ∧ s.global (0xFFF * 2 ^ 52 + 0x0C0000000040) = .here 0x0C0000000040
      ∧ (s.bus { init := 1, op := 0, addr := peekOf 0x0C0000000040, n := 4 }).1.isSome = true := by decide +kernel

/-- The debug port's access to this device, to none, and to another device; and the answer from there. -/
theorem witness_dpAccess :
    let acc (ga : Nat) : State := { live [pgHub] with dp := { locked := false, acc := some (false, ga, 4, 0) } }
    let ga := 7 * 2 ^ 52 + 0x080000000000
    let r := setAll { acc ga with rt := [(7, 0x1F)], ports := [(15, {})], govBal := [(balKey 1 8, 64)] }
      [(pgKlfRt, KLF_DEVID.ID, 5), (pgKlfRt, KLF_DEVID.ASSIGNED, 1), (pgKlf 15, KLF_STAT.STATE, 5), (pgLane 15, LANE_PWR.STATE, 0),
        (pgGov, govB 1 8, 64), (pgKlfCom, PAGE_CTL.CLK_EN, 1), (pgKlfRt, PAGE_CTL.CLK_EN, 1), (pgKlf 15, PAGE_CTL.CLK_EN, 1)]
    let b : State := { acc ga with dp := { (acc ga).dp with out := some 5 }, answers := [⟨1, 5, 0, false, 0, 0, 7⟩] }
    (acc (2 ^ 48)).dp.acc = some (false, 2 ^ 48, 4, 0) ∧ (acc (2 ^ 48)).dp.out = none ∧ (acc (2 ^ 48)).global (2 ^ 48) = .bad
      ∧ r.global ga = .there 7 0x080000000000 ∧ r.dp.acc = some (false, ga, 4, 0) ∧ r.dp.out = none
      ∧ (r.sendRemote 1 r.fresh 4 { typ := 0, len := 3, addr := peekOf 0x080000000000, dst := 7, data := 0, ncol := 0 }).1 = .out
      ∧ b.dp.out = some 5 ∧ (b.takeAnswer 1 4).map (·.1) = some ⟨1, 5, 0, false, 0, 0, 7⟩ := by decide +kernel

theorem test_debugPort : after (.dpRead 10 1 0 (readCheck 1 0)) (live []) (fun t => t.dpAnswer.any fun a => a.status == .done) = true
    ∧ after (.dpRead 10 1 2 (readCheck 1 2)) (live []) (fun t => t.dpAnswer.any fun a => a.status == .reject) = true
    ∧ after (.dpRead 10 1 0 0) (live []) (fun t => t.dp.chkErr) = true := by decide +kernel

theorem witness_debug : let s : State := setAll { engWith .halt with dp := { attached := true } } [(pgDbg, DBG_SHU_SEL.ENGINE, 255), (pgDbg, DBG_SEQ_SEL.SEQ, 15)]
    let h := setAll s [(pgShu 15, SHU_En_STAT.STATE.nth 15, 3)]
    Opens s pgDbg 0x40 ∧ s.tu.porDone = true ∧ State.reset.tu.porDone = false ∧ s.dp.attached = true ∧ (live []).dp.attached = false ∧ s.engState 255 = 1
      ∧ (s.eng 255).free = true ∧ ((engWith .halt { br := some (1, 0) }).eng 255).free = false ∧ h.engState 255 = 3
      ∧ h.rd pgDbg DBG_SHU_RSEL.SPACE = 0 ∧ h.rd pgDbg DBG_SHU_RSEL.REG ≤ 0x3B ∧ s.leader 15 = 15
      ∧ (setAll s [(pgSeq 15, SEQ_RUN.STATE, 3)]).hasRun 15 = true ∧ (s.seq 15).halted = false
      ∧ ((seqState { halted := true }).seq 15).resumeAt = none
      ∧ ((seqState { halted := true, resumeAt := some 8 }).seq 15).resumeAt = some 8
      ∧ (seqState { halted := true, resumeAt := some 8 }).running (pgSeq 15) = true := by decide +kernel

theorem witness_force : let s : State := { engWith .halt { (({} : EngX).setSr (2 ^ fLK)) with haltAt := some 0, cyc := 64 } with clus := [(15, { owner := some 15 })] }
    s.engState 255 = 1 ∧ s.running (pgEng 255) = true ∧ (s.eng 255).haltAt = some 0 ∧ (s.eng 255).locked = true
      ∧ (s.clu 15).owner = some 15 ∧ 0 + 64 ≤ (s.eng 255).cyc := by decide +kernel

theorem test_force : after (.shuHaltForce 255) { engWith .halt { (({} : EngX).setSr (2 ^ fLK)) with haltAt := some 0, cyc := 64, lockPc := 7 } with clus := [(15, { owner := some 15 })] }
    (fun t => t.engState 255 == 3 && (t.eng 255).pc == 7 && (t.clu 15).owner == none) = true := by decide +kernel

end Sys2Proof.Machine.Slice0
end

