-- ==== Sys2Proof/Proofs/RegisterPages.lean ====
section
/-! PROOF. What an access to the register pages can do before its register is reached: the place of an address and of
the place that peeks at it, the checks of the shell, the answer and its count; and with them the statement of peeks (R36). -/

namespace Sys2Proof.Machine

variable (s : State)

/-! ### The count of an answered access (R313) -/

/-- A count of an answered access takes one free value, the latency, and changes the initiator's statistics. -/
theorem State.countAnswer_changes (init bytes : Nat) :
    ∃ r, s.countAnswer init bytes = ({ s with fresh := s.fresh + 1 } : State).setNoc (initDie init)
      { s.noc (initDie init) with stats := r } := ⟨_, rfl⟩

@[simp] theorem State.resp_counted (init width : Nat) : (s.counted init width).resp = s.resp := by
  unfold State.counted
  split
  · obtain ⟨r, h⟩ := s.countAnswer_changes init width
    rw [h]; rfl
  · rfl

theorem countedFrom_answer (e : BusStatus) (d : Nat) : CountedFrom s (s.answer e d) := ⟨rfl, fun _ => rfl⟩

/-- Counting an access adds nothing to what its answer changes but the count. -/
theorem CountedFrom.counted {s t : State} (h : CountedFrom s t) (init width : Nat) :
    CountedFrom s (t.counted init width) := by
  unfold State.counted
  split
  · obtain ⟨r, hr⟩ := t.countAnswer_changes init width
    obtain ⟨hst, hnoc⟩ := h
    rw [hr]
    refine ⟨?_, fun d => ?_⟩
    · rw [hst]; rfl
    · by_cases hd : d = initDie init
      · subst hd
        rw [State.noc_setNoc_self, hnoc]
      · rw [State.noc_setNoc_of_ne _ _ _ hd]
        exact hnoc d
  · exact h

/-! ### The places of the control space (R31, R36) -/

/-- The place that peeks at a register lies 2^24 bytes above the normal one. -/
theorem ctlPlace_sub_of_peek {a pg off : Nat} (h : ctlPlace a = some (pg, off, true)) :
    ctlPlace (a - 0x1000000) = some (pg, off, false) := by
  unfold ctlPlace at h ⊢
  split at h
  · cases h
  · simp only [Option.some.injEq, Prod.mk.injEq, beq_iff_eq] at h
    obtain ⟨hpg, hoff, hpeek⟩ := h
    rw [if_neg (by omega)]
    simp only [Option.some.injEq, Prod.mk.injEq, beq_eq_false_iff_ne]
    omega

/-- Every address of the peek range peeks at a place. -/
theorem ctlPlace_of_peekRange {a : Nat} (hlo : 0x0C0001000000 ≤ a) (hhi : a < 0x0C0002000000) :
    ctlPlace a = some (a / 2 ^ 12 % 2 ^ 12, a % 2 ^ 12, true) := by
  unfold ctlPlace
  rw [if_neg (by omega), show a / 2 ^ 24 % 2 = 1 by omega]
  rfl

/-- In the control space the die that a place names is its site, where it is a guest die. -/
theorem siteOf_of_control {a : Nat} (hlo : 0x0C0000000000 ≤ a) (hhi : a < 0x0C0002000000) :
    siteOf a = if a / 2 ^ 21 % 8 = 5 ∨ a / 2 ^ 21 % 8 = 6 then some (a / 2 ^ 21 % 8) else none := by
  have hwindow : ¬(0x080000000000 ≤ a ∧ a < 0x080040000000) := by omega
  simp only [siteOf, if_neg hwindow, if_pos (And.intro hlo hhi)]

/-- A place and the one that peeks at it belong to the same die. -/
theorem siteOf_sub_of_peekRange {a : Nat} (hlo : 0x0C0001000000 ≤ a) (hhi : a < 0x0C0002000000) :
    siteOf (a - 0x1000000) = siteOf a := by
  have hdie : (a - 0x1000000) / 2 ^ 21 % 8 = a / 2 ^ 21 % 8 := by omega
  rw [siteOf_of_control (by omega) (by omega), siteOf_of_control (by omega) hhi, hdie]

/-! ### The checks of the shell (R34, R36, R55) -/

/-- The shell finds no fault with an aligned access of 4 or 8 bytes. -/
theorem not_misaligned {a n : Nat} (hn : n = 4 ∨ n = 8) (ha : a % n = 0) :
    ¬((n != 4 && n != 8) || a % n != 0) = true := by
  rcases hn with rfl | rfl <;> simp [ha]

/-- An aligned read of 4 or 8 bytes proceeds as its page answers, as a peek or not. -/
theorem State.ctlCheck_read {a n pg off : Nat} {peek : Bool} (hn : n = 4 ∨ n = 8) (ha : a % n = 0)
    (hp : ctlPlace a = some (pg, off, peek)) (init : Nat) : s.ctlCheck false a n init = s.pageCheck pg off := by
  simp only [State.ctlCheck, hp, if_neg (not_misaligned hn ha)]
  cases s.pageCheck pg off <;> simp

/-- The peek range takes no write. -/
theorem State.ctlCheck_write_peek {a n pg off : Nat} (hn : n = 4 ∨ n = 8) (ha : a % n = 0)
    (hp : ctlPlace a = some (pg, off, true)) (init : Nat) : s.ctlCheck true a n init = some .decode := by
  simp only [State.ctlCheck, hp, if_neg (not_misaligned hn ha), Bool.and_self, ↓reduceIte]

/-! ### Reads and writes that do not stall -/

/-- A read that passes the checks is answered with its data, after its effects. -/
theorem State.regReadCmd_of_check {a n init : Nat} (hpor : s.tu.porDone = true) (hsite : siteOf a = none)
    (hc : s.ctlCheck false a n init = none) (src : Nat) :
    s.regReadCmd a n init src false = ((s.ctlReadNow a n).2.answer .ok (s.ctlReadNow a n).1).counted init n := by
  simp [State.regReadCmd, hpor, hsite, hc]

/-- A write that the shell refuses is answered so. -/
theorem State.regWriteCmd_of_refused {a n init : Nat} {e : BusStatus} (hpor : s.tu.porDone = true)
    (hsite : siteOf a = none) (hc : s.ctlCheck true a n init = some e) (v src : Nat) (stall upset : Bool) :
    s.regWriteCmd a n v init src stall upset = ((s.ctlStop a e).answer e).counted init n := by
  simp [State.regWriteCmd, hpor, hsite, hc]

/-- Only an answer for a lost die counts at the seam (R23). -/
theorem State.ctlStop_of_ne_dieDown {e : BusStatus} (h : e ≠ .dieDown) (a : Nat) : s.ctlStop a e = s := if_neg h

/-- A peek has no effect (R36). -/
theorem State.ctlReadNow_peek {a pg off : Nat} (hp : ctlPlace a = some (pg, off, true)) (n : Nat) :
    s.ctlReadNow a n = (s.ctlValue pg off n, s) := by
  simp [State.ctlReadNow, hp]

/-- A read returns the value of its place, whatever its effects are. -/
theorem State.ctlReadNow_value {a pg off : Nat} {peek : Bool} (hp : ctlPlace a = some (pg, off, peek)) (n : Nat) :
    (s.ctlReadNow a n).1 = s.ctlValue pg off n := by
  simp only [State.ctlReadNow, hp]
  split
  · rfl
  · split <;> rfl

/-! ### Peeks and normal reads -/

/-- A peek changes nothing but its answer and its count. -/
theorem completes_peekRead {s : State} {a n pg off init : Nat} (hpor : s.tu.porDone = true) (hsite : siteOf a = none)
    (hn : n = 4 ∨ n = 8) (ha : a % n = 0) (hp : ctlPlace a = some (pg, off, true)) (hc : s.pageCheck pg off = none)
    (src : Nat) : Completes (.rcRegisterRead a n init src false) s fun t =>
      CountedFrom s t ∧ t.resp = ⟨.ok, s.ctlValue pg off n, false, true, 0, 0⟩ := by
  refine ⟨_, rfl, ?_⟩
  rw [s.regReadCmd_of_check hpor hsite ((s.ctlCheck_read hn ha hp init).trans hc), s.ctlReadNow_peek hp]
  exact ⟨(countedFrom_answer s _ _).counted _ _, State.resp_counted ..⟩

/-- A read that does not stall answers the value of its place. -/
theorem completes_read {s : State} {a n pg off init : Nat} {peek : Bool} (hpor : s.tu.porDone = true)
    (hsite : siteOf a = none) (hn : n = 4 ∨ n = 8) (ha : a % n = 0) (hp : ctlPlace a = some (pg, off, peek))
    (hc : s.pageCheck pg off = none) (src : Nat) : Completes (.rcRegisterRead a n init src false) s fun t =>
      t.resp = ⟨.ok, s.ctlValue pg off n, false, true, 0, 0⟩ := by
  refine ⟨_, rfl, ?_⟩
  rw [s.regReadCmd_of_check hpor hsite ((s.ctlCheck_read hn ha hp init).trans hc), s.ctlReadNow_value hp]
  exact State.resp_counted ..

/-- A write in the peek range is answered DECODE and changes nothing but that answer and its count. -/
theorem completes_peekWrite {s : State} {a n pg off init : Nat} (hpor : s.tu.porDone = true) (hsite : siteOf a = none)
    (hn : n = 4 ∨ n = 8) (ha : a % n = 0) (hp : ctlPlace a = some (pg, off, true)) (v src : Nat) :
    Completes (.registerWrite a n v init src false false) s fun t =>
      CountedFrom s t ∧ t.resp = ⟨.decode, 0, false, true, 0, 0⟩ := by
  refine ⟨_, rfl, ?_⟩
  rw [s.regWriteCmd_of_refused hpor hsite (s.ctlCheck_write_peek hn ha hp init), s.ctlStop_of_ne_dieDown (by decide)]
  exact ⟨(countedFrom_answer s _ _).counted _ _, State.resp_counted ..⟩

/-- Settles O7: the peeking and the normal place name one page and offset, a read's data is taken before its effects,
and the shell stops a write in the peek range before its page is reached. -/
theorem peekAliasHasNoSideEffect : Obligations.PeekAliasHasNoSideEffect := by
  intro s a n init src hlo hhi hsite hn ha hpor
  refine ⟨fun pg off hp hc => ⟨s.ctlValue pg off n, completes_peekRead hpor hsite hn ha hp hc src, ?_⟩, fun v => ?_⟩
  · have hmod : (a - 0x1000000) % n = 0 := by rcases hn with rfl | rfl <;> omega
    exact completes_read hpor ((siteOf_sub_of_peekRange hlo hhi).trans hsite) hn hmod (ctlPlace_sub_of_peek hp) hc src
  · exact completes_peekWrite hpor hsite hn ha (ctlPlace_of_peekRange hlo hhi) v src

end Sys2Proof.Machine
end

