-- ==== Sys2Proof/Proofs/GovernorReset.lean ====
section
/-! PROOF. What a register reads after package reset, and with it the statement of the governor's budgets, balances,
sums and capacity (R322, R326). -/

namespace Sys2Proof.Machine

/-! ### The row of a register's copy -/

/-- A register that has copies has its copy `i` at its offset and `i` strides. -/
theorem RegRow.hits_copy {r : RegRow} {i : Nat} (hs : 0 < r.stride) (hi : i < r.count) :
    r.hits (r.off + r.stride * i) = true := by
  simp [RegRow.hits, Nat.ne_of_gt hs, Nat.mul_div_cancel_left i hs, hi]

/-- The place of a copy of a page kind's register belongs to a register, above the header. -/
theorem rowAt_copy {k : PageKind} {r : RegRow} {i : Nat} (hr : r ∈ rowsOf k) (hoff : 0x40 ≤ r.off) (hs : 0 < r.stride)
    (hi : i < r.count) : ∃ q, rowAt k (r.off + r.stride * i) = some q := by
  rw [rowAt, if_neg (by omega)]
  exact Option.isSome_iff_exists.mp (List.find?_isSome.mpr ⟨r, hr, r.hits_copy hs hi⟩)

/-- Each class has a budget register with a copy for each initiator. -/
theorem exists_budgetRow {cls : Nat} (hc : cls < 10) :
    ∃ r ∈ rowsOf .gov, r.off = 0x1000 + 4 * cls ∧ r.stride = 0x40 ∧ r.count = 256 := by
  revert cls; decide

theorem rowAt_govB {init cls : Nat} (hi : init < 256) (hc : cls < 10) :
    ∃ q, rowAt .gov (govB init cls).off = some q := by
  obtain ⟨r, hr, hoff, hs, hn⟩ := exists_budgetRow hc
  have hplace : (govB init cls).off = r.off + r.stride * init := by
    simp only [govB, hoff, hs]; omega
  rw [hplace]
  exact rowAt_copy hr (by omega) (by omega) (by omega)

/-! ### Registers at package reset -/

theorem State.reg_reset (pg off : Nat) : State.reset.reg pg off = BitVec.ofNat 32 (resetNat pg off) :=
  Tbl.getD_nil _ _

/-- A field that starts at bit 0 and holds its register's reset value reads it. -/
theorem State.rd_reset {pg : Nat} {f : Fld} (hlo : f.lo = 0) (hhi : f.hi < 32)
    (hfit : resetNat pg f.off < 2 ^ (f.hi + 1)) : State.reset.rd pg f = resetNat pg f.off := by
  have hword : resetNat pg f.off < 2 ^ 32 := Nat.lt_of_lt_of_le hfit (Nat.pow_le_pow_right (by decide) hhi)
  rw [State.rd, State.reg_reset, BitVec.toNat_ofNat, Nat.mod_eq_of_lt hword, bitsOf, hlo, Nat.pow_zero, Nat.div_one]
  exact Nat.mod_eq_of_lt hfit

/-! ### The governor at package reset -/

theorem pageKind_pgGov : pageKind pgGov = some .gov := rfl

/-- The reset values of the budgets stand in R326's table. -/
theorem resetNat_govB {init cls : Nat} (hi : init < 256) (hc : cls < 10) :
    resetNat pgGov (govB init cls).off = govReset init cls := by
  obtain ⟨q, hq⟩ := rowAt_govB hi hc
  have hinit : ((govB init cls).off - 0x1000) / 0x40 = init := by simp only [govB]; omega
  have hcls : (govB init cls).off % 0x40 / 4 = cls := by simp only [govB]; omega
  have hwindow : 0x1000 ≤ (govB init cls).off := by simp only [govB]; omega
  have hsums : ¬ (govB init cls).off < 0xA8 := by omega
  simp [resetNat, pageKind_pgGov, hq, hinit, hcls, hwindow, hsums]

theorem govReset_lt (init cls : Nat) : govReset init cls < 2 ^ 12 := by
  unfold govReset
  (repeat' split) <;> decide

/-- The reset values by initiators and classes, as the table of R326 has them. -/
theorem govReset_eq {cls : Nat} (hc : cls < 10) (init : Nat) :
    govReset init cls
      = if init = 0x01 ∨ init = 0x02 ∨ init = 0x08 then 32
        else if (init = 0x84 ∨ init = 0x85) ∧ cls < 8 then 32
        else if init = 0x86 ∧ cls < 8 then 64 else 0 := by
  unfold govReset
  by_cases hdram : cls < 8 <;> simp [hc, hdram]

theorem State.budget_reset {init cls : Nat} (hi : init < 256) (hc : cls < 10) :
    State.reset.budget init cls = govReset init cls := by
  have hreset := resetNat_govB hi hc
  rw [State.budget, State.rd_reset rfl (show 11 < 32 by decide) (hreset ▸ govReset_lt init cls), hreset]

theorem State.balance_reset (init cls : Nat) : State.reset.balance init cls = govReset init cls := Tbl.getD_nil _ _

theorem resetNat_govSum {cls : Nat} (hc : cls < 10) :
    resetNat pgGov (GOV_SUMc.SUM.nth cls).off = if cls < 8 then 224 else 96 := by
  revert cls; decide

theorem State.rd_govSum_reset {cls : Nat} (hc : cls < 10) :
    State.reset.rd pgGov (GOV_SUMc.SUM.nth cls) = if cls < 8 then 224 else 96 := by
  have hreset := resetNat_govSum hc
  have hfit : resetNat pgGov (GOV_SUMc.SUM.nth cls).off < 2 ^ 24 := by
    rw [hreset]; split <;> decide
  rw [State.rd_reset rfl (show 23 < 32 by decide) hfit, hreset]

/-- Settles O44: no register and no balance is held at reset, so each reads its reset value; that of a budget stands
in R326's table at its initiator and class, and its balance starts from the same value. -/
theorem resetBudgets : Obligations.ResetBudgets := by
  refine ⟨fun init cls hi hc => ⟨?_, ?_⟩, fun cls hc => State.rd_govSum_reset hc, ?_⟩
  · rw [State.budget_reset hi hc, govReset_eq hc]
  · rw [State.balance_reset, State.budget_reset hi hc]
  · have hreset : resetNat pgGov GOV_CAP_KLF.CAP.off = 3712 := by decide
    exact (State.rd_reset rfl (by decide) (by rw [hreset]; decide)).trans hreset

end Sys2Proof.Machine
end
